-- ==== Sys2Proof/Word.lean ====
section
/-!
DEFINITION. Word: the word types of the Z9 (R4, R44, R53, R100).
-/

namespace Sys2Proof

/-- A byte of memory. -/
abbrev Byte := BitVec 8

/-- A register, hearth register or anvil-half value of 128 bits (R100). -/
abbrev Word := BitVec 128

/-- A 64-bit value: the low half of a register, a CSR, a bundle. -/
abbrev Dword := BitVec 64

/-- A 7-bit register field (R53). -/
abbrev Reg := BitVec 7

end Sys2Proof
end

