-- ==== Sys2Proof/Syntax.lean ====
section
/-!
DEFINITION. Syntax: every row of the table of operations as one constructor of `Instr`.
A C-word carries its L and S bits (R47) and its operand fields (R50), an A-word its operand
fields (R51); a long form carries its 32-bit literal (R48). The rows without an encoding are the
steps that the module's other agents take; each names the object it acts on, and a command or a
packet from outside carries its content. The steps that only the outside or a single stage of
another step begins stand last.
-/

namespace Sys2Proof

/-- The L and S bits of a C-word (R47). -/
structure LS where
  l : Bool
  s : Bool
  deriving DecidableEq, Repr

/-- What a port can be dedicated to (R381); a twin port names the module's part (R390). -/
inductive PortUse where
  | general
  | mirror
  | twin (primary : Bool)
  deriving DecidableEq, Repr

/-- The items of a context that a management command sets (R331): `command` is its command endpoint, `hosts` the host
endpoints of its queues in their order, `keys` the transport keys by endpoint; `syncMirror` is the acknowledgement point of
R388. -/
structure CtxCfg where
  cid : Nat
  partDies : BitVec 4
  partQuads : BitVec 64
  isolated : Bool
  twin : Bool
  pinned : Nat
  windows : List (Nat × Nat)
  queues : List (Nat × Nat)
  command : Nat
  hosts : List Nat
  keys : List (Nat × Nat)
  quantum : Nat
  saveBase : Nat
  saveLen : Nat
  mirrorSave : Bool
  tracePoison : Bool
  syncMirror : Bool
  deriving DecidableEq, Repr

/-- One page of a context's walk tables, mapped or unmapped by MAP (R341, R342, R350). -/
structure PageCfg where
  map : Bool
  va : Nat
  size : BitVec 2
  die : BitVec 2
  hbm : Bool
  pa : Nat
  r : Bool
  w : Bool
  x : Bool
  append : Bool
  mirror : Bool
  grain : BitVec 4
  deriving DecidableEq, Repr

/-- A peer window: its range, and the peers allowed with their rights to read and to write (R385). -/
structure PeerWindow where
  base : Nat
  len : Nat
  peers : List (Nat × Bool × Bool)
  deriving DecidableEq, Repr

/-- A send ring or the receive ring of a context (R386, R387). -/
structure RingCfg where
  base : Nat
  count : Nat
  word : Nat
  peer : Nat
  deriving DecidableEq, Repr

/-- What PEER-WINDOW sets (R385 to R387). -/
structure PeerCfg where
  windows : List PeerWindow
  sends : List RingCfg
  recvs : List RingCfg
  deriving DecidableEq, Repr

/-- A firmware image: its version, the digest of each die's part, and its signature (R395). -/
structure FirmwareImage where
  version : BitVec 32
  digests : List (BitVec 256)
  signature : Nat
  deriving DecidableEq, Repr

/-- The operations and events of the Z9, one constructor per row of the table. -/
inductive Instr where
  /-- NOP (R58). Control-side no-operation. -/
  | nop (ls : LS)
  /-- BR (R80). Branches when bit 0 of predicate k is 1. -/
  | br (ls : LS) (k : BitVec 3) (off : BitVec 20)
  /-- BRN (R80). Branches when bit 0 of predicate k is 0. -/
  | brn (ls : LS) (k : BitVec 3) (off : BitVec 20)
  /-- JMP (R81). Direct jump by a signed bundle offset. -/
  | jmp (ls : LS) (off : BitVec 24)
  /-- CALL (R81). Direct call that writes the link into x1. -/
  | call (ls : LS) (off : BitVec 24)
  /-- JMPR (R82). Jumps to the address held in a register. -/
  | jmpr (ls : LS) (a : BitVec 7)
  /-- CALLR (R82). Calls the address held in a register and links into x1. -/
  | callr (ls : LS) (a : BitVec 7)
  /-- EXIT (R83). Waits out pending registers, ends the chunk and frees the slot once the chunk commits. -/
  | exit (ls : LS)
  /-- YIELD (R84). Ends the chunk and hands the slot to a waiting task of the launch. -/
  | yield (ls : LS)
  /-- TRAP (R85). Raises SOFT with the immediate as TRAPINFO. -/
  | trap (ls : LS) (imm : BitVec 10)
  /-- CSRR (R86). Reads a CSR into a thread register. -/
  | csrr (ls : LS) (d : BitVec 7) (c : BitVec 10)
  /-- CSRW (R86). Writes a thread register into a CSR that has no row of its own, after the legality and privilege checks. -/
  | csrw (ls : LS) (a : BitVec 7) (c : BitVec 10)
  /-- L2PDATA_WRITE (R243). A CSRW of L2PDATA replaces logical-to-physical entry L2PIDX; the new entry becomes visible to others at commit. -/
  | l2pdataWrite (ls : LS) (a : BitVec 7)
  /-- ERET (R78). Returns from the handler to TRAPPC at user privilege. -/
  | eret (ls : LS)
  /-- LD_N (R152). Near load, short form. -/
  | ldN (s : Bool) (d : BitVec 7) (b : BitVec 7) (sz : BitVec 3) (off : BitVec 7)
  /-- LD_N_LONG (R152). Near load with a 32-bit literal offset. -/
  | ldNLong (s : Bool) (d : BitVec 7) (b : BitVec 7) (sz : BitVec 3) (lit : BitVec 32)
  /-- ST_N (R153). Near store, short form; a chunk point. -/
  | stN (s : Bool) (v : BitVec 7) (b : BitVec 7) (sz : BitVec 3) (off : BitVec 7)
  /-- ST_N_LONG (R153). Near store with a literal offset. -/
  | stNLong (s : Bool) (v : BitVec 7) (b : BitVec 7) (sz : BitVec 3) (lit : BitVec 32)
  /-- LD_G (R152). Tracked global load, short form. -/
  | ldG (s : Bool) (d : BitVec 7) (b : BitVec 7) (sz : BitVec 3) (off : BitVec 7)
  /-- LD_G_LONG (R152). Tracked global load with a literal offset. -/
  | ldGLong (s : Bool) (d : BitVec 7) (b : BitVec 7) (sz : BitVec 3) (lit : BitVec 32)
  /-- ST_G (R153). Buffered global store, short form. -/
  | stG (s : Bool) (v : BitVec 7) (b : BitVec 7) (sz : BitVec 3) (off : BitVec 7)
  /-- ST_G_LONG (R153). Buffered global store with a literal offset. -/
  | stGLong (s : Bool) (v : BitVec 7) (b : BitVec 7) (sz : BitVec 3) (lit : BitVec 32)
  /-- LDU_G (R149). Untracked global load, short form. -/
  | lduG (s : Bool) (d : BitVec 7) (b : BitVec 7) (sz : BitVec 3) (off : BitVec 7)
  /-- LDU_G_LONG (R149). Untracked global load with a literal offset. -/
  | lduGLong (s : Bool) (d : BitVec 7) (b : BitVec 7) (sz : BitVec 3) (lit : BitVec 32)
  /-- LDTR (R209). Loads 8 rows and transposes them into eight registers. -/
  | ldtr (ls : LS) (d : BitVec 7) (b : BitVec 7) (sz : BitVec 2) (off : BitVec 7)
  /-- PLANE (R198). Packs an element-layout operand into bit planes. -/
  | plane (ls : LS) (d : BitVec 7) (a : BitVec 7) (b : BitVec 7)
  /-- UNPLANE (R198). Turns bit planes back into element layout, rounding once. -/
  | unplane (ls : LS) (d : BitVec 7) (a : BitVec 7) (b : BitVec 7)
  /-- TAKE (R154). Reads a full word and empties it, or sleeps on it. -/
  | take (ls : LS) (d : BitVec 7) (a : BitVec 7)
  /-- PUT (R154). Writes an empty word and fills it, or sleeps on it. -/
  | put (ls : LS) (a : BitVec 7) (b : BitVec 7)
  /-- PEEK (R154). Reads a full word without emptying it, or sleeps on it. -/
  | peek (ls : LS) (d : BitVec 7) (a : BitVec 7)
  /-- FESET (R154). Sets a word's full/empty tag. -/
  | feset (ls : LS) (a : BitVec 7) (f : BitVec 1)
  /-- FEQ (R154). Reads a word's full/empty tag. -/
  | feq (ls : LS) (d : BitVec 7) (a : BitVec 7)
  /-- CHBIND (R225). Binds the caller as writer or reader of a channel ring. -/
  | chbind (ls : LS) (a : BitVec 7) (b : BitVec 7)
  /-- CHSEND (R226). Sends one value into a channel, or sleeps when the ring is full. -/
  | chsend (ls : LS) (a : BitVec 7) (b : BitVec 7)
  /-- CHRECV (R226). Receives one value from a channel, reports closure, or sleeps. -/
  | chrecv (ls : LS) (d : BitVec 7) (a : BitVec 7)
  /-- CHCLOSE (R226). Sets the caller's close bit on a channel. -/
  | chclose (ls : LS) (a : BitVec 7)
  /-- ATOM_N (R157). Near atomic read-modify-write; the minor selects the operation. -/
  | atomN (ls : LS) (d : BitVec 7) (a : BitVec 7) (b : BitVec 7) (p : BitVec 3)
  /-- ATOM_G (R157). Global atomic executed at the owning slice as a chunk of its own. -/
  | atomG (ls : LS) (d : BitVec 7) (a : BitVec 7) (b : BitVec 7) (p : BitVec 3)
  /-- RED_G (R158). Buffers a commutative global reduction that is applied at commit. -/
  | redG (ls : LS) (a : BitVec 7) (b : BitVec 7) (p : BitVec 3)
  /-- CAS_N (R157). Near compare-and-swap. -/
  | casN (ls : LS) (d : BitVec 7) (a : BitVec 7) (b : BitVec 7)
  /-- CAS_G (R157). Global compare-and-swap. -/
  | casG (ls : LS) (d : BitVec 7) (a : BitVec 7) (b : BitVec 7)
  /-- ORDATOM (R272). Sends an ordered-channel request whose result comes at the close of its batch. -/
  | ordatom (ls : LS) (d : BitVec 7) (n : BitVec 4) (b : BitVec 7)
  /-- FENCE_NEAR (R160). Ends the chunk and waits for earlier remote near accesses. -/
  | fenceNear (ls : LS)
  /-- FENCE_GLOBAL (R160). Ends the chunk and orders untracked loads around the commit. -/
  | fenceGlobal (ls : LS)
  /-- FENCE_ENGINE (R160). Ends the chunk and waits for the thread's submitted billets and launches. -/
  | fenceEngine (ls : LS)
  /-- FENCE_MIRROR (R160). Ends the chunk and waits for mirror acknowledgements. -/
  | fenceMirror (ls : LS)
  /-- FENCE_SYSTEM (R160). Ends the chunk and applies the NEAR, GLOBAL and MIRROR conditions. -/
  | fenceSystem (ls : LS)
  /-- CHUNK (R161). Ends the current chunk. -/
  | chunk (ls : LS)
  /-- BAR_ARRIVE (R222). Arrives at a barrier at commit and returns the phase token. -/
  | barArrive (ls : LS) (d : BitVec 7) (n : BitVec 5)
  /-- BAR_WAIT (R222). Sleeps until the barrier's phase leaves the token's phase. -/
  | barWait (ls : LS) (a : BitVec 7) (n : BitVec 5)
  /-- BAR_SYNC (R222). Arrives at a barrier, then waits on its own token. -/
  | barSync (ls : LS) (n : BitVec 5)
  /-- BAR_WAITD (R222). Arrives with a deadline and reports whether the phase completed by arrivals. -/
  | barWaitd (ls : LS) (d : BitVec 7) (a : BitVec 7) (n : BitVec 5)
  /-- BAR_INIT (R222). Sets the barrier's participant count at commit. -/
  | barInit (ls : LS) (a : BitVec 7) (n : BitVec 5)
  /-- EV_WAIT (R89). Samples and clears the event latch, or sleeps until it is set. -/
  | evWait (ls : LS)
  /-- EV_SIGNAL (R90). Commits the chunk, then sets the latch of the target slot. -/
  | evSignal (ls : LS) (a : BitVec 7)
  /-- EV_WAITT (R91). Waits for the event latch with a timeout. -/
  | evWaitt (ls : LS) (d : BitVec 7) (a : BitVec 7)
  /-- MSEND (R92). Writes a 16-byte mailbox and optionally sets a target's latch. -/
  | msend (ls : LS) (d : BitVec 7) (a : BitVec 7) (b : BitVec 7)
  /-- LATHE_OPEN (R187). Opens the lathe for capturing n vector words. -/
  | latheOpen (ls : LS) (d : BitVec 7) (a : BitVec 7) (g : BitVec 3) (n : BitVec 4)
  /-- LATHE_LWAIT (R193). Sleeps until the lathe is IDLE. -/
  | latheLwait (ls : LS)
  /-- LATHE_LABORT (R193). Returns the lathe to IDLE at once. -/
  | latheLabort (ls : LS)
  /-- NEST (R251). Opens a group nest counter at commit. -/
  | nest (ls : LS) (n : BitVec 2) (a : BitVec 7) (b : BitVec 7)
  /-- NEXT (R252). Claims a run of iterations from a nest counter by guided self-scheduling. -/
  | next (ls : LS) (d : BitVec 7) (n : BitVec 2) (k : BitVec 3)
  /-- SBIND (R122). Binds a register to a stream from a descriptor. -/
  | sbind (ls : LS) (d : BitVec 7) (a : BitVec 7)
  /-- SUNBIND (R126). Frees the stream bound to a register. -/
  | sunbind (ls : LS) (d : BitVec 7)
  /-- SSTAT (R126). Reads the status of a stream. -/
  | sstat (ls : LS) (d : BitVec 7) (a : BitVec 7)
  /-- TSPAWN (R264). Buffers a new task that is created when the chunk commits. -/
  | tspawn (ls : LS) (d : BitVec 7) (a : BitVec 7) (b : BitVec 7)
  /-- TSTAMP (R265). Raises the task's timestamp at commit. -/
  | tstamp (ls : LS) (a : BitVec 7)
  /-- GLOOP (R278). Opens a speculative carry loop that is created at commit. -/
  | gloop (s : Bool) (d : BitVec 7) (a : BitVec 7) (b : BitVec 7) (lit : BitVec 32)
  /-- GPUT (R279). Offers guessed carried registers for the next iteration. -/
  | gput (ls : LS)
  /-- GEND (R288). Owner sleeps until the loop ends, then collects the final carry. -/
  | gend (ls : LS) (d : BitVec 7)
  /-- GQUIT (R281). Records the produced carry and ends the loop after this iteration. -/
  | gquit (ls : LS)
  /-- ACCEPT_EQ (R281). Records the produced carry for exact comparison. -/
  | acceptEq (ls : LS)
  /-- ACCEPT_SEQ (R281). Records the produced carry with a sequence-state comparison. -/
  | acceptSeq (ls : LS) (a : BitVec 7)
  /-- ACCEPT_TOL (R281). Records the produced carry with a tolerance comparison. -/
  | acceptTol (ls : LS) (a : BitVec 7)
  /-- RXTAG (R115). Tags a register with a recipe and writes its replay value. -/
  | rxtag (ls : LS) (d : BitVec 7) (n : BitVec 5)
  /-- RXTAG_VOID (R115). Tags a register void. -/
  | rxtagVoid (ls : LS) (d : BitVec 7)
  /-- RXUNTAG (R115). Clears a register's tag. -/
  | rxuntag (ls : LS) (d : BitVec 7)
  /-- RXDROP (R116). Lowers the window's target limit and drops the registers above it. -/
  | rxdrop (ls : LS) (d : BitVec 7)
  /-- RXKEEP (R117). Raises the target limit and rematerialises registers, sleeping for entries if needed. -/
  | rxkeep (ls : LS) (d : BitVec 7)
  /-- RXQ (R119). Describes a register's tag and drop state. -/
  | rxq (ls : LS) (d : BitVec 7) (a : BitVec 7)
  /-- WID (R233). Reads a work-identifier field. -/
  | wid (ls : LS) (d : BitVec 7) (n : BitVec 7)
  /-- JOB (R365). Commits the chunk and submits a billet to the die's graph unit. -/
  | job (ls : LS) (d : BitVec 7) (a : BitVec 7)
  /-- JOBW (R366). Sleeps until a completion counter reaches a target. -/
  | jobw (ls : LS) (a : BitVec 7) (b : BitVec 7)
  /-- JOBQ (R367). Queries the state of a billet. -/
  | jobq (ls : LS) (d : BitVec 7) (a : BitVec 7)
  /-- JOB_RESUME (R365). Makes the oldest FAULTED billet from an address READY again. -/
  | jobResume (ls : LS) (d : BitVec 7) (a : BitVec 7)
  /-- MXSEND (R212). Sends a capability-checked matrix command to another core's anvil. -/
  | mxsend (ls : LS) (d : BitVec 7) (a : BitVec 7) (b : BitVec 7)
  /-- MXSEND_ADD (R213). Adds a local anvil into a remote anvil. -/
  | mxsendAdd (ls : LS) (d : BitVec 7) (a : BitVec 7) (b : BitVec 7)
  /-- SWAPT (R210). Offers a region for exchange with the partner slot. -/
  | swapt (ls : LS) (d : BitVec 7) (a : BitVec 7) (b : BitVec 7)
  /-- LAUNCH (R238). Commits the chunk and submits a launch record to the die's graph unit. -/
  | launch (ls : LS) (d : BitVec 7) (a : BitVec 7)
  /-- TLBW (R346). Firmware writes a TLB entry and may answer a pending miss. -/
  | tlbw (ls : LS) (a : BitVec 7) (b : BitVec 7)
  /-- TLBI (R347). Firmware invalidates TLB entries on the named cores. -/
  | tlbi (ls : LS) (a : BitVec 7) (b : BitVec 7)
  /-- TLBR (R348). Firmware reads a TLB entry or a pending-table entry. -/
  | tlbr (ls : LS) (d : BitVec 7) (b : BitVec 7)
  /-- SLICEMASS (R307). Contributes a slice's maximum and integer mass to a draw step. -/
  | slicemass (ls : LS) (d : BitVec 7) (a : BitVec 7) (b : BitVec 7)
  /-- DRAW (R307). Waits for and returns the token that a draw step selects. -/
  | draw (ls : LS) (d : BitVec 7) (a : BitVec 7) (b : BitVec 7)
  /-- PENAL (R308). Applies presence and frequency penalties from the history to a logit slice. -/
  | penal (ls : LS) (d : BitVec 7) (a : BitVec 7) (b : BitVec 7)
  /-- TOKAPP (R310). Appends a token at a position and builds the next version. -/
  | tokapp (ls : LS) (d : BitVec 7) (a : BitVec 7) (b : BitVec 7)
  /-- SEQCMT_COMMIT (R311). Advances the sequence commit pointer and sends the tokens as egress. -/
  | seqcmtCommit (ls : LS) (d : BitVec 7) (a : BitVec 7) (b : BitVec 7)
  /-- SEQCMT_REWIND (R311). Rewinds TIP, and CP where allowed, discarding later versions. -/
  | seqcmtRewind (ls : LS) (d : BitVec 7) (a : BitVec 7) (b : BitVec 7)
  /-- GMASK (R309). Binds a grammar-mask bitmap to a version. -/
  | gmask (ls : LS) (d : BitVec 7) (a : BitVec 7) (b : BitVec 7)
  /-- MOVI (R127). Loads a sign-extended 32-bit literal. -/
  | movi (s : Bool) (d : BitVec 7) (lit : BitVec 32)
  /-- MOVI_HI (R127). Loads a 32-bit literal into bits 63:32 of the destination. -/
  | moviHi (s : Bool) (d : BitVec 7) (lit : BitVec 32)
  /-- ANOP (R59). Arithmetic-side no-operation. -/
  | anop
  /-- ADD (R128). Integer add. -/
  | add (d : BitVec 7) (a : BitVec 7) (b : BitVec 7) (t : BitVec 2)
  /-- SUB (R128). Integer subtract. -/
  | sub (d : BitVec 7) (a : BitVec 7) (b : BitVec 7) (t : BitVec 2)
  /-- MUL (R128). Integer multiply, low bits. -/
  | mul (d : BitVec 7) (a : BitVec 7) (b : BitVec 7) (t : BitVec 2)
  /-- MULH (R128). Integer multiply, high bits. -/
  | mulh (d : BitVec 7) (a : BitVec 7) (b : BitVec 7) (t : BitVec 2)
  /-- DIV (R128). Long integer divide. -/
  | div (d : BitVec 7) (a : BitVec 7) (b : BitVec 7) (t : BitVec 2)
  /-- REM (R128). Long integer remainder. -/
  | rem (d : BitVec 7) (a : BitVec 7) (b : BitVec 7) (t : BitVec 2)
  /-- AND (R128). Bitwise and. -/
  | and (d : BitVec 7) (a : BitVec 7) (b : BitVec 7) (t : BitVec 2)
  /-- OR (R128). Bitwise or. -/
  | or (d : BitVec 7) (a : BitVec 7) (b : BitVec 7) (t : BitVec 2)
  /-- XOR (R128). Bitwise exclusive or. -/
  | xor (d : BitVec 7) (a : BitVec 7) (b : BitVec 7) (t : BitVec 2)
  /-- SHL (R128). Shift left. -/
  | shl (d : BitVec 7) (a : BitVec 7) (b : BitVec 7) (t : BitVec 2)
  /-- SHR (R128). Logical shift right. -/
  | shr (d : BitVec 7) (a : BitVec 7) (b : BitVec 7) (t : BitVec 2)
  /-- SAR (R128). Arithmetic shift right. -/
  | sar (d : BitVec 7) (a : BitVec 7) (b : BitVec 7) (t : BitVec 2)
  /-- ROT (R128). Rotate left. -/
  | rot (d : BitVec 7) (a : BitVec 7) (b : BitVec 7) (t : BitVec 2)
  /-- MIN (R128). Integer minimum. -/
  | min (d : BitVec 7) (a : BitVec 7) (b : BitVec 7) (t : BitVec 2)
  /-- MAX (R128). Integer maximum. -/
  | max (d : BitVec 7) (a : BitVec 7) (b : BitVec 7) (t : BitVec 2)
  /-- ABS (R128). Absolute value. -/
  | abs (d : BitVec 7) (a : BitVec 7) (t : BitVec 2)
  /-- NEG (R128). Negation. -/
  | neg (d : BitVec 7) (a : BitVec 7) (t : BitVec 2)
  /-- CLZ (R128). Count leading zeros. -/
  | clz (d : BitVec 7) (a : BitVec 7) (t : BitVec 2)
  /-- POPC (R128). Population count. -/
  | popc (d : BitVec 7) (a : BitVec 7) (t : BitVec 2)
  /-- BREV (R128). Bit reverse. -/
  | brev (d : BitVec 7) (a : BitVec 7) (t : BitVec 2)
  /-- BFX (R128). Bit-field extract. -/
  | bfx (d : BitVec 7) (a : BitVec 7) (b : BitVec 7) (t : BitVec 2)
  /-- BFI (R128). Bit-field insert. -/
  | bfi (d : BitVec 7) (a : BitVec 7) (b : BitVec 7) (t : BitVec 2)
  /-- MOV (R128). Integer move. -/
  | mov (d : BitVec 7) (a : BitVec 7) (t : BitVec 2)
  /-- ADDI (R130). Add an immediate. -/
  | addi (d : BitVec 7) (a : BitVec 7) (imm : BitVec 11)
  /-- ANDI (R130). And with an immediate. -/
  | andi (d : BitVec 7) (a : BitVec 7) (imm : BitVec 11)
  /-- ORI (R130). Or with an immediate. -/
  | ori (d : BitVec 7) (a : BitVec 7) (imm : BitVec 11)
  /-- XORI (R130). Exclusive or with an immediate. -/
  | xori (d : BitVec 7) (a : BitVec 7) (imm : BitVec 11)
  /-- SHLI (R130). Shift left by an immediate. -/
  | shli (d : BitVec 7) (a : BitVec 7) (imm : BitVec 11)
  /-- SHRI (R130). Logical shift right by an immediate. -/
  | shri (d : BitVec 7) (a : BitVec 7) (imm : BitVec 11)
  /-- SARI (R130). Arithmetic shift right by an immediate. -/
  | sari (d : BitVec 7) (a : BitVec 7) (imm : BitVec 11)
  /-- PADD (R131). Adds a register offset to a pointer's address. -/
  | padd (d : BitVec 7) (a : BitVec 7) (b : BitVec 7)
  /-- PADDI (R131). Adds an immediate offset to a pointer's address. -/
  | paddi (d : BitVec 7) (a : BitVec 7) (imm : BitVec 11)
  /-- PSET (R131). Builds a fat pointer from an address and a tag. -/
  | pset (d : BitVec 7) (a : BitVec 7) (b : BitVec 7)
  /-- PGET (R131). Extracts a pointer's tag bits. -/
  | pget (d : BitVec 7) (a : BitVec 7)
  /-- PDIFF (R131). Signed distance between two addresses. -/
  | pdiff (d : BitVec 7) (a : BitVec 7) (b : BitVec 7)
  /-- CMP (R132). Compares element 0 of two registers into a predicate. -/
  | cmp (k : BitVec 3) (c : BitVec 3) (a : BitVec 7) (b : BitVec 7) (t : BitVec 4)
  /-- CMPI (R133). Compares with a 7-bit immediate into a predicate. -/
  | cmpi (k : BitVec 3) (c : BitVec 3) (a : BitVec 7) (imm : BitVec 7) (t : BitVec 3)
  /-- KOP (R134). Combines predicates bit by bit. -/
  | kop (k : BitVec 3) (c : BitVec 3) (a : BitVec 3) (b : BitVec 3)
  /-- SEL (R135). Selects one of two registers by a predicate. -/
  | sel (d : BitVec 7) (a : BitVec 7) (b : BitVec 7) (p : BitVec 3)
  /-- KMOV_TO_REG (R135). Copies a predicate into a register. -/
  | kmovToReg (d : BitVec 7) (a : BitVec 3)
  /-- KMOV_TO_PRED (R135). Copies a register into a predicate. -/
  | kmovToPred (d : BitVec 3) (a : BitVec 7)
  /-- VADD (R166). Lane-wise add. -/
  | vadd (d : BitVec 7) (a : BitVec 7) (b : BitVec 7) (t : BitVec 4)
  /-- VSUB (R166). Lane-wise subtract. -/
  | vsub (d : BitVec 7) (a : BitVec 7) (b : BitVec 7) (t : BitVec 4)
  /-- VMUL (R166). Lane-wise multiply. -/
  | vmul (d : BitVec 7) (a : BitVec 7) (b : BitVec 7) (t : BitVec 4)
  /-- VFMA (R166). Lane-wise fused multiply-add into the destination. -/
  | vfma (d : BitVec 7) (a : BitVec 7) (b : BitVec 7) (t : BitVec 4)
  /-- VMIN (R167). Lane-wise minimum. -/
  | vmin (d : BitVec 7) (a : BitVec 7) (b : BitVec 7) (t : BitVec 4)
  /-- VMAX (R167). Lane-wise maximum. -/
  | vmax (d : BitVec 7) (a : BitVec 7) (b : BitVec 7) (t : BitVec 4)
  /-- VABS (R168). Lane-wise absolute value. -/
  | vabs (d : BitVec 7) (a : BitVec 7) (t : BitVec 4)
  /-- VNEG (R168). Lane-wise negation. -/
  | vneg (d : BitVec 7) (a : BitVec 7) (t : BitVec 4)
  /-- VAND (R166). 128-bit and. -/
  | vand (d : BitVec 7) (a : BitVec 7) (b : BitVec 7)
  /-- VOR (R166). 128-bit or. -/
  | vor (d : BitVec 7) (a : BitVec 7) (b : BitVec 7)
  /-- VXOR (R166). 128-bit exclusive or. -/
  | vxor (d : BitVec 7) (a : BitVec 7) (b : BitVec 7)
  /-- VSHL (R166). Lane-wise shift left. -/
  | vshl (d : BitVec 7) (a : BitVec 7) (b : BitVec 7) (t : BitVec 3)
  /-- VSHR (R166). Lane-wise shift right. -/
  | vshr (d : BitVec 7) (a : BitVec 7) (b : BitVec 7) (t : BitVec 3)
  /-- VCMP (R169). Lane-wise compare into predicate bits. -/
  | vcmp (k : BitVec 3) (c : BitVec 3) (a : BitVec 7) (b : BitVec 7) (t : BitVec 4)
  /-- VSEL (R170). Lane-wise select by a predicate. -/
  | vsel (d : BitVec 7) (a : BitVec 7) (p : BitVec 3) (t : BitVec 4)
  /-- VSHUF (R170). Lane shuffle by indices. -/
  | vshuf (d : BitVec 7) (a : BitVec 7) (b : BitVec 7) (t : BitVec 4)
  /-- VBCAST (R166). Broadcasts lane 0 to every lane. -/
  | vbcast (d : BitVec 7) (a : BitVec 7) (t : BitVec 4)
  /-- VRED (R171). Reduces all lanes into lane 0. -/
  | vred (d : BitVec 7) (a : BitVec 7) (b : BitVec 7) (t : BitVec 4)
  /-- VDOT (R172). Grouped dot product into a 32-bit accumulator. -/
  | vdot (d : BitVec 7) (a : BitVec 7) (b : BitVec 7) (t : BitVec 4)
  /-- VSCALE (R173). Lane-wise scaling by a power of two. -/
  | vscale (d : BitVec 7) (a : BitVec 7) (b : BitVec 7) (t : BitVec 3)
  /-- VADDS (R166). Lane-wise saturating add. -/
  | vadds (d : BitVec 7) (a : BitVec 7) (b : BitVec 7) (t : BitVec 3)
  /-- RCP (R175). Reciprocal estimate. -/
  | rcp (d : BitVec 7) (a : BitVec 7)
  /-- RSQ (R176). Reciprocal square root estimate. -/
  | rsq (d : BitVec 7) (a : BitVec 7)
  /-- RCPNR (R177). Newton step for the reciprocal. -/
  | rcpnr (d : BitVec 7) (a : BitVec 7) (b : BitVec 7)
  /-- RSQNR (R177). Newton step for the reciprocal square root. -/
  | rsqnr (d : BitVec 7) (a : BitVec 7) (b : BitVec 7)
  /-- EXP2 (R178). Correctly rounded base-2 exponential. -/
  | exp2 (d : BitVec 7) (a : BitVec 7)
  /-- LOG2 (R178). Correctly rounded base-2 logarithm. -/
  | log2 (d : BitVec 7) (a : BitVec 7)
  /-- CVT (R179). Converts elements between formats with one rounding. -/
  | cvt (d : BitVec 7) (a : BitVec 7) (e : BitVec 5) (f : BitVec 5)
  /-- CVTSR (R180). Converts with stochastic rounding. -/
  | cvtsr (d : BitVec 7) (a : BitVec 7) (e : BitVec 5) (f : BitVec 5)
  /-- PACK (R181). Narrows lanes and shifts them into the top of the destination. -/
  | pack (d : BitVec 7) (a : BitVec 7) (e : BitVec 5) (f : BitVec 5)
  /-- UNPACK (R182). Widens packed elements and shifts the source. -/
  | unpack (d : BitVec 7) (a : BitVec 7) (e : BitVec 5) (f : BitVec 5)
  /-- RNG (R183). Computes Z-mix of a counter and a key. -/
  | rng (d : BitVec 7) (a : BitVec 7) (b : BitVec 7)
  /-- MMA (R205). Queues a bit-serial matrix multiply into an anvil. -/
  | mma (sh : BitVec 5) (n : BitVec 3) (a : BitVec 7) (b : BitVec 7) (q : BitVec 3)
  /-- ACLR (R207). Clears an anvil and sets its bias. -/
  | aclr (d : BitVec 3) (a : BitVec 7)
  /-- ARND (R208). Rounds anvil elements into a register. -/
  | arnd (d : BitVec 7) (a : BitVec 3) (b : BitVec 7) (t : BitVec 3)
  /-- AMOV (R207). Copies one anvil into another. -/
  | amov (d : BitVec 3) (a : BitVec 3)
  /-- AMOV_ST (R207). Reads an anvil's status word. -/
  | amovSt (d : BitVec 7) (a : BitVec 3)
  /-- AMOV_RAW (R207). Reads half of one raw anvil element. -/
  | amovRaw (d : BitVec 7) (a : BitVec 3) (b : BitVec 7)
  /-- AADD (R207). Adds one anvil into another exactly. -/
  | aadd (d : BitVec 3) (a : BitVec 3)
  /-- ROUND_START (R68). At the first cy of a round the core orders the ready slots; wait counters advance and stalled retries are resent. -/
  | roundStart (core : Nat)
  /-- WAIT_LIMIT (R75). A wait counter passes WAITLIM and the sleeping slot takes the WAIT-LIMIT trap. -/
  | waitLimit (slot : Nat)
  /-- PENDING_RESULT_WRITE (R71). A long result arrives, is written with its flags, and a parked slot whose last pending register it was returns to the rotation. -/
  | pendingResultWrite (task op : Nat)
  /-- ICACHE_FILL (R46). A missed 64-byte text line arrives and the slot issues again. -/
  | icacheFill (core line : Nat)
  /-- TLB_MISS (R344). A miss is sent to the translation service core and the slot sleeps. -/
  | tlbMiss (slot va acc : Nat)
  /-- REGFILE_LOWER (R76). After 64 idle cy the core lowers its register file to the SLEEPCFG depth. -/
  | regfileLower (core : Nat)
  /-- REGFILE_WAKE (R76). The register file returns to full operation after its wake time. -/
  | regfileWake (core : Nat)
  /-- TRAP_ENTRY (R77). After the chunk ends and pending registers are written, the trap CSRs are written and the slot enters TRAPPED. -/
  | trapEntry (slot : Nat)
  /-- QUARANTINE_DONE (R370). The scrub completes and the slot becomes FREE. -/
  | quarantineDone (slot : Nat)
  /-- PREEMPTION_REQUEST (R93). A pre-emption request is taken and the slot's issue stops. -/
  | preemptionRequest (slot : Nat)
  /-- PREEMPTION_COMPLETE (R93). Outstanding work settles and the image is written; the slot becomes SAVED. -/
  | preemptionComplete (slot : Nat)
  /-- RESUMPTION (R94). A saved image is loaded into a FREE slot, cancelled operations are reissued and the wait is resampled. -/
  | resumption (task slot : Nat)
  /-- CHUNK_VALIDATE (R144). A buffering chunk's tracked loads are all served and its signatures go to the owning slices. -/
  | chunkValidate (slot : Nat)
  /-- CHUNK_COMMIT (R146). A validated, released chunk commits its stores and REDs at one point of the commit order and copies shadows. -/
  | chunkCommit (slot : Nat)
  /-- CHUNK_DISCARD (R147). A conflicting chunk drops its buffer, restores shadows and reruns. -/
  | chunkDiscard (slot : Nat)
  /-- HELD_CHUNK_RESERVE (R148). A fourth attempt reserves its words at the owning slices. -/
  | heldChunkReserve (slot : Nat)
  /-- REMOTE_NEAR_ARRIVAL (R140). A remote near access, FE, channel or MSEND request arrives at its quad and takes effect. -/
  | remoteNearArrival (req : Nat)
  /-- GLOBAL_ATOMIC_EXECUTE (R157). A global atomic executes at its owning slice as a chunk of its own. -/
  | globalAtomicExecute (task op : Nat)
  /-- FP_EVENT (R185). An enabled floating-point event ends the chunk and sends a record; the slot enters FP hold. -/
  | fpEvent (slot : Nat)
  /-- LATHE_WORD_ISSUE (R190). The lathe issues its next word into the vector pipe. -/
  | latheWordIssue (slot : Nat)
  /-- LATHE_WORD_RESULT (R190). A lathe word's result is written; after the last word the lathe is IDLE. -/
  | latheWordResult (slot : Nat)
  /-- MATRIX_OP_START (R195). A queued matrix operation leaves the queue and starts. -/
  | matrixOpStart (core : Nat)
  /-- MATRIX_OP_COMPLETE (R196). A matrix operation completes and writes its anvil or register. -/
  | matrixOpComplete (core op : Nat)
  /-- REMOTE_MATRIX_ARRIVAL (R213). An MXSEND command or send-add reaches the target core's queue. -/
  | remoteMatrixArrival (req : Nat)
  /-- SWAPT_MATCH (R210). Partner SWAPTs meet and exchange their regions. -/
  | swaptMatch (slot : Nat)
  /-- DIE_BARRIER_ARRIVAL (R218). An arrival or INIT sent to a die barrier takes effect there. -/
  | dieBarrierArrival (req : Nat)
  /-- BARRIER_DEADLINE (R219). CYCLE reaches a barrier deadline and closes the phase with LATE set. -/
  | barrierDeadline (kernel home bar : Nat)
  /-- GRAPH_UNIT_RECEIVE (R231). The graph unit checks a launch record and refuses or accepts it, deriving edges. -/
  | graphUnitReceive (req : Nat)
  /-- KERNEL_READY (R235). A kernel's predecessor count reaches zero and it is offered to the distributor. -/
  | kernelReady (kernel : Nat)
  /-- PLACEMENT_START (R247). The distributor starts a placement transaction. -/
  | placementStart (kernel : Nat)
  /-- PLACEMENT_END (R247). A placement transaction commits or rolls back. -/
  | placementEnd (kernel : Nat)
  /-- TASK_DISPATCH (R245). A waiting task is dispatched to a slot on an allowed core. -/
  | taskDispatch (quad : Nat)
  /-- CLASS_PREEMPT (R248). A higher-class waiting task pre-empts a lower-class task on its quad. -/
  | classPreempt (quad : Nat)
  /-- KERNEL_COMPLETE (R236). The last group ends; the counter increments and successors are decremented. -/
  | kernelComplete (kernel : Nat)
  /-- FLOOR_CHANGE (R267). A domain's floor rises and gated chunks at or below it are released. -/
  | floorChange (dom : Nat)
  /-- GATED_SLOT_TAKE (R270). A waiting task takes the slot of a higher-timestamp gated chunk. -/
  | gatedSlotTake (quad : Nat)
  /-- ORDATOM_BATCH_CLOSE (R272). An ordered-channel batch closes and its results are computed in order-key order. -/
  | ordatomBatchClose (kernel chan : Nat)
  /-- SEQ_BIND (R293). The home unit binds a sequence, reads its record and sets TIP to CP. -/
  | seqBind (cid addr : Nat)
  /-- SEQ_UNBIND (R293). An ENDED sequence with no outstanding reference unbinds and writes back its fields. -/
  | seqUnbind (cid addr : Nat)
  /-- DRAW_MAX_RETURN (R303). The root returns the step maximum M to every contributor. -/
  | drawMaxReturn (cid addr pos : Nat)
  /-- DRAW_ROOT (R304). All slices are in; the root checks the tiling and draws the token. -/
  | drawRoot (cid addr pos : Nat)
  /-- MASK_DEADLINE (R305). An attempt's mask deadline passes and the step is DEFERRED. -/
  | maskDeadline (cid addr pos attempt : Nat)
  /-- QUANTUM_END (R335). A quantum ends and the rotation set passes to the next context. -/
  | quantumEnd (cid : Nat)
  /-- QUAD_SWITCH (R336). The quads stop, drain, save and load contexts. -/
  | quadSwitch (cid : Nat)
  /-- RECORD_POST (R373). A waiting record is posted to a free supervisor-ring entry. -/
  | recordPost (kernel : Nat)
  /-- RECORD_TO_HOST (R375). A record goes to the host as egress and its task is abandoned. -/
  | recordToHost (kernel : Nat)
  /-- SUPERVISOR_RESTART (R374). Supervisor command that restarts a contained task. -/
  | supervisorRestart (kernel entry : Nat)
  /-- SUPERVISOR_ABANDON (R374). Supervisor command that abandons a contained task. -/
  | supervisorAbandon (kernel entry : Nat)
  /-- SUPERVISOR_SETCSR (R374). Supervisor command that writes a held thread's CSRs and may release it. -/
  | supervisorSetcsr (kernel entry : Nat)
  /-- SUPERVISOR_UNKNOWN (R374). Unknown supervisor command word; nothing done, RESULT 1. -/
  | supervisorUnknown (kernel entry : Nat)
  /-- BILLET_START (R363). A READY billet takes a free engine. -/
  | billetStart (die : Nat)
  /-- ENGINE_UNIT (R360). An engine unit reads and writes 256 destination bytes as a chunk of its own. -/
  | engineUnit (billet : Nat)
  /-- BILLET_DONE (R364). The last unit commits, the counter increments and successors are decremented. -/
  | billetDone (billet : Nat)
  /-- SEND_RING_SEND (R386). A committed doorbell makes the link read and send ring entries. -/
  | sendRingSend (cid ring : Nat)
  /-- MIRROR_BREAK (R389). The mirror link stays down 50 ms or the buffer fills, and the mirror breaks. -/
  | mirrorBreak
  /-- TWIN_HALT (R391). Unequal digests or a 1 ms twin link loss halts the partition. -/
  | twinHalt (cid : Nat)
  /-- MODULE_RESET (R394). Power good or reset release starts the ROM. -/
  | moduleReset
  /-- FIRMWARE_VERIFY (R395). Each die verifies the firmware image. -/
  | firmwareVerify
  /-- CLASSIFY_END (R250). The 50 µs intensity measure ends and the kernel is classified; `busy` and `bytes` stood in its
  counters when the measure began. -/
  | classifyEnd (kernel busy bytes : Nat)
  /-- ENCODING_NOT_INSTRUCTION (R60). A bundle whose C-word or A-word the opcode maps do not make an instruction issues and raises ILLEGAL or BUNDLE as a whole. -/
  | encodingNotInstruction (bundle : BitVec 64)
  /-- WAITT_TIMEOUT (R91). The timeout of a sleeping EV.WAITT passes, and the instruction writes X[d] := 0 and rejoins the rotation. -/
  | waittTimeout (slot : Nat)
  /-- STREAM_UNIT_FETCH (R124). A read stream's prefetch of the next unit completes, and the unit enters the 8-unit FIFO, or an address fault is recorded against it. -/
  | streamUnitFetch (slot reg : Nat)
  /-- THROTTLE_ESCALATE (R400). Power is still above the cap after 10 ms and isolated partitions are throttled. -/
  | throttleEscalate
  /-- QUARANTINE (R370). A slot's containment is decided: issue stops, state is discarded and scrubbed, a record is created. -/
  | quarantine (slot : Nat) (code : BitVec 8) (info : BitVec 64) (cls : BitVec 2)
  /-- LATHE_CAPTURE (R189). The n-th captured word passes its checks, and the lathe set is marked pending. -/
  | latheCapture (slot : Nat)
  /-- SLEEP_WAKE (R74). A sleeping slot whose condition has come to hold rejoins the rotation and reissues. -/
  | sleepWake (slot : Nat)
  /-- HOST_LAUNCH (R327). Queue command that submits a launch record. -/
  | hostLaunch (cid : Nat) (msg : BitVec 512)
  /-- HOST_STOP (R327). Queue command that sets a sequence's KEEP. -/
  | hostStop (cid : Nat) (msg : BitVec 512)
  /-- HOST_SUSPEND (R327). Queue command that suspends kernels. -/
  | hostSuspend (cid : Nat) (msg : BitVec 512)
  /-- HOST_RESUME (R327). Queue command that resumes kernels. -/
  | hostResume (cid : Nat) (msg : BitVec 512)
  /-- HOST_KILL (R327). Queue command that kills kernels. -/
  | hostKill (cid : Nat) (msg : BitVec 512)
  /-- SET_PRIORITY (R327). Queue command that changes the queue's class. -/
  | setPriority (cid : Nat) (msg : BitVec 512)
  /-- READ_JOURNAL (R330). Returns journal entries and the queues' NEXTSEQ. -/
  | readJournal (cid : Nat) (msg : BitVec 512)
  /-- CONTEXT_CREATE (R331). Management command that creates a context. -/
  | contextCreate (msg : BitVec 512) (cfg : CtxCfg)
  /-- CONTEXT_CHANGE (R333). Management command that changes a context. -/
  | contextChange (msg : BitVec 512) (cfg : CtxCfg)
  /-- CONTEXT_KILL (R339). Management command that kills a context. -/
  | contextKill (msg : BitVec 512) (cid : Nat)
  /-- CONTEXT_DESTROY (R334). Management command that frees a DEAD context. -/
  | contextDestroy (msg : BitVec 512) (cid : Nat)
  /-- MAP (R350). Management command that changes one page in the walk tables. -/
  | map (msg : BitVec 512) (cid : Nat) (page : PageCfg)
  /-- PORT_CONFIG (R381). Management command that dedicates or releases a port. -/
  | portConfig (msg : BitVec 512) (port : Nat) (use : PortUse)
  /-- PEER_WINDOW (R385). Management command that sets peer windows and send rings. -/
  | peerWindow (msg : BitVec 512) (cid : Nat) (cfg : PeerCfg)
  /-- PORT_RESET (R392). Management command that retrains a FAILED port. -/
  | portReset (msg : BitVec 512) (port : Nat)
  /-- POWER_CAP (R400). Management command that sets the power cap. -/
  | powerCap (msg : BitVec 512) (watts : Nat)
  /-- QUENCH_LEVEL (R399). Management command that raises the quench level. -/
  | quenchLevel (msg : BitVec 512) (level : Nat)
  /-- READ_SENSORS (R401). Management command that returns the sensor words. -/
  | readSensors (msg : BitVec 512) (cids : List (BitVec 16))
  /-- QUOTE (R398). Management command that returns a signed attestation quote. -/
  | quote (msg : BitVec 512) (nonce : BitVec 256) (cid : Nat)
  /-- FIRMWARE_LOAD (R396). Management command that writes a firmware image. -/
  | firmwareLoad (msg : BitVec 512) (image : FirmwareImage)
  /-- PATROL_READ (R356). The patrol reads a line and handles any error found. -/
  | patrolRead (line : Nat)
  /-- PORT_TRAINING_DONE (R392). Port training succeeds or fails. -/
  | portTrainingDone (port : Nat) (ok : Bool)
  /-- PORT_LINK_LOSS (R392). Retry is exhausted or signal is lost and the port retrains. -/
  | portLinkLoss (port : Nat)
  /-- LANE_FAIL (R384). A failed boundary lane is replaced by a spare, or the module resets. -/
  | laneFail (boundary : Nat)
  /-- PEER_INBOUND_PACKET (R385). An inbound peer write commits as a chunk of its own; a packet with no data asks to
  read `read` bytes. -/
  | peerInboundPacket (cid : Nat) (peer addr read : Nat) (data : List (BitVec 8))
  /-- PEER_ACK (R386). A peer acknowledges an entry and its counter increments. -/
  | peerAck (cid ring entry : Nat)
  /-- INBOUND_SEND (R387). An inbound SEND lands in the receive ring. -/
  | inboundSend (cid ring : Nat) (data : List (BitVec 8))
  /-- MIRROR_ACK (R388). The neighbour acknowledges mirror writes, and waiting commits, fences and egress proceed. -/
  | mirrorAck (count : Nat)
  /-- TWIN_DIGEST (R390). A partner's chunk digest arrives and is compared. -/
  | twinDigest (kernel : Nat) (key index : Nat) (digest : BitVec 64)
  /-- LINKS_TRAINED (R394). Die-to-die links and HBM finish training. -/
  | linksTrained
  /-- SCRUB_COMPLETE (R394). Memories are scrubbed and the module becomes READY. -/
  | scrubComplete (harvest : List (BitVec 576))
  /-- SENSOR_ALARM (R399). A sensor excursion acts by quench level. -/
  | sensorAlarm (die : Nat) (source : BitVec 4)
  /-- POWER_WINDOW (R400). A 1 ms power window ends and throttling is applied or lifted. -/
  | powerWindow (milliwatts : List Nat)
  /-- JUNCTION_TEMPERATURE (R400). At 105 °C the cap becomes 900 W; at 115 °C the module resets. -/
  | junctionTemperature (die : Nat) (milliC : Nat)
  /-- UNKNOWN_CODE_COMMAND (R326). A queue command message with an unknown CODE arrives, is accepted or checked by SEQ, and is answered with BADCMD. -/
  | unknownCodeCommand (cid : Nat) (msg : BitVec 512)
  /-- MIRROR_WRITE_RECEIVE (R388). A mirror write from the neighbouring module arrives on the mirror port, is applied in commit order to the reserved mirror area and is acknowledged; `mark` is the class of the poison mark that it carries. -/
  | mirrorWriteReceive (addr : Nat) (data : List (BitVec 8)) (mark : Option (BitVec 2))
  deriving DecidableEq, Repr

end Sys2Proof
end

