-- ==== Sys2Proof/Decode.lean ====
section
/-!
DEFINITION. Decode: from the two 32-bit words of a bundle to instructions, total on any bits and
rejecting by name (R44 to R60), and the encoder written from the same maps.
Operand fields that a major does not accept (type codes, formats, conditions, shapes) are not
looked at here: `Instr.wf` in WellFormed.lean does, and the issuing bundle raises ILLEGAL.
-/

namespace Sys2Proof

/-- Why a word is not an instruction (R60). -/
inductive DecodeError where
  /-- C-major 0x33 to 0x3F, or an A-major outside the A-major map. ILLEGAL. -/
  | reservedMajor
  /-- A minor that the major does not list, or a nonzero unused or zero field. ILLEGAL. -/
  | badFields
  /-- A long-only major with L = 0 (R48). ILLEGAL. -/
  | longOnly
  /-- A long form with a nonzero offset field (R48). ILLEGAL. -/
  | longOffset
  /-- A short-only major with L = 1 and a nonzero literal (R48). BUNDLE. -/
  | literal
  /-- Fewer than eight bytes: no bundle. -/
  | tooShort
  deriving DecidableEq, Repr

namespace Decode

/-- A short-only C-instruction: with L = 1 its literal must be zero (R48). -/
def short (w lit : BitVec 32) (i : Instr) : Except DecodeError Instr :=
  if w.getLsbD 31 = true ∧ lit ≠ 0 then .error .literal else .ok i

/-- A long-capable C-instruction: short form with L = 0, long form with L = 1 and offset 0 (R48). -/
def longCapable (w : BitVec 32) (i l : Instr) : Except DecodeError Instr :=
  if w.getLsbD 31 = true then
    if w.extractLsb' 0 7 = 0 then .ok l else .error .longOffset
  else .ok i

/-- A long-only C-instruction (R48). -/
def longOnly (w : BitVec 32) (i : Instr) : Except DecodeError Instr :=
  if w.getLsbD 31 = true then .ok i else .error .longOnly

end Decode

open Decode in
/-- The C-word `w` with the literal `lit` that word 1 holds (R47 to R50, R58). -/
def decodeC (w lit : BitVec 32) : Except DecodeError Instr :=
  let s := w.getLsbD 30
  let ls : LS := ⟨w.getLsbD 31, s⟩
  match (w.extractLsb' 24 6).toNat with
  | 0x00 =>
    if w &&& 0xFFFFFF#32 = 0x0#32 then short w lit (.nop ls)
    else .error .badFields
  | 0x01 =>
    if w &&& 0x100000#32 = 0x100000#32 then short w lit (.br ls (w.extractLsb' 21 3) (w.extractLsb' 0 20))
    else if w &&& 0x100000#32 = 0x0#32 then short w lit (.brn ls (w.extractLsb' 21 3) (w.extractLsb' 0 20))
    else .error .badFields
  | 0x02 =>
    short w lit (.jmp ls (w.extractLsb' 0 24))
  | 0x03 =>
    short w lit (.call ls (w.extractLsb' 0 24))
  | 0x04 =>
    if w &&& 0xFE03FF#32 = 0x0#32 then short w lit (.jmpr ls (w.extractLsb' 10 7))
    else if w &&& 0xFE03FF#32 = 0x1#32 then short w lit (.callr ls (w.extractLsb' 10 7))
    else .error .badFields
  | 0x05 =>
    if w &&& 0xFFFFFF#32 = 0x0#32 then short w lit (.exit ls)
    else if w &&& 0xFFFFFF#32 = 0x1#32 then short w lit (.yield ls)
    else .error .badFields
  | 0x06 =>
    if w &&& 0xFFFC00#32 = 0x0#32 then short w lit (.trap ls (w.extractLsb' 0 10))
    else .error .badFields
  | 0x07 =>
    if w &&& 0x1FC00#32 = 0x0#32 then short w lit (.csrr ls (w.extractLsb' 17 7) (w.extractLsb' 0 10))
    else .error .badFields
  | 0x08 =>
    if w &&& 0x0001FC00#32 = 0 then
      if w.extractLsb' 0 10 = 0x111#10 then short w lit (.l2pdataWrite ls (w.extractLsb' 17 7))
      else short w lit (.csrw ls (w.extractLsb' 17 7) (w.extractLsb' 0 10))
    else .error .badFields
  | 0x09 =>
    if w &&& 0xFFFFFF#32 = 0x0#32 then short w lit (.eret ls)
    else .error .badFields
  | 0x0A =>
    longCapable w (.ldN s (w.extractLsb' 17 7) (w.extractLsb' 10 7) (w.extractLsb' 7 3) (w.extractLsb' 0 7)) (.ldNLong s (w.extractLsb' 17 7) (w.extractLsb' 10 7) (w.extractLsb' 7 3) lit)
  | 0x0B =>
    longCapable w (.stN s (w.extractLsb' 17 7) (w.extractLsb' 10 7) (w.extractLsb' 7 3) (w.extractLsb' 0 7)) (.stNLong s (w.extractLsb' 17 7) (w.extractLsb' 10 7) (w.extractLsb' 7 3) lit)
  | 0x0C =>
    longCapable w (.ldG s (w.extractLsb' 17 7) (w.extractLsb' 10 7) (w.extractLsb' 7 3) (w.extractLsb' 0 7)) (.ldGLong s (w.extractLsb' 17 7) (w.extractLsb' 10 7) (w.extractLsb' 7 3) lit)
  | 0x0D =>
    longCapable w (.stG s (w.extractLsb' 17 7) (w.extractLsb' 10 7) (w.extractLsb' 7 3) (w.extractLsb' 0 7)) (.stGLong s (w.extractLsb' 17 7) (w.extractLsb' 10 7) (w.extractLsb' 7 3) lit)
  | 0x0E =>
    longCapable w (.lduG s (w.extractLsb' 17 7) (w.extractLsb' 10 7) (w.extractLsb' 7 3) (w.extractLsb' 0 7)) (.lduGLong s (w.extractLsb' 17 7) (w.extractLsb' 10 7) (w.extractLsb' 7 3) lit)
  | 0x0F =>
    if w &&& 0x200#32 = 0x0#32 then short w lit (.ldtr ls (w.extractLsb' 17 7) (w.extractLsb' 10 7) (w.extractLsb' 7 2) (w.extractLsb' 0 7))
    else .error .badFields
  | 0x10 =>
    if w &&& 0x7#32 = 0x0#32 then short w lit (.plane ls (w.extractLsb' 17 7) (w.extractLsb' 10 7) (w.extractLsb' 3 7))
    else if w &&& 0x7#32 = 0x1#32 then short w lit (.unplane ls (w.extractLsb' 17 7) (w.extractLsb' 10 7) (w.extractLsb' 3 7))
    else .error .badFields
  | 0x11 =>
    if w &&& 0x3FF#32 = 0x0#32 then short w lit (.take ls (w.extractLsb' 17 7) (w.extractLsb' 10 7))
    else if w &&& 0xFE0007#32 = 0x1#32 then short w lit (.put ls (w.extractLsb' 10 7) (w.extractLsb' 3 7))
    else if w &&& 0x3FF#32 = 0x2#32 then short w lit (.peek ls (w.extractLsb' 17 7) (w.extractLsb' 10 7))
    else if w &&& 0xFE03F7#32 = 0x3#32 then short w lit (.feset ls (w.extractLsb' 10 7) (w.extractLsb' 3 1))
    else if w &&& 0x3FF#32 = 0x4#32 then short w lit (.feq ls (w.extractLsb' 17 7) (w.extractLsb' 10 7))
    else .error .badFields
  | 0x12 =>
    if w &&& 0xFE0007#32 = 0x0#32 then short w lit (.chbind ls (w.extractLsb' 10 7) (w.extractLsb' 3 7))
    else if w &&& 0xFE0007#32 = 0x1#32 then short w lit (.chsend ls (w.extractLsb' 10 7) (w.extractLsb' 3 7))
    else if w &&& 0x3FF#32 = 0x2#32 then short w lit (.chrecv ls (w.extractLsb' 17 7) (w.extractLsb' 10 7))
    else if w &&& 0xFE03FF#32 = 0x3#32 then short w lit (.chclose ls (w.extractLsb' 10 7))
    else .error .badFields
  | 0x13 =>
    short w lit (.atomN ls (w.extractLsb' 17 7) (w.extractLsb' 10 7) (w.extractLsb' 3 7) (w.extractLsb' 0 3))
  | 0x14 =>
    short w lit (.atomG ls (w.extractLsb' 17 7) (w.extractLsb' 10 7) (w.extractLsb' 3 7) (w.extractLsb' 0 3))
  | 0x15 =>
    if w &&& 0xFE0000#32 = 0x0#32 then short w lit (.redG ls (w.extractLsb' 10 7) (w.extractLsb' 3 7) (w.extractLsb' 0 3))
    else .error .badFields
  | 0x16 =>
    if w &&& 0x7#32 = 0x0#32 then short w lit (.casN ls (w.extractLsb' 17 7) (w.extractLsb' 10 7) (w.extractLsb' 3 7))
    else if w &&& 0x7#32 = 0x1#32 then short w lit (.casG ls (w.extractLsb' 17 7) (w.extractLsb' 10 7) (w.extractLsb' 3 7))
    else .error .badFields
  | 0x17 =>
    if w &&& 0x1C007#32 = 0x0#32 then short w lit (.ordatom ls (w.extractLsb' 17 7) (w.extractLsb' 10 4) (w.extractLsb' 3 7))
    else .error .badFields
  | 0x18 =>
    if w &&& 0xFFFFFF#32 = 0x0#32 then short w lit (.fenceNear ls)
    else if w &&& 0xFFFFFF#32 = 0x1#32 then short w lit (.fenceGlobal ls)
    else if w &&& 0xFFFFFF#32 = 0x2#32 then short w lit (.fenceEngine ls)
    else if w &&& 0xFFFFFF#32 = 0x3#32 then short w lit (.fenceMirror ls)
    else if w &&& 0xFFFFFF#32 = 0x4#32 then short w lit (.fenceSystem ls)
    else .error .badFields
  | 0x19 =>
    if w &&& 0xFFFFFF#32 = 0x0#32 then short w lit (.chunk ls)
    else .error .badFields
  | 0x1A =>
    if w &&& 0x1FF07#32 = 0x0#32 then short w lit (.barArrive ls (w.extractLsb' 17 7) (w.extractLsb' 3 5))
    else if w &&& 0xFE0307#32 = 0x1#32 then short w lit (.barWait ls (w.extractLsb' 10 7) (w.extractLsb' 3 5))
    else if w &&& 0xFFFF07#32 = 0x2#32 then short w lit (.barSync ls (w.extractLsb' 3 5))
    else if w &&& 0x307#32 = 0x3#32 then short w lit (.barWaitd ls (w.extractLsb' 17 7) (w.extractLsb' 10 7) (w.extractLsb' 3 5))
    else if w &&& 0xFE0307#32 = 0x4#32 then short w lit (.barInit ls (w.extractLsb' 10 7) (w.extractLsb' 3 5))
    else .error .badFields
  | 0x1B =>
    if w &&& 0xFFFFFF#32 = 0x0#32 then short w lit (.evWait ls)
    else if w &&& 0xFE03FF#32 = 0x1#32 then short w lit (.evSignal ls (w.extractLsb' 10 7))
    else if w &&& 0x3FF#32 = 0x2#32 then short w lit (.evWaitt ls (w.extractLsb' 17 7) (w.extractLsb' 10 7))
    else .error .badFields
  | 0x1C =>
    if w &&& 0x7#32 = 0x0#32 then short w lit (.msend ls (w.extractLsb' 17 7) (w.extractLsb' 10 7) (w.extractLsb' 3 7))
    else .error .badFields
  | 0x1D =>
    if w &&& 0x7#32 = 0x0#32 then short w lit (.latheOpen ls (w.extractLsb' 17 7) (w.extractLsb' 10 7) (w.extractLsb' 7 3) (w.extractLsb' 3 4))
    else if w &&& 0xFFFFFF#32 = 0x2#32 then short w lit (.latheLwait ls)
    else if w &&& 0xFFFFFF#32 = 0x3#32 then short w lit (.latheLabort ls)
    else .error .badFields
  | 0x1E =>
    if w &&& 0xF80007#32 = 0x0#32 then short w lit (.nest ls (w.extractLsb' 17 2) (w.extractLsb' 10 7) (w.extractLsb' 3 7))
    else if w &&& 0x1F3C7#32 = 0x1#32 then short w lit (.next ls (w.extractLsb' 17 7) (w.extractLsb' 10 2) (w.extractLsb' 3 3))
    else .error .badFields
  | 0x1F =>
    if w &&& 0x3FF#32 = 0x0#32 then short w lit (.sbind ls (w.extractLsb' 17 7) (w.extractLsb' 10 7))
    else if w &&& 0x1FFFF#32 = 0x1#32 then short w lit (.sunbind ls (w.extractLsb' 17 7))
    else if w &&& 0x3FF#32 = 0x2#32 then short w lit (.sstat ls (w.extractLsb' 17 7) (w.extractLsb' 10 7))
    else .error .badFields
  | 0x20 =>
    if w &&& 0x7#32 = 0x0#32 then short w lit (.tspawn ls (w.extractLsb' 17 7) (w.extractLsb' 10 7) (w.extractLsb' 3 7))
    else .error .badFields
  | 0x21 =>
    if w &&& 0xFE03FF#32 = 0x0#32 then short w lit (.tstamp ls (w.extractLsb' 10 7))
    else .error .badFields
  | 0x22 =>
    if w &&& 0x00000007#32 = 0 then longOnly w (.gloop s (w.extractLsb' 17 7) (w.extractLsb' 10 7) (w.extractLsb' 3 7) lit)
    else .error .badFields
  | 0x23 =>
    if w &&& 0xFFFFFF#32 = 0x0#32 then short w lit (.gput ls)
    else if w &&& 0x1FFFF#32 = 0x1#32 then short w lit (.gend ls (w.extractLsb' 17 7))
    else if w &&& 0xFFFFFF#32 = 0x2#32 then short w lit (.gquit ls)
    else .error .badFields
  | 0x24 =>
    if w &&& 0xFFFFFF#32 = 0x0#32 then short w lit (.acceptEq ls)
    else if w &&& 0xFE03FF#32 = 0x1#32 then short w lit (.acceptSeq ls (w.extractLsb' 10 7))
    else if w &&& 0xFE03FF#32 = 0x2#32 then short w lit (.acceptTol ls (w.extractLsb' 10 7))
    else .error .badFields
  | 0x25 =>
    if w &&& 0x1FF07#32 = 0x100#32 then short w lit (.rxtag ls (w.extractLsb' 17 7) (w.extractLsb' 3 5))
    else if w &&& 0x1FFFF#32 = 0x8#32 then short w lit (.rxtagVoid ls (w.extractLsb' 17 7))
    else if w &&& 0x1FFFF#32 = 0x0#32 then short w lit (.rxuntag ls (w.extractLsb' 17 7))
    else if w &&& 0x1FFFF#32 = 0x1#32 then short w lit (.rxdrop ls (w.extractLsb' 17 7))
    else if w &&& 0x1FFFF#32 = 0x2#32 then short w lit (.rxkeep ls (w.extractLsb' 17 7))
    else if w &&& 0x3FF#32 = 0x3#32 then short w lit (.rxq ls (w.extractLsb' 17 7) (w.extractLsb' 10 7))
    else .error .badFields
  | 0x26 =>
    if w &&& 0x1FC07#32 = 0x0#32 then short w lit (.wid ls (w.extractLsb' 17 7) (w.extractLsb' 3 7))
    else .error .badFields
  | 0x27 =>
    if w &&& 0x3FF#32 = 0x0#32 then short w lit (.job ls (w.extractLsb' 17 7) (w.extractLsb' 10 7))
    else if w &&& 0xFE0007#32 = 0x1#32 then short w lit (.jobw ls (w.extractLsb' 10 7) (w.extractLsb' 3 7))
    else if w &&& 0x3FF#32 = 0x2#32 then short w lit (.jobq ls (w.extractLsb' 17 7) (w.extractLsb' 10 7))
    else if w &&& 0x3FF#32 = 0x3#32 then short w lit (.jobResume ls (w.extractLsb' 17 7) (w.extractLsb' 10 7))
    else .error .badFields
  | 0x28 =>
    if w &&& 0x7#32 = 0x0#32 then short w lit (.mxsend ls (w.extractLsb' 17 7) (w.extractLsb' 10 7) (w.extractLsb' 3 7))
    else if w &&& 0x7#32 = 0x1#32 then short w lit (.mxsendAdd ls (w.extractLsb' 17 7) (w.extractLsb' 10 7) (w.extractLsb' 3 7))
    else .error .badFields
  | 0x29 =>
    if w &&& 0x7#32 = 0x0#32 then short w lit (.swapt ls (w.extractLsb' 17 7) (w.extractLsb' 10 7) (w.extractLsb' 3 7))
    else .error .badFields
  | 0x2A =>
    if w &&& 0x3FF#32 = 0x0#32 then short w lit (.launch ls (w.extractLsb' 17 7) (w.extractLsb' 10 7))
    else .error .badFields
  | 0x2B =>
    if w &&& 0xFE0007#32 = 0x0#32 then short w lit (.tlbw ls (w.extractLsb' 10 7) (w.extractLsb' 3 7))
    else if w &&& 0xFE0007#32 = 0x1#32 then short w lit (.tlbi ls (w.extractLsb' 10 7) (w.extractLsb' 3 7))
    else if w &&& 0x1FC07#32 = 0x2#32 then short w lit (.tlbr ls (w.extractLsb' 17 7) (w.extractLsb' 3 7))
    else .error .badFields
  | 0x2C =>
    if w &&& 0x7#32 = 0x0#32 then short w lit (.slicemass ls (w.extractLsb' 17 7) (w.extractLsb' 10 7) (w.extractLsb' 3 7))
    else .error .badFields
  | 0x2D =>
    if w &&& 0x7#32 = 0x0#32 then short w lit (.draw ls (w.extractLsb' 17 7) (w.extractLsb' 10 7) (w.extractLsb' 3 7))
    else .error .badFields
  | 0x2E =>
    if w &&& 0x7#32 = 0x0#32 then short w lit (.penal ls (w.extractLsb' 17 7) (w.extractLsb' 10 7) (w.extractLsb' 3 7))
    else .error .badFields
  | 0x2F =>
    if w &&& 0x7#32 = 0x0#32 then short w lit (.tokapp ls (w.extractLsb' 17 7) (w.extractLsb' 10 7) (w.extractLsb' 3 7))
    else .error .badFields
  | 0x30 =>
    if w &&& 0x7#32 = 0x0#32 then short w lit (.seqcmtCommit ls (w.extractLsb' 17 7) (w.extractLsb' 10 7) (w.extractLsb' 3 7))
    else if w &&& 0x7#32 = 0x1#32 then short w lit (.seqcmtRewind ls (w.extractLsb' 17 7) (w.extractLsb' 10 7) (w.extractLsb' 3 7))
    else .error .badFields
  | 0x31 =>
    if w &&& 0x7#32 = 0x0#32 then short w lit (.gmask ls (w.extractLsb' 17 7) (w.extractLsb' 10 7) (w.extractLsb' 3 7))
    else .error .badFields
  | 0x32 =>
    if w &&& 0x0001FFFF#32 = 0 then longOnly w (.movi s (w.extractLsb' 17 7) lit)
    else if w &&& 0x0001FFFF#32 = 1 then longOnly w (.moviHi s (w.extractLsb' 17 7) lit)
    else .error .badFields
  | _ => .error .reservedMajor

/-- The A-word `w` (R51, R59). -/
def decodeA (w : BitVec 32) : Except DecodeError Instr :=
  match (w.extractLsb' 25 7).toNat with
  | 0x00 =>
    if w &&& 0x1FFFFFF#32 = 0x0#32 then .ok (.anop)
    else .error .badFields
  | 0x01 =>
    if w &&& 0xC#32 = 0x4#32 then .ok (.add (w.extractLsb' 18 7) (w.extractLsb' 11 7) (w.extractLsb' 4 7) (w.extractLsb' 0 2))
    else .error .badFields
  | 0x02 =>
    if w &&& 0xC#32 = 0x4#32 then .ok (.sub (w.extractLsb' 18 7) (w.extractLsb' 11 7) (w.extractLsb' 4 7) (w.extractLsb' 0 2))
    else .error .badFields
  | 0x03 =>
    if w &&& 0xC#32 = 0x4#32 then .ok (.mul (w.extractLsb' 18 7) (w.extractLsb' 11 7) (w.extractLsb' 4 7) (w.extractLsb' 0 2))
    else .error .badFields
  | 0x04 =>
    if w &&& 0xC#32 = 0x4#32 then .ok (.mulh (w.extractLsb' 18 7) (w.extractLsb' 11 7) (w.extractLsb' 4 7) (w.extractLsb' 0 2))
    else .error .badFields
  | 0x05 =>
    if w &&& 0xC#32 = 0x4#32 then .ok (.div (w.extractLsb' 18 7) (w.extractLsb' 11 7) (w.extractLsb' 4 7) (w.extractLsb' 0 2))
    else .error .badFields
  | 0x06 =>
    if w &&& 0xC#32 = 0x4#32 then .ok (.rem (w.extractLsb' 18 7) (w.extractLsb' 11 7) (w.extractLsb' 4 7) (w.extractLsb' 0 2))
    else .error .badFields
  | 0x07 =>
    if w &&& 0xC#32 = 0x4#32 then .ok (.and (w.extractLsb' 18 7) (w.extractLsb' 11 7) (w.extractLsb' 4 7) (w.extractLsb' 0 2))
    else .error .badFields
  | 0x08 =>
    if w &&& 0xC#32 = 0x4#32 then .ok (.or (w.extractLsb' 18 7) (w.extractLsb' 11 7) (w.extractLsb' 4 7) (w.extractLsb' 0 2))
    else .error .badFields
  | 0x09 =>
    if w &&& 0xC#32 = 0x4#32 then .ok (.xor (w.extractLsb' 18 7) (w.extractLsb' 11 7) (w.extractLsb' 4 7) (w.extractLsb' 0 2))
    else .error .badFields
  | 0x0A =>
    if w &&& 0xC#32 = 0x4#32 then .ok (.shl (w.extractLsb' 18 7) (w.extractLsb' 11 7) (w.extractLsb' 4 7) (w.extractLsb' 0 2))
    else .error .badFields
  | 0x0B =>
    if w &&& 0xC#32 = 0x4#32 then .ok (.shr (w.extractLsb' 18 7) (w.extractLsb' 11 7) (w.extractLsb' 4 7) (w.extractLsb' 0 2))
    else .error .badFields
  | 0x0C =>
    if w &&& 0xC#32 = 0x4#32 then .ok (.sar (w.extractLsb' 18 7) (w.extractLsb' 11 7) (w.extractLsb' 4 7) (w.extractLsb' 0 2))
    else .error .badFields
  | 0x0D =>
    if w &&& 0xC#32 = 0x4#32 then .ok (.rot (w.extractLsb' 18 7) (w.extractLsb' 11 7) (w.extractLsb' 4 7) (w.extractLsb' 0 2))
    else .error .badFields
  | 0x0E =>
    if w &&& 0xC#32 = 0x4#32 then .ok (.min (w.extractLsb' 18 7) (w.extractLsb' 11 7) (w.extractLsb' 4 7) (w.extractLsb' 0 2))
    else .error .badFields
  | 0x0F =>
    if w &&& 0xC#32 = 0x4#32 then .ok (.max (w.extractLsb' 18 7) (w.extractLsb' 11 7) (w.extractLsb' 4 7) (w.extractLsb' 0 2))
    else .error .badFields
  | 0x10 =>
    if w &&& 0x7FC#32 = 0x4#32 then .ok (.abs (w.extractLsb' 18 7) (w.extractLsb' 11 7) (w.extractLsb' 0 2))
    else .error .badFields
  | 0x11 =>
    if w &&& 0x7FC#32 = 0x4#32 then .ok (.neg (w.extractLsb' 18 7) (w.extractLsb' 11 7) (w.extractLsb' 0 2))
    else .error .badFields
  | 0x12 =>
    if w &&& 0x7FC#32 = 0x4#32 then .ok (.clz (w.extractLsb' 18 7) (w.extractLsb' 11 7) (w.extractLsb' 0 2))
    else .error .badFields
  | 0x13 =>
    if w &&& 0x7FC#32 = 0x4#32 then .ok (.popc (w.extractLsb' 18 7) (w.extractLsb' 11 7) (w.extractLsb' 0 2))
    else .error .badFields
  | 0x14 =>
    if w &&& 0x7FC#32 = 0x4#32 then .ok (.brev (w.extractLsb' 18 7) (w.extractLsb' 11 7) (w.extractLsb' 0 2))
    else .error .badFields
  | 0x15 =>
    if w &&& 0xC#32 = 0x4#32 then .ok (.bfx (w.extractLsb' 18 7) (w.extractLsb' 11 7) (w.extractLsb' 4 7) (w.extractLsb' 0 2))
    else .error .badFields
  | 0x16 =>
    if w &&& 0xC#32 = 0x4#32 then .ok (.bfi (w.extractLsb' 18 7) (w.extractLsb' 11 7) (w.extractLsb' 4 7) (w.extractLsb' 0 2))
    else .error .badFields
  | 0x17 =>
    if w &&& 0x7FC#32 = 0x4#32 then .ok (.mov (w.extractLsb' 18 7) (w.extractLsb' 11 7) (w.extractLsb' 0 2))
    else .error .badFields
  | 0x18 =>
    .ok (.addi (w.extractLsb' 18 7) (w.extractLsb' 11 7) (w.extractLsb' 0 11))
  | 0x19 =>
    .ok (.andi (w.extractLsb' 18 7) (w.extractLsb' 11 7) (w.extractLsb' 0 11))
  | 0x1A =>
    .ok (.ori (w.extractLsb' 18 7) (w.extractLsb' 11 7) (w.extractLsb' 0 11))
  | 0x1B =>
    .ok (.xori (w.extractLsb' 18 7) (w.extractLsb' 11 7) (w.extractLsb' 0 11))
  | 0x1C =>
    .ok (.shli (w.extractLsb' 18 7) (w.extractLsb' 11 7) (w.extractLsb' 0 11))
  | 0x1D =>
    .ok (.shri (w.extractLsb' 18 7) (w.extractLsb' 11 7) (w.extractLsb' 0 11))
  | 0x1E =>
    .ok (.sari (w.extractLsb' 18 7) (w.extractLsb' 11 7) (w.extractLsb' 0 11))
  | 0x20 =>
    if w &&& 0xF#32 = 0x0#32 then .ok (.padd (w.extractLsb' 18 7) (w.extractLsb' 11 7) (w.extractLsb' 4 7))
    else .error .badFields
  | 0x21 =>
    .ok (.paddi (w.extractLsb' 18 7) (w.extractLsb' 11 7) (w.extractLsb' 0 11))
  | 0x22 =>
    if w &&& 0xF#32 = 0x0#32 then .ok (.pset (w.extractLsb' 18 7) (w.extractLsb' 11 7) (w.extractLsb' 4 7))
    else .error .badFields
  | 0x23 =>
    if w &&& 0x7FF#32 = 0x0#32 then .ok (.pget (w.extractLsb' 18 7) (w.extractLsb' 11 7))
    else .error .badFields
  | 0x24 =>
    if w &&& 0xF#32 = 0x0#32 then .ok (.pdiff (w.extractLsb' 18 7) (w.extractLsb' 11 7) (w.extractLsb' 4 7))
    else .error .badFields
  | 0x28 =>
    if w &&& 0x200000#32 = 0x0#32 then .ok (.cmp (w.extractLsb' 22 3) (w.extractLsb' 18 3) (w.extractLsb' 11 7) (w.extractLsb' 4 7) (w.extractLsb' 0 4))
    else .error .badFields
  | 0x29 =>
    if w &&& 0x200008#32 = 0x0#32 then .ok (.cmpi (w.extractLsb' 22 3) (w.extractLsb' 18 3) (w.extractLsb' 11 7) (w.extractLsb' 4 7) (w.extractLsb' 0 3))
    else .error .badFields
  | 0x2A =>
    if w &&& 0x23C78F#32 = 0x0#32 then .ok (.kop (w.extractLsb' 22 3) (w.extractLsb' 18 3) (w.extractLsb' 11 3) (w.extractLsb' 4 3))
    else .error .badFields
  | 0x2B =>
    if w &&& 0x8#32 = 0x0#32 then .ok (.sel (w.extractLsb' 18 7) (w.extractLsb' 11 7) (w.extractLsb' 4 7) (w.extractLsb' 0 3))
    else .error .badFields
  | 0x2C =>
    if w &&& 0x3C7FF#32 = 0x0#32 then .ok (.kmovToReg (w.extractLsb' 18 7) (w.extractLsb' 11 3))
    else if w &&& 0x1E007FF#32 = 0x1#32 then .ok (.kmovToPred (w.extractLsb' 18 3) (w.extractLsb' 11 7))
    else .error .badFields
  | 0x30 =>
    .ok (.vadd (w.extractLsb' 18 7) (w.extractLsb' 11 7) (w.extractLsb' 4 7) (w.extractLsb' 0 4))
  | 0x31 =>
    .ok (.vsub (w.extractLsb' 18 7) (w.extractLsb' 11 7) (w.extractLsb' 4 7) (w.extractLsb' 0 4))
  | 0x32 =>
    .ok (.vmul (w.extractLsb' 18 7) (w.extractLsb' 11 7) (w.extractLsb' 4 7) (w.extractLsb' 0 4))
  | 0x33 =>
    .ok (.vfma (w.extractLsb' 18 7) (w.extractLsb' 11 7) (w.extractLsb' 4 7) (w.extractLsb' 0 4))
  | 0x34 =>
    .ok (.vmin (w.extractLsb' 18 7) (w.extractLsb' 11 7) (w.extractLsb' 4 7) (w.extractLsb' 0 4))
  | 0x35 =>
    .ok (.vmax (w.extractLsb' 18 7) (w.extractLsb' 11 7) (w.extractLsb' 4 7) (w.extractLsb' 0 4))
  | 0x36 =>
    if w &&& 0x7F0#32 = 0x0#32 then .ok (.vabs (w.extractLsb' 18 7) (w.extractLsb' 11 7) (w.extractLsb' 0 4))
    else .error .badFields
  | 0x37 =>
    if w &&& 0x7F0#32 = 0x0#32 then .ok (.vneg (w.extractLsb' 18 7) (w.extractLsb' 11 7) (w.extractLsb' 0 4))
    else .error .badFields
  | 0x38 =>
    if w &&& 0xF#32 = 0x0#32 then .ok (.vand (w.extractLsb' 18 7) (w.extractLsb' 11 7) (w.extractLsb' 4 7))
    else .error .badFields
  | 0x39 =>
    if w &&& 0xF#32 = 0x0#32 then .ok (.vor (w.extractLsb' 18 7) (w.extractLsb' 11 7) (w.extractLsb' 4 7))
    else .error .badFields
  | 0x3A =>
    if w &&& 0xF#32 = 0x0#32 then .ok (.vxor (w.extractLsb' 18 7) (w.extractLsb' 11 7) (w.extractLsb' 4 7))
    else .error .badFields
  | 0x3B =>
    if w &&& 0x8#32 = 0x0#32 then .ok (.vshl (w.extractLsb' 18 7) (w.extractLsb' 11 7) (w.extractLsb' 4 7) (w.extractLsb' 0 3))
    else .error .badFields
  | 0x3C =>
    if w &&& 0x8#32 = 0x0#32 then .ok (.vshr (w.extractLsb' 18 7) (w.extractLsb' 11 7) (w.extractLsb' 4 7) (w.extractLsb' 0 3))
    else .error .badFields
  | 0x3D =>
    if w &&& 0x200000#32 = 0x0#32 then .ok (.vcmp (w.extractLsb' 22 3) (w.extractLsb' 18 3) (w.extractLsb' 11 7) (w.extractLsb' 4 7) (w.extractLsb' 0 4))
    else .error .badFields
  | 0x3E =>
    if w &&& 0x780#32 = 0x0#32 then .ok (.vsel (w.extractLsb' 18 7) (w.extractLsb' 11 7) (w.extractLsb' 4 3) (w.extractLsb' 0 4))
    else .error .badFields
  | 0x3F =>
    .ok (.vshuf (w.extractLsb' 18 7) (w.extractLsb' 11 7) (w.extractLsb' 4 7) (w.extractLsb' 0 4))
  | 0x40 =>
    if w &&& 0x7F0#32 = 0x0#32 then .ok (.vbcast (w.extractLsb' 18 7) (w.extractLsb' 11 7) (w.extractLsb' 0 4))
    else .error .badFields
  | 0x41 =>
    .ok (.vred (w.extractLsb' 18 7) (w.extractLsb' 11 7) (w.extractLsb' 4 7) (w.extractLsb' 0 4))
  | 0x42 =>
    .ok (.vdot (w.extractLsb' 18 7) (w.extractLsb' 11 7) (w.extractLsb' 4 7) (w.extractLsb' 0 4))
  | 0x43 =>
    if w &&& 0x8#32 = 0x8#32 then .ok (.vscale (w.extractLsb' 18 7) (w.extractLsb' 11 7) (w.extractLsb' 4 7) (w.extractLsb' 0 3))
    else .error .badFields
  | 0x44 =>
    if w &&& 0x8#32 = 0x0#32 then .ok (.vadds (w.extractLsb' 18 7) (w.extractLsb' 11 7) (w.extractLsb' 4 7) (w.extractLsb' 0 3))
    else .error .badFields
  | 0x50 =>
    if w &&& 0x7FF#32 = 0xA#32 then .ok (.rcp (w.extractLsb' 18 7) (w.extractLsb' 11 7))
    else .error .badFields
  | 0x51 =>
    if w &&& 0x7FF#32 = 0xA#32 then .ok (.rsq (w.extractLsb' 18 7) (w.extractLsb' 11 7))
    else .error .badFields
  | 0x52 =>
    if w &&& 0xF#32 = 0xA#32 then .ok (.rcpnr (w.extractLsb' 18 7) (w.extractLsb' 11 7) (w.extractLsb' 4 7))
    else .error .badFields
  | 0x53 =>
    if w &&& 0xF#32 = 0xA#32 then .ok (.rsqnr (w.extractLsb' 18 7) (w.extractLsb' 11 7) (w.extractLsb' 4 7))
    else .error .badFields
  | 0x54 =>
    if w &&& 0x7FF#32 = 0xA#32 then .ok (.exp2 (w.extractLsb' 18 7) (w.extractLsb' 11 7))
    else .error .badFields
  | 0x55 =>
    if w &&& 0x7FF#32 = 0xA#32 then .ok (.log2 (w.extractLsb' 18 7) (w.extractLsb' 11 7))
    else .error .badFields
  | 0x58 =>
    if w &&& 0x1#32 = 0x0#32 then .ok (.cvt (w.extractLsb' 18 7) (w.extractLsb' 11 7) (w.extractLsb' 6 5) (w.extractLsb' 1 5))
    else .error .badFields
  | 0x59 =>
    if w &&& 0x1#32 = 0x0#32 then .ok (.cvtsr (w.extractLsb' 18 7) (w.extractLsb' 11 7) (w.extractLsb' 6 5) (w.extractLsb' 1 5))
    else .error .badFields
  | 0x5A =>
    if w &&& 0x1#32 = 0x0#32 then .ok (.pack (w.extractLsb' 18 7) (w.extractLsb' 11 7) (w.extractLsb' 6 5) (w.extractLsb' 1 5))
    else .error .badFields
  | 0x5B =>
    if w &&& 0x1#32 = 0x0#32 then .ok (.unpack (w.extractLsb' 18 7) (w.extractLsb' 11 7) (w.extractLsb' 6 5) (w.extractLsb' 1 5))
    else .error .badFields
  | 0x5C =>
    if w &&& 0xF#32 = 0x5#32 then .ok (.rng (w.extractLsb' 18 7) (w.extractLsb' 11 7) (w.extractLsb' 4 7))
    else .error .badFields
  | 0x60 =>
    .ok (.mma (w.extractLsb' 20 5) (w.extractLsb' 17 3) (w.extractLsb' 10 7) (w.extractLsb' 3 7) (w.extractLsb' 0 3))
  | 0x61 =>
    if w &&& 0x1E007FF#32 = 0x0#32 then .ok (.aclr (w.extractLsb' 18 3) (w.extractLsb' 11 7))
    else .error .badFields
  | 0x62 =>
    if w &&& 0x3C008#32 = 0x0#32 then .ok (.arnd (w.extractLsb' 18 7) (w.extractLsb' 11 3) (w.extractLsb' 4 7) (w.extractLsb' 0 3))
    else .error .badFields
  | 0x63 =>
    if w &&& 0x1E3C7FF#32 = 0x0#32 then .ok (.amov (w.extractLsb' 18 3) (w.extractLsb' 11 3))
    else if w &&& 0x3C7FF#32 = 0x1#32 then .ok (.amovSt (w.extractLsb' 18 7) (w.extractLsb' 11 3))
    else if w &&& 0x3C00F#32 = 0x2#32 then .ok (.amovRaw (w.extractLsb' 18 7) (w.extractLsb' 11 3) (w.extractLsb' 4 7))
    else .error .badFields
  | 0x64 =>
    if w &&& 0x1E3C7FF#32 = 0x0#32 then .ok (.aadd (w.extractLsb' 18 3) (w.extractLsb' 11 3))
    else .error .badFields
  | _ => .error .reservedMajor

/-- A bundle: the C-instruction and, unless the bundle is a long form, a lone C-instruction or the
C-word alone is wrong, the A-instruction or the reason it is none. A C-word's error comes first (R57). -/
def decodeBundle (b : BitVec 64) : Except DecodeError (Instr × Except DecodeError Instr) :=
  match decodeC (b.extractLsb' 0 32) (b.extractLsb' 32 32) with
  | .error e => .error e
  | .ok c => if b.getLsbD 31 = true then .ok (c, .ok .anop) else .ok (c, decodeA (b.extractLsb' 32 32))

/-- Eight bytes, lowest address first, as one bundle (R4, R44), with the bytes that follow. -/
def decodeBytes : List Byte → Except DecodeError ((Instr × Except DecodeError Instr) × List Byte)
  | b0 :: b1 :: b2 :: b3 :: b4 :: b5 :: b6 :: b7 :: rest =>
    match decodeBundle (b7 ++ b6 ++ b5 ++ b4 ++ b3 ++ b2 ++ b1 ++ b0) with
    | .error e => .error e
    | .ok p => .ok (p, rest)
  | _ => .error .tooShort

/-- The words of an instruction: a C-word, a C-word with its literal, an A-word, or none for a step
that has no encoding. -/
inductive Words where
  | c (w : BitVec 32)
  | long (w lit : BitVec 32)
  | a (w : BitVec 32)
  | none
  deriving DecidableEq, Repr

/-- The words that the encoding tables give an instruction (R47 to R51, R58, R59). -/
def encode (i : Instr) : Words :=
  match i with
  | .nop ls => .c (BitVec.ofBool ls.l ++ BitVec.ofBool ls.s ++ 0x0#6 ++ 0x0#24)
  | .br ls k off => .c (BitVec.ofBool ls.l ++ BitVec.ofBool ls.s ++ 0x1#6 ++ k ++ 0x1#1 ++ off)
  | .brn ls k off => .c (BitVec.ofBool ls.l ++ BitVec.ofBool ls.s ++ 0x1#6 ++ k ++ 0x0#1 ++ off)
  | .jmp ls off => .c (BitVec.ofBool ls.l ++ BitVec.ofBool ls.s ++ 0x2#6 ++ off)
  | .call ls off => .c (BitVec.ofBool ls.l ++ BitVec.ofBool ls.s ++ 0x3#6 ++ off)
  | .jmpr ls a => .c (BitVec.ofBool ls.l ++ BitVec.ofBool ls.s ++ 0x4#6 ++ 0x0#7 ++ a ++ 0x0#10)
  | .callr ls a => .c (BitVec.ofBool ls.l ++ BitVec.ofBool ls.s ++ 0x4#6 ++ 0x0#7 ++ a ++ 0x1#10)
  | .exit ls => .c (BitVec.ofBool ls.l ++ BitVec.ofBool ls.s ++ 0x5#6 ++ 0x0#24)
  | .yield ls => .c (BitVec.ofBool ls.l ++ BitVec.ofBool ls.s ++ 0x5#6 ++ 0x1#24)
  | .trap ls imm => .c (BitVec.ofBool ls.l ++ BitVec.ofBool ls.s ++ 0x6#6 ++ 0x0#14 ++ imm)
  | .csrr ls d c => .c (BitVec.ofBool ls.l ++ BitVec.ofBool ls.s ++ 0x7#6 ++ d ++ 0x0#7 ++ c)
  | .csrw ls a c => .c (BitVec.ofBool ls.l ++ BitVec.ofBool ls.s ++ 0x8#6 ++ a ++ 0x0#7 ++ c)
  | .l2pdataWrite ls a => .c (BitVec.ofBool ls.l ++ BitVec.ofBool ls.s ++ 0x8#6 ++ a ++ 0x111#17)
  | .eret ls => .c (BitVec.ofBool ls.l ++ BitVec.ofBool ls.s ++ 0x9#6 ++ 0x0#24)
  | .ldN s d b sz off => .c (0#1 ++ BitVec.ofBool s ++ 0xA#6 ++ d ++ b ++ sz ++ off)
  | .ldNLong s d b sz lit => .long (1#1 ++ BitVec.ofBool s ++ 0xA#6 ++ d ++ b ++ sz ++ 0x0#7) lit
  | .stN s v b sz off => .c (0#1 ++ BitVec.ofBool s ++ 0xB#6 ++ v ++ b ++ sz ++ off)
  | .stNLong s v b sz lit => .long (1#1 ++ BitVec.ofBool s ++ 0xB#6 ++ v ++ b ++ sz ++ 0x0#7) lit
  | .ldG s d b sz off => .c (0#1 ++ BitVec.ofBool s ++ 0xC#6 ++ d ++ b ++ sz ++ off)
  | .ldGLong s d b sz lit => .long (1#1 ++ BitVec.ofBool s ++ 0xC#6 ++ d ++ b ++ sz ++ 0x0#7) lit
  | .stG s v b sz off => .c (0#1 ++ BitVec.ofBool s ++ 0xD#6 ++ v ++ b ++ sz ++ off)
  | .stGLong s v b sz lit => .long (1#1 ++ BitVec.ofBool s ++ 0xD#6 ++ v ++ b ++ sz ++ 0x0#7) lit
  | .lduG s d b sz off => .c (0#1 ++ BitVec.ofBool s ++ 0xE#6 ++ d ++ b ++ sz ++ off)
  | .lduGLong s d b sz lit => .long (1#1 ++ BitVec.ofBool s ++ 0xE#6 ++ d ++ b ++ sz ++ 0x0#7) lit
  | .ldtr ls d b sz off => .c (BitVec.ofBool ls.l ++ BitVec.ofBool ls.s ++ 0xF#6 ++ d ++ b ++ 0x0#1 ++ sz ++ off)
  | .plane ls d a b => .c (BitVec.ofBool ls.l ++ BitVec.ofBool ls.s ++ 0x10#6 ++ d ++ a ++ b ++ 0x0#3)
  | .unplane ls d a b => .c (BitVec.ofBool ls.l ++ BitVec.ofBool ls.s ++ 0x10#6 ++ d ++ a ++ b ++ 0x1#3)
  | .take ls d a => .c (BitVec.ofBool ls.l ++ BitVec.ofBool ls.s ++ 0x11#6 ++ d ++ a ++ 0x0#10)
  | .put ls a b => .c (BitVec.ofBool ls.l ++ BitVec.ofBool ls.s ++ 0x11#6 ++ 0x0#7 ++ a ++ b ++ 0x1#3)
  | .peek ls d a => .c (BitVec.ofBool ls.l ++ BitVec.ofBool ls.s ++ 0x11#6 ++ d ++ a ++ 0x2#10)
  | .feset ls a f => .c (BitVec.ofBool ls.l ++ BitVec.ofBool ls.s ++ 0x11#6 ++ 0x0#7 ++ a ++ 0x0#6 ++ f ++ 0x3#3)
  | .feq ls d a => .c (BitVec.ofBool ls.l ++ BitVec.ofBool ls.s ++ 0x11#6 ++ d ++ a ++ 0x4#10)
  | .chbind ls a b => .c (BitVec.ofBool ls.l ++ BitVec.ofBool ls.s ++ 0x12#6 ++ 0x0#7 ++ a ++ b ++ 0x0#3)
  | .chsend ls a b => .c (BitVec.ofBool ls.l ++ BitVec.ofBool ls.s ++ 0x12#6 ++ 0x0#7 ++ a ++ b ++ 0x1#3)
  | .chrecv ls d a => .c (BitVec.ofBool ls.l ++ BitVec.ofBool ls.s ++ 0x12#6 ++ d ++ a ++ 0x2#10)
  | .chclose ls a => .c (BitVec.ofBool ls.l ++ BitVec.ofBool ls.s ++ 0x12#6 ++ 0x0#7 ++ a ++ 0x3#10)
  | .atomN ls d a b p => .c (BitVec.ofBool ls.l ++ BitVec.ofBool ls.s ++ 0x13#6 ++ d ++ a ++ b ++ p)
  | .atomG ls d a b p => .c (BitVec.ofBool ls.l ++ BitVec.ofBool ls.s ++ 0x14#6 ++ d ++ a ++ b ++ p)
  | .redG ls a b p => .c (BitVec.ofBool ls.l ++ BitVec.ofBool ls.s ++ 0x15#6 ++ 0x0#7 ++ a ++ b ++ p)
  | .casN ls d a b => .c (BitVec.ofBool ls.l ++ BitVec.ofBool ls.s ++ 0x16#6 ++ d ++ a ++ b ++ 0x0#3)
  | .casG ls d a b => .c (BitVec.ofBool ls.l ++ BitVec.ofBool ls.s ++ 0x16#6 ++ d ++ a ++ b ++ 0x1#3)
  | .ordatom ls d n b => .c (BitVec.ofBool ls.l ++ BitVec.ofBool ls.s ++ 0x17#6 ++ d ++ 0x0#3 ++ n ++ b ++ 0x0#3)
  | .fenceNear ls => .c (BitVec.ofBool ls.l ++ BitVec.ofBool ls.s ++ 0x18#6 ++ 0x0#24)
  | .fenceGlobal ls => .c (BitVec.ofBool ls.l ++ BitVec.ofBool ls.s ++ 0x18#6 ++ 0x1#24)
  | .fenceEngine ls => .c (BitVec.ofBool ls.l ++ BitVec.ofBool ls.s ++ 0x18#6 ++ 0x2#24)
  | .fenceMirror ls => .c (BitVec.ofBool ls.l ++ BitVec.ofBool ls.s ++ 0x18#6 ++ 0x3#24)
  | .fenceSystem ls => .c (BitVec.ofBool ls.l ++ BitVec.ofBool ls.s ++ 0x18#6 ++ 0x4#24)
  | .chunk ls => .c (BitVec.ofBool ls.l ++ BitVec.ofBool ls.s ++ 0x19#6 ++ 0x0#24)
  | .barArrive ls d n => .c (BitVec.ofBool ls.l ++ BitVec.ofBool ls.s ++ 0x1A#6 ++ d ++ 0x0#9 ++ n ++ 0x0#3)
  | .barWait ls a n => .c (BitVec.ofBool ls.l ++ BitVec.ofBool ls.s ++ 0x1A#6 ++ 0x0#7 ++ a ++ 0x0#2 ++ n ++ 0x1#3)
  | .barSync ls n => .c (BitVec.ofBool ls.l ++ BitVec.ofBool ls.s ++ 0x1A#6 ++ 0x0#16 ++ n ++ 0x2#3)
  | .barWaitd ls d a n => .c (BitVec.ofBool ls.l ++ BitVec.ofBool ls.s ++ 0x1A#6 ++ d ++ a ++ 0x0#2 ++ n ++ 0x3#3)
  | .barInit ls a n => .c (BitVec.ofBool ls.l ++ BitVec.ofBool ls.s ++ 0x1A#6 ++ 0x0#7 ++ a ++ 0x0#2 ++ n ++ 0x4#3)
  | .evWait ls => .c (BitVec.ofBool ls.l ++ BitVec.ofBool ls.s ++ 0x1B#6 ++ 0x0#24)
  | .evSignal ls a => .c (BitVec.ofBool ls.l ++ BitVec.ofBool ls.s ++ 0x1B#6 ++ 0x0#7 ++ a ++ 0x1#10)
  | .evWaitt ls d a => .c (BitVec.ofBool ls.l ++ BitVec.ofBool ls.s ++ 0x1B#6 ++ d ++ a ++ 0x2#10)
  | .msend ls d a b => .c (BitVec.ofBool ls.l ++ BitVec.ofBool ls.s ++ 0x1C#6 ++ d ++ a ++ b ++ 0x0#3)
  | .latheOpen ls d a g n => .c (BitVec.ofBool ls.l ++ BitVec.ofBool ls.s ++ 0x1D#6 ++ d ++ a ++ g ++ n ++ 0x0#3)
  | .latheLwait ls => .c (BitVec.ofBool ls.l ++ BitVec.ofBool ls.s ++ 0x1D#6 ++ 0x2#24)
  | .latheLabort ls => .c (BitVec.ofBool ls.l ++ BitVec.ofBool ls.s ++ 0x1D#6 ++ 0x3#24)
  | .nest ls n a b => .c (BitVec.ofBool ls.l ++ BitVec.ofBool ls.s ++ 0x1E#6 ++ 0x0#5 ++ n ++ a ++ b ++ 0x0#3)
  | .next ls d n k => .c (BitVec.ofBool ls.l ++ BitVec.ofBool ls.s ++ 0x1E#6 ++ d ++ 0x0#5 ++ n ++ 0x0#4 ++ k ++ 0x1#3)
  | .sbind ls d a => .c (BitVec.ofBool ls.l ++ BitVec.ofBool ls.s ++ 0x1F#6 ++ d ++ a ++ 0x0#10)
  | .sunbind ls d => .c (BitVec.ofBool ls.l ++ BitVec.ofBool ls.s ++ 0x1F#6 ++ d ++ 0x1#17)
  | .sstat ls d a => .c (BitVec.ofBool ls.l ++ BitVec.ofBool ls.s ++ 0x1F#6 ++ d ++ a ++ 0x2#10)
  | .tspawn ls d a b => .c (BitVec.ofBool ls.l ++ BitVec.ofBool ls.s ++ 0x20#6 ++ d ++ a ++ b ++ 0x0#3)
  | .tstamp ls a => .c (BitVec.ofBool ls.l ++ BitVec.ofBool ls.s ++ 0x21#6 ++ 0x0#7 ++ a ++ 0x0#10)
  | .gloop s d a b lit => .long (1#1 ++ BitVec.ofBool s ++ 0x22#6 ++ d ++ a ++ b ++ 0x0#3) lit
  | .gput ls => .c (BitVec.ofBool ls.l ++ BitVec.ofBool ls.s ++ 0x23#6 ++ 0x0#24)
  | .gend ls d => .c (BitVec.ofBool ls.l ++ BitVec.ofBool ls.s ++ 0x23#6 ++ d ++ 0x1#17)
  | .gquit ls => .c (BitVec.ofBool ls.l ++ BitVec.ofBool ls.s ++ 0x23#6 ++ 0x2#24)
  | .acceptEq ls => .c (BitVec.ofBool ls.l ++ BitVec.ofBool ls.s ++ 0x24#6 ++ 0x0#24)
  | .acceptSeq ls a => .c (BitVec.ofBool ls.l ++ BitVec.ofBool ls.s ++ 0x24#6 ++ 0x0#7 ++ a ++ 0x1#10)
  | .acceptTol ls a => .c (BitVec.ofBool ls.l ++ BitVec.ofBool ls.s ++ 0x24#6 ++ 0x0#7 ++ a ++ 0x2#10)
  | .rxtag ls d n => .c (BitVec.ofBool ls.l ++ BitVec.ofBool ls.s ++ 0x25#6 ++ d ++ 0x1#9 ++ n ++ 0x0#3)
  | .rxtagVoid ls d => .c (BitVec.ofBool ls.l ++ BitVec.ofBool ls.s ++ 0x25#6 ++ d ++ 0x8#17)
  | .rxuntag ls d => .c (BitVec.ofBool ls.l ++ BitVec.ofBool ls.s ++ 0x25#6 ++ d ++ 0x0#17)
  | .rxdrop ls d => .c (BitVec.ofBool ls.l ++ BitVec.ofBool ls.s ++ 0x25#6 ++ d ++ 0x1#17)
  | .rxkeep ls d => .c (BitVec.ofBool ls.l ++ BitVec.ofBool ls.s ++ 0x25#6 ++ d ++ 0x2#17)
  | .rxq ls d a => .c (BitVec.ofBool ls.l ++ BitVec.ofBool ls.s ++ 0x25#6 ++ d ++ a ++ 0x3#10)
  | .wid ls d n => .c (BitVec.ofBool ls.l ++ BitVec.ofBool ls.s ++ 0x26#6 ++ d ++ 0x0#7 ++ n ++ 0x0#3)
  | .job ls d a => .c (BitVec.ofBool ls.l ++ BitVec.ofBool ls.s ++ 0x27#6 ++ d ++ a ++ 0x0#10)
  | .jobw ls a b => .c (BitVec.ofBool ls.l ++ BitVec.ofBool ls.s ++ 0x27#6 ++ 0x0#7 ++ a ++ b ++ 0x1#3)
  | .jobq ls d a => .c (BitVec.ofBool ls.l ++ BitVec.ofBool ls.s ++ 0x27#6 ++ d ++ a ++ 0x2#10)
  | .jobResume ls d a => .c (BitVec.ofBool ls.l ++ BitVec.ofBool ls.s ++ 0x27#6 ++ d ++ a ++ 0x3#10)
  | .mxsend ls d a b => .c (BitVec.ofBool ls.l ++ BitVec.ofBool ls.s ++ 0x28#6 ++ d ++ a ++ b ++ 0x0#3)
  | .mxsendAdd ls d a b => .c (BitVec.ofBool ls.l ++ BitVec.ofBool ls.s ++ 0x28#6 ++ d ++ a ++ b ++ 0x1#3)
  | .swapt ls d a b => .c (BitVec.ofBool ls.l ++ BitVec.ofBool ls.s ++ 0x29#6 ++ d ++ a ++ b ++ 0x0#3)
  | .launch ls d a => .c (BitVec.ofBool ls.l ++ BitVec.ofBool ls.s ++ 0x2A#6 ++ d ++ a ++ 0x0#10)
  | .tlbw ls a b => .c (BitVec.ofBool ls.l ++ BitVec.ofBool ls.s ++ 0x2B#6 ++ 0x0#7 ++ a ++ b ++ 0x0#3)
  | .tlbi ls a b => .c (BitVec.ofBool ls.l ++ BitVec.ofBool ls.s ++ 0x2B#6 ++ 0x0#7 ++ a ++ b ++ 0x1#3)
  | .tlbr ls d b => .c (BitVec.ofBool ls.l ++ BitVec.ofBool ls.s ++ 0x2B#6 ++ d ++ 0x0#7 ++ b ++ 0x2#3)
  | .slicemass ls d a b => .c (BitVec.ofBool ls.l ++ BitVec.ofBool ls.s ++ 0x2C#6 ++ d ++ a ++ b ++ 0x0#3)
  | .draw ls d a b => .c (BitVec.ofBool ls.l ++ BitVec.ofBool ls.s ++ 0x2D#6 ++ d ++ a ++ b ++ 0x0#3)
  | .penal ls d a b => .c (BitVec.ofBool ls.l ++ BitVec.ofBool ls.s ++ 0x2E#6 ++ d ++ a ++ b ++ 0x0#3)
  | .tokapp ls d a b => .c (BitVec.ofBool ls.l ++ BitVec.ofBool ls.s ++ 0x2F#6 ++ d ++ a ++ b ++ 0x0#3)
  | .seqcmtCommit ls d a b => .c (BitVec.ofBool ls.l ++ BitVec.ofBool ls.s ++ 0x30#6 ++ d ++ a ++ b ++ 0x0#3)
  | .seqcmtRewind ls d a b => .c (BitVec.ofBool ls.l ++ BitVec.ofBool ls.s ++ 0x30#6 ++ d ++ a ++ b ++ 0x1#3)
  | .gmask ls d a b => .c (BitVec.ofBool ls.l ++ BitVec.ofBool ls.s ++ 0x31#6 ++ d ++ a ++ b ++ 0x0#3)
  | .movi s d lit => .long (1#1 ++ BitVec.ofBool s ++ 0x32#6 ++ d ++ 0x0#17) lit
  | .moviHi s d lit => .long (1#1 ++ BitVec.ofBool s ++ 0x32#6 ++ d ++ 0x1#17) lit
  | .anop => .a (0x0#7 ++ 0x0#25)
  | .add d a b t => .a (0x1#7 ++ d ++ a ++ b ++ 0x1#2 ++ t)
  | .sub d a b t => .a (0x2#7 ++ d ++ a ++ b ++ 0x1#2 ++ t)
  | .mul d a b t => .a (0x3#7 ++ d ++ a ++ b ++ 0x1#2 ++ t)
  | .mulh d a b t => .a (0x4#7 ++ d ++ a ++ b ++ 0x1#2 ++ t)
  | .div d a b t => .a (0x5#7 ++ d ++ a ++ b ++ 0x1#2 ++ t)
  | .rem d a b t => .a (0x6#7 ++ d ++ a ++ b ++ 0x1#2 ++ t)
  | .and d a b t => .a (0x7#7 ++ d ++ a ++ b ++ 0x1#2 ++ t)
  | .or d a b t => .a (0x8#7 ++ d ++ a ++ b ++ 0x1#2 ++ t)
  | .xor d a b t => .a (0x9#7 ++ d ++ a ++ b ++ 0x1#2 ++ t)
  | .shl d a b t => .a (0xA#7 ++ d ++ a ++ b ++ 0x1#2 ++ t)
  | .shr d a b t => .a (0xB#7 ++ d ++ a ++ b ++ 0x1#2 ++ t)
  | .sar d a b t => .a (0xC#7 ++ d ++ a ++ b ++ 0x1#2 ++ t)
  | .rot d a b t => .a (0xD#7 ++ d ++ a ++ b ++ 0x1#2 ++ t)
  | .min d a b t => .a (0xE#7 ++ d ++ a ++ b ++ 0x1#2 ++ t)
  | .max d a b t => .a (0xF#7 ++ d ++ a ++ b ++ 0x1#2 ++ t)
  | .abs d a t => .a (0x10#7 ++ d ++ a ++ 0x1#9 ++ t)
  | .neg d a t => .a (0x11#7 ++ d ++ a ++ 0x1#9 ++ t)
  | .clz d a t => .a (0x12#7 ++ d ++ a ++ 0x1#9 ++ t)
  | .popc d a t => .a (0x13#7 ++ d ++ a ++ 0x1#9 ++ t)
  | .brev d a t => .a (0x14#7 ++ d ++ a ++ 0x1#9 ++ t)
  | .bfx d a b t => .a (0x15#7 ++ d ++ a ++ b ++ 0x1#2 ++ t)
  | .bfi d a b t => .a (0x16#7 ++ d ++ a ++ b ++ 0x1#2 ++ t)
  | .mov d a t => .a (0x17#7 ++ d ++ a ++ 0x1#9 ++ t)
  | .addi d a imm => .a (0x18#7 ++ d ++ a ++ imm)
  | .andi d a imm => .a (0x19#7 ++ d ++ a ++ imm)
  | .ori d a imm => .a (0x1A#7 ++ d ++ a ++ imm)
  | .xori d a imm => .a (0x1B#7 ++ d ++ a ++ imm)
  | .shli d a imm => .a (0x1C#7 ++ d ++ a ++ imm)
  | .shri d a imm => .a (0x1D#7 ++ d ++ a ++ imm)
  | .sari d a imm => .a (0x1E#7 ++ d ++ a ++ imm)
  | .padd d a b => .a (0x20#7 ++ d ++ a ++ b ++ 0x0#4)
  | .paddi d a imm => .a (0x21#7 ++ d ++ a ++ imm)
  | .pset d a b => .a (0x22#7 ++ d ++ a ++ b ++ 0x0#4)
  | .pget d a => .a (0x23#7 ++ d ++ a ++ 0x0#11)
  | .pdiff d a b => .a (0x24#7 ++ d ++ a ++ b ++ 0x0#4)
  | .cmp k c a b t => .a (0x28#7 ++ k ++ 0x0#1 ++ c ++ a ++ b ++ t)
  | .cmpi k c a imm t => .a (0x29#7 ++ k ++ 0x0#1 ++ c ++ a ++ imm ++ 0x0#1 ++ t)
  | .kop k c a b => .a (0x2A#7 ++ k ++ 0x0#1 ++ c ++ 0x0#4 ++ a ++ 0x0#4 ++ b ++ 0x0#4)
  | .sel d a b p => .a (0x2B#7 ++ d ++ a ++ b ++ 0x0#1 ++ p)
  | .kmovToReg d a => .a (0x2C#7 ++ d ++ 0x0#4 ++ a ++ 0x0#11)
  | .kmovToPred d a => .a (0x2C#7 ++ 0x0#4 ++ d ++ a ++ 0x1#11)
  | .vadd d a b t => .a (0x30#7 ++ d ++ a ++ b ++ t)
  | .vsub d a b t => .a (0x31#7 ++ d ++ a ++ b ++ t)
  | .vmul d a b t => .a (0x32#7 ++ d ++ a ++ b ++ t)
  | .vfma d a b t => .a (0x33#7 ++ d ++ a ++ b ++ t)
  | .vmin d a b t => .a (0x34#7 ++ d ++ a ++ b ++ t)
  | .vmax d a b t => .a (0x35#7 ++ d ++ a ++ b ++ t)
  | .vabs d a t => .a (0x36#7 ++ d ++ a ++ 0x0#7 ++ t)
  | .vneg d a t => .a (0x37#7 ++ d ++ a ++ 0x0#7 ++ t)
  | .vand d a b => .a (0x38#7 ++ d ++ a ++ b ++ 0x0#4)
  | .vor d a b => .a (0x39#7 ++ d ++ a ++ b ++ 0x0#4)
  | .vxor d a b => .a (0x3A#7 ++ d ++ a ++ b ++ 0x0#4)
  | .vshl d a b t => .a (0x3B#7 ++ d ++ a ++ b ++ 0x0#1 ++ t)
  | .vshr d a b t => .a (0x3C#7 ++ d ++ a ++ b ++ 0x0#1 ++ t)
  | .vcmp k c a b t => .a (0x3D#7 ++ k ++ 0x0#1 ++ c ++ a ++ b ++ t)
  | .vsel d a p t => .a (0x3E#7 ++ d ++ a ++ 0x0#4 ++ p ++ t)
  | .vshuf d a b t => .a (0x3F#7 ++ d ++ a ++ b ++ t)
  | .vbcast d a t => .a (0x40#7 ++ d ++ a ++ 0x0#7 ++ t)
  | .vred d a b t => .a (0x41#7 ++ d ++ a ++ b ++ t)
  | .vdot d a b t => .a (0x42#7 ++ d ++ a ++ b ++ t)
  | .vscale d a b t => .a (0x43#7 ++ d ++ a ++ b ++ 0x1#1 ++ t)
  | .vadds d a b t => .a (0x44#7 ++ d ++ a ++ b ++ 0x0#1 ++ t)
  | .rcp d a => .a (0x50#7 ++ d ++ a ++ 0xA#11)
  | .rsq d a => .a (0x51#7 ++ d ++ a ++ 0xA#11)
  | .rcpnr d a b => .a (0x52#7 ++ d ++ a ++ b ++ 0xA#4)
  | .rsqnr d a b => .a (0x53#7 ++ d ++ a ++ b ++ 0xA#4)
  | .exp2 d a => .a (0x54#7 ++ d ++ a ++ 0xA#11)
  | .log2 d a => .a (0x55#7 ++ d ++ a ++ 0xA#11)
  | .cvt d a e f => .a (0x58#7 ++ d ++ a ++ e ++ f ++ 0x0#1)
  | .cvtsr d a e f => .a (0x59#7 ++ d ++ a ++ e ++ f ++ 0x0#1)
  | .pack d a e f => .a (0x5A#7 ++ d ++ a ++ e ++ f ++ 0x0#1)
  | .unpack d a e f => .a (0x5B#7 ++ d ++ a ++ e ++ f ++ 0x0#1)
  | .rng d a b => .a (0x5C#7 ++ d ++ a ++ b ++ 0x5#4)
  | .mma sh n a b q => .a (0x60#7 ++ sh ++ n ++ a ++ b ++ q)
  | .aclr d a => .a (0x61#7 ++ 0x0#4 ++ d ++ a ++ 0x0#11)
  | .arnd d a b t => .a (0x62#7 ++ d ++ 0x0#4 ++ a ++ b ++ 0x0#1 ++ t)
  | .amov d a => .a (0x63#7 ++ 0x0#4 ++ d ++ 0x0#4 ++ a ++ 0x0#11)
  | .amovSt d a => .a (0x63#7 ++ d ++ 0x0#4 ++ a ++ 0x1#11)
  | .amovRaw d a b => .a (0x63#7 ++ d ++ 0x0#4 ++ a ++ b ++ 0x2#4)
  | .aadd d a => .a (0x64#7 ++ 0x0#4 ++ d ++ 0x0#4 ++ a ++ 0x0#11)
  | .roundStart _ => .none
  | .waitLimit _ => .none
  | .pendingResultWrite _ _ => .none
  | .sleepWake _ => .none
  | .icacheFill _ _ => .none
  | .tlbMiss _ _ _ => .none
  | .regfileLower _ => .none
  | .regfileWake _ => .none
  | .trapEntry _ => .none
  | .quarantine _ _ _ _ => .none
  | .quarantineDone _ => .none
  | .preemptionRequest _ => .none
  | .preemptionComplete _ => .none
  | .resumption _ _ => .none
  | .chunkValidate _ => .none
  | .chunkCommit _ => .none
  | .chunkDiscard _ => .none
  | .heldChunkReserve _ => .none
  | .remoteNearArrival _ => .none
  | .globalAtomicExecute _ _ => .none
  | .fpEvent _ => .none
  | .latheCapture _ => .none
  | .latheWordIssue _ => .none
  | .latheWordResult _ => .none
  | .matrixOpStart _ => .none
  | .matrixOpComplete _ _ => .none
  | .remoteMatrixArrival _ => .none
  | .swaptMatch _ => .none
  | .dieBarrierArrival _ => .none
  | .barrierDeadline _ _ _ => .none
  | .graphUnitReceive _ => .none
  | .kernelReady _ => .none
  | .placementStart _ => .none
  | .placementEnd _ => .none
  | .taskDispatch _ => .none
  | .classPreempt _ => .none
  | .kernelComplete _ => .none
  | .classifyEnd _ _ _ => .none
  | .floorChange _ => .none
  | .gatedSlotTake _ => .none
  | .ordatomBatchClose _ _ => .none
  | .seqBind _ _ => .none
  | .seqUnbind _ _ => .none
  | .drawMaxReturn _ _ _ => .none
  | .drawRoot _ _ _ => .none
  | .maskDeadline _ _ _ _ => .none
  | .hostLaunch _ _ => .none
  | .hostStop _ _ => .none
  | .hostSuspend _ _ => .none
  | .hostResume _ _ => .none
  | .hostKill _ _ => .none
  | .setPriority _ _ => .none
  | .readJournal _ _ => .none
  | .contextCreate _ _ => .none
  | .contextChange _ _ => .none
  | .contextKill _ _ => .none
  | .contextDestroy _ _ => .none
  | .map _ _ _ => .none
  | .portConfig _ _ _ => .none
  | .peerWindow _ _ _ => .none
  | .portReset _ _ => .none
  | .powerCap _ _ => .none
  | .quenchLevel _ _ => .none
  | .readSensors _ _ => .none
  | .quote _ _ _ => .none
  | .firmwareLoad _ _ => .none
  | .quantumEnd _ => .none
  | .quadSwitch _ => .none
  | .patrolRead _ => .none
  | .recordPost _ => .none
  | .recordToHost _ => .none
  | .supervisorRestart _ _ => .none
  | .supervisorAbandon _ _ => .none
  | .supervisorSetcsr _ _ => .none
  | .supervisorUnknown _ _ => .none
  | .billetStart _ => .none
  | .engineUnit _ => .none
  | .billetDone _ => .none
  | .portTrainingDone _ _ => .none
  | .portLinkLoss _ => .none
  | .laneFail _ => .none
  | .peerInboundPacket _ _ _ _ _ => .none
  | .sendRingSend _ _ => .none
  | .peerAck _ _ _ => .none
  | .inboundSend _ _ _ => .none
  | .mirrorAck _ => .none
  | .mirrorBreak => .none
  | .twinDigest _ _ _ _ => .none
  | .twinHalt _ => .none
  | .moduleReset => .none
  | .firmwareVerify => .none
  | .linksTrained => .none
  | .scrubComplete _ => .none
  | .sensorAlarm _ _ => .none
  | .powerWindow _ => .none
  | .throttleEscalate => .none
  | .junctionTemperature _ _ => .none
  | .encodingNotInstruction _ => .none
  | .unknownCodeCommand _ _ => .none
  | .waittTimeout _ => .none
  | .streamUnitFetch _ _ => .none
  | .mirrorWriteReceive _ _ _ => .none

/-- The instruction that the decoder reads from the words `encode` gives. -/
def decodeWords : Words → Except DecodeError Instr
  | .c w => decodeC w 0
  | .long w lit => decodeC w lit
  | .a w => decodeA w
  | .none => .error .tooShort

/-- One word of the table of operations (bit 0 the least significant bit of the first word). The table
does not say which of a bundle's two words a row's bits are, and one pattern can be both: a word that
is an A-word is read as one, any other as a C-word whose literal or partner is zero. -/
def decodeTableWord (nbits w : Nat) : Option Instr :=
  if nbits ≤ 32 then
    match decodeA (BitVec.ofNat 32 w) with
    | .ok i => some i
    | .error _ =>
      match decodeC (BitVec.ofNat 32 w) 0 with
      | .ok i => some i
      | .error _ => none
  else
    match decodeC (BitVec.ofNat 32 w) (BitVec.ofNat 32 (w / 4294967296)) with
    | .ok i => some i
    | .error _ => none

/-- The bundle that holds one word of the table: the A-word beside NOP, or the C-word beside zero. -/
def tableBundle (nbits w : Nat) : BitVec 64 :=
  if nbits ≤ 32 then
    match decodeA (BitVec.ofNat 32 w) with
    | .ok _ => BitVec.ofNat 32 w ++ 0#32
    | .error _ => 0#32 ++ BitVec.ofNat 32 w
  else BitVec.ofNat 64 w

end Sys2Proof
end

