-- ==== Sys2Proof/Config.lean ====
section
/-!
DEFINITION. Config: what the spec leaves open, as constants without a body. A `free` constant is
applied to the counter that the step reads and advances, so that each use is a value of its own;
the others are functions that the spec names but does not define. Nothing in the model depends on
what they are.
-/

namespace Sys2Proof

/-- A free number: the part of a latency or of an order that the spec leaves open (R8, R61, R140). -/
opaque Config.freeNat : Nat → Nat

/-- A free choice between an old and a new value (R104, R206, R307). -/
opaque Config.freeBool : Nat → Bool

/-- A free byte: data delivered beyond a code's guarantee (R352). -/
opaque Config.freeByte : Nat → Byte

/-- The number of HBM pseudo-channels of a stack (R18, R331). -/
opaque Config.pseudoChannels : Nat

/-- What a measurement gives: the temperature of a stack, a supply voltage (R401). -/
opaque Config.sensor : Nat → Nat

/-- CHECK: the keyed digest of a capability's bits 47:0, under the launch's key (R211). -/
opaque Config.check : Nat → BitVec 48 → BitVec 16

/-- The 64-bit digest of a chunk's stores, chunk point and trap code (R379), of the list of
numbers that describes them. -/
opaque Config.digest : List Nat → BitVec 64

/-- What the trailer of a pair has where the leader has these numbers: a soft error may change them (R379, R380). -/
opaque Config.upset : Nat → List Nat → List Nat

/-- The ROM's check of the signature over a firmware image: version, digests, signature (R395). -/
opaque Config.verifies : Nat → List (BitVec 256) → Nat → Bool

/-- Number of spare lanes of a die boundary (R384). -/
opaque Config.spareLanes : Nat → Nat

/-- The number of a module state in the sensor words, by the order of R394's table (R401). -/
opaque Config.stateWord : Nat → Nat

/-- The bytes that stand for the items of a context in a quote's digest (R398). -/
opaque Config.itemBytes : List Nat → List Byte

/-- SHA-256 over the bytes that R397 and R398 name. -/
opaque Config.sha256 : List Byte → BitVec 256

/-- The signature bytes of a quote and of the boot certificate, and the public keys in them
(R397, R398), by the boot count and what is signed. -/
opaque Config.signature : Nat → List Byte → List Byte

/-- The identity public key and the attestation public key of a boot (R397). -/
opaque Config.publicKey : Nat → BitVec 256

end Sys2Proof
end

