-- ==== Sys2Proof/Machine/State.lean ====
section
/-!
DEFINITION. State of the machine: every piece of state that the spec names, as plain data, and the
state after reset. Tables are lists of keys and values with rising keys; memory is a list of cells.
Names of slots, cores, quads and dies are numbers: a slot's number is its slot address (R88), a
core's is that number divided by 64, a quad's divided by 256, a die's divided by 65,536. A firmware
thread of a quad's translation service core has the number 2^18 + 64 × quad, and one of a die control processor
2^19 + 64 × die.
-/

namespace Sys2Proof.Machine

/-- A table: keys in rising order, each with its value; a key that is not listed is absent. -/
abbrev Tab (α : Type) := List (Nat × α)

/-! ## Faults and refusals of the model -/

/-- The reasons a step can stop with a fault. -/
inductive Fault where
  /-- Raised by a word that a step is asked to issue while no thread holds the slot whose turn it
  is. The rotation gives no turn to such a slot (R64, R68), so no scheduled step raises it. Safe:
  the machine has no behaviour there. -/
  | noThread
  deriving DecidableEq, Repr

/-- The reasons for which the model refuses an instruction. -/
inductive Refusal where
  /-- Raised only by the arms of exec whose instruction has no meaning yet. Safe: the model stops. -/
  | notModelled (mnemonic : String)
  deriving DecidableEq, Repr

/-! ## The thread -/

/-- Privilege, lowest first (R65). -/
inductive Priv where
  | user
  | handler
  | firmware
  deriving DecidableEq, Repr

/-- Trap codes (R369). -/
inductive Code where
  | illegal | bundle | hazard | regrange | droppedWrite | recipeDepth | align | nearRange | page
  | perm | tag | fpEnabled | div0 | waitLimit | channel | determinism | capability | priv | anvil
  | guess | seq | soft | stream | lathe | poison | mismatch | imageLost
  deriving DecidableEq, Repr

/-- A trap: its code and TRAPINFO (R77, R369). -/
structure Trap where
  code : Code
  info : BitVec 64
  deriving DecidableEq, Repr

/-- The tag of a register (R102). -/
inductive RTag where
  | none
  | void
  | recipe (n : Nat)
  deriving DecidableEq, Repr

/-- A unit in a read stream's FIFO: 16 bytes, or the fault that its fetch found (R124), or the
poison class that its fetch read (R357). -/
inductive Unit16 where
  | data (w : Word)
  | fault (t : Trap)
  | poisoned (cls : Nat) (at_ : BitVec 64)
  deriving DecidableEq, Repr

/-- A stream entry bound by a thread (R120 to R123). The direction and realm are CTRL's bits. -/
structure Strm where
  reg : Nat
  write : Bool
  global : Bool
  ptr : BitVec 64
  counts : List Nat
  strides : List Int
  pos : Nat := 0
  fifo : List Unit16 := []
  deriving DecidableEq, Repr

/-- States of a lathe (R186). -/
inductive LatheSt where
  | idle
  | capturing
  | running
  deriving DecidableEq, Repr

/-- An issued lathe word whose result is on its way: register writes and flags (R190). -/
structure LatheRes where
  writes : List (Nat × Word) := []
  flags : BitVec 5 := 0
  due : Nat := 0
  deriving DecidableEq, Repr

/-- A thread's lathe (R186 to R194). -/
structure Lathe where
  st : LatheSt := .idle
  n : Nat := 0
  count : Nat := 0
  stag : Nat := 0
  base : Nat := 0
  words : List (BitVec 32) := []
  preds : List (BitVec 16) := []
  round : BitVec 4 := 0
  next : Nat := 0
  units : List (Nat × Word) := []
  last : List (Nat × Nat) := []
  set : List Nat := []
  flight : List LatheRes := []
  deriving DecidableEq, Repr

/-- The class of an anvil element (R200). -/
inductive ACls where
  | fin
  | pinf
  | ninf
  | nan
  deriving DecidableEq, Repr

/-- One element of an anvil (R200). -/
structure AEl where
  v : BitVec 192 := 0
  cls : ACls := .fin
  deriving DecidableEq, Repr

/-- An anvil: elements by position (absent: zero of class FIN), bias and sticky flags (R200). -/
structure Anvil where
  el : Tab AEl := []
  bias : Int := 0
  ixw : Bool := false
  spc : Bool := false
  deriving DecidableEq, Repr

/-- Kinds of comparison that end an iteration (R281). -/
inductive Cmp where
  | quit
  | eq
  | seq (key : Nat)
  | tol (t : BitVec 32)
  deriving DecidableEq, Repr

/-- The part of a thread that a discarded chunk restores: R106's registers, predicates, tags, T,
FXFLAGS, ROUND and stream positions, with the PC and privilege at which the chunk runs again, the
lathe (R186), the anvils (R202), and what an iteration has recorded (R281, R301). -/
structure Arch where
  pc : BitVec 64 := 0
  priv : Priv := .user
  regs : Vector Word 112 := Vector.replicate 112 0
  tags : Tab RTag := []
  t : Nat := 8
  preds : Vector (BitVec 16) 8 := Vector.replicate 8 0
  fxflags : BitVec 5 := 0
  round : BitVec 4 := 0
  streams : List Strm := []
  lathe : Lathe := {}
  anvils : List Anvil := []
  carry : Option (List Word × Cmp) := none
  seqRefs : List (Nat × Nat × Nat) := []
  seqApps : List (Nat × Nat × Nat) := []
  deriving DecidableEq, Repr

/-- A buffered update of a chunk: a store of bytes or a RED of a word (R146, R158). -/
inductive BufOp where
  | st (loc : Nat) (bytes : List Byte)
  | red (loc : Nat) (op : Nat) (v : Dword)
  deriving DecidableEq, Repr

/-- A buffered TSPAWN (R264). -/
structure Spawn where
  entry : Nat
  ts : Nat
  arg : Word
  deriving DecidableEq, Repr

/-- A buffered GLOOP (R277, R278); `regions` are (BASE, RECLEN, RMAX) of R284. -/
structure GloopReq where
  d : Nat
  b : Nat
  nc : Nat
  wid : Nat
  goff : Nat
  body : Nat
  n : Nat
  regions : List (Nat × Nat × Nat)
  deriving DecidableEq, Repr

/-- A buffered NEST (R251). -/
structure NestReq where
  n : Nat
  e0 : Nat
  e1 : Nat
  e2 : Nat
  p : Nat
  deriving DecidableEq, Repr

/-- What a barrier bundle does at its chunk's commit (R218, R222). -/
inductive BarKind where
  | arrive (d : Nat)
  | sync
  | waitd (d : Nat) (dl : Nat)
  | init (v : Nat)
  deriving DecidableEq, Repr

/-- States of a chunk that persist (R144). -/
inductive ChunkSt where
  | opened
  | buffering
  | validating
  deriving DecidableEq, Repr

/-- The thread's current chunk (R141 to R148); `anvs` are the anvils that it has written (R202), and `firm` says that it is
one chunk point, so that no conflict discards it (R142). `plain` says that it ends without a global access, `atPoint` that
it ends before a chunk point, `equal` that the digests which cover the chunk point it stands before were equal (R379). -/
structure Chunk where
  st : ChunkSt := .opened
  began : Nat := 0
  ts : Nat := 0
  bundles : Nat := 0
  nst : Nat := 0
  buf : List BufOp := []
  reads : List Nat := []
  writes : List Nat := []
  reds : List Nat := []
  pages : List Nat := []
  spawns : List Spawn := []
  tstamp : Option Nat := none
  nests : List NestReq := []
  bar : Option (Nat × BarKind) := none
  gloop : Option GloopReq := none
  l2p : List (Nat × Nat) := []
  landed : List Nat := []
  sent : Bool := false
  stale : Bool := false
  blocked : Bool := false
  tries : Nat := 0
  held : List Nat := []
  resvd : Bool := false
  index : Nat := 0
  unequal : Nat := 0
  anvs : List Nat := []
  firm : Bool := false
  plain : Bool := false
  atPoint : Bool := false
  equal : Bool := false
  deriving DecidableEq, Repr

/-- What follows the commit of a chunk that is ending (R77, R83, R84, R141, R185). -/
inductive After where
  | nothing
  | trap (t : Trap) (pc : BitVec 64)
  | exit
  | yield
  | fence (k : Nat)
  | fpHold
  deriving DecidableEq, Repr

/-- What a sleeping slot waits for (R64, R74). -/
inductive Wait where
  | word (loc : Nat)
  | latch
  | latchUntil (deadline : Nat)
  | barrier (home bar phase : Nat)
  | window (upto : Nat)
  | latheIdle
  | counter (loc : Nat) (target : Nat)
  | fence (k : Nat)
  | translation (va : BitVec 64) (kind : Nat)
  | loopEnd
  | fpHold
  | lead
  | version (seq pos : Nat) (append : Bool)
  | binding (addr : Nat)
  | line (line owner j : Nat)
  | reply
  deriving DecidableEq, Repr

/-- How a long instruction's result comes about. A `value` is known and only on its way; a `load`
reads global memory when it is served, the bytes of the chunk's own stores given (R149); `await`
is filled in by the agent that serves it, or issued again on resumption (R95). A `plane` is a PLANE or
UNPLANE of K rows and N columns with its pointers, scale array, rounding and the source words as they
stood at issue (R198); a `swapt` offers a region (R210); a `penal` is a PENAL over a slice with the
history it read (R308), a `draw` a DRAW that waits for the step of a version (R304). -/
inductive PendOp where
  | value (vs : List Word) (pred : Option (BitVec 16)) (flags : BitVec 5)
  | load (loc : Nat) (size : BitVec 3) (own : List (Option Byte)) (va : BitVec 64) (tracked : Bool)
  | atom (loc : Nat) (op : Nat) (x cmp : Dword) (va : BitVec 64)
  | plane (un : Bool) (k n : Nat) (dst src : BitVec 64) (scale : Nat) (round : BitVec 4)
      (old : List (Nat × Dword))
  | swapt (ea len : Nat)
  | penal (ea first count : Nat) (pfreq ppres : BitVec 32) (hist : List Nat)
  | draw (key pos gen : Nat)
  | bad (cls : Nat) (info : BitVec 64)
  | await
  deriving DecidableEq, Repr

/-- A long instruction outstanding in a slot (R71): the registers and the predicate it will write,
whether its chunk has committed (R147), and its operation. -/
structure Pend where
  id : Nat
  dests : List Nat
  pred : Option Nat := none
  op : PendOp := .await
  committed : Bool := false
  deriving DecidableEq, Repr

/-- A claim of NEXT: u, c and the counter's extents (R252, R253). -/
structure Claim where
  n : Nat
  u : Nat
  c : Nat
  e0 : Nat
  e1 : Nat
  e2 : Nat
  deriving DecidableEq, Repr

/-- States of an occupied slot (R64). -/
inductive SlotSt where
  | ready
  | trapped
  | parked
  | sleeping
  | quarantined
  | shadow
  deriving DecidableEq, Repr

/-- Why a slot that stops is saved: a pre-emption request (R93), a YIELD with a waiting task (R84), or a chunk that gives
up its slot (R270). -/
inductive Leave where
  | preempted
  | yields
  | gated
  deriving DecidableEq, Repr

/-- A thread: the image of R94 and what the slot keeps for it; `joining` says that it has no position in the running
round, and `notBefore` when its next turn may come (R68). `outer` is the state, wait and wait counter to which a slot returns
once a window that was reclaimed before its image was saved has regrown (R112). A slot with no thread is FREE. -/
structure Thread where
  task : Nat := 0
  kernel : Nat := 0
  st : SlotSt := .ready
  back : SlotSt := .ready
  arch : Arch := {}
  start : Arch := {}
  limit : Nat := 8
  cur : Nat := 8
  heldRegs : Nat := 0
  reclaimed : Bool := false
  fxmask : BitVec 5 := 0
  waitlim : BitVec 32 := 0
  l2pidx : Nat := 0
  trapvec : BitVec 64 := 0
  trappc : BitVec 64 := 0
  trapcode : BitVec 64 := 0
  trapinfo : BitVec 64 := 0
  turns : Nat := 0
  latch : Bool := false
  kept : Bool := false
  pend : List Pend := []
  mark : Bool := false
  chunk : Chunk := {}
  after : After := .nothing
  wait : Option Wait := none
  waitCount : Nat := 0
  grant : Option Word := none
  fault : Option Trap := none
  skip : Nat := 0
  claims : List Claim := []
  used : Nat := 0
  raised : BitVec 5 := 0
  late : Bool := false
  jobs : List Nat := []
  mirrorTo : Nat := 0
  home : Nat := 0
  partner : Option Nat := none
  lvq : List Word := []
  digest : List (BitVec 64) := []
  misses : Nat := 0
  stop : Bool := false
  waited : Nat := 0
  joining : Bool := false
  notBefore : Nat := 0
  leave : Leave := .preempted
  outer : Option (SlotSt × Option Wait × Nat) := none
  owed : List (Nat × Word) := []
  deriving DecidableEq, Repr

/-! ## Core and quad -/

/-- A hearth register: its value, and the values that later writes replaced, each with the cycle of
the write that replaced it (R104). -/
structure Hearth where
  v : Word := 0
  old : List (Nat × Word) := []
  deriving DecidableEq, Repr

/-- Operations of the matrix queue (R195, R205, R207, R213). Operands are those read at issue. An MMA
keeps the addresses of A and B, the block length and scale array of A, and the words of its operands as
they stood at issue (R206). -/
inductive MxKind where
  | mma (m n k : Nat) (anv : Nat) (a b : Nat) (fmt : Nat) (scale : Nat × Nat) (p : Nat)
      (old : List (Nat × Dword))
  | aclr (anv : Nat) (bias : Int)
  | arnd (d : Nat) (anv : Nat) (mode : Nat) (ctl : Word)
  | copy (d a : Nat)
  | status (d a : Nat)
  | raw (d a : Nat) (ctl : Word)
  | aadd (d a : Nat)
  | sendAdd (a : Nat) (req : Nat)
  | addIn (d : Nat) (src : Anvil)
  deriving DecidableEq, Repr

/-- An operation in a core's matrix queue: the thread whose anvils it names, the pending record
it answers, whether its chunk has committed, whether it came from another core, whether it
has left the queue, and whether it copies an anvil to its shadow (R202). -/
structure MxOp where
  id : Nat
  task : Nat
  kind : MxKind
  pend : Nat := 0
  committed : Bool := false
  remote : Option Nat := none
  started : Bool := false
  copies : Bool := false
  deriving DecidableEq, Repr

/-- A core (R68, R76, R104, R107, R342, R195, R293). -/
structure Core where
  roundAt : Nat := 0
  rounds : Nat := 0
  live : Bool := false
  lowered : Nat := 0
  depth : Nat := 0
  hearth : Tab Hearth := []
  sleepcfg : Nat := 0
  idleFrom : Option Nat := none
  recipes : List Nat := []
  tlb : Tab (BitVec 128) := []
  mq : List MxOp := []
  lines : List Nat := []
  sids : List Nat := []
  latheLast : Nat := 0
  latheAt : Nat := 0
  deriving DecidableEq, Repr

/-- What waits in a word's queue (R155): a slot asleep, or a request of another quad. `extra` marks one
that found none of the 256 entries free. -/
structure Waiter where
  loc : Nat
  kind : Nat
  slot : Nat
  req : Option Nat
  value : Dword
  chan : Option Nat
  extra : Bool := false
  deriving DecidableEq, Repr

/-- A channel entry (R223, R224), held under its ring's location. -/
structure Chan where
  n : Nat
  writer : Option Nat
  reader : Option Nat
  wp : Nat := 0
  rp : Nat := 0
  wclose : Bool := false
  rclose : Bool := false
  kernel : Nat
  deriving DecidableEq, Repr

/-- An entry of the pending table of a translation service core (R344, R348). -/
structure PMiss where
  va : BitVec 64
  tid : Nat
  cores : List Nat
  acc : List Nat
  deriving DecidableEq, Repr

/-- What race-watch records of a word in the epoch: the writer, and the readers (R228). -/
structure Race where
  epoch : Nat
  writer : Option Nat
  readers : List Nat
  deriving DecidableEq, Repr

/-- A quad (R154, R155, R223, R344, R228, R139). `full` holds the offsets of full words, `banks` for each bank of the
scratchpad the cycle after the one in which it last served a core, and which. -/
structure Quad where
  full : List Nat := []
  waiters : List Waiter := []
  chans : Tab Chan := []
  misses : Tab PMiss := []
  race : Tab Race := []
  epoch : Nat := 0
  ctx : Nat := 0
  banks : Tab (Nat × Nat) := []
  deriving DecidableEq, Repr

/-! ## Kernel, group, task -/

/-- How a thread waits at a barrier (R222): BAR.WAIT, BAR.SYNC, or BAR.WAITD with its destination. -/
inductive BarWait where
  | wait
  | sync
  | waitd (d : Nat)
  deriving DecidableEq, Repr

/-- A thread waiting at a barrier, by task. -/
structure BarWaiter where
  task : Nat
  how : BarWait
  deriving DecidableEq, Repr

/-- A barrier (R217). P = 0 is UNSET; `phases` counts completions (R272). -/
structure Bar where
  p : Nat := 0
  c : Nat := 0
  phase : Nat := 0
  late : Nat := 0
  dl : Option Nat := none
  phases : Nat := 0
  waiters : List BarWaiter := []
  deriving DecidableEq, Repr

/-- A nest counter (R251). -/
structure Nest where
  opened : Bool := false
  e0 : Nat := 0
  e1 : Nat := 0
  e2 : Nat := 0
  p : Nat := 1
  remaining : Nat := 0
  next : Nat := 0
  deriving DecidableEq, Repr

/-- States of a group that persist once it is placed (R249). -/
inductive GroupSt where
  | placed
  | suspended
  | ended
  | killed
  deriving DecidableEq, Repr

/-- A placed group (R245, R249). -/
structure Group where
  quad : Nat
  base : Nat
  st : GroupSt := .placed
  cores : List Nat
  bars : Tab Bar := []
  nests : Tab Nest := []
  deriving DecidableEq, Repr

/-- The launch record (R229). -/
structure LRec where
  text : Nat := 0
  textlen : Nat := 8
  entry : Nat := 0
  handler : Option Nat := none
  groups : Nat := 1
  threads : Nat := 1
  regs : Nat := 112
  anvils : Nat := 0
  tcm : Nat := 0
  scratch : Nat := 0
  qbar : Nat := 0
  dbar : Nat := 0
  ordch : Nat := 0
  recipes : Nat := 0
  determ : Bool := false
  redundant : Bool := false
  twin : Bool := false
  prio : Nat := 0
  gang : Bool := false
  racewatch : Bool := false
  place : Bool := false
  caph : Nat := 0
  widths : List Nat := [64]
  super : Option Nat := none
  hmask : List Nat := []
  tsbase : Nat := 0
  ordptr : Nat := 0
  counter : Nat := 0
  reads : List (Nat × Nat) := []
  writes : List (Nat × Nat) := []
  deriving DecidableEq, Repr

/-- States of a kernel (R235). -/
inductive KSt where
  | waiting
  | ready
  | placing
  | running
  | suspended
  | halted
  | done
  | killed
  deriving DecidableEq, Repr

/-- A supervisor record (R372); the words are those of the ring entry, and `answered` says that word 7 holds the
result of a command (R374). -/
structure SRec where
  code : Code
  first : Nat := 0
  nested : Bool := false
  outside : Bool := false
  cls : Nat := 0
  kind : Nat := 0
  ocn : Nat := 0
  late : Bool := false
  raised : BitVec 5 := 0
  slot : Nat := 0
  pc : BitVec 64 := 0
  info : BitVec 64 := 0
  w : Nat := 0
  ts : Nat := 0
  w5 : BitVec 64 := 0
  task : Nat := 0
  answered : Bool := false
  deriving DecidableEq, Repr

/-- A chunk in an epoch record (R269): its task, order key and words. -/
structure Epoch where
  task : Nat
  w : Nat
  cn : Nat
  ts : Nat
  reads : List Nat
  writes : List Nat
  reds : List Nat
  deriving DecidableEq, Repr

/-- A request of an ordered channel (R272). -/
structure OrdReq where
  task : Nat
  pend : Nat
  w : Nat
  ts : Nat
  cn : Nat
  interval : Nat
  addend : Dword
  deriving DecidableEq, Repr

/-- Classes of intensity (R250). -/
inductive Intensity where
  | neutral
  | compute
  | memory
  deriving DecidableEq, Repr

/-- A kernel (R229 to R237, R107, R211, R246, R250, R267 to R272, R371); `matrix` and `moved` are the matrix-busy cycles and
the global bytes of the measure of its intensity. -/
structure Kernel where
  lrec : LRec := {}
  text : List (BitVec 64) := []
  recipes : List (List (BitVec 32)) := []
  himage : List Word := []
  ptable : List (BitVec 32) := []
  cap : BitVec 64 := 0
  st : KSt := .waiting
  ctx : Nat := 0
  queue : Nat := 0
  cls : Nat := 0
  root : Nat := 0
  host : Bool := false
  die : Nat := 0
  preds : List Nat := []
  readyAt : Nat := 0
  groups : Tab Group := []
  left : Nat := 0
  dbars : Tab Bar := []
  l2p : List Nat := []
  intens : Intensity := .neutral
  measuring : Bool := false
  matrix : Nat := 0
  moved : Nat := 0
  floor : Nat := 0
  epoch : List Epoch := []
  ord : Tab (List OrdReq) := []
  ordDone : Tab Nat := []
  recs : List SRec := []
  ringAt : Nat := 0
  posted : Tab SRec := []
  busy : Bool := false
  tried : Bool := false
  suspending : Bool := false
  deriving DecidableEq, Repr

/-- Kinds of task (R263, R275). -/
inductive TKind where
  | plain
  | iteration (owner j : Nat)
  | guess (owner i : Nat)
  deriving DecidableEq, Repr

/-- States of a task (R263). -/
inductive TSt where
  | waiting
  | running
  | saved
  | contained
  | done
  deriving DecidableEq, Repr

/-- A task (R260 to R263). `copy` is the window that an iteration or guess starts from (R275). With
the image of a saved task stand its TCM allocation and the marks of its lines (R338), the matrix operations that pre-emption
cancelled (R93), those of other cores held for it and requests that arrived since (R203), and a containment decided while it was
saved (R376). `frame` is the address of the slot frame, `savedAt` its place in the commit order (R338). -/
structure Task where
  kernel : Nat
  w : Nat
  g : Nat
  t : Nat
  ts : Nat
  cn : Nat := 0
  keyTs : Nat := 0
  entry : Nat := 0
  arg : Option Word := none
  kind : TKind := .plain
  st : TSt := .waiting
  slot : Option Nat := none
  image : Option Thread := none
  spawned : Nat := 0
  b0 : Nat := 0
  since : Nat := 0
  held : List Spawn := []
  copy : Option Arch := none
  tcm : List Host.Cell := []
  tcmPoison : Tab Nat := []
  cancelled : List MxOp := []
  heldMx : List MxOp := []
  heldReqs : List Nat := []
  doom : Option SRec := none
  chunks : Nat := 0
  frame : Nat := 0
  savedAt : Nat := 0
  deriving DecidableEq, Repr

/-! ## Loops and sequences -/

/-- States of a carry loop (R283). -/
inductive LoopSt where
  | running
  | stalled
  | done
  | failed
  deriving DecidableEq, Repr

/-- A carry loop, held under its owner's task number (R277 to R288). `again` holds the bytes, as they landed, of the
landed lines that were written again (R285). -/
structure Loop where
  req : GloopReq
  tau : Nat
  kernel : Nat
  st : LoopSt := .running
  lead : Nat := 0
  wave : Nat := 0
  waveOpen : Bool := true
  gputs : Nat := 0
  guess : Option Nat := none
  iters : Tab (Nat × List Word) := []
  c : Nat := 0
  landed : List Nat := []
  again : Tab (List Byte) := []
  final : List Word := []
  floor : Nat := 0
  epoch : List Epoch := []
  copy : Arch := {}
  deriving DecidableEq, Repr

/-- A slice contribution (R302): COUNT, the location of its logits with their values at issue, the
weights once M is known, and the SLICEMASS that made it. -/
structure Slice where
  first : Nat
  count : Nat
  loc : Nat
  logits : List (BitVec 32)
  weights : List Nat := []
  task : Nat
  pend : Nat
  deriving DecidableEq, Repr

/-- A step of the draw tree (R302 to R305): the number of its attempt, another for each that a contribution opens; the
contributions of its attempt by FIRST; those that later ones replaced or that a rejection dropped, which wait for M too; the
maximum M once it is returned (`none` inside: no logit is allowed); the result as kind and token; and the DRAWs that wait
for it. -/
structure DrawStep where
  gen : Nat
  attempt : Nat := 0
  slices : Tab Slice := []
  dropped : List Slice := []
  m : Option (Option (BitVec 32)) := none
  result : Option (Nat × Nat) := none
  draws : List (Nat × Nat) := []
  deriving DecidableEq, Repr

/-- A bound sequence (R291 to R305); its versions and ring stand in memory. `loc` is the record's
location, `vers` gives for each version its generation and the task whose TOKAPP made it, `again` what it gives for a loop. -/
structure Seq where
  cid : Nat
  addr : Nat
  loc : Nat
  st : Nat
  flim : Nat
  maskreq : Bool
  greedy : Bool
  vocab : Nat
  seed : BitVec 64
  cinv : BitVec 32
  pfreq : BitVec 32
  ppres : BitVec 32
  hist : Nat
  nslices : Nat
  dlcy : Nat
  digit0 : Nat
  minus : Nat
  faulttok : Nat
  ringlen : Nat
  ring : Nat
  vbase : Nat
  cp : Nat
  tip : Nat
  keep : Nat
  optab : List (BitVec 32)
  kvreg : List (Nat × Nat × Nat)
  lastGen : Nat
  vers : Tab (Nat × Nat) := []
  masks : Tab Nat := []
  steps : Tab DrawStep := []
  landed : List Nat := []
  again : Tab (List Byte) := []
  root : Nat := 0
  queue : Nat := 0
  stopSeq : Nat := 0
  reason : Nat := 0
  deriving DecidableEq, Repr

/-! ## Requests on their way -/

/-- What a remote near request does on arrival (R140, R92, R225); an EV.SIGNAL travels so too (R90). -/
inductive NearOp where
  | load (size : BitVec 3)
  | store (bytes : List Byte)
  | ldtr (size : BitVec 2)
  | fe (kind : Nat) (v : Dword)
  | atom (op : Nat) (x cmp : Dword)
  | chan (kind : Nat) (v : Word)
  | msend (v : Word) (target : Option Nat)
  | signal (target : Nat)
  deriving DecidableEq, Repr

/-- A remote near access under way: the thread, its kernel, the target location, its place in the
thread's program order to that quad (the cycle of its arrival), the pending record it answers, and
the cycle by which its result is written. -/
structure NearReq where
  task : Nat
  slot : Nat
  kernel : Nat
  loc : Nat
  va : BitVec 64
  op : NearOp
  pend : Option Nat
  order : Nat
  upto : Nat
  waiting : Bool := false
  again : Bool := false
  deriving DecidableEq, Repr

/-- A matrix command or send-add on its way to another core, or `held` with a saved image (R203, R212, R213). -/
structure MxReq where
  task : Nat
  pend : Nat
  target : Nat
  kernel : Nat
  word : BitVec 32
  afmt : Nat
  bfmt : Nat
  aaddr : BitVec 32
  baddr : BitVec 32
  add : Option (Nat × Anvil)
  held : Bool := false
  deriving DecidableEq, Repr

/-- An arrival or INIT on its way to a die barrier (R218). -/
structure BarSend where
  kernel : Nat
  die : Nat
  bar : Nat
  task : Nat
  slot : Nat
  kind : BarKind
  deriving DecidableEq, Repr

/-- A request on its way to a die's graph unit (R238, R365, R367): 0 a launch record, 1 a billet, 2
JOB.RESUME, 3 JOBQ. `bytes` is what was read at the address, if it could be read; `due` is the cycle of
its arrival. -/
structure SubReq where
  kind : Nat
  die : Nat
  addr : Nat
  bytes : Option (List Byte)
  ctx : Nat
  queue : Nat
  cls : Nat
  root : Nat
  task : Nat
  pend : Nat
  determ : Bool
  kernel : Nat
  due : Nat
  deriving DecidableEq, Repr

/-- States of a billet (R364). -/
inductive BSt where
  | waiting
  | ready
  | running
  | faulted
  | done
  | dropped
  deriving DecidableEq, Repr

/-- A billet (R358, R364). -/
structure Billet where
  addr : Nat
  die : Nat
  ctx : Nat
  queue : Nat
  root : Nat
  kernel : Nat
  op : Nat
  snear : Bool
  dnear : Bool
  len : Nat
  rows : Nat
  sstride : Int
  dstride : Int
  src : BitVec 64
  dst : BitVec 64
  aux : BitVec 64
  counter : Nat
  reads : List (Nat × Nat)
  writes : List (Nat × Nat)
  st : BSt := .waiting
  preds : List Nat := []
  unit : Nat := 0
  code : Nat := 0
  readyAt : Nat := 0
  order : Nat := 0
  deriving DecidableEq, Repr

/-! ## Context, queue, die, module -/

/-- States of a context that persist (R334). -/
inductive CSt where
  | resident
  | out
  | killing
  | dead
  deriving DecidableEq, Repr

/-- A quad frame in the save area (R336, R338): the tags of scratchpad regions and the rest of the quad's state, with the
frame's address and its place in the commit order. The bytes of the regions, which billets go on to use (R364), stand in
memory, at locations of their own. -/
structure QFrame where
  quad : Nat
  frame : Nat
  savedAt : Nat
  full : List Nat
  race : Tab Race
  epoch : Nat
  chans : Tab Chan
  hearth : List (Nat × Tab Hearth)
  tlb : List (Nat × Tab (BitVec 128))
  sleepcfg : List (Nat × Nat)
  recipes : List (Nat × List Nat)
  deriving DecidableEq, Repr

/-- A send ring in use (R386): the index up to which its entries are read, the queue and LAUNCH from which
the doorbell descends, and the counters of entries that the peer has not acknowledged, by index. -/
structure RingSt where
  sent : Nat := 0
  queue : Nat := 0
  root : Nat := 0
  out : Tab Nat := []
  deriving DecidableEq, Repr

/-- A context (R331); `turnAt` counts how often it was served, for each die and class (R248). -/
structure Ctx where
  cfg : CtxCfg
  st : CSt := .resident
  l2p : List Nat := []
  pages : Tab PageCfg := []
  trace : Nat := 0
  peer : PeerCfg := ⟨[], [], []⟩
  rings : Tab RingSt := []
  recvCount : Nat := 0
  turnAt : Tab Nat := []
  frames : List QFrame := []
  halted : Bool := false
  switching : Bool := false
  deriving DecidableEq, Repr

/-- States of a queue in use (R323). -/
inductive QSt where
  | opened
  | held
  | closing
  deriving DecidableEq, Repr

/-- A queue (R322, R323). -/
structure Queue where
  st : QSt := .opened
  cid : Nat
  cls : Nat
  nextseq : Nat := 1
  since : Nat := 1
  deriving DecidableEq, Repr

/-- A journal entry (R328); `command` tells a command's from an egress's (R325). -/
structure JEntry where
  body : BitVec 256
  result : BitVec 64
  seq : Nat
  jsn : Nat
  queue : Nat
  code : Nat
  status : Nat
  command : Bool := false
  deriving DecidableEq, Repr

/-- A message that leaves the module: a reply (R326) with the data that follows it, an egress (R329), a WRITE
or SEND to a peer (R386), the answer to a peer's packet (R385, R387), the acknowledgement of a mirror write
(R388), or a chunk's digest to the twin (R390). -/
inductive OutMsg where
  | peer (jsn peer kind roff : Nat) (data : List Byte)
  | peerData (peer : Nat) (data : List Byte)
  | peerAnswer (peer : Nat) (ok : Bool)
  | mirrorAck (addr n : Nat)
  | digest (kernel key index : Nat) (digest : BitVec 64)
  | reply (queue : Nat) (code status : Nat) (seq nextseq jsn : Nat) (result : BitVec 64)
      (follow : List (BitVec 512))
  | egress (cid queue : Nat) (e : JEntry) (payload : List (BitVec 32))
  deriving DecidableEq, Repr

/-- States of a port (R392). -/
inductive PortSt where
  | down
  | training
  | up
  | failed
  deriving DecidableEq, Repr

/-- A port (R381, R392). -/
structure Port where
  st : PortSt := .down
  use : PortUse := .general
  fails : Nat := 0
  downAt : Nat := 0
  deriving DecidableEq, Repr

/-- A die (R235, R358, R356, R401). -/
structure Die where
  harvest : BitVec 576 := 0
  count : Nat := 0
  engines : Nat := 0
  corrected : Nat := 0
  power : Nat := 0
  temp : Nat := 0
  deriving DecidableEq, Repr

/-- States of the module (R394). -/
inductive MSt where
  | reset
  | verify
  | training
  | scrub
  | ready
  | recovery
  deriving DecidableEq, Repr

/-- What the power throttling does now (R400). -/
inductive Throttle where
  | off
  | shared
  | all
  deriving DecidableEq, Repr

/-- The module (R394 to R401, R388 to R391). `image` is the firmware image as FIRMWARE-LOAD wrote it, `running` the one
that the last bring-up verified (R395, R396). -/
structure Module where
  st : MSt := .reset
  image : FirmwareImage := ⟨0, [], 0⟩
  running : FirmwareImage := ⟨0, [], 0⟩
  rollback : Nat := 0
  boots : Nat := 0
  attest : Bool := false
  qlevel : Nat := 2
  alarms : Nat := 0
  source : BitVec 4 := 0
  cap : Nat := 1700
  hot : Bool := false
  throttle : Throttle := .off
  throttleFrom : Nat := 0
  throttledUs : Nat := 0
  mgmtSeq : Nat := 1
  zero : Nat := 0
  lanes : Tab Nat := []
  mirror : Bool := false
  mirrorSent : Nat := 0
  mirrorAcked : Nat := 0
  mirrorHeld : Nat := 0
  mirrorBroken : Bool := false
  twinSeen : List (Nat × Nat × Nat × BitVec 64) := []
  twinOwn : List (Nat × Nat × Nat × BitVec 64) := []
  outHeld : List (Nat × OutMsg) := []
  deriving DecidableEq, Repr

/-- Every object of the module but memory, the commit order and the journal. -/
structure Objs where
  slots : Tab Thread := []
  cores : Tab Core := []
  quads : Tab Quad := []
  dies : Vector Die 4 := Vector.replicate 4 {}
  kernels : Tab Kernel := []
  tasks : Tab Task := []
  loops : Tab Loop := []
  seqs : Tab Seq := []
  billets : Tab Billet := []
  near : Tab NearReq := []
  mxReqs : Tab MxReq := []
  barSends : Tab BarSend := []
  subs : Tab SubReq := []
  ctxs : Tab Ctx := []
  queues : Tab Queue := []
  ports : Vector Port 16 := Vector.replicate 16 {}
  outbox : List OutMsg := []
  poison : Tab Nat := []
  flips : List Nat := []
  resv : Tab Nat := []
  mod : Module := {}
  deriving DecidableEq, Repr

/-- What a step can do next: give a slot its turn, take an event, let the shipped firmware
answer a pending miss (R344, R345), let a GPUT offer the start carry of iteration i (R279, R283), or contain the task in a
slot once a commit of the cycle has been taken (R370). -/
inductive Act where
  | turn (slot : Nat)
  | ev (i : Instr)
  | walk (quad pidx : Nat)
  | offer (owner i : Nat) (vs : List Word)
  | contain (slot task : Nat) (r : SRec)
  deriving DecidableEq, Repr

/-- The machine. `now` is the cycle, `agenda` what is scheduled with its cycle, `fresh` the counter
that numbers objects and feeds the free values, `cur` the slot whose bundle issues; `commits` and
`lastWrite` give the commit order: how many chunks have committed, and which of them last wrote or
reduced each 8-byte word (R145, R146). -/
structure State where
  now : Nat := 0
  fresh : Nat := 1
  cur : Nat := 0
  agenda : List (Nat × Act) := []
  mem : List Host.Cell := []
  commits : Nat := 0
  lastWrite : Tab Nat := []
  journal : List JEntry := []
  jsn : Nat := 1
  o : Objs := {}
  deriving DecidableEq, Repr

/-- What an unlisted byte of memory reads as (log 1). -/
def Memory.default : Byte := 0

/-- Keys rise strictly. -/
def Tab.rising {α : Type} : Tab α → Bool
  | [] => true
  | [_] => true
  | (k, _) :: (k', v) :: r => decide (k < k') && Tab.rising ((k', v) :: r)

/-- The canonical form of memory: addresses rise and no entry is the default. -/
def Memory.wf (m : List Host.Cell) : Bool :=
  Tab.rising m && m.all (fun c => c.2 != Memory.default)

/-- The machine right after reset (R394, R399, R400): the module in RESET, with nothing but the
event that starts its ROM to come. -/
def State.reset : State := { agenda := [(0, .ev .moduleReset)] }

end Sys2Proof.Machine
end

