-- ==== Sys2Proof/Machine/Base.lean ====
section
/-!
DEFINITION. Base: tables, bytes and memory. Byte order is decided here once (R4: little-endian).
-/

namespace Sys2Proof.Machine

/-! ## Tables -/

/-- The value of a key, if listed. -/
def tabGet {α : Type} : Tab α → Nat → Option α
  | [], _ => none
  | (k, v) :: r, i => if i = k then some v else tabGet r i

/-- The value of a key, or a default. -/
def tabD {α : Type} (t : Tab α) (i : Nat) (d : α) : α := (tabGet t i).getD d

/-- Sets a key. -/
def tabPut {α : Type} : Tab α → Nat → α → Tab α
  | [], i, x => [(i, x)]
  | (k, v) :: r, i, x =>
    if i < k then (i, x) :: (k, v) :: r
    else if i = k then (i, x) :: r
    else (k, v) :: tabPut r i x

/-- Removes a key. -/
def tabDel {α : Type} : Tab α → Nat → Tab α
  | [], _ => []
  | (k, v) :: r, i => if i = k then tabDel r i else (k, v) :: tabDel r i

/-- Changes the value of a listed key. -/
def tabUpd {α : Type} (t : Tab α) (i : Nat) (f : α → α) : Tab α :=
  match tabGet t i with
  | some v => tabPut t i (f v)
  | none => t

/-- Changes the value of a key, taking a default where it is not listed. -/
def tabMod {α : Type} (t : Tab α) (i : Nat) (d : α) (f : α → α) : Tab α :=
  tabPut t i (f (tabD t i d))

/-- Is the key listed? -/
def tabHas {α : Type} (t : Tab α) (i : Nat) : Bool := (tabGet t i).isSome

/-- Changes every value. -/
def tabMap {α : Type} (t : Tab α) (f : Nat → α → α) : Tab α := t.map (fun c => (c.1, f c.1 c.2))

/-- The least key not listed, from `i` on, within `n` keys. -/
def tabFree {α : Type} (t : Tab α) : Nat → Nat → Option Nat
  | _, 0 => none
  | i, n + 1 => if tabHas t i then tabFree t (i + 1) n else some i

/-! ## Lists of numbers -/

/-- The numbers from `a`, `n` of them. -/
def upto (a : Nat) : Nat → List Nat
  | 0 => []
  | n + 1 => a :: upto (a + 1) n

/-- Adds a number to a rising list without repeats. -/
def setAdd : List Nat → Nat → List Nat
  | [], x => [x]
  | y :: r, x => if x < y then x :: y :: r else if x = y then y :: r else y :: setAdd r x

/-- Adds several numbers. -/
def setAddAll (l : List Nat) (xs : List Nat) : List Nat := xs.foldl setAdd l

/-- The sum of a list. -/
def total (l : List Nat) : Nat := l.foldl (· + ·) 0

/-- The least element by a key, the first among equals. -/
def leastBy {α : Type} (key : α → Nat) : List α → Option α
  | [] => none
  | x :: r =>
    match leastBy key r with
    | none => some x
    | some y => if key x ≤ key y then some x else some y

/-- The greatest element by a key, the first among equals. -/
def mostBy {α : Type} (key : α → Nat) : List α → Option α
  | [] => none
  | x :: r =>
    match mostBy key r with
    | none => some x
    | some y => if key y ≤ key x then some x else some y

/-- Inserts into a list kept in order by `le`, after its equals. -/
def insertBy {α : Type} (le : α → α → Bool) (x : α) : List α → List α
  | [] => [x]
  | y :: r => if le y x then y :: insertBy le x r else x :: y :: r

/-- Sorts by insertion; equals keep their order. -/
def sortBy {α : Type} (le : α → α → Bool) (l : List α) : List α :=
  l.foldl (fun acc x => insertBy le x acc) []

/-! ## Bytes (R4) -/

/-- The bytes of a number, lowest first. -/
def bytesOf : Nat → Nat → List Byte
  | 0, _ => []
  | n + 1, v => BitVec.ofNat 8 v :: bytesOf n (v / 256)

/-- The number that bytes make, lowest first. -/
def ofBytes : List Byte → Nat
  | [] => 0
  | b :: r => b.toNat + 256 * ofBytes r

/-! ## Memory -/

/-- The byte at a location. -/
def memGet (m : List Host.Cell) (a : Nat) : Byte := tabD m a Memory.default

/-- Writes a byte; the default is not listed. -/
def memPut (m : List Host.Cell) (a : Nat) (b : Byte) : List Host.Cell :=
  if b = Memory.default then tabDel m a else tabPut m a b

/-- The bytes from a location on. -/
def memRead (m : List Host.Cell) (a : Nat) : Nat → List Byte
  | 0 => []
  | n + 1 => memGet m a :: memRead m (a + 1) n

/-- Writes bytes from a location on. -/
def memWrite (m : List Host.Cell) (a : Nat) : List Byte → List Host.Cell
  | [] => m
  | b :: r => memWrite (memPut m a b) (a + 1) r

/-- Sets n bytes from a location on to the default, zero. -/
def memScrub (m : List Host.Cell) (a n : Nat) : List Host.Cell :=
  m.filter (fun c => !(decide (a ≤ c.1) && decide (c.1 < a + n)))

/-- The number in `n` bytes at a location. -/
def memNat (m : List Host.Cell) (a n : Nat) : Nat := ofBytes (memRead m a n)

/-- The 64-bit word at a location. -/
def memWord (m : List Host.Cell) (a : Nat) : Dword := BitVec.ofNat 64 (memNat m a 8)

/-! ## Where bytes stand

A byte of the module has one location number, whatever name reaches it. -/

/-- A byte of a die's HBM. -/
def hbmLoc (die pa : Nat) : Nat := die * 2 ^ 40 + pa

/-- A byte of a die's store. -/
def storeLoc (die pa : Nat) : Nat := die * 2 ^ 40 + 2 ^ 38 + pa

/-- A byte of a quad's scratchpad. -/
def scratchLoc (quad off : Nat) : Nat := 2 ^ 44 + quad * 2 ^ 20 + off

/-- A byte of the TCM allocation of the thread in a slot. -/
def tcmLoc (slot off : Nat) : Nat := 2 ^ 45 + slot * 2 ^ 16 + off

/-- A byte of a scratchpad region of a context that is OUT, in its quad frame (R336). -/
def savedLoc (ctx quad off : Nat) : Nat := 2 ^ 47 + (ctx * 1024 + quad) * 2 ^ 20 + off

/-- Does a location lie in a scratchpad? -/
def locScratch (loc : Nat) : Bool := decide (2 ^ 44 ≤ loc) && decide (loc < 2 ^ 45)

/-- Does a location lie in HBM or a die store? -/
def locGlobal (loc : Nat) : Bool := decide (loc < 2 ^ 44)

/-- The quad of a scratchpad location. -/
def locQuad (loc : Nat) : Nat := (loc - 2 ^ 44) / 2 ^ 20

/-- The offset of a scratchpad location in its quad. -/
def locOff (loc : Nat) : Nat := (loc - 2 ^ 44) % 2 ^ 20

/-- The die that owns a global location (R138). -/
def locDie (loc : Nat) : Nat := loc / 2 ^ 40

/-- Core, quad and die of a slot (R88). -/
def coreOf (slot : Nat) : Nat := slot / 64
/-- Quad of a slot. -/
def quadOf (slot : Nat) : Nat := slot / 256
/-- Die of a slot. -/
def dieOf (slot : Nat) : Nat := slot / 65536
/-- The slot of the firmware thread of a quad's translation service core. -/
def tscSlot (quad : Nat) : Nat := 2 ^ 18 + 64 * quad
/-- The slot of the firmware thread of a die control processor (R65). -/
def dcpSlot (d : Nat) : Nat := 2 ^ 19 + 64 * d
/-- The quad whose number a slot's thread reads: its own, that of a translation service core, or for a die control
processor the die's first (log 64). -/
def quadNo (slot : Nat) : Nat :=
  if 2 ^ 19 ≤ slot then 256 * ((slot - 2 ^ 19) / 64) else if 2 ^ 18 ≤ slot then (slot - 2 ^ 18) / 64 else quadOf slot

/-! ## Bits -/

/-- Bits `hi` down to `lo` of a word, as a number. -/
def bits {w : Nat} (v : BitVec w) (hi lo : Nat) : Nat := (v.toNat >>> lo) % 2 ^ (hi + 1 - lo)

/-- The 128-bit word of a number. -/
def wd (n : Nat) : Word := BitVec.ofNat 128 n

/-- The low 64 bits of a register value. -/
def lo64 (v : Word) : Dword := v.setWidth 64

/-- A 64-bit value in a register: bits 127:64 are zero. -/
def ext64 (v : Dword) : Word := v.setWidth 128

/-- The signed value of the low `w` bits of a number. -/
def signed (w n : Nat) : Int := (BitVec.ofNat w n).toInt

/-- The low `w` bits of an integer, as a number. -/
def wrap (w : Nat) (i : Int) : Nat := (BitVec.ofInt w i).toNat

/-- 1 or 0. -/
def bit (b : Bool) : Nat := if b then 1 else 0

end Sys2Proof.Machine
end

