-- ==== Sys2Proof/Machine/Flags.lean ====
section
/-!
DEFINITION. Flags: number formats, the decoded form, rounding, conversions and the floating-point flags
they set (R19 to R43). A finite value is exact: a sign, a whole number and a power of two.
-/

namespace Sys2Proof.Machine

/-! ## Flags (R41) -/

/-- NV, invalid. -/
def fNV : BitVec 5 := 16
/-- DZ, divide by zero. -/
def fDZ : BitVec 5 := 8
/-- OF, overflow. -/
def fOF : BitVec 5 := 4
/-- UF, underflow. -/
def fUF : BitVec 5 := 2
/-- NX, inexact. -/
def fNX : BitVec 5 := 1

/-- A flag where a test holds. -/
def flagIf (b : Bool) (f : BitVec 5) : BitVec 5 := if b then f else 0

/-! ## The decoded form (R27) -/

/-- A decoded element: finite (−1)^neg × m × 2^e, infinite, NaN with its quiet bit and the payload
below it at the width of f64, or not-a-real. -/
inductive Num where
  | fin (neg : Bool) (m : Nat) (e : Int)
  | inf (neg : Bool)
  | nan (neg quiet : Bool) (pay : Nat)
  | nar
  deriving DecidableEq, Repr

/-- The default NaN (R22). -/
def Num.default : Num := .nan false true 0

/-- Exponent and significand field widths of a floating format code (R21, R30). -/
def floatFields (f : Nat) : Option (Nat × Nat) :=
  match f with
  | 9 => some (5, 10)
  | 10 => some (8, 7)
  | 11 => some (8, 23)
  | 12 => some (11, 52)
  | 13 => some (4, 3)
  | 14 => some (5, 2)
  | 17 => some (2, 1)
  | _ => none

/-- Does a format have infinities (R21, R22)? -/
def hasInf (f : Nat) : Bool := decide (9 ≤ f) && decide (f ≤ 14) && f != 13

/-- Do FTZ and the shared normaliser concern a format (R33, R43)? -/
def hasFtz (f : Nat) : Bool := decide (9 ≤ f) && decide (f ≤ 12)

/-- Is a format a taper format? -/
def isTaper (f : Nat) : Bool := f == 15 || f == 16

/-- Is a format an integer format? -/
def isInt (f : Nat) : Bool := decide (f ≤ 8) || f == 18 || f == 19

/-- Is an integer format signed? -/
def isSigned (f : Nat) : Bool := f == 18 || (decide (f ≤ 8) && f % 2 == 1)

/-- Lane width of a format code (R163). -/
def codeWidth (f : Nat) : Nat :=
  match f with
  | 3 | 4 | 9 | 10 => 16
  | 5 | 6 | 11 => 32
  | 7 | 8 | 12 => 64
  | 17 | 18 | 19 => 4
  | _ => 8

/-- Bits of an element: a t6 element takes 6 of its 8-bit lane. -/
def elemBits (f : Nat) : Nat := if f = 16 then 6 else codeWidth f

/-- Exponent bias. -/
def biasOf (eb : Nat) : Nat := 2 ^ (eb - 1) - 1

/-- Exponent bits es of a taper format (R23). -/
def taperEs (f : Nat) : Nat := if f = 15 then 2 else 1

/-- Length of the run of bits equal to b in p from bit i downward. -/
def runLen (p : Nat) (b : Bool) : Nat → Nat
  | 0 => 0
  | i + 1 => if p.testBit i == b then 1 + runLen p b i else 0

/-- The magnitude of a positive taper pattern (R23). -/
def taperMag (n es p : Nat) : Nat × Int :=
  let b := p.testBit (n - 2)
  let m := runLen p b (n - 1)
  let k : Int := if b then (m : Int) - 1 else -(m : Int)
  let rest := n - 2 - m
  let r := p % 2 ^ rest
  let F := rest - es
  let e := if es ≤ rest then r / 2 ^ F else r * 2 ^ (es - rest)
  (2 ^ F + r % 2 ^ F, k * (2 ^ es : Nat) + e - F)

/-- Decodes a taper word (R23). -/
def decodeTaper (f w : Nat) : Num :=
  let n := elemBits f
  let w := w % 2 ^ n
  if w = 0 then .fin false 0 0
  else if w = 2 ^ (n - 1) then .nar
  else
    let s := w.testBit (n - 1)
    let r := taperMag n (taperEs f) (if s then 2 ^ n - w else w)
    .fin s r.1 r.2

/-- Decodes a floating element (R21, R22); with FTZ a subnormal input is a zero (R33). -/
def decodeFloat (f eb mb w : Nat) (ftz : Bool) : Num :=
  let s := w.testBit (eb + mb)
  let E := w / 2 ^ mb % 2 ^ eb
  let M := w % 2 ^ mb
  if E = 2 ^ eb - 1 ∧ hasInf f = true then
    (if M = 0 then .inf s else .nan s (M.testBit (mb - 1)) (M % 2 ^ (mb - 1) * 2 ^ (52 - mb)))
  else if f = 13 ∧ E = 15 ∧ M = 7 then .nan s true 0
  else if E = 0 then (if ftz && hasFtz f then .fin s 0 0 else .fin s M (1 - (biasOf eb : Int) - mb))
  else .fin s (2 ^ mb + M) (E - (biasOf eb : Int) - mb)

/-- Decodes an element of a format (R27). -/
def decodeNum (f w : Nat) (ftz : Bool := false) : Num :=
  match floatFields f with
  | some (eb, mb) => decodeFloat f eb mb w ftz
  | none =>
    if isTaper f then decodeTaper f w
    else
      let v : Int := if isSigned f then signed (codeWidth f) w else (w % 2 ^ codeWidth f : Nat)
      .fin (decide (v < 0)) v.natAbs 0

/-- Is a pattern a subnormal of a format that the shared normaliser serves (R43)? -/
def isSubnormal (f w : Nat) : Bool :=
  match floatFields f with
  | some (eb, mb) => hasFtz f && w / 2 ^ mb % 2 ^ eb == 0 && w % 2 ^ mb != 0
  | none => false

/-! ## Rounding (R33 to R35) -/

/-- Does a magnitude with remainder r of 2^sh above an even or odd quotient round up (R33)? Modes are
0 RNE, 1 RTZ, 2 RDN, 3 RUP, 4 RNA. -/
def roundsUp (mode : Nat) (neg odd : Bool) (r sh : Nat) : Bool :=
  if r = 0 then false
  else match mode with
    | 0 => decide (2 ^ sh < 2 * r) || (decide (2 * r = 2 ^ sh) && odd)
    | 1 => false
    | 2 => neg
    | 3 => !neg
    | _ => decide (2 ^ sh ≤ 2 * r)

/-- Rounds m × 2^e to a whole number, and says whether it was inexact. -/
def roundWhole (mode : Nat) (neg : Bool) (m : Nat) (e : Int) : Nat × Bool :=
  if 0 ≤ e then (m * 2 ^ e.toNat, false)
  else
    let sh := (-e).toNat
    let q := m >>> sh
    let r := m % 2 ^ sh
    (q + bit (roundsUp mode neg (q % 2 == 1) r sh), r != 0)

/-- Is m × 2^e below, equal to or above n × 2^f? -/
def cmpMag (m : Nat) (e : Int) (n : Nat) (f : Int) : Ordering :=
  let b := min e f
  compare (m * 2 ^ (e - b).toNat) (n * 2 ^ (f - b).toNat)

/-- The largest finite pattern of a floating format. -/
def maxPat (f eb mb : Nat) : Nat :=
  if f = 13 then 126 else if f = 17 then 7 else (2 ^ eb - 1) * 2 ^ mb - 1

/-- Puts a sign above a magnitude pattern. -/
def signPat (eb mb : Nat) (neg : Bool) (p : Nat) : Nat := bit neg * 2 ^ (eb + mb) + p

/-- The overflow result of a floating format (R37). -/
def overflowPat (f eb mb mode : Nat) (neg : Bool) : Nat :=
  let toMax := mode == 1 || (mode == 2 && !neg) || (mode == 3 && neg)
  signPat eb mb neg (if hasInf f && !toMax then (2 ^ eb - 1) * 2 ^ mb else maxPat f eb mb)

/-- Encodes a nonzero finite magnitude in a floating format (R34, R37, R40). -/
def encodeFloat (f eb mb mode : Nat) (ftz neg : Bool) (m : Nat) (e : Int) : Nat × BitVec 5 :=
  let E := e + (Nat.log2 m : Int)
  let emin := 1 - (biasOf eb : Int)
  let q := max E emin - mb
  let r := roundWhole mode neg m (e - q)
  let p := (q + mb + biasOf eb - 1) * (2 ^ mb : Nat) + r.1
  let top := maxPat f eb mb
  let beyond := if hasInf f then decide ((top : Int) < p)
    else cmpMag m e (if f = 13 then 14 else 3) (if f = 13 then 5 else 1) == .gt
  if beyond then (overflowPat f eb mb mode neg, fOF ||| fNX)
  else if ftz && hasFtz f && decide (p < (2 ^ mb : Nat)) then (signPat eb mb neg 0, fUF ||| fNX)
  else
    let tiny := decide (E < emin) &&
      !(decide (E = emin - 1) && decide ((roundWhole mode neg m (e - (E - mb))).1 = 2 ^ (mb + 1)))
    (signPat eb mb neg p.toNat, flagIf r.2 fNX ||| flagIf (tiny && r.2) fUF)

/-- The greatest positive taper pattern, up to p, whose value is at most m × 2^e. -/
def taperFloor (n es m : Nat) (e : Int) : Nat → Nat
  | 0 => 0
  | p + 1 =>
    let r := taperMag n es (p + 1)
    if cmpMag m e r.1 r.2 == .lt then taperFloor n es m e p else p + 1

/-- A taper pattern with a sign: the two's complement of the whole word. -/
def taperSign (n : Nat) (neg : Bool) (p : Nat) : Nat := if neg then 2 ^ n - p else p

/-- Encodes a nonzero finite magnitude in a taper format (R35). -/
def encodeTaper (f mode : Nat) (neg : Bool) (m : Nat) (e : Int) : Nat × BitVec 5 :=
  let n := elemBits f
  let es := taperEs f
  let top := 2 ^ (n - 1) - 1
  let p := taperFloor n es m e top
  if p = 0 then (taperSign n neg 1, fUF ||| fNX)
  else
    let lo := taperMag n es p
    if cmpMag m e lo.1 lo.2 == .eq then (taperSign n neg p, 0)
    else if p = top then (taperSign n neg p, fOF ||| fNX)
    else
      let hi := taperMag n es (p + 1)
      let b := min e (min lo.2 hi.2)
      let v := m * 2 ^ (e - b).toNat
      let a := lo.1 * 2 ^ (lo.2 - b).toNat
      let c := hi.1 * 2 ^ (hi.2 - b).toNat
      let up := match mode with
        | 0 => decide (c - v < v - a) || (decide (c - v = v - a) && p % 2 == 1)
        | 1 => false
        | 2 => neg
        | 3 => !neg
        | _ => decide (c - v ≤ v - a)
      (taperSign n neg (if up then p + 1 else p), fNX)

/-- The range of an integer format. -/
def intRange (f : Nat) : Int × Int :=
  let w := codeWidth f
  if isSigned f then (-(2 ^ (w - 1) : Nat), (2 ^ (w - 1) : Nat) - 1) else (0, (2 ^ w : Nat) - 1)

/-- Encodes a finite value in an integer format (R39); `quiet` where the source is an integer. -/
def encodeInt (f mode : Nat) (neg : Bool) (m : Nat) (e : Int) (quiet : Bool) : Nat × BitVec 5 :=
  let r := roundWhole mode neg m e
  let v : Int := if neg then -(r.1 : Int) else r.1
  let g := intRange f
  let w := codeWidth f
  if v < g.1 then (wrap w g.1, flagIf (!quiet) fNV)
  else if g.2 < v then (wrap w g.2, flagIf (!quiet) fNV)
  else (wrap w v, flagIf r.2 fNX)

/-- Encodes a decoded value in a format: every conversion and every rounded result (R34 to R40). -/
def encodeNum (f mode : Nat) (ftz : Bool) (x : Num) (quiet : Bool := false) : Nat × BitVec 5 :=
  match floatFields f with
  | some (eb, mb) =>
    (match x with
     | .fin s 0 _ => (signPat eb mb s 0, 0)
     | .fin s m e => encodeFloat f eb mb mode ftz s m e
     | .inf s => if hasInf f then (signPat eb mb s ((2 ^ eb - 1) * 2 ^ mb), 0)
                 else (signPat eb mb s (maxPat f eb mb), fOF ||| fNX)
     | .nan s q pay =>
       if f = 17 then (0, fNV)
       else if f = 13 then (signPat eb mb s 127, flagIf (!q) fNV)
       else (signPat eb mb s ((2 ^ eb - 1) * 2 ^ mb + 2 ^ (mb - 1) + pay / 2 ^ (52 - mb)), flagIf (!q) fNV)
     | .nar =>
       if f = 17 then (0, fNV)
       else if f = 13 then (127, 0)
       else ((2 ^ eb - 1) * 2 ^ mb + 2 ^ (mb - 1), 0))
  | none =>
    if isTaper f then
      (match x with
       | .fin _ 0 _ => (0, 0)
       | .fin s m e => encodeTaper f mode s m e
       | .nar => (2 ^ (elemBits f - 1), 0)
       | _ => (2 ^ (elemBits f - 1), fNV))
    else
      (match x with
       | .fin s m e => encodeInt f mode s m e quiet
       | .inf s => (wrap (codeWidth f) (if s then (intRange f).1 else (intRange f).2), fNV)
       | _ => (0, fNV))

/-! ## Stochastic rounding (R36) -/

/-- Does a draw take hi, where the value lies at num/den of the way from lo to hi? -/
def drawsHi (u num den : Nat) : Bool := decide (2 ^ 32 ≤ u + num * 2 ^ 32 / den)

/-- Rounds by value m × 2^e between the multiples of 2^q next to it: the mode, toward or away from
zero, that the draw stands for. -/
def drawMode (u : Nat) (neg : Bool) (m : Nat) (e q : Int) : Nat :=
  if q ≤ e then 1
  else
    let sh := (q - e).toNat
    if drawsHi u (m % 2 ^ sh) (2 ^ sh) then (if neg then 2 else 3) else 1

/-- Encodes a decoded value by a draw (R36). -/
def encodeDraw (f u : Nat) (ftz : Bool) (x : Num) : Nat × BitVec 5 :=
  match x with
  | .fin s m e =>
    if m = 0 then encodeNum f 0 ftz x
    else match floatFields f with
      | some (eb, mb) =>
        let E := e + (Nat.log2 m : Int)
        let emin := 1 - (biasOf eb : Int)
        let q := max E emin - mb
        let mode := drawMode u s m e q
        let top := maxPat f eb mb
        let lo := (q + mb + biasOf eb - 1) * (2 ^ mb : Nat) + (roundWhole 1 s m (e - q)).1
        if (top : Int) < lo then (overflowPat f eb mb 0 s, fOF ||| fNX)
        else if lo = top then
          (if mode ≠ 1 then (overflowPat f eb mb 0 s, fOF ||| fNX)
           else (signPat eb mb s top, flagIf (roundWhole 1 s m (e - q)).2 fNX))
        else encodeFloat f eb mb mode ftz s m e
      | none =>
        if isTaper f then
          let n := elemBits f
          let es := taperEs f
          let p := taperFloor n es m e (2 ^ (n - 1) - 1)
          if p = 0 ∨ p = 2 ^ (n - 1) - 1 then encodeTaper f 0 s m e
          else
            let lo := taperMag n es p
            let hi := taperMag n es (p + 1)
            let b := min e (min lo.2 hi.2)
            let a := lo.1 * 2 ^ (lo.2 - b).toNat
            let up := drawsHi u (m * 2 ^ (e - b).toNat - a) (hi.1 * 2 ^ (hi.2 - b).toNat - a)
            encodeTaper f (if up then (if s then 2 else 3) else 1) s m e
        else encodeInt f (drawMode u s m e 0) s m e false
  | _ => encodeNum f 0 ftz x

/-! ## Exact arithmetic (R165) -/

/-- Is a value a signalling NaN? -/
def Num.signalling : Num → Bool
  | .nan _ q _ => !q
  | _ => false

/-- Is a value NaN? -/
def Num.isNan : Num → Bool
  | .nan _ _ _ => true
  | _ => false

/-- The result that a NaN or NaR operand decides: NaR without a flag, or the first NaN, quieted, with
NV where any operand signals (R165). -/
def nanResult (l : List Num) : Option (Num × BitVec 5) :=
  if l.contains .nar then some (.nar, 0)
  else match l.find? Num.isNan with
    | some (.nan s _ p) => some (.nan s true p, flagIf (l.any Num.signalling) fNV)
    | _ => none

/-- A finite value as a whole number of 2^b. -/
def Num.at (x : Num) (b : Int) : Int :=
  match x with
  | .fin s m e => let v : Int := (m * 2 ^ (e - b).toNat : Nat); if s then -v else v
  | _ => 0

/-- Its exponent. -/
def Num.exp : Num → Int
  | .fin _ _ e => e
  | _ => 0

/-- Is a value zero? -/
def Num.isZero : Num → Bool
  | .fin _ m _ => m == 0
  | _ => false

/-- Is a value infinite? -/
def Num.isInf : Num → Bool
  | .inf _ => true
  | _ => false

/-- The sign of a value. -/
def Num.neg : Num → Bool
  | .fin s _ _ => s
  | .inf s => s
  | .nan s _ _ => s
  | .nar => true

/-- The exact sum of finite values, with the sign of a zero. For a sum of two (IEEE 754) it is −0 when
both are −0, or in RDN unless both are +0; over lanes (`red`, R171) it is −0 when every lane is −0 or
the mode is RDN. -/
def sumFin (mode : Nat) (red : Bool) (l : List Num) : Num :=
  let b := l.foldl (fun b x => if x.isZero then b else min b x.exp) 0
  let v := l.foldl (fun (a : Int) x => if x.isZero then a else a + x.at b) 0
  if v = 0 then
    let allNeg := l.all (fun x => x.isZero && x.neg)
    let allPos := l.all (fun x => x.isZero && !x.neg)
    .fin (allNeg || (mode == 2 && (red || !allPos))) 0 0
  else .fin (decide (v < 0)) v.natAbs b

/-- The sum of values of which none is NaN or NaR: infinities of both signs are invalid. -/
def sumNum (mode : Nat) (l : List Num) (red : Bool := false) : Num × BitVec 5 :=
  match l.filter Num.isInf with
  | [] => (sumFin mode red l, 0)
  | x :: r => if r.any (fun y => y.neg != x.neg) then (.default, fNV) else (x, 0)

/-- a + b. -/
def addNum (mode : Nat) (a b : Num) : Num × BitVec 5 := (nanResult [a, b]).getD (sumNum mode [a, b])

/-- −a. -/
def Num.negate : Num → Num
  | .fin s m e => .fin (!s) m e
  | .inf s => .inf (!s)
  | x => x

/-- The product of values of which none is NaN or NaR; none where it is zero times infinity. -/
def mulFin (a b : Num) : Option Num :=
  let s := a.neg != b.neg
  match a, b with
  | .fin _ m e, .fin _ n f => some (.fin s (m * n) (if m * n = 0 then 0 else e + f))
  | _, _ => if a.isZero || b.isZero then none else some (.inf s)

/-- a × b. -/
def mulNum (a b : Num) : Num × BitVec 5 :=
  (nanResult [a, b]).getD (match mulFin a b with
    | some x => (x, 0)
    | none => (.default, fNV))

/-- a × b + d, exact before one rounding. -/
def fmaNum (mode : Nat) (a b d : Num) : Num × BitVec 5 :=
  (nanResult [a, b, d]).getD (match mulFin a b with
    | some x => sumNum mode [x, d]
    | none => (.default, fNV))

/-- Is a below b, both neither NaN nor NaR? −0 is not below +0 here. -/
def ltNum (a b : Num) : Bool :=
  match a, b with
  | .inf s, .inf t => s && !t
  | .inf s, _ => s
  | _, .inf t => !t
  | _, _ => let c := min a.exp b.exp; decide (a.at c < b.at c)

/-- Equal by value, with −0 equal to +0. -/
def eqNum (a b : Num) : Bool :=
  match a, b with
  | .inf s, .inf t => s == t
  | .inf _, _ => false
  | _, .inf _ => false
  | _, _ => let c := min a.exp b.exp; decide (a.at c = b.at c)

end Sys2Proof.Machine
end

