-- ==== Sys2Proof/WellFormed.lean ====
section
/-!
DEFINITION. WellFormed: the operand values that make a word an instruction. A decoded word that is
not well formed issues and raises ILLEGAL (R60).
-/

namespace Sys2Proof

/-- The CSR numbers of the CSR table (R87). -/
def csrKnown (c : BitVec 10) : Bool :=
  let n := c.toNat
  decide (n ≤ 0x007) || n == 0x010 || n == 0x011 || (decide (0x020 ≤ n) && decide (n ≤ 0x023))
    || (decide (0x030 ≤ n) && decide (n ≤ 0x032)) || n == 0x040 || n == 0x041 || n == 0x050
    || n == 0x051 || n == 0x060 || (decide (0x100 ≤ n) && decide (n ≤ 0x108))
    || n == 0x110 || n == 0x111 || n == 0x118 || n == 0x119

/-- The CSRs that CSRW can write (R87); L2PDATA has an operation of its own. -/
def csrWritable (c : BitVec 10) : Bool :=
  let n := c.toNat
  (decide (0x020 ≤ n) && decide (n ≤ 0x023)) || (decide (0x030 ≤ n) && decide (n ≤ 0x032))
    || n == 0x040 || n == 0x041 || n == 0x110

/-- The CSRs that only the handler writes (R87). -/
def csrHandler (c : BitVec 10) : Bool :=
  let n := c.toNat
  (decide (0x020 ≤ n) && decide (n ≤ 0x023)) || n == 0x041

/-- Does a register field name a hearth register (R53)? -/
def fieldHearth (f : BitVec 7) : Bool := decide (112 ≤ f.toNat)

/-- A destination that a long instruction may have (R105). -/
def longDest (d : BitVec 7) : Bool := !fieldHearth d

/-- Lane width of a format code 1 to 19 (R163, R30). -/
def fmtWidth (f : BitVec 5) : Nat :=
  match f.toNat with
  | 1 | 2 | 13 | 14 | 15 | 16 => 8
  | 3 | 4 | 9 | 10 => 16
  | 5 | 6 | 11 => 32
  | 7 | 8 | 12 => 64
  | _ => 4

/-- A format code that AC accepts (R52). -/
def fmtOk (f : BitVec 5) : Bool := decide (1 ≤ f.toNat) && decide (f.toNat ≤ 19)

/-- The pairs that CVTSR accepts (R180), destination first. -/
def cvtsrOk (e f : BitVec 5) : Bool :=
  let d := e.toNat
  let s := f.toNat
  (s == 11 || s == 12) &&
    (d == 9 || d == 10 || (decide (13 ≤ d) && decide (d ≤ 17)) || (d == 11 && s == 12))

/-- The operand values that the entry of each operation allows; an event has none to check. -/
def Instr.wf : Instr → Bool
  | .csrr _ _ c => csrKnown c
  | .csrw _ _ c => csrWritable c
  | .ldG _ d _ _ _ => longDest d
  | .ldGLong _ d _ _ _ => longDest d
  | .lduG _ d _ _ _ => longDest d
  | .lduGLong _ d _ _ _ => longDest d
  | .plane _ d _ _ => longDest d
  | .unplane _ d _ _ => longDest d
  | .atomN _ _ _ _ p => decide (p.toNat ≤ 6)
  | .atomG _ d _ _ p => longDest d && decide (p.toNat ≤ 6)
  | .redG _ _ _ p => decide (p.toNat ≤ 5)
  | .casG _ d _ _ => longDest d
  | .ordatom _ d _ _ => longDest d
  | .msend _ d _ _ => longDest d
  | .gloop _ d _ _ _ => longDest d
  | .rxtag _ d _ => decide (d.toNat ≠ 0) && !fieldHearth d
  | .rxtagVoid _ d => decide (d.toNat ≠ 0) && !fieldHearth d
  | .rxuntag _ d => decide (d.toNat ≠ 0) && !fieldHearth d
  | .rxdrop _ d => decide (d.toNat % 8 = 7)
  | .rxkeep _ d => decide (d.toNat % 8 = 7)
  | .wid _ _ n => decide (n.toNat ≤ 8)
  | .job _ d _ => longDest d
  | .jobq _ d _ => longDest d
  | .jobResume _ d _ => longDest d
  | .mxsend _ d _ _ => longDest d
  | .mxsendAdd _ d _ _ => longDest d
  | .swapt _ d _ _ => longDest d
  | .launch _ d _ => longDest d
  | .slicemass _ d _ _ => longDest d
  | .draw _ d _ _ => longDest d
  | .penal _ d _ _ => longDest d
  | .tokapp _ d _ _ => longDest d
  | .seqcmtCommit _ d _ _ => longDest d
  | .seqcmtRewind _ d _ _ => longDest d
  | .gmask _ d _ _ => longDest d
  | .div d _ _ _ => longDest d
  | .rem d _ _ _ => longDest d
  | .shli _ _ imm => decide (imm.toNat ≤ 63)
  | .shri _ _ imm => decide (imm.toNat ≤ 63)
  | .sari _ _ imm => decide (imm.toNat ≤ 63)
  | .kop _ c a b =>
    decide (c.toNat ≤ 3) || ((c == 4#3 || c == 5#3) && b == 0#3)
      || ((c == 6#3 || c == 7#3) && a == 0#3 && b == 0#3)
  | .vred _ _ b _ => decide (b.toNat ≤ 2)
  | .vdot _ _ _ t => decide (t.toNat ≤ 3) || decide (12 ≤ t.toNat) || t == 8#4 || t == 9#4
  | .rcp d _ => longDest d
  | .rsq d _ => longDest d
  | .rcpnr d _ _ => longDest d
  | .rsqnr d _ _ => longDest d
  | .exp2 d _ => longDest d
  | .log2 d _ => longDest d
  | .cvt _ _ e f => fmtOk e && fmtOk f
  | .cvtsr _ _ e f => cvtsrOk e f
  | .pack _ _ e f => fmtOk e && fmtOk f && decide (fmtWidth e < fmtWidth f)
  | .unpack d a e f =>
    fmtOk e && fmtOk f && decide (fmtWidth f < fmtWidth e) && decide (a.toNat ≠ 0) && a != d
  | .rng d _ _ => longDest d
  | .mma sh _ _ _ _ => decide (sh.toNat % 8 ≤ 5)
  | .arnd d _ _ t => longDest d && decide (t.toNat ≤ 5)
  | .amovSt d _ => longDest d
  | .amovRaw d _ _ => longDest d
  | _ => true

end Sys2Proof
end

