-- ==== Sys2Proof/Machine/Lanes.lean ====
section
/-!
DEFINITION. Lanes: what vector, conversion and special-function words compute from the values of their
operands (R163 to R183). The thread's words and the lathe's words compute with the same functions.
-/

namespace Sys2Proof.Machine

/-- What a vector word gives: the destination's value, flags, and turns lost to the normaliser (R43). -/
structure VOut where
  out : Word
  flags : BitVec 5 := 0
  slow : Nat := 0
  deriving DecidableEq, Repr

/-- The rounding mode in ROUND (R33). -/
def modeOf (r : BitVec 4) : Nat := r.toNat % 8

/-- FTZ in ROUND (R33). -/
def ftzOf (r : BitVec 4) : Bool := r.getLsbD 3

/-- The format code of a type code (R30). -/
def typeFmt (t : Nat) : Nat := t + 1

/-- Number of lanes of a format (R163). -/
def laneCount (f : Nat) : Nat := 128 / codeWidth f

/-- Lane j of width w. -/
def lane (w : Nat) (x : Word) (j : Nat) : Nat := x.toNat / 2 ^ (w * j) % 2 ^ w

/-- A register of lanes of width w, lane 0 first. -/
def lanesWord (w : Nat) (l : List Nat) : Word :=
  wd (l.foldr (fun x acc => x % 2 ^ w + 2 ^ w * acc) 0)

/-- The element in a lane: a t6 element is the low 6 bits (R163). -/
def laneElem (f : Nat) (x : Word) (j : Nat) : Nat := lane (codeWidth f) x j % 2 ^ elemBits f

/-- A lane as a signed or unsigned number. -/
def laneInt (f : Nat) (x : Word) (j : Nat) : Int :=
  let n := lane (codeWidth f) x j
  if isSigned f then signed (codeWidth f) n else n

/-- The union of flags. -/
def orFlags (l : List (BitVec 5)) : BitVec 5 := l.foldl (· ||| ·) 0

/-- Lane results with their flags; where `norm`, a lane with a subnormal operand or result costs a
turn (R43). -/
def laneOut (f : Nat) (r : BitVec 4) (norm : Bool) (srcs : List Word) (g : Nat → Nat × BitVec 5) : VOut :=
  let rs := (upto 0 (laneCount f)).map (fun j => (j, g j))
  { out := lanesWord (codeWidth f) (rs.map (·.2.1))
    flags := orFlags (rs.map (·.2.2))
    slow := if norm && !ftzOf r then
        (rs.filter (fun x => isSubnormal f x.2.1 || srcs.any (fun s => isSubnormal f (laneElem f s x.1)))).length
      else 0 }

/-- A floating or taper result of decoded operands, rounded once into the lane's format (R165). -/
def roundLane (f : Nat) (r : BitVec 4) (x : Num × BitVec 5) : Nat × BitVec 5 :=
  let e := encodeNum f (modeOf r) (ftzOf r) x.1
  (e.1, x.2 ||| e.2)

/-- The decoded element of a lane. -/
def laneNum (f : Nat) (r : BitVec 4) (x : Word) (j : Nat) : Num := decodeNum f (laneElem f x j) (ftzOf r)

/-- Lane arithmetic: on integers modulo 2^w, or on the decoded form with one rounding (R165). -/
def laneArith (t : Nat) (r : BitVec 4) (srcs : List Word) (int : Nat → Int)
    (num : Nat → Num × BitVec 5) : VOut :=
  let f := typeFmt t
  laneOut f r true srcs (fun j =>
    if isInt f then (wrap (codeWidth f) (int j), 0) else roundLane f r (num j))

/-- VADD (R166). -/
def valVadd (t : Nat) (r : BitVec 4) (a b : Word) : VOut :=
  let f := typeFmt t
  laneArith t r [a, b] (fun j => laneInt f a j + laneInt f b j)
    (fun j => addNum (modeOf r) (laneNum f r a j) (laneNum f r b j))

/-- a − b: the sum with −b, a NaN as it stands. -/
def subNum (mode : Nat) (a b : Num) : Num × BitVec 5 := addNum mode a b.negate

/-- VSUB (R166). -/
def valVsub (t : Nat) (r : BitVec 4) (a b : Word) : VOut :=
  let f := typeFmt t
  laneArith t r [a, b] (fun j => laneInt f a j - laneInt f b j)
    (fun j => subNum (modeOf r) (laneNum f r a j) (laneNum f r b j))

/-- VMUL (R166). -/
def valVmul (t : Nat) (r : BitVec 4) (a b : Word) : VOut :=
  let f := typeFmt t
  laneArith t r [a, b] (fun j => laneInt f a j * laneInt f b j)
    (fun j => mulNum (laneNum f r a j) (laneNum f r b j))

/-- VFMA (R166). -/
def valVfma (t : Nat) (r : BitVec 4) (a b d : Word) : VOut :=
  let f := typeFmt t
  laneArith t r [a, b, d] (fun j => laneInt f a j * laneInt f b j + laneInt f d j)
    (fun j => fmaNum (modeOf r) (laneNum f r a j) (laneNum f r b j) (laneNum f r d j))

/-- Is a first under minimumNumber, with −0 below +0 (R167)? -/
def firstMin (a b : Num) : Bool := ltNum a b || (eqNum a b && a.neg)

/-- Minimum or maximum of two floating values (R167). -/
def minmaxNum (least : Bool) (a b : Num) : Num × BitVec 5 :=
  let fl := flagIf (a.signalling || b.signalling) fNV
  if a.isNan then (if b.isNan then (.default, fl) else (b, fl))
  else if b.isNan then (a, fl)
  else (if firstMin a b == least then a else b, fl)

/-- Minimum or maximum of two elements of a format (R167). -/
def minmaxElem (f : Nat) (r : BitVec 4) (least : Bool) (x y : Nat) : Nat × BitVec 5 :=
  if isInt f || isTaper f then
    let w := elemBits f
    let v := fun n => if isInt f && !isSigned f then ((n % 2 ^ w : Nat) : Int) else signed w n
    ((if decide (v x ≤ v y) == least then x else y), 0)
  else roundLane f r (minmaxNum least (decodeNum f x (ftzOf r)) (decodeNum f y (ftzOf r)))

/-- VMIN and VMAX (R167). -/
def valMinmax (least : Bool) (t : Nat) (r : BitVec 4) (a b : Word) : VOut :=
  let f := typeFmt t
  laneOut f r true [a, b] (fun j => minmaxElem f r least (laneElem f a j) (laneElem f b j))

/-- VABS of an element (R168). -/
def absElem (f x : Nat) : Nat :=
  let w := elemBits f
  if isInt f then (if isSigned f then wrap w (signed w x).natAbs else x)
  else if isTaper f then (if x.testBit (w - 1) then (2 ^ w - x) % 2 ^ w else x)
  else x % 2 ^ (w - 1)

/-- VNEG of an element (R168). -/
def negElem (f x : Nat) : Nat :=
  let w := elemBits f
  if isInt f || isTaper f then (2 ^ w - x) % 2 ^ w
  else if x.testBit (w - 1) then x - 2 ^ (w - 1) else x + 2 ^ (w - 1)

/-- VABS (R168). -/
def valVabs (t : Nat) (a : Word) : VOut :=
  laneOut (typeFmt t) 0 false [] (fun j => (absElem (typeFmt t) (laneElem (typeFmt t) a j), 0))

/-- VNEG (R168). -/
def valVneg (t : Nat) (a : Word) : VOut :=
  laneOut (typeFmt t) 0 false [] (fun j => (negElem (typeFmt t) (laneElem (typeFmt t) a j), 0))

/-- VSHL (R166). -/
def valVshl (t : Nat) (a b : Word) : VOut :=
  let f := typeFmt t
  let w := codeWidth f
  laneOut f 0 false [] (fun j => (lane w a j * 2 ^ (lane w b j % w) % 2 ^ w, 0))

/-- VSHR (R166). -/
def valVshr (t : Nat) (a b : Word) : VOut :=
  let f := typeFmt t
  let w := codeWidth f
  laneOut f 0 false [] (fun j => (wrap w (laneInt f a j / (2 ^ (lane w b j % w) : Nat)), 0))

/-- A comparison of two elements, and its flags (R132): 0 EQ, 1 NE, 2 LT, 3 LE, 4 GT, 5 GE, 6 UNORD,
7 ORD. -/
def compareElem (f : Nat) (ftz : Bool) (cond x y : Nat) : Bool × BitVec 5 :=
  let decideBy := fun (lt eq : Bool) => match cond with
    | 0 => eq
    | 1 => !eq
    | 2 => lt
    | 3 => lt || eq
    | 4 => !lt && !eq
    | 5 => !lt
    | 6 => false
    | _ => true
  if isInt f || isTaper f then
    let w := elemBits f
    let v := fun n => if isInt f && !isSigned f then ((n % 2 ^ w : Nat) : Int) else signed w n
    (decideBy (decide (v x < v y)) (decide (v x = v y)), 0)
  else
    let a := decodeNum f x ftz
    let b := decodeNum f y ftz
    if a.isNan || b.isNan then
      (cond == 1 || cond == 6,
       flagIf (if 2 ≤ cond ∧ cond ≤ 5 then true else a.signalling || b.signalling) fNV)
    else (decideBy (ltNum a b) (eqNum a b), 0)

/-- VCMP: bit j for lane j, with flags and lost turns (R169). -/
def valVcmp (t cond : Nat) (r : BitVec 4) (a b : Word) : BitVec 16 × BitVec 5 × Nat :=
  let f := typeFmt t
  let rs := (upto 0 (laneCount f)).map (fun j => compareElem f (ftzOf r) cond (laneElem f a j) (laneElem f b j))
  (BitVec.ofNat 16 (rs.foldr (fun x acc => bit x.1 + 2 * acc) 0), orFlags (rs.map (·.2)),
   if ftzOf r then 0 else
     ((upto 0 (laneCount f)).filter (fun j => isSubnormal f (laneElem f a j) || isSubnormal f (laneElem f b j))).length)

/-- VSEL (R170). -/
def valVsel (t : Nat) (p : BitVec 16) (a d : Word) : VOut :=
  let f := typeFmt t
  laneOut f 0 false [] (fun j => (if p.getLsbD j then laneElem f a j else laneElem f d j, 0))

/-- VSHUF (R170). -/
def valVshuf (t : Nat) (a b : Word) : VOut :=
  let f := typeFmt t
  let w := codeWidth f
  laneOut f 0 false [] (fun j =>
    let i := lane w b j
    (if i.testBit (w - 1) then 0 else laneElem f a (i % laneCount f), 0))

/-- VBCAST (R166). -/
def valVbcast (t : Nat) (a : Word) : VOut :=
  laneOut (typeFmt t) 0 false [] (fun _ => (laneElem (typeFmt t) a 0, 0))

/-- The exact sum of all lanes of a floating or taper format (R171). -/
def redSum (r : BitVec 4) (l : List Num) : Num × BitVec 5 :=
  let clash := l.contains (.inf false) && l.contains (.inf true)
  match nanResult l with
  | some (x, fl) => (x, fl ||| flagIf (clash && x != .nar) fNV)
  | none => sumNum (modeOf r) l true

/-- VRED, op 0 ADD, 1 MIN, 2 MAX (R171). -/
def valVred (t op : Nat) (r : BitVec 4) (a : Word) : VOut :=
  let f := typeFmt t
  let js := upto 0 (laneCount f)
  let res : Nat × BitVec 5 :=
    if op = 0 then
      (if isInt f then (wrap (codeWidth f) ((js.map (laneInt f a)).foldl (· + ·) 0), 0)
       else roundLane f r (redSum r (js.map (laneNum f r a))))
    else (js.drop 1).foldl (fun (acc : Nat × BitVec 5) j =>
        let x := minmaxElem f r (op == 1) acc.1 (laneElem f a j)
        (x.1, acc.2 ||| x.2)) (laneElem f a 0, 0)
  { out := wd (res.1 % 2 ^ codeWidth f), flags := res.2
    slow := if ftzOf r then 0 else
      (js.filter (fun j => isSubnormal f (laneElem f a j) || (j == 0 && isSubnormal f res.1))).length }

/-- One group of VDOT on floating and taper types: the exact sum rounded once into f32 (R172). -/
def dotGroup (r : BitVec 4) (prods : List (Num × Num)) (acc : Num) : Num × BitVec 5 :=
  let ops := prods.flatMap (fun p => [p.1, p.2]) ++ [acc]
  let plain := prods.filter (fun p => !p.1.isNan && !p.2.isNan && p.1 != .nar && p.2 != .nar)
  let ps := plain.map (fun p => mulFin p.1 p.2)
  let terms := ps.filterMap id ++ (if acc.isNan then [] else [acc])
  let bad := ops.contains .nar || ps.contains none || (terms.contains (.inf false) && terms.contains (.inf true))
  match ops.find? Num.isNan with
  | some (.nan s _ p) => (.nan s true p, flagIf (bad || ops.any Num.signalling) fNV)
  | _ => if bad then (.default, fNV) else sumNum (modeOf r) terms true

/-- VDOT (R172). -/
def valVdot (t : Nat) (r : BitVec 4) (a b d : Word) : VOut :=
  let f := typeFmt t
  let w := codeWidth f
  let n := 32 / w
  let gs := (upto 0 4).map (fun g =>
    let js := upto (n * g) n
    let acc := lane 32 d g
    if isInt f then
      (wrap 32 ((js.map (fun j => laneInt f a j * laneInt f b j)).foldl (· + ·) (acc : Int)), (0 : BitVec 5), false)
    else
      let x := roundLane 11 r (dotGroup r (js.map (fun j => (laneNum f r a j, laneNum f r b j)))
        (decodeNum 11 acc (ftzOf r)))
      (x.1, x.2, !ftzOf r && (isSubnormal 11 acc || isSubnormal 11 x.1 ||
        js.any (fun j => isSubnormal f (laneElem f a j) || isSubnormal f (laneElem f b j)))))
  { out := lanesWord 32 (gs.map (·.1)), flags := orFlags (gs.map (·.2.1)), slow := (gs.filter (·.2.2)).length }

/-- VSCALE: a × 2^b with b clamped to ±2^15 (R173). -/
def valVscale (t : Nat) (r : BitVec 4) (a b : Word) : VOut :=
  let f := typeFmt t
  laneOut f r true [a] (fun j =>
    let x := laneElem f a j
    let k := max (-(2 ^ 15 : Int)) (min (2 ^ 15) (signed (codeWidth f) (lane (codeWidth f) b j)))
    match decodeNum f x (ftzOf r) with
    | .fin s m e => if m = 0 then encodeNum f 0 false (.fin s 0 0)
                    else encodeNum f (modeOf r) (ftzOf r) (.fin s m (e + k))
    | y => (x, flagIf y.signalling fNV))

/-- VADDS: the sum saturated to the range of t (R166). -/
def valVadds (t : Nat) (a b : Word) : VOut :=
  let f := typeFmt t
  laneOut f 0 false [] (fun j =>
    let g := intRange f
    (wrap (codeWidth f) (max g.1 (min g.2 (laneInt f a j + laneInt f b j))), 0))

/-! ## Conversions (R179 to R182) -/

/-- One element converted from format f to format e (R34 to R40). -/
def convElem (e f : Nat) (r : BitVec 4) (x : Nat) : Nat × BitVec 5 :=
  encodeNum e (modeOf r) (ftzOf r) (decodeNum f x (ftzOf r)) (isInt f)

/-- Elements converted by a function, with their flags and lost turns (R43). -/
def convElems (e f n : Nat) (r : BitVec 4) (a : Word) (g : Nat → Nat → Nat × BitVec 5) :
    List Nat × BitVec 5 × Nat :=
  let rs := (upto 0 n).map (fun j => (laneElem f a j, g j (laneElem f a j)))
  (rs.map (·.2.1), orFlags (rs.map (·.2.2)),
   if ftzOf r then 0 else (rs.filter (fun x => isSubnormal f x.1 || isSubnormal e x.2.1)).length)

/-- Number of elements that a conversion converts (R179). -/
def convCount (e f : Nat) : Nat := 128 / max (codeWidth e) (codeWidth f)

/-- CVT (R179). -/
def valCvt (e f : Nat) (r : BitVec 4) (a : Word) : VOut :=
  let x := convElems e f (convCount e f) r a (fun _ => convElem e f r)
  { out := lanesWord (codeWidth e) x.1, flags := x.2.1, slow := x.2.2 }

/-- CVTSR: element j by random word j (R180). -/
def valCvtsr (e f : Nat) (r : BitVec 4) (a u : Word) : VOut :=
  let x := convElems e f (convCount e f) r a
    (fun j w => encodeDraw e (lane 32 u j) (ftzOf r) (decodeNum f w (ftzOf r)))
  { out := lanesWord (codeWidth e) x.1, flags := x.2.1, slow := x.2.2 }

/-- PACK: the converted elements shifted into the top of d (R181). -/
def valPack (e f : Nat) (r : BitVec 4) (a d : Word) : VOut :=
  let n := laneCount f
  let x := convElems e f n r a (fun _ => convElem e f r)
  let k := n * codeWidth e
  { out := (d >>> k) ||| (lanesWord (codeWidth e) x.1 <<< (128 - k)), flags := x.2.1, slow := x.2.2 }

/-- UNPACK: the widened elements, and what is left of a (R182). -/
def valUnpack (e f : Nat) (r : BitVec 4) (a : Word) : VOut × Word :=
  let n := laneCount e
  let x := convElems e f n r a (fun _ => convElem e f r)
  ({ out := lanesWord (codeWidth e) x.1, flags := x.2.1, slow := x.2.2 }, a >>> (n * codeWidth f))

/-! ## Z-mix (R183) -/

/-- A 32-bit rotation to the left. -/
def rotl32 (x : BitVec 32) (n : Nat) : BitVec 32 := x.rotateLeft n

/-- The rotation amounts of Z-mix. -/
def zmixRot : List (Nat × Nat) :=
  [(7, 13), (12, 6), (19, 25), (5, 10), (23, 16), (9, 29), (14, 8), (27, 20), (3, 26), (17, 4), (21, 15), (11, 22)]

/-- One pass of Z-mix. -/
def zmixPass (k0 k1 : BitVec 32) (s : BitVec 32 × BitVec 32 × BitVec 32 × BitVec 32)
    (j : Nat × Nat × Nat) : BitVec 32 × BitVec 32 × BitVec 32 × BitVec 32 :=
  let a := s.1 + s.2.1
  let b := rotl32 s.2.1 j.2.1 ^^^ a
  let c := s.2.2.1 + s.2.2.2
  let d := rotl32 s.2.2.2 j.2.2 ^^^ c
  if j.1 % 2 = 1 then (a ^^^ k0, d, c ^^^ (k1 + BitVec.ofNat 32 j.1), b) else (a, d, c, b)

/-- Zmix(K, C) (R183). -/
def zmix (k0 k1 : BitVec 32) (c : Word) : Word :=
  let s0 := (c.extractLsb' 0 32, c.extractLsb' 32 32, c.extractLsb' 64 32, c.extractLsb' 96 32)
  let s := (zmixRot.zipIdx.map (fun x => (x.2, x.1))).foldl (zmixPass k0 k1) s0
  (s.2.2.2 ++ (s.2.2.1 + k1) ++ s.2.1 ++ (s.1 + k0))

/-! ## The special-function unit (R174 to R178) -/

/-- The largest q with q × q ≤ n, by bits from i down. -/
def isqrtBits (n : Nat) : Nat → Nat → Nat
  | 0, q => q
  | i + 1, q =>
    let q' := q + 2 ^ i
    isqrtBits n i (if q' * q' ≤ n then q' else q)

/-- The integer square root of a number below 2^128. -/
def isqrt (n : Nat) : Nat := isqrtBits n 64 0

/-- A special function on the four f32 lanes. -/
def sfuLanes (g : Nat → Nat × BitVec 5) : VOut :=
  let rs := (upto 0 4).map g
  { out := lanesWord 32 (rs.map (·.1)), flags := orFlags (rs.map (·.2)) }

/-- RCP of one lane (R175). -/
def rcpLane (ftz : Bool) (x : Nat) : Nat × BitVec 5 :=
  match decodeNum 11 x ftz with
  | .fin s 0 _ => ((encodeNum 11 0 false (.inf s)).1, fDZ)
  | .fin s m e =>
    let l := Nat.log2 m
    let M := if l ≤ 23 then m * 2 ^ (23 - l) else m
    let ex : Int := e + l
    let Q := 2 ^ 47 / M
    if cmpMag Q (-ex - 24) 1 128 == .lt then encodeNum 11 1 ftz (.fin s Q (-ex - 24))
    else ((encodeNum 11 0 false (.inf s)).1, fOF ||| fNX)
  | .inf s => encodeNum 11 1 ftz (.fin s 0 0)
  | y => encodeNum 11 1 ftz y

/-- RSQ of one lane (R176). -/
def rsqLane (ftz : Bool) (x : Nat) : Nat × BitVec 5 :=
  match decodeNum 11 x ftz with
  | .fin s 0 _ => ((encodeNum 11 0 false (.inf s)).1, fDZ)
  | .fin s m e =>
    if s then ((encodeNum 11 0 false .default).1, fNV)
    else
      let l := Nat.log2 m
      let M := if l ≤ 23 then m * 2 ^ (23 - l) else m
      let ex : Int := e + l
      let p := ((ex - 23) % 2).toNat
      let E := ex - 23 - p
      encodeNum 11 1 ftz (.fin false (isqrt (2 ^ 96 / (M * 2 ^ p))) (-48 - E / 2))
  | .inf s => if s then ((encodeNum 11 0 false .default).1, fNV) else encodeNum 11 1 ftz (.fin false 0 0)
  | y => encodeNum 11 1 ftz y

/-- One Newton step of a lane: y × (c − k) where k is x × y, or x × y × y halved (R177). -/
def newtonLane (root : Bool) (r : BitVec 4) (x y : Nat) : Nat × BitVec 5 :=
  let a := decodeNum 11 x (ftzOf r)
  let b := decodeNum 11 y (ftzOf r)
  if b.isZero || b.isInf then encodeNum 11 0 false b
  else match nanResult [a, b] with
    | some z => roundLane 11 r z
    | none =>
      let c : Num := if root then .fin false 3 (-1) else .fin false 1 1
      let k := if root then (mulFin a (.fin false 1 (-1))).bind (fun z => (mulFin z b).bind (fun z => mulFin z b))
        else mulFin a b
      match k with
      | none => roundLane 11 r (.default, fNV)
      | some k =>
        let d := sumNum (modeOf r) [c, k.negate]
        if d.1.isNan then roundLane 11 r d
        else match mulFin b d.1 with
          | some z => roundLane 11 r (z, d.2)
          | none => roundLane 11 r (.default, fNV)

/-- The sum of the powers of y over factorials from term k on, in units of 2^-256. -/
def expTerms (y : Nat) : Nat → Nat → Nat → Nat
  | 0, _, _ => 0
  | n + 1, k, term => term + expTerms y n (k + 1) (term * y / 2 ^ 256 / (k + 1))

/-- The sum of z^(2k+1) / (2k+1) from term k on, in units of 2^-256. -/
def atanhTerms (z2 : Nat) : Nat → Nat → Nat → Nat
  | 0, _, _ => 0
  | n + 1, k, term => term / (2 * k + 1) + atanhTerms z2 n (k + 1) (term * z2 / 2 ^ 256)

/-- The natural logarithm of 2 in units of 2^-256. -/
def ln2 : Nat := 2 * atanhTerms (2 ^ 256 / 9) 90 0 (2 ^ 256 / 3)

/-- EXP2 of one lane, correctly rounded (R178): the power series of 2^f to 256 bits decides every
rounding of an f32, and a last bit below them stands for the rest. -/
def exp2Lane (r : BitVec 4) (x : Nat) : Nat × BitVec 5 :=
  let out := fun (z : Num) => encodeNum 11 (modeOf r) (ftzOf r) z
  match decodeNum 11 x (ftzOf r) with
  | .inf s => if s then out (.fin false 0 0) else out (.inf false)
  | .nar => out .nar
  | .nan s q p => out (.nan s q p)
  | .fin s m e =>
    if cmpMag m e 1024 0 == .gt then out (.fin false 1 (if s then -1024 else 1024))
    else
      let v := (Num.fin s m e).at (-160)
      let n := v / (2 ^ 160 : Nat)
      let f := (v % (2 ^ 160 : Nat)).toNat
      if f = 0 then out (.fin false 1 n)
      else
        let y := f * 2 ^ 96 * ln2 / 2 ^ 256
        out (.fin false (2 * expTerms y 80 0 (2 ^ 256) + 1) (n - 257))

/-- LOG2 of one lane, correctly rounded (R178), from the series of the inverse hyperbolic tangent to
256 bits. -/
def log2Lane (r : BitVec 4) (x : Nat) : Nat × BitVec 5 :=
  let out := fun (z : Num) => encodeNum 11 (modeOf r) (ftzOf r) z
  match decodeNum 11 x (ftzOf r) with
  | .inf s => if s then ((out .default).1, fNV) else out (.inf false)
  | .nar => out .nar
  | .nan s q p => out (.nan s q p)
  | .fin s m e =>
    if m = 0 then ((out (.inf true)).1, fDZ)
    else if s then ((out .default).1, fNV)
    else
      let l := Nat.log2 m
      let E : Int := e + l
      if m = 2 ^ l then out (.fin (decide (E < 0)) E.natAbs 0)
      else
        let z := (m - 2 ^ l) * 2 ^ 256 / (m + 2 ^ l)
        let lg : Nat := 2 * atanhTerms (z * z / 2 ^ 256) 90 0 z * 2 ^ 256 / ln2
        let v : Int := 2 * (E * (2 ^ 256 : Nat) + lg) + 1
        out (.fin (decide (v < 0)) v.natAbs (-257))

end Sys2Proof.Machine
end

