-- ==== Sys2Proof/Machine/Effects.lean ====
section
/-!
DEFINITION. Effects: the few kinds of change that a step can make, as data, and their application.
Every meaning is a list of stages; a stage reads the state and names its changes. What holds of
every kind of change therefore holds of every step. Then the accessors of the machine's objects.
-/

namespace Sys2Proof.Machine

/-- One change of the state. -/
inductive Eff where
  /-- Changes an object that is neither memory, nor the commit order, nor the journal. -/
  | obj (f : Objs → Objs)
  /-- Writes bytes from a location on. -/
  | store (loc : Nat) (bs : List Byte)
  /-- Sets n bytes from a location on to zero. -/
  | scrub (loc n : Nat)
  /-- Takes the next place in the commit order for a chunk that wrote or reduced these words. -/
  | commit (words : List Nat)
  /-- Writes the next entry of the journal; its JSN is the next one (R328). -/
  | journal (e : JEntry)
  /-- Schedules what comes at a cycle. -/
  | post (due : Nat) (a : Act)
  /-- Takes what is scheduled and satisfies a test off the agenda. -/
  | unpost (p : Act → Bool)
  /-- Ends the position of a slot, if it is the one being taken. -/
  | turnDone (slot : Nat)
  /-- Uses numbers of the counter. -/
  | draw (n : Nat)
  /-- Sets the slot whose bundle issues. -/
  | focus (slot : Nat)
  /-- Starts the commit order and the journal afresh, and CYCLE (R87, R328, R394). -/
  | restart

/-- The place of an act among those of one cycle: a rank, a slot address and a place at the slot. An alarm comes
first (R394), then the commands of the management queue, which kill, change and create contexts (R323), quantum end
before switch-in (R334), KILL of a kernel (R235), and whatever no rule places; then by slot address (R139, R219, R296) commits, quarantines (R370), round
starts and turns; what arrives at a quad, a die barrier or from a lathe, which a bundle of the cycle does not see (R74);
supervisor commands and deadlines (R219, R283); a GPUT's offer (R283); completion, twin
divergence, SUSPEND and RESUME (R235) and STOP (R296); a pre-emption request, and wake-ups last (R67). -/
def Act.place : Act → Nat × Nat × Nat
  | .ev (.sensorAlarm _ _) => (0, 0, 0)
  | .ev (.contextCreate _ _) | .ev (.contextChange _ _) | .ev (.contextKill _ _) | .ev (.contextDestroy _ _)
  | .ev (.map _ _ _) | .ev (.portConfig _ _ _) | .ev (.peerWindow _ _ _) | .ev (.portReset _ _) | .ev (.powerCap _ _)
  | .ev (.quenchLevel _ _) | .ev (.readSensors _ _) | .ev (.quote _ _ _) | .ev (.firmwareLoad _ _) => (1, 0, 0)
  | .ev (.quantumEnd _) => (2, 0, 0)
  | .ev (.quadSwitch _) => (3, 0, 0)
  | .ev (.hostKill _ _) => (4, 0, 0)
  | .ev (.chunkCommit slot) => (6, slot, 0)
  | .ev (.quarantine slot _ _ _) => (6, slot, 1)
  | .contain slot _ _ => (6, slot, 1)
  | .ev (.roundStart c) => (6, 64 * c, 2)
  | .ev (.waitLimit slot) => (6, slot, 3)
  | .turn slot => (6, slot, 3)
  | .walk q _ => (6, 2 ^ 18 + 64 * q, 3)
  | .ev (.remoteNearArrival _) => (6, 2 ^ 40, 0)
  | .ev (.dieBarrierArrival _) => (6, 2 ^ 40, 0)
  | .ev (.latheWordResult _) => (6, 2 ^ 40, 0)
  | .ev (.supervisorRestart _ _) => (7, 0, 0)
  | .ev (.supervisorAbandon _ _) => (7, 0, 0)
  | .ev (.supervisorSetcsr _ _) => (7, 0, 0)
  | .ev (.supervisorUnknown _ _) => (7, 0, 0)
  | .ev (.barrierDeadline _ _ _) => (7, 0, 0)
  | .offer _ _ _ => (8, 0, 0)
  | .ev (.kernelComplete _) => (9, 0, 0)
  | .ev (.twinHalt _) => (10, 0, 0)
  | .ev (.hostSuspend _ _) => (11, 0, 0)
  | .ev (.hostResume _ _) => (12, 0, 0)
  | .ev (.hostStop _ _) => (12, 0, 0)
  | .ev (.preemptionRequest _) => (13, 0, 0)
  | .ev (.sleepWake _) => (14, 0, 0)
  | .ev (.waittTimeout _) => (14, 0, 0)
  | _ => (5, 0, 0)

/-- The message that an event brings (R324, R396). -/
def Act.message? : Act → Option (BitVec 512)
  | .ev i => match i with
    | .hostLaunch _ m | .hostStop _ m | .hostSuspend _ m | .hostResume _ m | .hostKill _ m | .setPriority _ m
    | .readJournal _ m | .unknownCodeCommand _ m | .contextCreate m _ | .contextChange m _ | .contextKill m _
    | .contextDestroy m _ | .map m _ _ | .portConfig m _ _ | .peerWindow m _ _ | .portReset m _ | .powerCap m _
    | .quenchLevel m _ | .readSensors m _ | .quote m _ _ | .firmwareLoad m _ => some m
    | _ => none
  | _ => none

/-- Do two acts bring commands for one queue, which keep their order (R325)? -/
def sameQueue (x y : Act) : Bool :=
  match x.message?, y.message? with
  | some a, some b => bits a 63 48 == bits b 63 48
  | _, _ => false

/-- Does an entry of the agenda stand before a new one: by cycle, then by place, else as the older? -/
def agendaLe (x y : Nat × Act) : Bool :=
  let p := x.2.place
  let q := y.2.place
  decide (x.1 < y.1) || decide (x.1 = y.1) && (decide (p.1 < q.1) || sameQueue x.2 y.2 || decide (p.1 = q.1) &&
    (decide (p.2.1 < q.2.1) || decide (p.2.1 = q.2.1) && decide (p.2.2 ≤ q.2.2)))

/-- A list with an element put behind the last one that stands before it, if there is one. -/
def insertLast {α : Type} (le : α → α → Bool) (x : α) : List α → Option (List α)
  | [] => none
  | y :: r => match insertLast le x r with
    | some r' => some (y :: r')
    | none => if le y x then some (y :: x :: r) else none

/-- The agenda with one more entry. -/
def agendaAdd (l : List (Nat × Act)) (due : Nat) (a : Act) : List (Nat × Act) :=
  (insertLast agendaLe (due, a) l).getD ((due, a) :: l)

/-- The agenda without the position being taken of a slot. -/
def agendaDone (l : List (Nat × Act)) (now slot : Nat) : List (Nat × Act) :=
  match l with
  | (due, .turn x) :: r => if x = slot ∧ due ≤ now then r else l
  | _ => l

/-- Applies a change. -/
def Eff.apply (s : State) : Eff → State
  | .obj f => { s with o := f s.o }
  | .store loc bs => { s with mem := memWrite s.mem loc bs }
  | .scrub loc n => { s with mem := memScrub s.mem loc n }
  | .commit ws =>
    { s with commits := s.commits + 1
             lastWrite := ws.foldl (fun t w => tabPut t w (s.commits + 1)) s.lastWrite }
  | .journal e =>
    { s with journal := s.journal ++ [{ e with jsn := s.jsn }], jsn := s.jsn + 1 }
  | .post due a => { s with agenda := agendaAdd s.agenda due a }
  | .unpost p => { s with agenda := s.agenda.filter (fun x => !p x.2) }
  | .turnDone slot => { s with agenda := agendaDone s.agenda s.now slot }
  | .draw n => { s with fresh := s.fresh + n }
  | .focus slot => { s with cur := slot }
  | .restart => { s with commits := 0, lastWrite := [], journal := [], jsn := 1 }

/-- A stage of a meaning: what it changes, given the state it meets. -/
abbrev Stage := State → List Eff

/-- Applies the changes that a stage names. -/
def runStage (s : State) (st : Stage) : State := (st s).foldl Eff.apply s

/-- The stage that changes nothing. -/
def skip : Stage := fun _ => []

/-- The stage that makes the given changes. -/
def eff (l : List Eff) : Stage := fun _ => l

/-- One stage after another, as one stage. -/
def andThen (a b : Stage) : Stage := fun s => a s ++ b ((a s).foldl Eff.apply s)

/-- Stages in order, as one stage. -/
def seqS (l : List Stage) : Stage := l.foldr andThen (fun _ => [])

/-- The stage that a function picks from the state it meets. -/
def pick (f : State → List Stage) : Stage := fun s => seqS (f s) s

/-- A stage for each element. -/
def each {α : Type} (f : State → List α) (g : α → Stage) : Stage := pick (fun s => (f s).map g)

/-- A stage that acts only where a test holds. -/
def onlyIf (p : State → Bool) (st : Stage) : Stage := fun s => if p s then st s else []

/-- Runs stages in order. -/
def run (l : List Stage) (s : State) : State := l.foldl runStage s

/-! ## Accessors -/

/-- The thread in a slot. -/
def thr (s : State) (slot : Nat) : Thread := tabD s.o.slots slot {}

/-- Is a slot occupied? -/
def occupied (s : State) (slot : Nat) : Bool := tabHas s.o.slots slot

/-- Changes the thread in a slot. -/
def onThr (slot : Nat) (f : Thread → Thread) : Eff :=
  .obj (fun o => { o with slots := tabUpd o.slots slot f })

/-- Changes the restorable part of the thread in a slot. -/
def onArch (slot : Nat) (f : Arch → Arch) : Eff :=
  onThr slot (fun t => { t with arch := f t.arch })

/-- Changes the current chunk of the thread in a slot. -/
def onChunk (slot : Nat) (f : Chunk → Chunk) : Eff :=
  onThr slot (fun t => { t with chunk := f t.chunk })

/-- A core. -/
def core (s : State) (c : Nat) : Core := tabD s.o.cores c {}
/-- Changes a core. -/
def onCore (c : Nat) (f : Core → Core) : Eff :=
  .obj (fun o => { o with cores := tabMod o.cores c {} f })
/-- A quad. -/
def quad (s : State) (q : Nat) : Quad := tabD s.o.quads q {}
/-- Changes a quad. -/
def onQuad (q : Nat) (f : Quad → Quad) : Eff :=
  .obj (fun o => { o with quads := tabMod o.quads q {} f })
/-- A kernel. -/
def kernel (s : State) (k : Nat) : Kernel := tabD s.o.kernels k {}
/-- Changes a kernel. -/
def onKernel (k : Nat) (f : Kernel → Kernel) : Eff :=
  .obj (fun o => { o with kernels := tabUpd o.kernels k f })
/-- A group of a kernel. -/
def group? (s : State) (k g : Nat) : Option Group := tabGet (kernel s k).groups g
/-- Changes a group. -/
def onGroup (k g : Nat) (f : Group → Group) : Eff :=
  onKernel k (fun x => { x with groups := tabUpd x.groups g f })
/-- A task. -/
def task? (s : State) (t : Nat) : Option Task := tabGet s.o.tasks t
/-- Changes a task. -/
def onTask (t : Nat) (f : Task → Task) : Eff :=
  .obj (fun o => { o with tasks := tabUpd o.tasks t f })
/-- Changes a carry loop. -/
def onLoop (l : Nat) (f : Loop → Loop) : Eff :=
  .obj (fun o => { o with loops := tabUpd o.loops l f })
/-- Changes a bound sequence. -/
def onSeq (k : Nat) (f : Seq → Seq) : Eff :=
  .obj (fun o => { o with seqs := tabUpd o.seqs k f })
/-- A context. -/
def ctx? (s : State) (c : Nat) : Option Ctx := tabGet s.o.ctxs c
/-- Changes a context. -/
def onCtx (c : Nat) (f : Ctx → Ctx) : Eff :=
  .obj (fun o => { o with ctxs := tabUpd o.ctxs c f })
/-- Changes a queue. -/
def onQueue (q : Nat) (f : Queue → Queue) : Eff :=
  .obj (fun o => { o with queues := tabUpd o.queues q f })
/-- Changes a billet. -/
def onBillet (b : Nat) (f : Billet → Billet) : Eff :=
  .obj (fun o => { o with billets := tabUpd o.billets b f })
/-- Changes the module. -/
def onMod (f : Module → Module) : Eff := .obj (fun o => { o with mod := f o.mod })
/-- A die; a number above 3 names die 3. -/
def die (s : State) (d : Nat) : Die := s.o.dies.getD d {}
/-- Changes a die. -/
def onDie (d : Nat) (f : Die → Die) : Eff :=
  .obj (fun o => { o with dies := o.dies.setIfInBounds d (f (o.dies.getD d {})) })
/-- Changes a port. -/
def onPort (p : Nat) (f : Port → Port) : Eff :=
  .obj (fun o => { o with ports := o.ports.setIfInBounds p (f (o.ports.getD p {})) })

/-- Changes the thread of a task, in its slot or in its image (R93, R95). -/
def onTaskThr (t : Nat) (f : Thread → Thread) : Eff :=
  .obj (fun o =>
    match tabGet o.tasks t with
    | none => o
    | some x =>
      match x.slot with
      | some sl => { o with slots := tabUpd o.slots sl f }
      | none => { o with tasks := tabPut o.tasks t { x with image := x.image.map f } })

/-- The thread of a task, in its slot or in its image. -/
def taskThr? (s : State) (t : Nat) : Option Thread :=
  match task? s t with
  | none => none
  | some x =>
    match x.slot with
    | some sl => tabGet s.o.slots sl
    | none => x.image

/-- Schedules an event in this cycle. -/
def evNow (i : Instr) : Stage := fun s => [.post s.now (.ev i)]

/-- Is an item of the agenda the next word of a slot's lathe? -/
def isLatheIssue (slot : Nat) (a : Act) : Bool := a == .ev (.latheWordIssue slot)

/-- Bounds of R61, in cy: a remote near access. -/
def nearBound (slot q : Nat) : Nat :=
  if dieOf slot = q / 256 then 180 else 420

/-- Bound of a global load (R61): by realm and by whether the owning die is the reader's. -/
def loadBound (slot loc : Nat) : Nat :=
  if loc % 2 ^ 40 < 2 ^ 38 then (if locDie loc = dieOf slot then 640 else 900)
  else (if locDie loc = dieOf slot then 96 else 420)

/-! ## What a thread belongs to -/

/-- The kernel of the thread in a slot. -/
def kernelOf (s : State) (slot : Nat) : Kernel := kernel s (thr s slot).kernel

/-- The record of the thread's kernel. -/
def recOf (s : State) (slot : Nat) : LRec := (kernelOf s slot).lrec

/-- The task of the thread in a slot. -/
def taskOf (s : State) (slot : Nat) : Task :=
  (task? s (thr s slot).task).getD { kernel := 0, w := 0, g := 0, t := 0, ts := 0 }

/-- The context of the thread in a slot. -/
def ctxOf (s : State) (slot : Nat) : Nat := (kernelOf s slot).ctx

/-- Is a context's partition isolated (R18)? -/
def isolated (s : State) (c : Nat) : Bool := ((ctx? s c).map (·.cfg.isolated)).getD false

/-- Do the bounds hold for a context: in an isolated partition, unless the power throttling has reached it (R8, R18) or a
launch with race-watch runs there (R228)? -/
def bounded (s : State) (c : Nat) : Bool :=
  isolated s c && s.o.mod.throttle != .all && !s.o.kernels.any (fun k => k.2.ctx == c && k.2.lrec.racewatch && k.2.st == .running)

/-- A time of at most `bound` cycles; `i` tells those of one stage apart (log 5). -/
def within (s : State) (i bound : Nat) : Nat := 1 + Config.freeNat (s.fresh + i) % bound

/-- A latency of context c, of at most `bound` cycles where bounds hold (R8, R18, log 5). -/
def lat (s : State) (c i bound : Nat) : Nat :=
  if bounded s c then within s i bound else 1 + Config.freeNat (s.fresh + i)

/-- Schedules what comes within a bound of context c, and uses one number of the counter. -/
def postIn (c bound : Nat) (a : Act) : Stage := fun s =>
  [.post (s.now + lat s c 0 bound) a, .draw 1]

/-- Schedules an event within a bound of context c. -/
def evIn (c bound : Nat) (i : Instr) : Stage := postIn c bound (.ev i)

/-- Global bytes moved by a kernel's cores, while its intensity is measured (R250, log 63). -/
def countMoved (k n : Nat) : Stage := fun s =>
  if (kernel s k).measuring then [onKernel k (fun x => { x with moved := x.moved + n })] else []

/-- Is the launch of the thread a DETERM launch (R234)? -/
def determ (s : State) (slot : Nat) : Bool := (recOf s slot).determ

/-- Is the thread an iteration or a guess task, a speculative iteration of R276? -/
def speculative (s : State) (slot : Nat) : Bool :=
  match (taskOf s slot).kind with
  | .plain => false
  | _ => true

/-- Is the thread a guess task (R280)? -/
def guessing (s : State) (slot : Nat) : Bool :=
  match (taskOf s slot).kind with
  | .guess _ _ => true
  | _ => false

/-- The loop and index of an iteration task. -/
def iterOf (s : State) (slot : Nat) : Option (Nat × Nat) :=
  match (taskOf s slot).kind with
  | .iteration l j => some (l, j)
  | _ => none

/-- Is the task of a slot the lead of its loop (R276)? -/
def isLead (s : State) (slot : Nat) : Bool :=
  match iterOf s slot with
  | some (l, j) => match tabGet s.o.loops l with
    | some x => decide (x.lead = j) && (x.st == .running || x.st == .stalled)
    | none => false
  | none => false

/-- The slot address in a register value (R88), bits 17:0. -/
def slotAddr (v : Nat) : Nat := v % 2 ^ 18

/-- The quad number in a slot address. -/
def addrQuad (a : Nat) : Nat := a / 256 % 256

/-- Is a core enabled (R241)? -/
def coreEnabled (s : State) (c : Nat) : Bool :=
  (die s (c / 1024)).harvest.getLsbD (4 * (c / 4 % 256) + c % 4)

/-- Does a rectangle PARTQUADS with PARTDIES cover a quad (R240)? -/
def partHas (dies : BitVec 4) (quads : BitVec 64) (q : Nat) : Bool :=
  let n := q % 256
  let row := n / 12
  let col := n % 12
  dies.getLsbD (q / 256) && decide (n < 144)
    && decide (bits quads 31 24 ≤ row) && decide (row < bits quads 31 24 + bits quads 15 8)
    && decide (bits quads 23 16 ≤ col) && decide (col < bits quads 23 16 + bits quads 7 0)

/-- Does the partition of a context cover a quad? -/
def ctxHas (s : State) (c q : Nat) : Bool :=
  match ctx? s c with
  | some x => partHas x.cfg.partDies x.cfg.partQuads q
  | none => false

end Sys2Proof.Machine
end

