-- ==== Sys2Proof/Machine/Lines.lean ====
section
/-!
DEFINITION. Lines: marks of poison and latent errors of memory lines (R350 to R357).
-/

namespace Sys2Proof.Machine

/-- The first element for which a function answers. -/
def firstSome {α β : Type} (f : α → Option β) : List α → Option β
  | [] => none
  | x :: r => (f x).or (firstSome f r)

/-! ## Lines of memory (R350 to R357) -/

/-- The line of a location. -/
def lineOf (loc : Nat) : Nat := loc / 64

/-- The poison class of the line of a location, if it is POISONED. -/
def poisonAt (s : State) (loc : Nat) : Option Nat := tabGet s.o.poison (lineOf loc)

/-- The poison in n bytes at a location. -/
def poisonIn (s : State) (loc n : Nat) : Option Nat :=
  firstSome (fun l => tabGet s.o.poison l) (upto (lineOf loc) (lineOf (loc + n - 1) + 1 - lineOf loc))

/-- A walk-table page that leads to a location: its context and its attributes. -/
def pageOf (s : State) (loc : Nat) : Option (Nat × PageCfg) :=
  firstSome (fun c => firstSome (fun p =>
      let size := match p.2.size.toNat with
        | 0 => 2 ^ 16
        | 1 => 2 ^ 21
        | _ => 2 ^ 30
      let base := if p.2.hbm then hbmLoc p.2.die.toNat p.2.pa else storeLoc p.2.die.toNat p.2.pa
      if p.2.map && decide (base ≤ loc) && decide (loc < base + size) then some (c.1, p.2) else none)
    c.2.pages) s.o.ctxs

/-- The grain code of a location; near memory and unmapped lines are plain (R352). -/
def grainAt (s : State) (loc : Nat) : Nat :=
  match pageOf s loc with
  | some (_, p) => p.grain.toNat
  | none => 0

/-- Element width, strong bits and weak bits of a grain code (R353). -/
def grainBits (g : Nat) : Nat × Nat × Nat :=
  match g with
  | 1 | 2 => (32, 24, 8)
  | 3 | 4 => (16, 12, 4)
  | 5 | 6 => (16, 12, 4)
  | 7 | 8 => (8, 6, 2)
  | _ => (8, 8, 0)

/-- Is the weak part of a grain code protected by parity (R353)? -/
def grainParity (g : Nat) : Bool := g == 1 || g == 3 || g == 5 || g == 7

/-- Where bit i of a line stands (R352, R354): 0 in a symbol of the strong code, 1 in a weak byte with its parity,
2 unchecked. Bits 512 to 575 are the check bits: eight symbols of a plain line; five symbols of the strong code,
sixteen parity bits and eight bits never checked of a grained one. -/
def bitPlace (g i : Nat) : Nat × Nat :=
  let (e, st, k) := grainBits g
  if i < 512 then
    let el := i / e
    let b := i % e
    if b < k then (1, (k * el + b) / 8) else (0, (st * el + (b - k)) / 8)
  else if g = 0 ∨ i < 552 then (0, i / 8)
  else if grainParity g && decide (i < 568) then (1, i - 552)
  else (2, 0)

/-- What the code of a line finds (R352, R355, R356). -/
inductive LineSt where
  | clean
  | corrected
  | silent
  | trace
  | lost (cls : Nat)
  deriving DecidableEq, Repr

/-- Judges a line's flipped bits: `flips` are the bits of the line that differ from what was written. A free
choice decides whether errors beyond what a code detects (R352) are found, or delivered as free bytes. -/
def judge (g : Nat) (flips : List Nat) (free : Nat) : LineSt :=
  let strong := setAddAll [] ((flips.filter (fun i => (bitPlace g i).1 == 0)).map (fun i => (bitPlace g i).2))
  let weak := (flips.filter (fun i => (bitPlace g i).1 == 1)).map (fun i => (bitPlace g i).2)
  let odd := weak.any (fun b => (weak.filter (· == b)).length % 2 == 1)
  let even := grainParity g && weak.any (fun b => (weak.filter (· == b)).length % 2 == 0)
  let cls := if g = 0 then 3 else if g = 10 then 2 else 1
  let n := strong.length
  let fix := if g = 0 then 1 else 2
  if fix + 1 < n || even then (if Config.freeBool free then (if fix < n then .lost cls else .trace) else .silent)
  else if n = fix + 1 then .lost cls
  else if grainParity g && odd then .trace
  else if n ≠ 0 then .corrected
  else .clean

/-- The flipped bits of a line, counted in the line: 512 data bits and then 64 check bits (R352). -/
def flipsOf (s : State) (line : Nat) : List Nat :=
  (s.o.flips.filter (fun b => b / 576 == line)).map (fun b => b % 576)

/-- Does a write of n bytes from loc on replace a bit: one of its data bits, or a check bit of a line that it covers
whole (R356)? -/
def replaces (loc n b : Nat) : Bool :=
  let l := b / 576 * 64
  (decide (loc ≤ l) && decide (l + 64 ≤ loc + n)) ||
    (decide (b % 576 < 512) && decide (loc ≤ l + b % 576 / 8) && decide (l + b % 576 / 8 < loc + n))

/-- Removes flipped bits of a line that a test picks. -/
def clearFlips (line : Nat) (p : Nat → Bool) : Eff :=
  .obj (fun o => { o with flips := o.flips.filter (fun b => !(b / 576 == line && p (b % 576))) })

/-- The bytes of a line with flipped bits as stored turned back to what was written. -/
def mendLine (s : State) (line : Nat) (p : Nat → Bool) : Eff :=
  let fl := (flipsOf s line).filter p
  .store (line * 64) ((upto 0 64).map (fun j =>
    memGet s.mem (line * 64 + j) ^^^
      BitVec.ofNat 8 (total (fl.map (fun i => if i / 8 = j then 2 ^ (i % 8) else 0)))))

/-- The data of a line with an error outside its code's guarantee (R352): free bytes. -/
def freeLine (n : Nat) : List Byte := (upto 0 64).map (fun j => Config.freeByte (n + j))

/-- Reads a line of HBM, die store or near memory: what its code finds is corrected, counted, tolerated or
marked (R355, R356). Memory holds the bytes as stored, flipped bits included. -/
def lineRead (line : Nat) : Stage := fun s =>
  if (flipsOf s line).isEmpty then [] else
  let loc := line * 64
  let g := grainAt s loc
  match judge g (flipsOf s line) s.fresh with
  | .clean => [.draw 1]
  | .silent => [.store loc (freeLine s.fresh), clearFlips line (fun _ => true), .draw 64]
  | .corrected =>
    [mendLine s line (fun i => (bitPlace g i).1 == 0), clearFlips line (fun i => (bitPlace g i).1 == 0),
     onDie (locDie loc) (fun d => { d with corrected := d.corrected + 1 }), .draw 1]
  | .trace =>
    [mendLine s line (fun i => (bitPlace g i).1 == 0), clearFlips line (fun i => (bitPlace g i).1 == 0)] ++
    (match pageOf s loc with
    | some (c, _) =>
      if ((ctx? s c).map (fun x => x.cfg.tracePoison)).getD false
      then [.obj (fun o => { o with poison := tabPut o.poison line 0 }), clearFlips line (fun _ => true)]
      else [onCtx c (fun x => { x with trace := x.trace + 1 }), clearFlips line (fun _ => true)]
    | none => []) ++ [.draw 1]
  | .lost cls =>
    [.obj (fun o => { o with poison := tabPut o.poison line cls }), clearFlips line (fun _ => true), .draw 1]

/-- A byte with the flipped bits that its line's code corrects turned back (R352, R356). -/
def cleanByte (s : State) (loc : Nat) : Byte :=
  let g := if locGlobal loc then grainAt s loc else 0
  let fl := (flipsOf s (lineOf loc)).filter (fun i => i / 8 == loc % 64)
  let mend := fun (l : List Nat) => memGet s.mem loc ^^^ BitVec.ofNat 8 (total (l.map (fun i => 2 ^ (i % 8))))
  match judge g (flipsOf s (lineOf loc)) s.fresh with
  | .corrected => mend (fl.filter (fun i => (bitPlace g i).1 == 0))
  | .trace => mend (fl.filter (fun i => (bitPlace g i).1 == 0))
  | .silent => Config.freeByte (s.fresh + loc % 64)
  | _ => memGet s.mem loc

/-- The bytes that a read of n bytes delivers. -/
def lookBytes (s : State) (loc n : Nat) : List Byte :=
  if s.o.flips.isEmpty then memRead s.mem loc n else (upto loc n).map (cleanByte s)

/-- Reads the lines of n bytes at a location. -/
def linesRead (loc n : Nat) : List Stage :=
  (upto (lineOf loc) (lineOf (loc + n - 1) + 1 - lineOf loc)).map lineRead

/-- What a read of n bytes of near memory does to their lines (R356). -/
def nearRead (loc n : Nat) : Stage := fun s =>
  if s.o.flips.isEmpty || n == 0 then [] else seqS (linesRead loc n) s

/-- TRAPINFO of POISON in the global realm: the virtual address of the line (R369). -/
def lineVa (a : Nat) : BitVec 64 := BitVec.ofNat 64 (a / 64 * 64)

/-- Sets n bytes from a location on to zero: the marks and errors of what is covered whole go (R350, R356). -/
def wipe (loc n : Nat) : List Eff :=
  [.scrub loc n,
   .obj (fun o => { o with
     poison := o.poison.filter (fun p => !(decide (loc ≤ p.1 * 64) && decide (p.1 * 64 + 64 ≤ loc + n)))
     flips := o.flips.filter (fun b => !replaces loc n b) })]

/-- Bytes of near memory with their marks pass from one place to another, and the first is zero (R336). -/
def moveBytes (s : State) (a b n : Nat) : List Eff :=
  let marks := s.o.poison.filter (fun p => decide (a ≤ p.1 * 64) && decide (p.1 * 64 < a + n))
  (s.mem.filter (fun c => decide (a ≤ c.1) && decide (c.1 < a + n))).map (fun c => .store (b + (c.1 - a)) [c.2]) ++
  [.obj (fun o => { o with poison := marks.foldl (fun t p => tabPut t (lineOf (b + (p.1 * 64 - a))) p.2) o.poison })] ++ wipe a n

/-- Writes bytes from outside every chunk's buffer, as an engine unit or a packet does: the marks of
lines that are covered whole are cleared (R350). -/
def storeMarked (s : State) (loc : Nat) (bs : List Byte) : List Eff :=
  let whole := (upto (lineOf loc) (lineOf (loc + bs.length - 1) + 1 - lineOf loc)).filter
    (fun l => decide (loc ≤ l * 64) && decide (l * 64 + 64 ≤ loc + bs.length))
  if s.o.poison.isEmpty && s.o.flips.isEmpty then [.store loc bs]
  else [.store loc bs,
    .obj (fun o => { o with poison := o.poison.filter (fun p => !whole.contains p.1)
                            flips := o.flips.filter (fun b => !replaces loc bs.length b) })]

end Sys2Proof.Machine
end

