-- ==== Sys2Proof/Machine/Operands.lean ====
section
/-!
DEFINITION. Operands: how a word reads and writes register fields (R53, R54, R103 to R109, R124,
R125), how near and global addresses reach memory (R137, R152, R343), and the checks that every
word makes of its operands (R57). A `Plan` is what a word asks of the issue of its bundle, computed
from the state at issue (R55).
-/

namespace Sys2Proof.Machine

/-! ## The bundle at the PC -/

/-- The offset of the PC in the text, and whether the text holds it (R79). -/
def inText (s : State) (slot : Nat) : Bool :=
  let pc := (thr s slot).arch.pc.toNat
  let r := recOf s slot
  decide (r.text ≤ pc) && decide (pc < r.text + r.textlen)

/-- The bundle at the PC of a slot. -/
def bundleAt (s : State) (slot : Nat) : BitVec 64 :=
  (kernelOf s slot).text.getD (((thr s slot).arch.pc.toNat - (recOf s slot).text) / 8) 0

/-- A trap whose TRAPINFO is the bundle (R77, R369). -/
def bTrap (s : State) (slot : Nat) (c : Code) : Trap := ⟨c, bundleAt s slot⟩

/-- A trap whose TRAPINFO is a number. -/
def nTrap (c : Code) (n : Nat) : Trap := ⟨c, BitVec.ofNat 64 n⟩

/-! ## Registers -/

/-- A register field in the thread's window (R53). -/
def fieldReg (f : Nat) : Bool := decide (f < 112) && f != 0

/-- The value of a window register. -/
def Arch.reg (a : Arch) (f : Nat) : Word := a.regs.getD f 0

/-- Sets a window register. -/
def Arch.setReg (a : Arch) (f : Nat) (v : Word) : Arch := { a with regs := a.regs.setIfInBounds f v }

/-- A predicate; k0 reads all ones (R80). -/
def Arch.pred (a : Arch) (k : Nat) : BitVec 16 := if k = 0 then 0xFFFF else a.preds.getD k 0

/-- Sets a predicate; a write to k0 is discarded (R106). -/
def Arch.setPred (a : Arch) (k : Nat) (v : BitVec 16) : Arch :=
  if k = 0 then a else { a with preds := a.preds.setIfInBounds k v }

/-- The tag of a window register (R102). -/
def Arch.tag (a : Arch) (f : Nat) : RTag := tabD a.tags f .none

/-- Sets a tag. -/
def Arch.setTag (a : Arch) (f : Nat) (t : RTag) : Arch :=
  { a with tags := if t = .none then tabDel a.tags f else tabPut a.tags f t }

/-- The stream bound to a register. -/
def Arch.strm (a : Arch) (f : Nat) : Option Strm := a.streams.find? (fun x => x.reg == f)

/-- Changes the stream bound to a register. -/
def Arch.onStrm (a : Arch) (f : Nat) (g : Strm → Strm) : Arch :=
  { a with streams := a.streams.map (fun x => if x.reg = f then g x else x) }

/-- A register of the window that is dropped (R101). -/
def dropped (t : Thread) (f : Nat) : Bool :=
  fieldReg f && decide (t.arch.t ≤ f) && decide (f < t.limit)

/-- Is a register pending: the destination of a long instruction (R71) or in the lathe set (R192)? -/
def pending (t : Thread) (f : Nat) : Bool :=
  fieldReg f && (t.pend.any (fun p => p.dests.contains f) || t.arch.lathe.set.contains f)

/-- Has the slot any pending register or predicate (R71, R72)? -/
def anyPending (t : Thread) : Bool :=
  t.pend.any (fun p => p.dests.any fieldReg || p.pred.isSome) || !t.arch.lathe.set.isEmpty

/-- A slot whose wait has ended (R66, R72, R74): it returns to the rotation, or parks where the
marker of its bundle still waits for pending registers; a window that the core has reclaimed regrows
first (R112). It has no position in the running round (R68). -/
def woken (t : Thread) : Thread :=
  if t.cur < t.arch.t then { t with st := .sleeping, wait := some (.window t.arch.t), waitCount := 0, outer := none } else
  { t with st := if t.mark && anyPending t then .parked else t.back, wait := none, waitCount := 0, joining := true }

/-- What a thread waits for, under the regrowth of its window too (R112). -/
def Thread.awaits (t : Thread) : Option Wait :=
  match t.outer with
  | some (_, w, _) => w
  | none => t.wait

/-- What a read of a hearth register can return: the last value, and each value that a write of the
last 7 cy replaced (R104). -/
def hearthValues (now : Nat) (h : Hearth) : List Word :=
  h.v :: (h.old.filter (fun x => decide (now < x.1 + 8))).map (·.2)

/-- A read of a hearth register. -/
def hearthRead (s : State) (slot i : Nat) : Word :=
  let l := hearthValues s.now (tabD (core s (coreOf slot)).hearth i {})
  l.getD (Config.freeNat (s.fresh + i) % l.length) 0

/-- A write of a hearth register. -/
def hearthWrite (now : Nat) (v : Word) (h : Hearth) : Hearth :=
  { v := v, old := (now, h.v) :: h.old.filter (fun x => decide (now < x.1 + 8)) }

/-! ## Work identifiers and recipes (R107 to R109, R232) -/

/-- Field i of a work identifier (R232). -/
def widField (r : LRec) (w i : Nat) : Nat :=
  (w >>> total (r.widths.take i)) % 2 ^ r.widths.getD i 0

/-- An operand of a recipe operation: its source kind and value (R107); `rg` gives the thread's
registers. -/
def recipeArg (s : State) (slot : Nat) (rg : Nat → Word) (prev : Dword) (kind v : Nat) (imm : Dword) : Dword :=
  match kind with
  | 0 => prev
  | 1 => lo64 (rg v)
  | 2 => lo64 (hearthRead s slot v)
  | 3 => BitVec.ofNat 64 (widField (recOf s slot) (taskOf s slot).w v)
  | 4 => BitVec.ofNat 64 (slot % 64)
  | _ => imm

/-- What an operation of a recipe computes (R108). -/
def recipeOp (op : Nat) (a b : Dword) : Dword :=
  match op with
  | 1 => a + b
  | 2 => a - b
  | 3 => a * b
  | 4 => a &&& b
  | 5 => a ||| b
  | 6 => a ^^^ b
  | 7 => a <<< (b.toNat % 64)
  | 8 => a >>> (b.toNat % 64)
  | 9 => a.sshiftRight (b.toNat % 64)
  | 10 => if a.toInt ≤ b.toInt then a else b
  | 11 => if a.toInt ≤ b.toInt then b else a
  | 12 => a
  | _ => a.extractLsb' 55 9 ++ (a.setWidth 55 + b.setWidth 55)

/-- The operations of a recipe before END. -/
def recipeOps (ws : List (BitVec 32)) : List (BitVec 32) := ws.takeWhile (fun w => bits w 31 27 != 0)

/-- One operation of a recipe. -/
def recipeStep (s : State) (slot : Nat) (rg : Nat → Word) (prev : Dword) (w : BitVec 32) : Dword :=
  recipeOp (bits w 31 27)
    (recipeArg s slot rg prev (bits w 26 24) (bits w 23 17) ((w.extractLsb' 17 7).signExtend 64))
    (recipeArg s slot rg prev (bits w 16 14) (bits w 13 0) ((w.extractLsb' 0 14).signExtend 64))

/-- The value of a recipe over given values of the thread's registers (R108). -/
def recipeOver (s : State) (slot : Nat) (rg : Nat → Word) (ws : List (BitVec 32)) : Word :=
  ext64 ((recipeOps ws).foldl (recipeStep s slot rg) 0)

/-- The value of a recipe over the current values of its operands (R109). -/
def recipeValue (s : State) (slot : Nat) (ws : List (BitVec 32)) : Word :=
  recipeOver s slot (thr s slot).arch.reg ws

/-- The thread registers that a recipe reads. -/
def recipeRegs (ws : List (BitVec 32)) : List Nat :=
  (recipeOps ws).flatMap (fun w =>
    (if bits w 26 24 = 1 then [bits w 23 17] else []) ++ (if bits w 16 14 = 1 then [bits w 13 0] else []))

/-- Recipe n of the thread's launch. -/
def recipeOf (s : State) (slot n : Nat) : List (BitVec 32) := (kernelOf s slot).recipes.getD n []

/-- The recipe that a read of a dropped register replays. -/
def replayOf (s : State) (slot f : Nat) : List (BitVec 32) :=
  if dropped (thr s slot) f then
    match (thr s slot).arch.tag f with
    | .recipe n => recipeOf s slot n
    | _ => []
  else []

/-! ## Reading a field -/

/-- The value that a register field gives to the words of a bundle (R53, R103, R124). -/
def rd (s : State) (slot f : Nat) : Word :=
  if f = 0 then 0
  else if 112 ≤ f then hearthRead s slot (f - 112)
  else if dropped (thr s slot) f then
    match (thr s slot).arch.tag f with
    | .recipe n => recipeValue s slot (recipeOf s slot n)
    | _ => 0
  else match (thr s slot).arch.strm f with
    | some x => match x.fifo with
      | .data w :: _ => w
      | _ => 0
    | none => (thr s slot).arch.reg f

/-- The low 64 bits of a field's value. -/
def rd64 (s : State) (slot f : Nat) : Dword := lo64 (rd s slot f)

/-! ## The checks of register operands (R57, class 2) -/

/-- REGRANGE of a field (R53). -/
def rangeTrap (t : Thread) (f : Nat) : Option Trap :=
  if fieldReg f && decide (t.limit ≤ f) then some (nTrap .regrange f) else none

/-- REGRANGE of a run of registers (R54). -/
def runTrap (t : Thread) (run : Nat × Nat) : Option Trap :=
  firstSome (fun f => if !fieldReg f || decide (t.limit ≤ f) then some (nTrap .regrange run.1) else none)
    (upto run.1 run.2)

/-- HAZARD of a field, or of a register that its replay reads (R73). -/
def hazardTrap (s : State) (slot f : Nat) : Option Trap :=
  let t := thr s slot
  if pending t f then some (nTrap .hazard f)
  else firstSome (fun r => if pending t r then some (nTrap .hazard r) else none)
    (recipeRegs (replayOf s slot f))

/-- HAZARD of a register that is written (R73). -/
def hazardW (t : Thread) (f : Nat) : Option Trap :=
  if pending t f then some (nTrap .hazard f) else none

/-- DROPPED-WRITE of a field (R103). -/
def droppedTrap (t : Thread) (f : Nat) : Option Trap :=
  if dropped t f then some (nTrap .droppedWrite f) else none

/-- RECIPE-DEPTH: a replay reads a dropped register (R109). -/
def depthTrap (s : State) (slot f : Nat) : Option Trap :=
  firstSome (fun r => if dropped (thr s slot) r then some (nTrap .recipeDepth r) else none)
    (recipeRegs (replayOf s slot f))

/-- What a word names, with how it uses it: the field of one register, a run of `n` registers (R54), or a
predicate. -/
structure Field where
  f : Nat
  r : Bool
  w : Bool
  n : Option Nat := none
  pred : Bool := false
  deriving DecidableEq, Repr

/-- A register field that is read, written, or both. -/
def inF (f : Nat) : Field := { f := f, r := true, w := false }
/-- A register field that is written. -/
def outF (f : Nat) : Field := { f := f, r := false, w := true }
/-- A register field that is read and written. -/
def ioF (f : Nat) : Field := { f := f, r := true, w := true }
/-- A field that a word reads. -/
def fr (f : BitVec 7) : Field := inF f.toNat
/-- A field that a word writes. -/
def fw (f : BitVec 7) : Field := outF f.toNat
/-- A field that a word reads and writes. -/
def fx (f : BitVec 7) : Field := ioF f.toNat
/-- A run that a word reads (R54). -/
def inRun (b n : Nat) : Field := { inF b with n := some n }
/-- A run that a word writes (R54). -/
def outRun (b n : Nat) : Field := { outF b with n := some n }
/-- A predicate that a word reads. -/
def inPred (k : BitVec 3) : Field := { inF k.toNat with pred := true }
/-- A predicate that a word writes. -/
def outPred (k : BitVec 3) : Field := { outF k.toNat with pred := true }

/-- A field or run as fields of one register each; a predicate names none. -/
def Field.each (x : Field) : List Field :=
  if x.pred then [] else match x.n with
    | none => [x]
    | some n => (upto x.f n).map (fun f => { f := f, r := x.r, w := x.w })

/-- The register fields of a word, runs taken apart. -/
def regFields (fs : List Field) : List Field := fs.flatMap Field.each

/-- REGRANGE of a field or run (R53, R54). -/
def Field.range (t : Thread) (x : Field) : Option Trap :=
  if x.pred then none else match x.n with
    | none => rangeTrap t x.f
    | some n => runTrap t (x.f, n)

/-- HAZARD of a pending predicate: its long instruction's destination reports it (R73, log 8). -/
def predHazard (t : Thread) (k : Nat) : Option Trap :=
  firstSome (fun p => if p.pred = some k then some (nTrap .hazard (p.dests.headD 0)) else none) t.pend

/-- HAZARD of a register, read or written (R73). -/
def hazardOf (s : State) (slot : Nat) (x : Field) : Option Trap :=
  if x.r then hazardTrap s slot x.f else hazardW (thr s slot) x.f

/-- HAZARD of a field, run or predicate (R73). -/
def Field.hazard (s : State) (slot : Nat) (x : Field) : Option Trap :=
  if x.pred then predHazard (thr s slot) x.f else firstSome (hazardOf s slot) x.each

/-- The checks of class 2 over what a word names, in the order destination, a, b (R57, R73). -/
def regTraps (s : State) (slot : Nat) (fs : List Field) : Option Trap :=
  let t := thr s slot
  (firstSome (Field.range t) fs).or <|
  (firstSome (Field.hazard s slot) fs).or <|
  (firstSome (fun x => if x.w then droppedTrap t x.f else none) (regFields fs)).or <|
  firstSome (fun x => if x.r then depthTrap s slot x.f else none) (regFields fs)

/-! ## Streams at a field (R121 to R125) -/

/-- The number of units of a stream (R121). -/
def Strm.total (x : Strm) : Nat := x.counts.foldl (· * ·) 1

/-- Is the last unit done (R123)? -/
def Strm.exhausted (x : Strm) : Bool := decide (x.total ≤ x.pos)

/-- The address of unit u (R121). -/
def Strm.addr (x : Strm) (u : Nat) : Int :=
  let c := fun i => x.counts.getD i 1
  let st := fun i => x.strides.getD i 0
  (bits x.ptr 54 0 : Int) + ((u % c 0 : Nat) : Int) * st 0 + ((u / c 0 % c 1 : Nat) : Int) * st 1
    + ((u / (c 0 * c 1) % c 2 : Nat) : Int) * st 2 + ((u / (c 0 * c 1 * c 2) : Nat) : Int) * st 3

/-! ## Near and global addresses -/

/-- Where a near address leads: a location, and whether another quad holds it (R137). -/
structure NearAt where
  loc : Nat
  remote : Bool
  deriving DecidableEq, Repr

/-- A group of a kernel that stands on a quad. -/
def groupOn (k : Kernel) (q : Nat) : Option Group :=
  ((k.groups.find? (fun g => g.2.quad == q && (g.2.st == .placed || g.2.st == .suspended)))).map (·.2)

/-- The scratchpad address of an offset into a group's region. -/
def regionAt (r : LRec) (g : Group) (off : Nat) : Option Nat :=
  if off < r.scratch then some (scratchLoc g.quad (g.base + off)) else none

/-- The place that a near address of a thread names (R137); none is NEAR-RANGE. -/
def nearAt (s : State) (slot : Nat) (ea : Nat) : Option NearAt :=
  let k := kernelOf s slot
  let r := k.lrec
  let own := tabGet k.groups (taskOf s slot).g
  if ea < 0x10000 then
    if ea < r.tcm then some ⟨tcmLoc slot ea, false⟩ else none
  else if 0x100000 ≤ ea ∧ ea < 0x200000 then
    (own.bind (fun g => regionAt r g (ea - 0x100000))).map (fun l => ⟨l, false⟩)
  else if 0x80000000 ≤ ea then
    let x := ea - 0x80000000
    let d := x / 0x10000000
    let q := x / 0x100000 % 256
    if 4 ≤ d ∨ 143 < q then none
    else if d * 256 + q = quadOf slot then
      (own.bind (fun g => regionAt r g (x % 0x100000))).map (fun l => ⟨l, false⟩)
    else ((groupOn k (d * 256 + q)).bind (fun g => regionAt r g (x % 0x100000))).map (fun l => ⟨l, true⟩)
  else none

/-- Does a near region of n bytes lie wholly in the own TCM or the own quad scratchpad? -/
def nearOwn (s : State) (slot ea n : Nat) : Option Nat :=
  match nearAt s slot ea, nearAt s slot (ea + n - 1) with
  | some a, some b => if a.remote || b.remote || a.loc + (n - 1) != b.loc then none else some a.loc
  | _, _ => none

/-- Kinds of access for R343's check and R348's ACC. -/
inductive Acc where
  | read
  | write
  | fetch
  | append
  | atomic
  deriving DecidableEq, Repr

/-- The ACC bit of an access (R348). -/
def Acc.num : Acc → Nat
  | .read => 0
  | .write => 1
  | .fetch => 2
  | .append => 3
  | .atomic => 1

/-- Page size of a TLB entry (R342). -/
def entrySize (e : BitVec 128) : Nat :=
  match bits e 111 110 with
  | 0 => 2 ^ 16
  | 1 => 2 ^ 21
  | _ => 2 ^ 30

/-- Does a TLB entry contain an address for a tenant (R343)? -/
def entryHas (e : BitVec 128) (tid va : Nat) : Bool :=
  e.getLsbD 0 && decide (bits e 127 116 = tid)
    && decide (va / entrySize e = bits e 54 16 * 2 ^ 16 / entrySize e)

/-- Where an entry leads an address (R342). -/
def entryLoc (e : BitVec 128) (va : Nat) : Nat :=
  let pa := bits e 84 64 * 2 ^ 16 + va % entrySize e
  if e.getLsbD 104 then hbmLoc (bits e 103 102) pa else storeLoc (bits e 103 102) pa

/-- Does an entry allow an access (R343)? -/
def entryAllows (e : BitVec 128) : Acc → Bool
  | .read => e.getLsbD 105
  | .write => e.getLsbD 106
  | .fetch => e.getLsbD 107
  | .append => e.getLsbD 106 && e.getLsbD 108
  | .atomic => e.getLsbD 105 && e.getLsbD 106

/-- What a lookup of the core's TLB gives (R343): a location with the entry, a trap, or a miss. -/
inductive Xlat where
  | hit (loc : Nat) (e : BitVec 128)
  | trap (t : Trap)
  | miss (va : Nat) (acc : Acc)
  deriving DecidableEq, Repr

/-- The entry of a core's TLB that contains an address. -/
def tlbFind (c : Core) (tid va : Nat) : Option (BitVec 128) :=
  (c.tlb.find? (fun x => entryHas x.2 tid va)).map (·.2)

/-- Would an access store to a page that holds the text of the slot's own launch (R46, R153)? -/
def storesText (s : State) (slot : Nat) (e : BitVec 128) (acc : Acc) : Bool :=
  let r := recOf s slot
  let a := bits e 54 16 * 65536
  acc != .read && acc != .fetch && tabHas s.o.kernels (thr s slot).kernel &&
    decide (a < r.text + r.textlen) && decide (r.text < a + entrySize e)

/-- Translates an address for a slot (R343); text is read-only for its launch (R46). -/
def translate (s : State) (slot va : Nat) (acc : Acc) : Xlat :=
  match tlbFind (core s (coreOf slot)) (ctxOf s slot) va with
  | none => .miss va acc
  | some e => if entryAllows e acc && !storesText s slot e acc then .hit (entryLoc e va) e else .trap (nTrap .perm va)

/-! ## Plans -/

/-- What a word asks of the issue of its bundle. `ill` and `priv` are the checks of class 1, `c2`
and `c3` the first traps of classes 2 and 3 (R57). `hold` loses the position (R69), `miss` holds the
bundle back for a translation (R57), `sleep` says what the instruction waits for when its condition
does not hold (R74), with `first` done when it goes to sleep. A `point` is a chunk point (R142); `ends` ends the chunk after the
bundle (R141), and `after` follows its commit. `npc` is the next PC when it is not PC + 8; `mxs` counts
the places that the word needs in the matrix queue (R195), and `near` gives the own near memory that it accesses at issue,
location and bytes (R139). -/
structure Plan where
  ill : Bool := false
  priv : Bool := false
  c2 : Option Trap := none
  c3 : Option Trap := none
  poison : Option (Nat × BitVec 64) := none
  dests : List Nat := []
  pops : List Nat := []
  lost : Nat := 0
  hold : Bool := false
  miss : Option (Nat × Acc) := none
  sleep : Option Wait := none
  first : List Stage := []
  point : Bool := false
  irrev : Bool := false
  ends : Bool := false
  after : After := .nothing
  npc : Option (BitVec 64) := none
  stages : List Stage := []
  mark : Bool := false
  vpipe : Bool := false
  mxs : Nat := 0
  near : List (Nat × Nat) := []

/-- A register that R56 compares: any but x0. -/
def destOf (f : Nat) : List Nat := if f = 0 then [] else [f]

/-- The destinations that R56 compares: registers but x0, and predicates but k0 at 128 + k. -/
def Field.dests (x : Field) : List Nat :=
  if !x.w then [] else if x.pred then (if x.f = 0 then [] else [128 + x.f]) else x.each.flatMap (fun y => destOf y.f)

/-- The stream trap of a field (R125), or the fault that the fetch of its unit found (R124). -/
def streamTrap (t : Thread) (x : Field) : Option Trap :=
  if dropped t x.f then none else
  match t.arch.strm x.f with
  | none => none
  | some y =>
    if x.r && y.write then some (nTrap .stream x.f)
    else if x.w && !y.write then some (nTrap .stream x.f)
    else if y.exhausted then some (nTrap .stream x.f)
    else if x.r then
      match y.fifo with
      | .fault f :: _ => some f
      | _ => none
    else none

/-- The stream operand of a recipe that a read replays (R109). -/
def replayStream (s : State) (slot : Nat) (x : Field) : Option Trap :=
  if x.r then
    firstSome (fun r => if ((thr s slot).arch.strm r).isSome then some (nTrap .stream r) else none)
      (recipeRegs (replayOf s slot x.f))
  else none

/-- The poison in the unit that a field pops (R357). -/
def fieldPoison (t : Thread) (x : Field) : Option (Nat × BitVec 64) :=
  if x.r && !dropped t x.f then
    match t.arch.strm x.f with
    | some y => match y.fifo with
      | .poisoned c a :: _ => if y.write then none else some (c, a)
      | _ => none
    | none => none
  else none

/-- Does a read of the field wait for a unit (R124)? -/
def fieldHold (t : Thread) (x : Field) : Bool :=
  x.r && !dropped t x.f &&
    match t.arch.strm x.f with
    | some y => !y.write && !y.exhausted && y.fifo.isEmpty
    | none => false

/-! ## Regions of loops and sequences -/

/-- The records of append regions of loops of the slot's context that hold an address, each with the owner. -/
def loopRecords (s : State) (slot va : Nat) : List (Nat × Nat) :=
  s.o.loops.filterMap (fun x =>
    if (kernel s x.2.kernel).ctx = ctxOf s slot then
      firstSome (fun r => if r.1 ≤ va ∧ va < r.1 + r.2.1 * r.2.2 then some (x.1, (va - r.1) / r.2.1) else none)
        x.2.req.regions
    else none)

/-- The append region that holds an address, of the slot's own loop before others: the owner and the record. -/
def loopRegion (s : State) (slot va : Nat) : Option (Nat × Nat) :=
  let l := loopRecords s slot va
  (l.find? (fun x => (iterOf s slot).map (·.1) == some x.1)).or l.head?

/-- Has the thread appended at a position of a sequence (R315)? -/
def Arch.appendedAt (a : Arch) (x : Nat × Nat) : Bool := a.seqApps.any (fun y => y.1 == x.1 && y.2.1 == x.2 + 1)

/-- The KV region of a sequence of the slot's context that holds an address, one into which the thread may store before
others: its key and the record. -/
def kvRegion (s : State) (slot va : Nat) : Option (Nat × Nat) :=
  let l := s.o.seqs.filterMap (fun x =>
    if x.2.cid = ctxOf s slot then
      firstSome (fun r => if r.1 ≤ va ∧ va < r.1 + r.2.1 * r.2.2 then some (x.1, (va - r.1) / r.2.1) else none)
        x.2.kvreg
    else none)
  (l.find? (thr s slot).arch.appendedAt).or l.head?

/-- How an access by a slot stands to the region that holds its address (R285, R315): in none; in one,
but by no rule of its iterations; in the iteration's own record; in that of lower iteration j of a
loop; or above. -/
inductive Rel where
  | outside
  | free
  | mine
  | lower (owner j : Nat)
  | above
  deriving DecidableEq, Repr

/-- The relation of an access to loop and KV regions. -/
def relOf (s : State) (slot va : Nat) : Rel :=
  match loopRegion s slot va with
  | some (o, j) =>
    (match iterOf s slot with
     | some (l, k) => if l ≠ o then .free else if j = k then .mine else if j < k then .lower o j else .above
     | none => .free)
  | none => match kvRegion s slot va with
    | none => .outside
    | some (key, p) =>
      match iterOf s slot with
      | none => .free
      | some (l, k) =>
        if (thr s slot).arch.appendedAt (key, p) then .mine
        else match (tabGet s.o.seqs key).bind (fun q => tabGet q.vers (p + 1)) with
          | none => .free
          | some (_, tk) =>
            match (tabGet s.o.loops l).bind (fun lp => lp.iters.find? (fun i => i.2.1 == tk)) with
            | none => .free
            | some i => if i.1 < k then .lower l i.1 else if i.1 = k then .free else .above

/-- May an iteration store here: PERM in a region but inside its own record (R285, R315). -/
def regionStoreTrap (s : State) (slot va : Nat) (r : Rel) : Option Trap :=
  let bad := some (nTrap .perm va)
  match r with
  | .outside => none
  | .mine => none
  | .free => if (iterOf s slot).isSome && (loopRegion s slot va).isNone then bad else none
  | _ => bad

/-- A landed line that is written again keeps its bytes as they landed (R285). -/
def keepLanded (slot loc va : Nat) : Stage := fun s =>
  let line := va / 64
  let bs := lookBytes s (loc - va % 64) 64
  ((s.o.loops.filter (fun l => (kernel s l.2.kernel).ctx == ctxOf s slot && l.2.landed.contains line && !tabHas l.2.again line)).map
      (fun l => onLoop l.1 (fun x => { x with again := tabPut x.again line bs }))) ++
    ((s.o.seqs.filter (fun q => q.2.cid == ctxOf s slot && q.2.landed.contains line && !tabHas q.2.again line)).map
      (fun q => onSeq q.1 (fun x => { x with again := tabPut x.again line bs })))

/-- An append store lands in place at issue, and its line at the chunk's commit (R285). -/
def appendStore (slot loc va : Nat) (bs : List Byte) : Stage := fun s =>
  keepLanded slot loc va s ++ storeMarked s loc bs ++ [onChunk slot (fun c => { c with landed := setAdd c.landed (va / 64) })] ++
  countMoved (thr s slot).kernel bs.length s

/-! ## Requests to other quads -/

/-- Sends a request to another quad (R140): it arrives within the access's bound, after the thread's
earlier requests to that quad; `dests` wait for its result. -/
def sendNear (slot loc : Nat) (va : Nat) (op : NearOp) (dests : List Nat) (value : Bool) : Stage := fun s =>
  let q := locQuad loc
  let t := thr s slot
  let b := nearBound slot q
  let before := ((s.o.near.filter (fun r => r.2.task == t.task && locQuad r.2.loc == q)).map (·.2.order)).foldl max 0
  let due := max (s.now + lat s (ctxOf s slot) 0 b) before
  let r : NearReq := { task := t.task, slot := slot, kernel := t.kernel, loc := loc, va := BitVec.ofNat 64 va, op := op
                       pend := if value then some s.fresh else none, order := due, upto := s.now + b }
  (if dests.isEmpty then [] else
    [onThr slot (fun t => { t with pend := t.pend ++ [{ id := s.fresh, dests := dests }] })]) ++
  [.obj (fun o => { o with near := tabPut o.near s.fresh r }),
   .post due (.ev (.remoteNearArrival s.fresh)), .draw 1]

/-! ## Race-watch (R228) -/

/-- The scratchpad words of n bytes at a location that are not words of a bound ring. -/
def raceWords (s : State) (loc n : Nat) : List Nat :=
  if locScratch loc then
    (upto (locOff loc / 8) ((locOff loc + n - 1) / 8 + 1 - locOff loc / 8)).filter (fun w =>
      !((quad s (locQuad loc)).chans.any (fun c => decide (locOff c.1 ≤ 8 * w) && decide (8 * w < locOff c.1 + 8 * c.2.n))))
  else []

/-- What race-watch holds of a word in the current epoch. -/
def raceAt (q : Quad) (w : Nat) : Race :=
  match tabGet q.race w with
  | some r => if r.epoch = q.epoch then r else { epoch := q.epoch, writer := none, readers := [] }
  | none => { epoch := q.epoch, writer := none, readers := [] }

/-- DETERMINISM of a plain access in a race-watch launch. -/
def raceTrap (s : State) (slot loc ea n : Nat) (write : Bool) : Option Trap :=
  if (recOf s slot).racewatch then
    firstSome (fun w =>
      let r := raceAt (quad s (locQuad loc)) w
      let other := match r.writer with
        | some x => x != slot
        | none => false
      if other || (write && r.readers.any (· != slot))
      then some (nTrap .determinism (ea - locOff loc % 8 + (8 * w - locOff loc / 8 * 8))) else none) (raceWords s loc n)
  else none

/-- Records a plain access. -/
def raceMark (slot loc n : Nat) (write : Bool) : Stage := fun s =>
  if (recOf s slot).racewatch && locScratch loc then
    [onQuad (locQuad loc) (fun q => { q with race := (raceWords s loc n).foldl (fun t w =>
      let r := raceAt q w
      tabPut t w (if write then { r with writer := some slot } else { r with readers := setAdd r.readers slot })) q.race })]
  else []

/-! ## Appends -/

/-- Where an append goes: a location with its address, in the global or the near realm, there perhaps on another quad;
`mine` is the own record of a region (R285). -/
structure AppendTo where
  loc : Nat
  ea : Nat
  global : Bool
  remote : Bool := false
  mine : Bool := false

/-- The place that a write stream's next unit goes to, or the fault of its address or a miss (R124). -/
def appendTo (s : State) (slot : Nat) (x : Strm) : Except (Option Trap × Option (Nat × Acc)) AppendTo :=
  let ea := x.addr x.pos
  if x.global then
    if ea < 0 ∨ (2 : Int) ^ 55 ≤ ea then .error (some ⟨.page, BitVec.ofInt 64 ea⟩, none)
    else
      let mine := relOf s slot ea.toNat == .mine
      match translate s slot ea.toNat (if mine then .append else .write) with
      | .hit l _ => .ok { loc := l, ea := ea.toNat, global := true, mine := mine }
      | .trap t => .error (some t, none)
      | .miss va a => .error (none, some (va, a))
  else if ea < 0 ∨ (2 : Int) ^ 32 ≤ ea then .error (some ⟨.nearRange, BitVec.ofInt 64 ea⟩, none)
  else match nearAt s slot ea.toNat with
    | some p => .ok { loc := p.loc, ea := ea.toNat, global := false, remote := p.remote }
    | none => .error (some (nTrap .nearRange ea.toNat), none)

/-- What the append of a field asks (R124): a guess task makes no global append, and no speculative iteration a near one
outside its TCM (R280, R286); a global one is a store by the rules of regions (R285), a near one by those of race-watch (R228). -/
def appendAt (s : State) (slot : Nat) (x : Strm) : Except (Option Trap × Option (Nat × Acc)) AppendTo :=
  if x.global && guessing s slot then .error (some (bTrap s slot .guess), none) else
  match appendTo s slot x with
  | .error e => .error e
  | .ok a =>
    match (if a.global then regionStoreTrap s slot a.ea (relOf s slot a.ea)
      else if locScratch a.loc && speculative s slot then some (bTrap s slot .guess)
      else raceTrap s slot a.loc a.ea 16 true) with
    | some t => .error (some t, none)
    | none => .ok a

/-- The appends that the fields of a word make. -/
def appends (t : Thread) (fs : List Field) : List Strm :=
  fs.filterMap (fun x => if x.w && !dropped t x.f then
    (t.arch.strm x.f).filter (fun y => y.write && !y.exhausted) else none)

/-- The registers whose streams the fields of a word pop. -/
def popsOf (t : Thread) (fs : List Field) : List Nat :=
  fs.filterMap (fun x => if x.r && !dropped t x.f then
    (t.arch.strm x.f).bind (fun y => if y.write then none else some y.reg) else none)

/-- DETERMINISM of a hearth destination at user privilege in a DETERM launch (R105). -/
def hearthDet (s : State) (slot : Nat) (fs : List Field) : Option Trap :=
  if determ s slot && (thr s slot).arch.priv == .user && fs.any (fun x => x.w && decide (112 ≤ x.f))
  then some (bTrap s slot .determinism) else none

/-- The part of a plan that what a word names decides. -/
def regPlan (s : State) (slot : Nat) (wf : Bool) (names : List Field) : Plan :=
  let t := thr s slot
  let fs := regFields names
  let aps := (appends t fs).map (appendAt s slot)
  { ill := !wf
    c2 := regTraps s slot names
    c3 := ((((firstSome (streamTrap t) fs).or (firstSome (replayStream s slot) fs)).or
            (firstSome (fun a => match a with
              | .error (some x, _) => some x
              | _ => none) aps)).or (hearthDet s slot fs))
    poison := firstSome (fieldPoison t) fs
    dests := names.flatMap Field.dests
    pops := popsOf t fs
    lost := total (fs.map (fun x => if x.r then (recipeOps (replayOf s slot x.f)).length else 0))
    hold := fs.any (fieldHold t)
    miss := firstSome (fun a => match a with
      | .error (none, some m) => some m
      | _ => none) aps
    near := aps.filterMap (fun a => match a with
      | .ok x => if x.global || x.remote then none else some (x.loc, 16)
      | _ => none)
    point := aps.any (fun a => match a with
      | .ok x => !x.global
      | _ => false) }

/-- Adds a check of class 3, after those made so far. -/
def Plan.own (p : Plan) (t : Option Trap) : Plan := { p with c3 := p.c3.or t }

/-- Adds a check of class 3 whose TRAPINFO is the bundle. -/
def Plan.ownIf (p : Plan) (s : State) (slot : Nat) (b : Bool) (c : Code) : Plan :=
  p.own (if b then some (bTrap s slot c) else none)

/-- Adds an access of n bytes to own near memory. -/
def Plan.at (p : Plan) (loc n : Nat) : Plan := { p with near := p.near ++ [(loc, n)] }

/-- Adds stages. -/
def Plan.does (p : Plan) (l : List Stage) : Plan := { p with stages := p.stages ++ l }

/-! ## Writing a field -/

/-- Adds a global store to the chunk (R141, R146, R153). -/
def Chunk.addStore (c : Chunk) (loc : Nat) (bs : List Byte) (page : Nat) : Chunk :=
  { c with st := if c.st = .opened then .buffering else c.st
           nst := c.nst + 1
           buf := c.buf ++ [.st loc bs]
           writes := setAddAll c.writes ((upto 0 bs.length).map (fun i => (loc + i) / 8))
           pages := setAdd c.pages page }

/-- Appends a unit to a write stream (R124): a near store, a buffered global store, or an append store. -/
def appendUnit (slot : Nat) (x : Strm) (v : Word) : Stage := fun s =>
  let step := onArch slot (fun a => a.onStrm x.reg (fun y => { y with pos := y.pos + 1 }))
  let bs := bytesOf 16 v.toNat
  match appendTo s slot x with
  | .ok a =>
    (if a.mine then appendStore slot a.loc a.ea bs s
     else if a.global then [onChunk slot (fun c => c.addStore a.loc bs (a.ea / 65536))]
     else raceMark slot a.loc 16 true s ++
       (if a.remote then sendNear slot a.loc a.ea (.store bs) [] false s
        else nearRead a.loc 16 s ++ storeMarked s a.loc bs)) ++ [step]
  | .error _ => []

/-- Writes a register field (R53, R103, R104, R125). -/
def wr (slot f : Nat) (v : Word) : Stage := fun s =>
  if f = 0 then []
  else if 112 ≤ f then [onCore (coreOf slot) (fun c =>
    { c with hearth := tabMod c.hearth (f - 112) {} (hearthWrite s.now v) })]
  else match (thr s slot).arch.strm f with
    | some x => if x.write then appendUnit slot x v s else []
    | none => [onArch slot (fun a => a.setReg f v)]

/-- Writes a predicate. -/
def wrPred (slot k : Nat) (v : BitVec 16) : Stage := fun _ => [onArch slot (fun a => a.setPred k v)]

/-- Sets floating-point flags; `mask` is FXMASK as the word reads it (R41, R55). -/
def wrFlags (slot : Nat) (mask fl : BitVec 5) : Stage := fun _ =>
  if fl = 0 then [] else [onThr slot (fun t =>
    { t with arch := { t.arch with fxflags := t.arch.fxflags ||| fl }
             raised := t.raised ||| (fl &&& mask) })]

/-! ## Long instructions -/

/-- Marks destinations pending and schedules the result within a bound (R71). The record takes the
counter's number. -/
def pendIn (slot : Nat) (dests : List Nat) (pred : Option Nat) (op : PendOp) (bound : Nat) : Stage :=
  fun s =>
  [onThr slot (fun t => { t with pend := t.pend ++ [{ id := s.fresh, dests := dests, pred := pred, op := op }] }),
   .post (s.now + lat s (ctxOf s slot) 0 bound) (.ev (.pendingResultWrite (thr s slot).task s.fresh)), .draw 1]

/-- Marks destinations pending for a result that another agent fills in. -/
def pendAwait (slot : Nat) (dests : List Nat) : Stage := fun s =>
  [onThr slot (fun t => { t with pend := t.pend ++ [{ id := s.fresh, dests := dests }] })]

/-- A leader takes a value from outside its own window: it passes through the load-value queue to the
trailer (R378). -/
def leaderTakes (vs : List Word) (t : Thread) : Thread :=
  if t.partner.isSome && decide (vs.length ≤ 1) then { t with lvq := t.lvq ++ vs } else t

/-- Gives a pending record of a task its value and schedules the write. -/
def answer (task pend : Nat) (vs : List Word) (delay : Nat) : Stage := fun s =>
  [onTaskThr task (fun t => leaderTakes vs { t with pend := t.pend.map (fun p =>
      if p.id = pend then { p with op := .value vs none 0 } else p) }),
   .post (s.now + delay) (.ev (.pendingResultWrite task pend))]

/-- Tells a pending record of a task that its read met poison; the slot is contained when the value would be
written (R357). -/
def answerBad (task pend cls : Nat) (info : BitVec 64) (delay : Nat) : Stage := fun s =>
  [onTaskThr task (fun t => { t with pend := t.pend.map (fun p =>
      if p.id = pend then { p with op := .bad cls info } else p) }),
   .post (s.now + delay) (.ev (.pendingResultWrite task pend))]

end Sys2Proof.Machine
end

