-- ==== Sys2Proof/Machine/Report.lean ====
section
/-!
DEFINITION. Report: what leaves the module and what goes to a supervisor: replies, egress and the
journal (R326, R328, R329, R389), and supervisor records (R371 to R375).
-/

namespace Sys2Proof.Machine

/-! ## Messages to hosts -/

/-- Does the module mirror (R388, R389)? -/
def mirroring (s : State) : Bool := s.o.mod.mirror && !s.o.mod.mirrorBroken

/-- Is a port dedicated to mirroring? -/
def PortUse.mirrors : PortUse → Bool
  | .mirror => true
  | _ => false

/-- Is a port dedicated to twin lockstep? -/
def PortUse.twins : PortUse → Bool
  | .twin _ => true
  | _ => false

/-- Is a port of a kind UP? -/
def linkUp (s : State) (p : PortUse → Bool) : Bool := s.o.ports.toList.any (fun x => p x.use && x.st == .up)

/-- Is the module the secondary of a twin partition (R390)? -/
def isSecondary (s : State) : Bool := s.o.ports.toList.any (fun x => x.use == .twin false)

/-- Writes to mirror pages, or entries of the journal, are sent in order, or kept while the link is not UP; a
buffer of 64 MiB that fills breaks the mirror (R388, R389). -/
def mirrorAdd (n bytes : Nat) : Stage := fun s =>
  if n = 0 ∨ !mirroring s then []
  else if linkUp s PortUse.mirrors then [onMod (fun x => { x with mirrorSent := x.mirrorSent + n })]
  else [onMod (fun x => { x with mirrorSent := x.mirrorSent + n, mirrorHeld := x.mirrorHeld + bytes })] ++
    (if 2 ^ 26 ≤ s.o.mod.mirrorHeld + bytes then [.post s.now (.ev .mirrorBreak)] else [])

/-- Those of some committed writes, each a location and its bytes, that go to mirror pages (R388). -/
def mirrorWrites (s : State) (l : List (Nat × Nat)) : List (Nat × Nat) :=
  if mirroring s then l.filter (fun w => ((pageOf s w.1).map (fun x => x.2.mirror)).getD false) else []

/-- Committed writes are sent to the neighbour where they go to mirror pages (R388). -/
def mirrorOut (l : List (Nat × Nat)) : Stage := fun s =>
  let w := mirrorWrites s l
  mirrorAdd w.length (total (w.map (·.2))) s

/-- As `mirrorOut`, for a task whose FENCE.MIRROR waits for them (R160). -/
def mirrorFor (task : Nat) (l : List (Nat × Nat)) : Stage := fun s =>
  if (mirrorWrites s l).isEmpty then [] else
  mirrorOut l s ++ [onTaskThr task (fun t => { t with mirrorTo := s.o.mod.mirrorSent + (mirrorWrites s l).length })]

/-- A journal entry as it is written, with the next JSN. -/
def entryOf (s : State) (e : JEntry) : JEntry := { e with jsn := s.jsn }

/-- Writes the journal entry of an egress and sends it, or holds it until the neighbour has
acknowledged the entry and every mirror write before it (R328, R329, R389). -/
def egressAs (cid queue code seqNo : Nat) (body : BitVec 256) (msg : JEntry → OutMsg) : Stage :=
  fun s =>
  let e : JEntry := { body := body, result := 0, seq := seqNo, jsn := s.jsn, queue := queue, code := code, status := 0 }
  let m := msg (entryOf s e)
  [.journal e] ++
  (if isSecondary s && ((ctx? s cid).map (·.cfg.twin)).getD false then []
   else if mirroring s then [onMod (fun x => { x with outHeld := x.outHeld ++ [(x.mirrorSent + 1, m)] })]
   else [.obj (fun o => { o with outbox := o.outbox ++ [m] })]) ++ mirrorAdd 1 64 s

/-- The egress of a message to a host. -/
def egress (cid queue code seqNo : Nat) (body : BitVec 256) (payload : List (BitVec 32)) : Stage :=
  egressAs cid queue code seqNo body (fun e => .egress cid queue e payload)

/-- Sends a reply (R326). -/
def sendReply (m : OutMsg) : Stage := fun _ => [.obj (fun o => { o with outbox := o.outbox ++ [m] })]

/-- A notice to a context's host, of CODE 19 (R329, R386, R399, R400); the spec gives no BODY for it. -/
def notice (cid queue seqNo : Nat) : Stage := fun s =>
  egress cid queue 19 seqNo (BitVec.ofNat 256 (Config.freeNat s.fresh)) [] s ++ [.draw 1]

/-- A notice that no command brought about, to the hosts of the contexts that a test picks: SEQ 0, on the first
queue of each. -/
def noticeAll (p : Ctx → Bool) : Stage := each (fun s => s.o.ctxs.filter (fun c => c.2.st != .dead && p c.2))
  (fun c => notice c.1 ((c.2.cfg.queues.map (·.1)).headD 0) 0)

/-- The egress of a kernel: it descends from the LAUNCH at the root of its submissions (R329). -/
def kernelEgress (k code : Nat) (body : BitVec 256) (payload : List (BitVec 32)) : Stage := fun s =>
  egress (kernel s k).ctx (kernel s k).queue code (kernel s k).root body payload s

/-! ## Supervisor records -/

/-- The code number of a trap (R369). -/
def Code.num : Code → Nat
  | .illegal => 0x01 | .bundle => 0x02 | .hazard => 0x03 | .regrange => 0x04
  | .droppedWrite => 0x05 | .recipeDepth => 0x06 | .align => 0x07 | .nearRange => 0x08
  | .page => 0x09 | .perm => 0x0A | .tag => 0x0B | .fpEnabled => 0x0C | .div0 => 0x0D
  | .waitLimit => 0x0E | .channel => 0x0F | .determinism => 0x10 | .capability => 0x11
  | .priv => 0x12 | .anvil => 0x13 | .guess => 0x14 | .seq => 0x15 | .soft => 0x16
  | .stream => 0x17 | .lathe => 0x18 | .poison => 0x20 | .mismatch => 0x21 | .imageLost => 0x22

/-- Word 0 of a record (R372). -/
def SRec.word0 (r : SRec) : Dword :=
  BitVec.ofNat 64 (r.code.num * 2 ^ 56 + r.first * 2 ^ 48 + bit r.nested * 2 ^ 47
    + bit r.outside * 2 ^ 46 + r.cls * 2 ^ 44 + r.kind * 2 ^ 42 + r.ocn % 256 * 2 ^ 34
    + bit r.late * 2 ^ 29 + r.raised.toNat * 2 ^ 24 + r.slot)

/-- Words 0 to 5 of a record (R372). -/
def SRec.words (r : SRec) : List Dword :=
  [r.word0, r.pc, r.info, BitVec.ofNat 64 r.w, BitVec.ofNat 64 r.ts, r.w5]

/-- Words 0 to 3 of a record, as the BODY of its egress (R329, R375). -/
def SRec.body (r : SRec) : BitVec 256 :=
  BitVec.ofNat 256 (ofBytes ((r.words.take 4).flatMap (fun w => bytesOf 8 w.toNat)))

/-- The record's part that the task of a slot decides (R372): work identifier, timestamp, KIND. -/
def recFor (s : State) (slot : Nat) (r : SRec) : SRec :=
  let t := taskOf s slot
  { r with slot := slot, w := t.w, ts := t.ts, task := (thr s slot).task
           kind := if (recOf s slot).redundant then 3 else match t.kind with
             | .plain => 0
             | .iteration _ _ => 1
             | .guess _ _ => 2 }

/-- Creates a record: it waits for the supervisor ring of its kernel, or goes to the host when the
kernel has no supervisor thread or 4,096 records wait (R371, R373, R375). A firmware thread has no
kernel, so its record goes nowhere. -/
def createRec (k : Nat) (r : SRec) : Stage := fun s =>
  if k = 0 then [] else
  [onKernel k (fun x => { x with recs := x.recs ++ [r] }),
   .post s.now (.ev (if (kernel s k).lrec.super.isNone || decide (4096 ≤ (kernel s k).recs.length)
     then .recordToHost k else .recordPost k))]

end Sys2Proof.Machine
end

