-- ==== Sys2Proof/Machine/Life.lean ====
section
/-!
DEFINITION. Life: tasks, slots, groups and kernels coming and going (R100, R235, R236, R245, R261 to
R263), barriers (R216 to R222), a sequence's pointers (R295, R296, R300, R316), and carry loops
(R274 to R288). These are the operations that commits and events share.
-/

namespace Sys2Proof.Machine

/-! ## Walk tables -/

/-- Size of a walk-table page (R341). -/
def pageSize (p : PageCfg) : Nat :=
  match p.size.toNat with
  | 0 => 2 ^ 16
  | 1 => 2 ^ 21
  | _ => 2 ^ 30

/-- The page of a context that contains an address. -/
def ctxPage (s : State) (c va : Nat) : Option PageCfg :=
  (ctx? s c).bind (fun x => (x.pages.find? (fun p =>
    p.2.map && decide (p.1 ≤ va) && decide (va < p.1 + pageSize p.2))).map (·.2))

/-- Is an address inside a context's WINDOWS (R331, R345)? -/
def inWindows (s : State) (c va : Nat) : Bool :=
  match ctx? s c with
  | some x => x.cfg.windows.any (fun w => decide (w.1 ≤ va) && decide (va < w.1 + w.2))
  | none => false

/-- The location of an address in a walk-table page. -/
def pageLoc (p : PageCfg) (va : Nat) : Nat :=
  if p.hbm then hbmLoc p.die.toNat (p.pa + (va - p.va)) else storeLoc p.die.toNat (p.pa + (va - p.va))

/-- Does a walk-table page allow an access? -/
def pageAllows (p : PageCfg) : Acc → Bool
  | .read => p.r
  | .write => p.w
  | .fetch => p.x
  | .append => p.w && p.append
  | .atomic => p.r && p.w

/-- How the module's own units translate for a context (R345, R361). -/
def ctxXlat (s : State) (c va : Nat) (a : Acc) : Except Code Nat :=
  if 2 ^ 55 ≤ va ∨ !inWindows s c va then .error .page
  else match ctxPage s c va with
    | none => .error .page
    | some p => if pageAllows p a then .ok (pageLoc p va) else .error .perm

/-- The location of an address, or location 0 of no use when nothing maps it. -/
def ctxLoc (s : State) (c va : Nat) (a : Acc) : Nat :=
  match ctxXlat s c va a with
  | .ok l => l
  | .error _ => 0

/-- A run of n bytes cut at 64 KiB boundaries. -/
def cuts : Nat → Nat → Nat → List (Nat × Nat)
  | 0, _, _ => []
  | f + 1, va, n => if n = 0 then [] else
      let k := min n (65536 - va % 65536)
      (va, k) :: cuts f (va + k) (n - k)

/-- Where the bytes of a context's memory stand: pieces of locations, or the code of the first fault. -/
def ctxPieces (s : State) (c va n : Nat) (a : Acc) : Except Code (List (Nat × Nat)) :=
  (cuts (n / 65536 + 2) va n).foldr (fun x acc =>
    match ctxXlat s c x.1 a, acc with
    | .error e, _ => .error e
    | .ok _, .error e => .error e
    | .ok l, .ok r => .ok ((l, x.2) :: r)) (.ok [])

/-- The bytes of a context's memory, if every page lets them be read. -/
def ctxBytes (s : State) (c va n : Nat) (a : Acc) : Option (List Byte) :=
  match ctxPieces s c va n a with
  | .error _ => none
  | .ok l => some (l.flatMap (fun x => lookBytes s x.1 x.2))

/-! ## Partitions and their save areas -/

/-- The enabled cores of a quad (R241). -/
def quadCores (s : State) (q : Nat) : List Nat := (upto (4 * q) 4).filter (coreEnabled s)

/-- The quads of a partition (R240). -/
def partQuads (dies : BitVec 4) (quads : BitVec 64) : List Nat :=
  (upto 0 4).flatMap (fun d => ((upto 0 144).map (fun q => d * 256 + q)).filter (partHas dies quads))

/-- The logical-to-physical table in the default order (R242). -/
def defaultTable (s : State) (dies : BitVec 4) (quads : BitVec 64) : List Nat :=
  (upto 0 4).flatMap (fun d => (upto 0 144).flatMap (fun q =>
    if partHas dies quads (d * 256 + q) then (quadCores s (d * 256 + q)).map (fun c => 64 * c) else []))

/-! ## Slots and rotation -/

/-- The slots of a core that are occupied, with their threads. -/
def coreSlots (s : State) (c : Nat) : List (Nat × Thread) :=
  s.o.slots.filter (fun x => x.1 / 64 == c && decide (x.1 < 2 ^ 18))

/-- Register entries of a core in use (R100, R110). -/
def entriesUsed (s : State) (c : Nat) : Nat :=
  total ((coreSlots s c).map (fun x => x.2.cur + x.2.heldRegs))

/-- Anvils of a core in use (R199). -/
def anvilsUsed (s : State) (c : Nat) : Nat :=
  total ((coreSlots s c).map (fun x => x.2.arch.anvils.length))

/-- Starts the rounds of a core (R68). -/
def ensureRound (c : Nat) : Stage := fun s =>
  if (core s c).live then []
  else [onCore c (fun x => { x with live := true }), .post s.now (.ev (.roundStart c))]

/-- Offers free slots of a quad to its waiting tasks (R262). -/
def offer (q : Nat) : Stage := evNow (.taskDispatch q)

/-- A slot returns to the rotation (R66, R74): it joins the next round. -/
def rejoin (slot : Nat) : Eff := onThr slot woken

/-- Places of a core's matrix queue that are taken (R195). -/
def mqTaken (s : State) (c : Nat) : Nat := ((core s c).mq.filter (fun m => !m.started)).length

/-- Operations of a task have gone from a core's matrix queue: what stood behind them may leave it (R195). -/
def mqMoves (c task : Nat) : Stage := fun s =>
  if (core s c).mq.any (fun m => m.task == task) then [.post s.now (.ev (.matrixOpStart c))] else []

/-- The occupied slots of a core, a translation service core's too. -/
def allSlots (s : State) (c : Nat) : List (Nat × Thread) := s.o.slots.filter (fun x => coreOf x.1 == c)

/-- Does a slot keep its core's register file in full operation (R76)? -/
def active (t : Thread) : Bool := t.st == .ready || t.st == .trapped || t.st == .parked || t.st == .shadow

/-- When the last active slot of a core ceases to be active, the 64 cycles begin after which its register file is
lowered (R76). -/
def leaves (slot : Nat) : Stage := fun s =>
  let c := coreOf slot
  if occupied s slot && active (thr s slot) && !(allSlots s c).any (fun x => x.1 != slot && active x.2) then
    [onCore c (fun x => { x with idleFrom := some s.now }), .post (s.now + 64) (.ev (.regfileLower c))]
  else []

/-- A thread asleep (R66, R74). -/
def asleep (w : Wait) (t : Thread) : Thread :=
  { t with
    back := if t.st = .ready ∨ t.st = .trapped ∨ t.st = .shadow then t.st else t.back
    st := .sleeping, wait := some w, waitCount := t.waited, waited := 0 }

/-- A slot goes to sleep. -/
def sleepOn (slot : Nat) (w : Wait) : Stage := fun s => leaves slot s ++ [onThr slot (asleep w)]

/-- Takes the thread out of a slot: window, streams and anvils are released, and its queue entries
and scheduled work with it (R83, R99, R155, R203). -/
def freeSlot (slot : Nat) : Stage := fun s =>
  let tk := (thr s slot).task
  leaves slot s ++ mqMoves (coreOf slot) tk s ++
  [.obj (fun o => { o with
      slots := tabDel o.slots slot
      resv := o.resv.filter (fun w => w.2 != slot)
      quads := tabMap o.quads (fun _ q => { q with waiters := q.waiters.filter (fun w => w.slot != slot) })
      cores := tabMod o.cores (coreOf slot) {} (fun c =>
        { c with mq := c.mq.filter (fun m => m.task != tk || m.remote.isSome) }) }),
   .unpost (fun a => match a with
     | .turn x => x == slot
     | .ev (.chunkValidate x) => x == slot
     | .ev (.chunkCommit x) => x == slot
     | .ev (.chunkDiscard x) => x == slot
     | .ev (.trapEntry x) => x == slot
     | .ev (.latheWordIssue x) => x == slot
     | .ev (.latheWordResult x) => x == slot
     | .ev (.preemptionComplete x) => x == slot
     | .ev (.fpEvent x) => x == slot
     | .ev (.heldChunkReserve x) => x == slot
     | .ev (.waittTimeout x) => x == slot
     | .ev (.streamUnitFetch x _) => x == slot
     | _ => false)]

/-- Drops what waits for a task: its requests in a word's queue and its barrier waits. Requests on
their way stand, with nobody to answer (R142, R370). -/
def dropTask (t : Nat) : Stage := fun s =>
  let k := ((task? s t).map (·.kernel)).getD 0
  [.obj (fun o => { o with
      resv := o.resv.filter (fun w => w.2 != 2 ^ 40 + t)
      near := (o.near.filter (fun r => r.2.task != t || !r.2.waiting)).map (fun r =>
        if r.2.task = t then (r.1, { r.2 with pend := none }) else r)
      quads := tabMap o.quads (fun _ q => { q with waiters := q.waiters.filter (fun w =>
        match w.req with
        | some i => !((tabGet o.near i).map (fun r => r.task == t)).getD false
        | none => true) })
      kernels := tabUpd o.kernels k (fun x =>
        { x with dbars := tabMap x.dbars (fun _ b => { b with waiters := b.waiters.filter (fun w => w.task != t) })
                 groups := tabMap x.groups (fun _ g => { g with bars := tabMap g.bars (fun _ b =>
                   { b with waiters := b.waiters.filter (fun w => w.task != t) }) }) }) })]

/-! ## Tasks -/

/-- Creates a task that waits for a slot on its group's quad (R261 to R263). -/
def newTask (t : Task) : Stage := fun s =>
  [.obj (fun o => { o with tasks := tabPut o.tasks s.fresh { t with since := s.now } }),
   .draw 1] ++
  (match group? s t.kernel t.g with
   | some g => offer g.quad s
   | none => [])

/-- Are all tasks of a group done (R236)? -/
def groupOver (s : State) (k g : Nat) : Bool :=
  !(s.o.tasks.any (fun x => x.2.kernel == k && x.2.g == g))

/-- Requests of other cores that are held with an image learn that no thread is left for them (R203, R212). -/
def refuseHeld (x : Task) : Stage := fun s =>
  x.heldMx.flatMap (fun m => match m.remote with
    | some t => answer t m.pend [1] 0 s
    | none => []) ++
  x.heldReqs.map (fun r => .post s.now (.ev (.remoteMatrixArrival r)))

/-- Ends a task: it leaves the table; with the last one its group ends, of whose barriers only the number of b0's phases
is kept (R272), and with the last group the kernel completes (R236, R263); groups that wait may be tried in its room (R246). -/
def endTask (t : Nat) : Stage := seqS [
  dropTask t,
  fun s =>
    match task? s t with
    | none => []
    | some x => refuseHeld x s ++ [.obj (fun o => { o with tasks := tabDel o.tasks t })] ++
      (if !(s.o.tasks.any (fun y => y.1 != t && y.2.kernel == x.kernel && y.2.g == x.g)) then
        [onGroup x.kernel x.g (fun g => { g with st := .ended, nests := []
                                                 bars := [(0, { phases := (tabD g.bars 0 {}).phases })] }),
         onKernel x.kernel (fun k => { k with left := k.left - 1 }),
         .obj (fun o => { o with kernels := tabMap o.kernels (fun _ k => { k with tried := false }) })] ++
        (if (kernel s x.kernel).left ≤ 1 then [.post s.now (.ev (.kernelComplete x.kernel))] else [])
      else []) ++
      [.post s.now (.ev (.floorChange x.kernel))] ++
      (if (kernel s x.kernel).lrec.super.isSome && !(kernel s x.kernel).recs.isEmpty then [.post s.now (.ev (.recordPost x.kernel))] else []) ++
      (match group? s x.kernel x.g with
       | some g => offer g.quad s
       | none => [])]

/-- Stops a task where it stands and takes it out (R235, R282), its trailer with it (R377): no chunk of it commits. -/
def killTask (t : Nat) : Stage := pick (fun s =>
  match task? s t with
  | none => []
  | some x => (match x.slot with
    | some sl => [freeSlot sl, (match (thr s sl).partner with
        | some p => freeSlot p
        | none => skip)]
    | none => []) ++ [endTask t])

/-! ## Barriers (R216 to R222) -/

/-- Where a barrier of a kernel is kept: a quad barrier in its group, a die barrier in the kernel. -/
def barOf (s : State) (k home n : Nat) : Bar :=
  if n < 16 then ((group? s k home).map (fun g => tabD g.bars n {})).getD {}
  else tabD (kernel s k).dbars (home * 16 + (n - 16)) {}

/-- Changes a barrier. -/
def onBar (k home n : Nat) (f : Bar → Bar) : Eff :=
  if n < 16 then onGroup k home (fun g => { g with bars := tabMod g.bars n {} f })
  else onKernel k (fun x => { x with dbars := tabMod x.dbars (home * 16 + (n - 16)) {} f })

/-- Writes a register of a committed chunk: in the window and its shadow (R147). -/
def setBoth (f : Nat) (v : Word) (t : Thread) : Thread :=
  if fieldReg f then { t with arch := t.arch.setReg f v, start := t.start.setReg f v } else t

/-- A result for a task that is in no slot: a register of the image takes it; a hearth register or a stream takes it at the
task's resumption, before its first turn (R94, R104, R124). -/
def owes (committed : Bool) (f : Nat) (v : Word) (t : Thread) : Thread :=
  if 112 ≤ f ∨ (t.arch.strm f).isSome then { t with owed := t.owed ++ [(f, v)] }
  else if committed then setBoth f v t
  else if fieldReg f then { t with arch := t.arch.setReg f v } else t

/-- Writes a register or hearth register of a task whose chunk has committed. -/
def wrTask (task f : Nat) (v : Word) : Stage := fun s =>
  match task? s task with
  | none => []
  | some x =>
    match x.slot with
    | some sl =>
      if 112 ≤ f || ((thr s sl).arch.strm f).isSome then wr sl f v s else [onTaskThr task (setBoth f v)]
    | none => [onTaskThr task (owes true f v)]

/-- Ends the wait of one thread at a barrier's completion (R219, R222). -/
def barRelease (w : BarWaiter) (met : Bool) : Stage := seqS [
  (match w.how with
   | .waitd d => wrTask w.task d (wd (bit met))
   | _ => skip),
  eff [onTaskThr w.task (fun t => match w.how with
    | .wait => { t with grant := some 0 }
    | _ => woken t)]]

/-- The quads that a completion reaches: the group's, or those of the launch on the die (R228). -/
def barQuads (s : State) (k home n : Nat) : List Nat :=
  if n < 16 then ((group? s k home).map (fun g => [g.quad])).getD []
  else setAddAll [] (((kernel s k).groups.map (fun g => g.2.quad)).filter (fun q => q / 256 == home))

/-- A quad's epoch ends for the words of a launch; what is recorded of others' words goes on (R228). -/
def newEpoch (s : State) (k q : Nat) : Eff :=
  let ours := fun (w : Nat) => (kernel s k).groups.any (fun g =>
    g.2.quad == q && decide (g.2.base ≤ 8 * w) && decide (8 * w < g.2.base + (kernel s k).lrec.scratch))
  onQuad q (fun x => { x with
    epoch := x.epoch + 1
    race := tabMap x.race (fun w r => if ours w || r.epoch != x.epoch then r else { r with epoch := r.epoch + 1 }) })

/-- Completion of a phase: C := 0, PHASE rises, the deadline goes, the waiters are released (R219). -/
def barComplete (k home n : Nat) (met : Bool) (owed : Nat) : Stage := pick (fun s =>
  let b := barOf s k home n
  [eff [onBar k home n (fun x =>
      { x with c := 0, phase := (x.phase + 1) % 2 ^ 16, phases := x.phases + 1, dl := none
               late := owed, waiters := [] })],
   (fun s => (barQuads s k home n).map (newEpoch s k) : Stage)] ++
  b.waiters.map (fun w => barRelease w met) ++
  [(fun s => if n = 0 then
      (upto 0 (kernel s k).lrec.ordch).map (fun c => .post s.now (.ev (.ordatomBatchClose k c)))
    else [] : Stage)])

/-- The token of an arrival (R222). -/
def token (phase : Nat) (late : Bool) : Word := wd (phase + bit late * 2 ^ 16)

/-- An arrival or INIT takes effect at a barrier for a task (R218, R219, R222). -/
def barEffect (k home n task : Nat) (kind : BarKind) : Stage := pick (fun s =>
  let b := barOf s k home n
  match kind with
  | .init v =>
    [eff [onBar k home n (fun x => if x.p = 0 then { x with p := v, c := 0, late := 0 } else { x with p := v, late := 0 })]] ++
    (if b.p ≠ 0 ∧ v ≤ b.c then [barComplete k home n true 0] else [])
  | _ =>
    let late := decide (0 < b.late)
    let last := !late && decide (b.p ≤ b.c + 1)
    let ph := if late then (b.phase + 2 ^ 16 - 1) % 2 ^ 16 else b.phase
    let dl := match kind with
      | .waitd _ x => some (match b.dl with
        | some y => min x y
        | none => x)
      | _ => b.dl
    let waiter := fun how => onBar k home n (fun x => { x with waiters := x.waiters ++ [⟨task, how⟩] })
    let leave := ((task? s task).bind (·.slot)).map leaves
    let sleep := onTaskThr task (fun t => asleep (.barrier home n b.phase) { t with waited := 0 })
    let wake := onTaskThr task (fun t => if t.awaits = some .reply then woken t else t)
    [eff <| (if late then [onBar k home n (fun x => { x with late := x.late - 1, dl := dl })]
       else [onBar k home n (fun x => { x with c := x.c + 1, dl := dl })]) ++
       (if n = 0 then [onTask task (fun t => { t with b0 := t.b0 + 1 })] else []) ++ [wake]] ++
    (match kind with
     | .arrive d => [wrTask task d (token ph late)]
     | .sync => if late || last then [] else [leave.getD skip, fun _ => [waiter .sync, sleep]]
     | .waitd d _ =>
       if late then [wrTask task d 0]
       else if last then [wrTask task d 1]
       else [leave.getD skip, fun _ => [waiter (.waitd d), sleep]]
     | .init _ => []) ++
    (if last then [barComplete k home n true 0]
     else match dl with
      | some x => [(fun s => [.post (max (x + s.o.mod.zero) s.now) (.ev (.barrierDeadline k home n))] : Stage)]
      | none => []))

/-! ## A sequence's pointers -/

/-- Writes the kept fields of a bound sequence back to its record, as a chunk of its own (R296). -/
def seqWriteBack (key : Nat) : Stage := fun s =>
  match tabGet s.o.seqs key with
  | none => []
  | some q =>
    storeMarked s q.loc [BitVec.ofNat 8 q.st] ++
    storeMarked s (q.loc + 72) (bytesOf 4 q.cp ++ bytesOf 4 q.tip ++ bytesOf 4 q.keep) ++
    [.commit [q.loc / 8, (q.loc + 72) / 8, (q.loc + 80) / 8]] ++ mirrorOut [(q.loc, 1), (q.loc + 72, 12)] s

/-- The location of version p of a sequence (R294). -/
def verLoc (s : State) (q : Seq) (p : Nat) : Nat := ctxLoc s q.cid (q.vbase + 1024 * (p % 64)) .read

/-- The location of the ring's token at a position (R291). -/
def ringLoc (s : State) (q : Seq) (p : Nat) : Nat := ctxLoc s q.cid (q.ring + 4 * (p % q.ringlen)) .read

/-- The poison in a run of the ring's tokens (R312). -/
def ringPoison (s : State) (q : Seq) (a n : Nat) : Option (Nat × BitVec 64) :=
  if s.o.poison.isEmpty then none else firstSome (fun p =>
    (poisonIn s (ringLoc s q p) 4).map (fun c => (c, lineVa (q.ring + 4 * (p % q.ringlen))))) (upto a n)

/-- A version is final when its fault count reaches the limit and nothing is forced (R295). -/
def verFinal (s : State) (q : Seq) (p : Nat) : Bool :=
  q.flim != 0 && decide ((q.flim : Int) ≤ signed 16 (memNat s.mem (verLoc s q p + 30) 2))
    && memNat s.mem (verLoc s q p + 551) 1 == 0

/-- Does V(p) exist (R294)? -/
def verExists (q : Seq) (p : Nat) : Bool := decide (q.cp ≤ p) && decide (p ≤ q.tip)

/-- SID of a sequence (R291). -/
def Seq.sid (q : Seq) : Nat := q.addr / 256

/-- The tokens of a run of positions. -/
def ringTokens (s : State) (q : Seq) (a n : Nat) : List (BitVec 32) :=
  (upto a n).map (fun p => BitVec.ofNat 32 (memNat s.mem (ringLoc s q p) 4))

/-- The words of a step that wait: its DRAWs, and its SLICEMASSes while M is not known (R302, R304). -/
def DrawStep.waiting (x : DrawStep) : List (Nat × Nat) × List (Nat × Nat) :=
  (x.draws, if x.m.isSome then [] else (x.slices.map (·.2) ++ x.dropped).map (fun c => (c.task, c.pend)))

/-- Ends what waits in a step with a kind that draws nothing (R304, R307). -/
def endWaiting (x : DrawStep) (kind : Nat) : Stage := fun s =>
  x.waiting.1.flatMap (fun d => answer d.1 d.2 [wd (kind * 2 ^ 32 + 0xFFFFFFFF)] 1 s) ++
  x.waiting.2.flatMap (fun d => answer d.1 d.2 [wd (kind * 2 ^ 32)] 1 s)

/-- Ends the steps of a sequence at the positions that a test picks. -/
def endSteps (key : Nat) (p : Nat → Bool) (kind : Nat) : Stage := pick (fun s =>
  match tabGet s.o.seqs key with
  | none => []
  | some q => (q.steps.filter (fun x => p x.1 && x.2.result.isNone)).map (fun x => endWaiting x.2 kind) ++
    [eff [onSeq key (fun q => { q with steps := q.steps.filter (fun x => !(p x.1 && x.2.result.isNone)) })]])

/-- Discards the versions above a position, with the masks and draw results bound to them, and the
landed marks of KV records at or above `kv` (R295, R311); what waits on them is STALE (R304). -/
def seqCut (key above kv : Nat) : Stage := seqS [
  endSteps key (fun p => decide (above < p)) 6,
  fun s =>
    match tabGet s.o.seqs key with
    | none => []
    | some q =>
      let gone := fun va => q.kvreg.any (fun r => decide (r.1 + r.2.1 * kv ≤ va * 64) && decide (va * 64 < r.1 + r.2.1 * r.2.2))
      [onSeq key (fun x => { x with
        vers := x.vers.filter (fun v => decide (v.1 ≤ above))
        masks := x.masks.filter (fun v => decide (v.1 ≤ above))
        steps := x.steps.filter (fun v => decide (v.1 ≤ above))
        landed := x.landed.filter (fun l => !gone l)
        again := x.again.filter (fun l => !gone l.1) })]]

/-- The ENDED report (R296, R329): reason 1 FAULT-LIMIT, 2 STOP, 3 POISON. -/
def seqEndTold (key reason : Nat) : Stage := fun s =>
  match tabGet s.o.seqs key with
  | none => []
  | some q => egress q.cid q.queue 18 (if reason = 2 then q.stopSeq else q.root)
      (BitVec.ofNat 256 (q.sid + reason * 2 ^ 64)) [] s

/-- A sequence is ENDED: the record is written back, the host is told, what waits ends with ENDED, and the
sequence unbinds once nothing refers to it (R293, R296). -/
def seqEnd (key reason : Nat) : Stage := seqS [
  eff [onSeq key (fun x => { x with st := 3, reason := reason })],
  seqEndTold key reason, seqWriteBack key, endSteps key (fun _ => true) 4,
  fun s => match tabGet s.o.seqs key with
    | none => []
    | some q => [.post (s.now + 1) (.ev (.seqUnbind q.cid q.addr))]]

/-- ENDED where CP stands at a final version, or where a STOPPING sequence has CP = TIP = KEEP (R296); poison in the version
ends it too (R312). -/
def seqSettle (key : Nat) : Stage := pick (fun s =>
  match tabGet s.o.seqs key with
  | none => []
  | some q =>
    if q.st = 3 then []
    else if (poisonIn s (verLoc s q q.cp) 1024).isSome then [seqEnd key 3]
    else if verFinal s q q.cp then [seqEnd key 1]
    else if q.st = 2 ∧ q.cp = q.tip ∧ q.tip = q.keep then [seqEnd key 2]
    else [])

/-- Moves CP and sends the tokens it passes as one egress of CODE 16 (R311, R316); poison in a token ends the sequence (R312). -/
def seqAdvance (key n : Nat) : Stage := pick (fun s =>
  match tabGet s.o.seqs key with
  | none => []
  | some q =>
    if n ≤ q.cp then []
    else if (ringPoison s q q.cp (n - q.cp)).isSome then [seqEnd key 3]
    else [egress q.cid q.queue 16 q.root (BitVec.ofNat 256 (q.sid + q.cp * 2 ^ 64 + n * 2 ^ 96))
       (ringTokens s q q.cp (n - q.cp)),
     eff [onSeq key (fun x => { x with cp := n })], seqWriteBack key, seqSettle key])

/-! ## Carry loops (R274 to R288) -/

/-- Landed lines of a loop's records j and above are forgotten (R285). -/
def unland (lp : Loop) (j : Nat) : List Nat :=
  lp.landed.filter (fun l => !lp.req.regions.any (fun r =>
    decide (r.1 + r.2.1 * j ≤ l * 64) && decide (l * 64 < r.1 + r.2.1 * r.2.2)))

/-- The window that iteration or guess j starts from (R275). -/
def iterArch (lp : Loop) (carry : List Word) (j : Nat) : Arch :=
  let a := (carry.zipIdx).foldl (fun (a : Arch) x => a.setReg (lp.req.b + x.2) x.1) lp.copy
  if fieldReg lp.req.d then a.setReg lp.req.d (wd j) else a

/-- Creates iteration j with its start carry (R274, R275, R279). -/
def newIter (owner j : Nat) (carry : List Word) : Stage := fun s =>
  match tabGet s.o.loops owner, task? s owner with
  | some lp, some o =>
    [onLoop owner (fun x => { x with iters := tabPut x.iters j (s.fresh, carry) })] ++
    newTask { kernel := lp.kernel, w := o.w, g := o.g, t := o.t, ts := lp.tau + 1 + j
              keyTs := lp.tau + 1 + j, entry := lp.req.body, kind := .iteration owner j
              copy := some (iterArch lp carry j) } s
  | _, _ => []

/-- Starts a wave at iteration i (R279): the iteration, and with a width of 2 or more its guess task. -/
def newWave (owner i : Nat) (carry : List Word) : Stage := seqS [
  newIter owner i carry,
  fun s =>
    match tabGet s.o.loops owner, task? s owner with
    | some lp, some o =>
      [onLoop owner (fun x => { x with wave := i, waveOpen := true, gputs := 0
                                       guess := if x.req.wid = 0 then none else some s.fresh })] ++
      (if lp.req.wid = 0 then [] else
        newTask { kernel := lp.kernel, w := o.w, g := o.g, t := o.t, ts := lp.tau + 1 + i
                  keyTs := lp.tau + 1 + i, entry := 8 * lp.req.goff, kind := .guess owner i
                  copy := some (iterArch lp carry i) } s)
    | _, _ => []]

/-- Ends the guess task of a loop's wave. -/
def endGuess (owner : Nat) : Stage := pick (fun s =>
  match tabGet s.o.loops owner with
  | none => []
  | some lp => (match lp.guess with
    | some g => [killTask g]
    | none => []) ++ [eff [onLoop owner (fun x => { x with guess := none, waveOpen := false })]])

/-- A draw step to which rejected tasks have contributed loses its result and its attempt, and DRAWs of rejected tasks end
(R316); SLICEMASSes of other tasks that wait in the attempt wait for the M of the next one (log 30). -/
def stepReject (tasks : List Nat) (x : DrawStep) : DrawStep :=
  let draws := x.draws.filter (fun d => !tasks.contains d.1)
  if x.slices.any (fun c => tasks.contains c.2.task) then
    { gen := x.gen, attempt := x.attempt + 1, draws := draws
      dropped := if x.m.isSome then [] else (x.slices.map (·.2) ++ x.dropped).filter (fun c => !tasks.contains c.task) }
  else { x with draws := draws }

/-- Has one of these tasks made a version of a sequence, or taken part in one of its steps? -/
def Seq.uses (q : Seq) (tasks : List Nat) : Bool :=
  q.vers.any (fun v => tasks.contains v.2.2) || q.steps.any (fun x =>
    x.2.draws.any (fun d => tasks.contains d.1) || x.2.slices.any (fun c => tasks.contains c.2.task))

/-- Sequence versions that rejected iterations made are discarded, TIP goes to the highest that remains,
and draw steps and landed marks go as R300 and R316 say; those of the sequences `kept` that the kept iteration has used too. -/
def seqReject (tasks kept : List Nat) : Stage := each (fun s => s.o.seqs.filter (fun q => q.2.uses tasks || kept.contains q.1)) (fun q => seqS [
  eff [onSeq q.1 (fun x =>
    let vers := x.vers.filter (fun v => !tasks.contains v.2.2)
    { x with vers := vers, tip := vers.foldl (fun m v => max m v.1) x.cp
             steps := tabMap x.steps (fun p v => if x.cp ≤ p then stepReject tasks v else v) })],
  pick (fun s => match tabGet s.o.seqs q.1 with
    | none => []
    | some x => [seqCut q.1 x.tip x.cp, if x.tip = q.2.tip then skip else seqWriteBack q.1, seqSettle q.1])])

/-- Rejects iterations j and above of a loop (R282, R285), after the commit of an iteration that used the sequences `kept`. -/
def rejectFrom (owner j : Nat) (kept : List Nat) : Stage := pick (fun s =>
  match tabGet s.o.loops owner with
  | none => []
  | some lp =>
    let gone := lp.iters.filter (fun x => decide (j ≤ x.1))
    gone.map (fun x => killTask x.2.1) ++
    [eff [onLoop owner (fun x =>
       { x with iters := x.iters.filter (fun i => decide (i.1 < j)), landed := unland x j, again := x.again.filter (fun l => (unland x j).contains l.1) })],
     if gone.isEmpty then skip else seqReject (gone.map (·.2.1)) kept])

/-- Ends a loop with its final carry (R282, R283). -/
def endLoop (owner : Nat) (st : LoopSt) (final : List Word) : Stage := seqS [
  endGuess owner,
  eff [onLoop owner (fun x => { x with st := st, final := final })],
  fun s => [.post s.now (.ev (.floorChange (((tabGet s.o.loops owner).map (·.kernel)).getD 0)))]]

/-- Does a 32-bit lane pair match within a tolerance (R281)? `near` decides |P - G| ≤ t exactly. -/
def laneEq (near : BitVec 32 → BitVec 32 → Bool) (p g : Word) : Bool :=
  (upto 0 4).all (fun i =>
    let x := p.extractLsb' (32 * i) 32
    let y := g.extractLsb' (32 * i) 32
    x == y || near x y)

/-- The value of a register of the window as a read gives it, a dropped one's too (R103); a stream's is left out. -/
def winReg (s : State) (slot f : Nat) : Word :=
  if dropped (thr s slot) f then rd s slot f else (thr s slot).arch.reg f

/-- Creates the loop that a committed GLOOP asks for (R278, R283). -/
def createLoop (slot : Nat) (req : GloopReq) (tau : Nat) : Stage := seqS [
  fun s =>
    let t := thr s slot
    let a : Arch := { regs := Vector.ofFn (fun i => winReg s slot i.val)
                      t := t.limit, preds := t.arch.preds, fxflags := t.arch.fxflags, round := t.arch.round }
    let lp : Loop := { req := req, tau := tau, kernel := t.kernel, copy := a, floor := tau + 1 }
    [.obj (fun o => { o with loops := tabPut o.loops t.task lp }),
     onTask t.task (fun x => { x with ts := tau + 2 ^ 32 })],
  pick (fun s =>
    let t := thr s slot
    [newWave t.task 0 ((upto req.b (req.nc + 1)).map (winReg s slot))])]

end Sys2Proof.Machine
end

