-- ==== Sys2Proof/Machine/Commit.lean ====
section
/-!
DEFINITION. Commit: what the commit of a chunk does (R143 to R148, R218, R244, R251, R253, R264,
R265, R278, R285), the checks before it (R145, R148, R268, R269), its discard (R147), and the step
in which an iteration's EXIT commits (R282).
-/

namespace Sys2Proof.Machine

/-! ## The buffer -/

/-- The operation of an atomic or a RED (R157, R158): add, min, max, and, or, xor, xchg. -/
def atomOp (op : Nat) (w v : Dword) : Dword :=
  match op with
  | 0 => w + v
  | 1 => if w.toInt ≤ v.toInt then w else v
  | 2 => if w.toInt ≤ v.toInt then v else w
  | 3 => w &&& v
  | 4 => w ||| v
  | 5 => w ^^^ v
  | _ => v

/-- The stores that a buffer makes of the memory it meets, in program order (R146). -/
def bufStores (m : List Host.Cell) : List BufOp → List (Nat × List Byte)
  | [] => []
  | .st loc bs :: r => (loc, bs) :: bufStores (memWrite m loc bs) r
  | .red loc op v :: r =>
    let bs := bytesOf 8 (atomOp op (memWord m loc) v).toNat
    (loc, bs) :: bufStores (memWrite m loc bs) r

/-- Do the stores of a buffer, REDs not counted, cover a line whole (R350)? -/
def coversLine (buf : List BufOp) (line : Nat) : Bool :=
  (upto (line * 64) 64).all (fun a => buf.any (fun b => match b with
    | .st loc bs => decide (loc ≤ a) && decide (a < loc + bs.length)
    | .red _ _ _ => false))

/-- The lines that a buffer touches. -/
def bufLines (buf : List BufOp) : List Nat :=
  buf.foldl (fun l b => match b with
    | .st loc bs => setAddAll l (upto (lineOf loc) (lineOf (loc + bs.length - 1) + 1 - lineOf loc))
    | .red loc _ _ => setAdd l (lineOf loc)) []

/-- The writes of a buffer, as location and bytes. -/
def bufWrites (buf : List BufOp) : List (Nat × Nat) :=
  buf.map (fun b => match b with
    | .st loc bs => (loc, bs.length)
    | .red loc _ _ => (loc, 8))

/-- The doorbells that a buffer writes (R386). -/
def doorbells (s : State) (c : Nat) (buf : List BufOp) : List Nat :=
  match ctx? s c with
  | none => []
  | some x => (x.peer.sends.zipIdx).filterMap (fun r =>
      let w := ctxLoc s c r.1.word .write
      if buf.any (fun b => match b with
        | .st loc bs => decide (loc < w + 8) && decide (w < loc + bs.length)
        | .red loc _ _ => loc == w) then some r.2 else none)

/-- Slots that sleep on a completion counter complete when a commit makes their condition so (R366). -/
def wakeCounters : Stage := fun s =>
  s.o.slots.filterMap (fun x => match x.2.wait with
    | some (.counter loc n) =>
      if n ≤ memNat s.mem loc 8 then some (onThr x.1 (fun t => { t with grant := some 0 })) else none
    | _ => none)

/-- A chunk's stores and REDs take effect at one point of the commit order (R146). -/
def commitMem (slot : Nat) : Stage := pick (fun s =>
  let c := (thr s slot).chunk
  if c.st = .opened then [] else
  (if s.o.flips.isEmpty then [] else
    ((bufLines c.buf).filter (fun l => !coversLine c.buf l)).map lineRead) ++
  [fun s =>
    (bufStores s.mem c.buf).map (fun x => .store x.1 x.2) ++
    [.commit (setAddAll c.writes c.reds)] ++
    (if s.o.poison.isEmpty && s.o.flips.isEmpty then [] else
      let whole := (bufLines c.buf).filter (coversLine c.buf)
      [.obj (fun o => { o with
        poison := o.poison.filter (fun p => !whole.contains p.1)
        flips := o.flips.filter (fun b => !whole.contains (b / 576)) })]) ++
    mirrorFor (thr s slot).task (bufWrites c.buf) s ++
    (doorbells s (ctxOf s slot) c.buf).flatMap (fun r =>
      let k := kernelOf s slot
      [onCtx (ctxOf s slot) (fun x => { x with rings := tabMod x.rings r {} (fun y => { y with queue := k.queue, root := k.root }) }),
       .post s.now (.ev (.sendRingSend (ctxOf s slot) r))]),
   countMoved (thr s slot).kernel (total ((bufWrites c.buf).map (·.2))), wakeCounters])

/-! ## The rest of a commit -/

/-- The order key of a task (R261): work identifier, the timestamp TSPAWN gave it, creation number. -/
def keyLe (a b : Nat × Nat × Nat) : Bool :=
  decide (a.1 < b.1) || (a.1 == b.1 && (decide (a.2.1 < b.2.1) || (a.2.1 == b.2.1 && decide (a.2.2 ≤ b.2.2))))

/-- Creates the spawns of a committed chunk, or holds them while the iteration is not the lead
(R264, R287). -/
def commitSpawns (slot : Nat) (l : List Spawn) : Stage := pick (fun s =>
  let t := taskOf s slot
  let tk := (thr s slot).task
  if l.isEmpty then [] else
  if speculative s slot && !isLead s slot then [eff [onTask tk (fun x => { x with held := x.held ++ l })]]
  else (l.zipIdx).map (fun x =>
      newTask { kernel := t.kernel, w := t.w, g := t.g, t := t.t, ts := x.1.ts, keyTs := x.1.ts,
                cn := t.spawned + x.2 + 1, entry := x.1.entry, arg := some x.1.arg }) ++
    [eff [onTask tk (fun x => { x with spawned := x.spawned + l.length })]])

/-- Creates the spawns that a task holds, once it is the lead (R287). -/
def releaseHeld (tk : Nat) : Stage := pick (fun s =>
  match task? s tk with
  | none => []
  | some t => (t.held.zipIdx).map (fun x =>
      newTask { kernel := t.kernel, w := t.w, g := t.g, t := t.t, ts := x.1.ts, keyTs := x.1.ts,
                cn := t.spawned + x.2 + 1, entry := x.1.entry, arg := some x.1.arg }) ++
    [eff [onTask tk (fun x => { x with spawned := x.spawned + x.held.length, held := [] })]])

/-- Opens a nest counter (R251). -/
def openNest (r : NestReq) : Nest :=
  { opened := true, e0 := r.e0, e1 := r.e1, e2 := r.e2, p := r.p,
    remaining := r.e0 * max r.e1 1 * max r.e2 1, next := 0 }

/-- The fresh chunk after a commit. -/
def nextChunk (s : State) (ts : Nat) (c : Chunk) : Chunk :=
  { began := s.commits, ts := ts, index := c.index + 1 }

/-- Shadows take the current values, results on their way belong to a committed chunk, and the next
chunk begins (R106, R110, R141, R147, R202, R253). -/
def shadowsDone (slot : Nat) : Stage := fun s =>
  let tk := (thr s slot).task
  let ts := (taskOf s slot).ts
  [onThr slot (fun t => { t with
     start := t.arch
     pend := t.pend.map (fun p => { p with committed := true })
     heldRegs := 0
     claims := t.claims.drop t.used
     used := 0
     misses := 0
     chunk := nextChunk s ts t.chunk }),
   onCore (coreOf slot) (fun c => { c with mq := c.mq.map (fun m =>
     if m.task = tk then { m with committed := true } else m) }),
   onTask tk (fun t => { t with chunks := t.chunks + 1 })]

/-- The barrier operation that a chunk's bundle made takes effect (R218): at once at a quad barrier;
at a die barrier it is sent, and the slot waits for it. -/
def commitBar (slot n : Nat) (kind : BarKind) : Stage := pick (fun s =>
  let t := thr s slot
  let g := (taskOf s slot).g
  if n < 16 then [barEffect t.kernel g n t.task kind]
  else
    let waits := match kind with
      | .init _ => false
      | _ => true
    let send : BarSend := { kernel := t.kernel, die := dieOf slot, bar := n, task := t.task, slot := slot, kind := kind }
    [(fun s => [.obj (fun o => { o with barSends := tabPut o.barSends s.fresh send }),
      .post (s.now + lat s (ctxOf s slot) 1 180) (.ev (.dieBarrierArrival s.fresh)), .draw 2] ++
      (if waits then sleepOn slot .reply s else []) : Stage)])

/-- Does a line stand in one of some regions? -/
def inRecords (l : List (Nat × Nat × Nat)) (line : Nat) : Bool :=
  l.any (fun r => decide (r.1 ≤ line * 64) && decide (line * 64 < r.1 + r.2.1 * r.2.2))

/-- The commit of the current chunk of a slot, all but what follows it (R144, R146). -/
def commitChunk (slot : Nat) : Stage := pick (fun s =>
  let t := thr s slot
  let c := t.chunk
  let g := (taskOf s slot).g
  [commitMem slot, mirrorFor t.task (c.landed.map (fun l => (ctxLoc s (ctxOf s slot) (64 * l) .write, 64))),
   (match c.tstamp with
    | some v => eff [onTask t.task (fun x => { x with ts := v })]
    | none => skip),
   commitSpawns slot c.spawns,
   eff (c.nests.map (fun r => onGroup t.kernel g (fun x => { x with nests := tabPut x.nests r.n (openNest r) }))),
   eff (c.l2p.map (fun e => onCtx (ctxOf s slot) (fun x => { x with l2p := x.l2p.set e.1 e.2 }))),
   (match iterOf s slot with
    | some (l, _) => if c.landed.isEmpty then skip else eff [onLoop l (fun x => { x with
        landed := setAddAll x.landed (c.landed.filter (inRecords x.req.regions)) })]
    | none => skip),
   (if c.landed.isEmpty then skip else eff ((s.o.seqs.filter (fun q => q.2.cid == ctxOf s slot)).map (fun q =>
      onSeq q.1 (fun x => { x with landed := setAddAll x.landed (c.landed.filter (inRecords x.kvreg)) })))),
   (match c.gloop with
    | some r => createLoop slot r c.ts
    | none => skip),
   (if c.resvd then eff [.obj (fun o => { o with resv := o.resv.filter (fun w => w.2 != slot) })] else skip),
   shadowsDone slot,
   (if c.tstamp.isSome || c.gloop.isSome then evNow (.floorChange t.kernel) else skip),
   (match c.bar with
    | some (n, k) => commitBar slot n k
    | none => skip)])

/-! ## Validation -/

/-- Two sets of words share one. -/
def meets (a b : List Nat) : Bool := a.any (fun w => b.contains w)

/-- Has the chunk read a word that a chunk wrote or reduced after it began (R145)? -/
def conflicts (s : State) (c : Chunk) : Bool :=
  c.reads.any (fun w => decide (c.began < tabD s.lastWrite w 0))

/-- The timestamp of a task's current chunk (R267). -/
def tsOf (s : State) (t : Task) : Nat :=
  match t.slot with
  | some sl => ((tabGet s.o.slots sl).map (fun x => x.chunk.ts)).getD t.ts
  | none => match t.image with
    | some im => im.chunk.ts
    | none => t.ts

/-- The floor of a set of tasks (R267); none when no task lives. -/
def floorOf (s : State) (l : List (Nat × Task)) : Option Nat :=
  (leastBy id (l.map (fun x => tsOf s x.2)))

/-- The tasks of a kernel's domain: guess tasks belong to none (R274). -/
def domainTasks (s : State) (k : Nat) : List (Nat × Task) :=
  s.o.tasks.filter (fun x => x.2.kernel == k && match x.2.kind with
    | .guess _ _ => false
    | _ => true)

/-- The tasks of a loop's domain: the owner and the iterations (R274). -/
def loopTasks (s : State) (l : Nat) : List (Nat × Task) :=
  s.o.tasks.filter (fun x => x.1 == l || match x.2.kind with
    | .iteration o _ => o == l
    | _ => false)

/-- The loop whose domain holds a task: its own as owner, or that of an iteration. -/
def loopOf (s : State) (slot : Nat) : Option Nat :=
  match iterOf s slot with
  | some (l, _) => some l
  | none => if tabHas s.o.loops (thr s slot).task then some (thr s slot).task else none

/-- The floors that gate a slot's chunk, as the slices see them (R267, R268, R274). -/
def gates (s : State) (slot : Nat) : List Nat :=
  (if determ s slot then [(kernelOf s slot).floor] else []) ++
  (match loopOf s slot with
   | some l => match tabGet s.o.loops l with
     | some x => if x.st == .running || x.st == .stalled then [x.floor] else []
     | none => []
   | none => [])

/-- The epoch records of the domains of a slot, a kernel's and a loop's (R269, R274). -/
def epochsOf (s : State) (slot : Nat) : List (List Epoch) :=
  [if determ s slot then (kernelOf s slot).epoch else [],
   match loopOf s slot with
   | some l => ((tabGet s.o.loops l).map (·.epoch)).getD []
   | none => []]

/-- All that the epoch records of a slot's domains hold. -/
def epochs (s : State) (slot : Nat) : List Epoch := (epochsOf s slot).flatten

/-- The first chunk of equal timestamp and another task with which a chunk overlaps (R269). -/
def epochClash (s : State) (slot : Nat) : Option (Epoch × Nat) :=
  let c := (thr s slot).chunk
  firstSome (fun (y : Epoch) =>
    if y.task = (thr s slot).task ∨ y.ts ≠ c.ts then none else
    (firstSome (fun w => if y.reads.contains w || y.writes.contains w || y.reds.contains w then some (y, w) else none) c.writes).or <|
    (firstSome (fun w => if y.reads.contains w || y.writes.contains w then some (y, w) else none) c.reds).or <|
    (firstSome (fun w => if y.writes.contains w || y.reds.contains w then some (y, w) else none) c.reads))
    (epochs s slot)

/-- The owning slice of a word: its die, and bits 8:6 of its physical address (R138). -/
def sliceOf (w : Nat) : Nat := locDie (8 * w) * 8 + w / 8 % 8

/-- Words of a slice in a chunk's signatures. -/
def sliceWords (z : Nat) (reads writes reds : List Nat) : Nat :=
  ((reads ++ writes ++ reds).filter (fun w => sliceOf w == z)).length

/-- Adds a committing chunk to the epoch records of its domains (R269). -/
def recordEpoch (slot : Nat) : Stage := fun s =>
  let c := (thr s slot).chunk
  let t := taskOf s slot
  let e : Epoch := { task := (thr s slot).task, w := t.w, cn := t.cn, ts := c.ts, reads := c.reads,
                     writes := c.writes, reds := c.reds }
  (if determ s slot then [onKernel (thr s slot).kernel (fun k => { k with epoch := k.epoch ++ [e] })] else []) ++
  (match loopOf s slot with
   | some l => [onLoop l (fun x => { x with epoch := x.epoch ++ [e] })]
   | none => [])

/-! ## What a commit creates (R262) -/

/-- An f32 pattern that is finite, as an integer multiple of 2^-149. -/
def f32Scaled (x : BitVec 32) : Option Int :=
  let e := bits x 30 23
  let f := bits x 22 0
  if e = 255 then none
  else
    let m : Nat := if e = 0 then f else (f + 2 ^ 23) * 2 ^ (e - 1)
    some (if x.getLsbD 31 then -(m : Int) else m)

/-- The tolerance test of ACCEPT.TOL on one lane (R281). -/
def tolNear (t : BitVec 32) (p g : BitVec 32) : Bool :=
  match f32Scaled p, f32Scaled g with
  | some a, some b =>
    if t = 0x7F800000#32 then true
    else match f32Scaled t with
      | some x => decide (((a - b).natAbs : Int) ≤ x)
      | none => false
  | _, _ => false

/-- The task of iteration j of a loop, with its thread. -/
def iterTask (s : State) (l j : Nat) : Option (Nat × List Word) :=
  ((tabGet s.o.loops l).bind (fun lp => tabGet lp.iters j))

/-- The version that an iteration left in a sequence, and the one a successor started from (R301). -/
def seqPair (l : List (Nat × Nat × Nat)) (key : Nat) : Option (Nat × Nat) :=
  (l.find? (fun x => x.1 == key)).map (·.2)

/-- Does the produced carry match the successor's start (R281)? -/
def carryMatch (s : State) (a : Arch) (p : List Word) (kind : Cmp) (succ : Nat) (g : List Word) : Bool :=
  match kind with
  | .quit => false
  | .eq => p == g
  | .seq key =>
    let left := seqPair a.seqApps.reverse key
    let from_ := (taskThr? s succ).bind (fun t => seqPair t.arch.seqRefs key)
    (match p, g with
     | x :: _, y :: _ => bits x 31 0 == bits y 31 0
     | _, _ => false) && left.isSome && left == from_
  | .tol t => (p.zip g).all (fun x => laneEq (tolNear t) x.1 x.2)

/-- Waiting tasks of a group. -/
def groupWaiting (s : State) (k g : Nat) : Nat :=
  (s.o.tasks.filter (fun x => x.2.kernel == k && x.2.g == g && x.2.st == .waiting)).length

/-- Is iteration j, with its comparison, the last of a loop (R281)? -/
def Loop.lastAt (lp : Loop) (j : Nat) (kind : Cmp) : Bool :=
  kind == .quit || (lp.req.n != 0 && decide (lp.req.n ≤ j + 1)) || (lp.req.n == 0 && decide (j = 2 ^ 32 - 2))

/-- How many tasks a wave starts with (R279). -/
def GloopReq.starts (r : GloopReq) : Nat := if r.wid = 0 then 1 else 2

/-- The tasks that the EXIT of iteration j makes WAITING, and how many waiting ones it ends (R282, R287). -/
def exitCreates (s : State) (l j : Nat) (a : Arch) : Nat × Nat :=
  match tabGet s.o.loops l, a.carry with
  | some lp, some (p, kind) =>
    let gone := (s.o.tasks.filter (fun x => x.2.st == .waiting && (match x.2.kind with
      | .iteration o i => o == l && decide (j < i)
      | .guess o _ => o == l
      | .plain => false))).length
    if lp.lastAt j kind then (0, gone)
    else match iterTask s l (j + 1) with
      | some (nt, g) => if carryMatch s a p kind nt g then (((task? s nt).map (·.held.length)).getD 0, 0) else (lp.req.starts, gone)
      | none => (lp.req.starts, gone)
  | _, _ => (0, 0)

/-- The tasks that the commit of a slot's chunk, which `a` follows, makes WAITING in its group (R264, R278, R282), and how
many waiting ones it ends. -/
def creates (s : State) (slot : Nat) (a : After) : Nat × Nat :=
  let t := thr s slot
  let more := match a, iterOf s slot with
    | .exit, some (l, j) => exitCreates s l j t.arch
    | _, _ => (0, 0)
  ((if speculative s slot && !isLead s slot then 0 else t.chunk.spawns.length)
    + ((t.chunk.gloop.map GloopReq.starts).getD 0) + more.1, more.2)

/-- Has a group room for the tasks that a commit creates: at most 4,096 wait (R262)? -/
def roomToCreate (s : State) (slot : Nat) (a : After) : Bool :=
  let n := creates s slot a
  n.1 == 0 || decide (groupWaiting s (thr s slot).kernel (taskOf s slot).g + n.1 ≤ 4096 + n.2)

/-- The order key of a task as one number (R261, R390). -/
def keyNum (t : Task) : Nat := t.w + 2 ^ 64 * (t.keyTs + 2 ^ 64 * t.cn)

/-- The digests of one chunk, by kernel, order key and index, in the order of its attempts. -/
def digestsOf (l : List (Nat × Nat × Nat × BitVec 64)) (k key index : Nat) : List (BitVec 64) :=
  (l.filter (fun x => x.1 == k && x.2.1 == key && x.2.2.1 == index)).map (·.2.2.2)

/-- Has the partner's digest arrived for every attempt of a chunk (R390)? -/
def twinAnswered (s : State) (k key index : Nat) : Bool :=
  decide ((digestsOf s.o.mod.twinOwn k key index).length ≤ (digestsOf s.o.mod.twinSeen k key index).length)

/-- Do the digests of an attempt of a chunk differ (R391)? -/
def twinUnequal (s : State) (k key index : Nat) : Bool :=
  ((digestsOf s.o.mod.twinOwn k key index).zip (digestsOf s.o.mod.twinSeen k key index)).any (fun x => x.1 != x.2)

/-- Is a pending operation a global atomic that has not executed? -/
def atomOut (p : Pend) : Bool :=
  match p.op with
  | .atom _ _ _ _ _ => true
  | _ => false

/-- Does nothing that may last hold a validated chunk back: gating (R268), another held chunk's words (R148), room for the
tasks that it creates (R262), the lead for an iteration's EXIT (R282)? -/
def ungated (s : State) (slot : Nat) : Bool :=
  let t := thr s slot
  let c := t.chunk
  (c.plain || (gates s slot).all (fun f => decide (c.ts ≤ f)))
    && (setAddAll c.writes c.reds).all (fun w => match tabGet s.o.resv w with
        | some x => x == slot
        | none => true)
    && roomToCreate s slot t.after
    && (!(t.after == .exit && (iterOf s slot).isSome) || isLead s slot)

/-- May a validated chunk be released: nothing holds it back, the partner's digest is there in a twin launch (R390), and
the thread's earlier atomics, which precede it in the commit order, have executed (R146, R157)? -/
def released (s : State) (slot : Nat) : Bool :=
  let t := thr s slot
  ungated s slot
    && (!(recOf s slot).twin || twinAnswered s t.kernel (keyNum (taskOf s slot)) t.chunk.index)
    && !t.pend.any atomOut

/-- Blocked chunks ask again in the next cycle, each at its place there (R219): something they may wait for has changed. -/
def kick : Stage := fun s =>
  s.o.slots.flatMap (fun x => if x.2.chunk.blocked then
    [onChunk x.1 (fun c => { c with blocked := false }), .post (s.now + 1) (.ev (.chunkCommit x.1))] else [])

/-! ## Discard (R147) -/

/-- The thread after a discard: registers and the rest of R106 as at the chunk's start, results of
the discarded chunk dropped, its claims to be returned again (R110, R123, R147, R202, R253). -/
def rolledBack (s : State) (t : Thread) : Thread :=
  let a := t.start
  let at_ := fun (x : SlotSt) => match x, a.priv with
    | .trapped, .user => .ready
    | .ready, .handler => .trapped
    | _, _ => x
  { t with
    st := at_ t.st, back := at_ t.back
    arch := { a with streams := a.streams.map (fun x => { x with fifo := [] }) }
    start := { a with streams := a.streams.map (fun x => { x with fifo := [] }) }
    cur := if t.cur < t.arch.t then min t.cur a.t else a.t
    heldRegs := 0
    pend := t.pend.filter (·.committed)
    used := 0
    after := .nothing
    raised := 0
    late := false
    chunk := { began := s.commits, ts := t.chunk.ts, index := t.chunk.index,
               tries := t.chunk.tries + 1,
               held := setAddAll (setAddAll (if t.chunk.resvd then t.chunk.held else []) t.chunk.reads) t.chunk.writes,
               resvd := t.chunk.resvd, unequal := t.chunk.unequal } }

/-- Prefetches the streams of a slot that are read streams (R123, R124). -/
def refetch (slot : Nat) : Stage := fun s =>
  ((thr s slot).arch.streams.filter (fun x => !x.write && !x.exhausted)).zipIdx.map (fun x =>
    .post (s.now + lat s (ctxOf s slot) x.2 640) (.ev (.streamUnitFetch slot x.1.reg))) ++ [.draw 16]

/-- The chunk of a slot is discarded (R147); a parked slot whose pending registers are gone returns. The lathe goes on
once the results that were on their way at the chunk's start are written again (R186, R190). -/
def discardChunk (slot : Nat) : Stage := seqS [
  (fun s =>
    let tk := (thr s slot).task
    mqMoves (coreOf slot) tk s ++
    [onThr slot (rolledBack s),
     onCore (coreOf slot) (fun c => { c with mq := c.mq.filter (fun m => m.task != tk || m.committed || m.remote.isSome) }),
     .unpost (fun a => match a with
       | .ev (.latheWordIssue x) => x == slot
       | .ev (.latheWordResult x) => x == slot
       | .ev (.chunkCommit x) => x == slot
       | _ => false)] : Stage),
  (fun s =>
    let t := thr s slot
    (if t.st == .parked && !anyPending t then [rejoin slot] else []) ++
    (if t.arch.lathe.st == .running then 
      [.post (s.now + if t.arch.lathe.flight.isEmpty then 1 else 8) (.ev (.latheWordIssue slot))] else []) ++
    t.arch.lathe.flight.map (fun _ => .post (s.now + 7) (.ev (.latheWordResult slot))) : Stage),
  refetch slot]

/-- A chunk gives up its slot before its result (R97, R270): it is discarded, which is no conflict, and its lathe waits. -/
def giveUp (slot : Nat) : Stage := pick (fun s =>
  let c := (thr s slot).chunk
  [discardChunk slot, eff [onChunk slot (fun x => { x with tries := c.tries, held := c.held, unequal := c.unequal }),
    .unpost (isLatheIssue slot)]])

/-! ## The end of an iteration (R282) -/

/-- The sequences whose CP an iteration's commit step moves, with the position after its last
appending TOKAPP (R300, R316). -/
def appended (a : Arch) : List (Nat × Nat) :=
  a.seqApps.foldl (fun l x => tabPut l x.1 x.2.1) []

/-- The lead becomes iteration j (R276, R283, R287). -/
def newLead (owner j : Nat) : Stage := pick (fun s =>
  [eff [onLoop owner (fun x => { x with lead := j })],
   (match iterTask s owner j with
    | some (tk, _) => seqS [releaseHeld tk, fun s =>
        if ((task? s tk).map (fun t => t.st == .contained)).getD false
        then [onLoop owner (fun x => { x with st := .stalled })] else []]
    | none => skip),
   kick])

/-- The step in which the EXIT chunk of iteration j commits (R282, R285, R316). -/
def iterCommit (owner j : Nat) (tk : Nat) (a : Arch) : Stage := pick (fun s =>
  match tabGet s.o.loops owner, a.carry with
  | some lp, some (p, kind) =>
    let last := lp.lastAt j kind
    let next := iterTask s owner (j + 1)
    let kept := (appended a).map (·.1) ++ (match kind with
      | .seq key => [key]
      | _ => [])
    [eff [onLoop owner (fun x => { x with c := x.c + 1, iters := tabDel x.iters j })]] ++
    (appended a).map (fun q => pick (fun s =>
      let k := kernel s lp.kernel
      match tabGet s.o.seqs q.1 with
      | some x => [eff [onSeq q.1 (fun y => { y with root := k.root, queue := k.queue })], seqAdvance q.1 (min q.2 x.keep)]
      | none => [])) ++
    (if last then [rejectFrom owner (j + 1) kept, endLoop owner .done p]
     else match next with
      | some (nt, g) =>
        if carryMatch s a p kind nt g then [newLead owner (j + 1)]
        else [rejectFrom owner (j + 1) kept, endGuess owner, newWave owner (j + 1) p, newLead owner (j + 1)]
      | none => [endGuess owner, newWave owner (j + 1) p, newLead owner (j + 1)]) ++
    [endTask tk]
  | _, _ => [endTask tk])

end Sys2Proof.Machine
end

