-- ==== Sys2Proof/Machine/Ops.lean ====
section
/-!
DEFINITION. Ops: the operations that every word and event shares. Containment (R370), taking a trap
and returning from one (R77, R78, R185), the end of a chunk and what follows it (R83, R84, R141 to
R144, R160), starting, saving and resuming a task (R66, R93, R94, R263), sleeping and waking (R74),
and the issue of a bundle (R55 to R57, R69 to R72, R142).
-/

namespace Sys2Proof.Machine

/-! ## Containment (R370) -/

/-- A thread whose window, predicates, anvils and the rest are scrubbed, in QUARANTINED (R370). -/
def scrubbed (t : Thread) : Thread :=
  { task := t.task, kernel := t.kernel, st := .quarantined, back := .quarantined, limit := t.limit,
    cur := t.cur, partner := t.partner }

/-- Issue of a slot stops: what is scheduled for it goes, its queue entries and operations too. -/
def stopSlot (slot : Nat) : Stage := fun s =>
  let tk := (thr s slot).task
  mqMoves (coreOf slot) tk s ++
  [.obj (fun o => { o with
      quads := tabMap o.quads (fun _ q => { q with waiters := q.waiters.filter (fun w => w.slot != slot) })
      cores := tabMod o.cores (coreOf slot) {} (fun c =>
        { c with mq := c.mq.filter (fun m => m.task != tk || m.remote.isSome) })
      resv := o.resv.filter (fun w => w.2 != slot) }),
   .unpost (fun a => match a with
     | .ev (.chunkValidate x) => x == slot
     | .ev (.chunkCommit x) => x == slot
     | .ev (.chunkDiscard x) => x == slot
     | .ev (.trapEntry x) => x == slot
     | .ev (.latheWordIssue x) => x == slot
     | .ev (.latheWordResult x) => x == slot
     | .ev (.preemptionComplete x) => x == slot
     | .ev (.fpEvent x) => x == slot
     | .ev (.heldChunkReserve x) => x == slot
     | .ev (.waittTimeout x) => x == slot
     | .ev (.streamUnitFetch x _) => x == slot
     | _ => false)]

/-- What containment means to the carry loop of an iteration or guess task (R283). -/
def loopContained (slot : Nat) : Stage := fun s =>
  match (taskOf s slot).kind with
  | .iteration l _ => if isLead s slot then [onLoop l (fun x => { x with st := .stalled })] else []
  | .guess l _ => [onLoop l (fun x => { x with waveOpen := false })]
  | .plain => []

/-- Quarantines one slot: the chunk is discarded, pending results and held operations dropped, the
window, predicates, anvils and TCM scrubbed, and the task becomes CONTAINED (R370, R263). -/
def quarantineSlot (slot : Nat) : Stage := seqS [
  loopContained slot,
  fun s =>
    let t := thr s slot
    leaves slot s ++ (dropTask t.task s) ++ (stopSlot slot s) ++ wipe (tcmLoc slot 0) (recOf s slot).tcm ++
    [onTask t.task (fun x => { x with st := .contained, slot := none, image := none, held := [] }),
     onThr slot scrubbed,
     .post (s.now + lat s (ctxOf s slot) 0 3800) (.ev (.quarantineDone slot)), .draw 1]]

/-- Contains a slot, with its partner in a redundant pair, and creates the record (R370, R380). -/
def contain (slot : Nat) (r : SRec) : Stage := pick (fun s =>
  let t := thr s slot
  let r' := recFor s slot r
  [createRec t.kernel r', quarantineSlot slot,
   (match t.partner with
    | some p => quarantineSlot p
    | none => skip), kick])

/-- Is the commit of a slot's chunk due in this cycle? -/
def commitsNow (s : State) (slot : Nat) : Bool :=
  s.agenda.any (fun x => decide (x.1 ≤ s.now) && x.2 == .ev (.chunkCommit slot))

/-- Contains the task of a record where it stands (R376): in its slot, after a commit of the cycle (R370), or, saved, when it
resumes. -/
def containTask (tk : Nat) (r : SRec) : Stage := pick (fun s =>
  match task? s tk with
  | none => []
  | some x => match x.slot with
    | some sl => if commitsNow s sl then [fun s => [.post s.now (.contain sl tk r)]]
      else [contain sl { r with pc := (thr s sl).arch.pc, outside := true }]
    | none => if x.image.isSome then [eff [onTask tk (fun t => { t with
        doom := some { r with pc := ((x.image.map (·.arch.pc)).getD 0), outside := true } })]] else [])

/-- A read served after its issue finds poison: its task is contained (R357, R376). -/
def consume (tk cls : Nat) (info : BitVec 64) : Stage := containTask tk { code := .poison, cls := cls, info := info }

/-- The trap by the handler's number, for FIRST of a nested record (R372). -/
def firstOf (t : Thread) : Nat := if t.arch.priv = .handler then t.trapcode.toNat % 256 else 0

/-! ## Taking a trap and returning from one -/

/-- Does a thread have a handler to enter: its kernel names one, or it is a firmware thread (R65, R230)? -/
def hasHandler (s : State) (slot : Nat) : Bool :=
  (thr s slot).arch.priv == .firmware || (recOf s slot).handler.isSome

/-- Is a trap of the slot nested (R78, R230)? -/
def nested (s : State) (slot : Nat) : Bool :=
  !hasHandler s slot || (thr s slot).arch.priv == .handler
    || (thr s slot).arch.priv == .firmware && ((thr s slot).st == .trapped || (thr s slot).back == .trapped)

/-- The thread that has entered its handler (R77, steps 4 and 5): TRAPPC, TRAPCODE and TRAPINFO
are written, the privilege is the handler's, the PC is TRAPVEC, and a chunk begins. A trailer stays
in SHADOW (R380). -/
def trapEntered (tr : Trap) (pc : BitVec 64) (t : Thread) : Thread :=
  let a := { t.arch with pc := t.trapvec, priv := if t.arch.priv = .firmware then .firmware else .handler }
  let st : SlotSt := if t.st = .shadow ∨ t.back = .shadow then .shadow else .trapped
  { t with
    trappc := pc, trapcode := BitVec.ofNat 64 tr.code.num, trapinfo := tr.info
    arch := a, start := a, st := st, back := st, wait := none, waitCount := 0, grant := none
    after := .nothing, mark := false, joining := true }

/-- Trap entry where the chunk has ended and no register is pending; the handler joins the next
round (R77). -/
def enterTrap (slot : Nat) : Stage := fun s =>
  match (thr s slot).after with
  | .trap tr pc =>
    if anyPending (thr s slot) || (thr s slot).chunk.st == .validating then []
    else [onThr slot (trapEntered tr pc)] ++ (if (thr s slot).raised = 0 then [] else [.post s.now (.ev (.fpEvent slot))])
  | _ => []

/-- The thread that has returned from its handler (R78): PC := TRAPPC, user privilege, READY. A firmware
thread keeps its privilege (R65). -/
def eretDone (t : Thread) : Thread :=
  let st : SlotSt := if t.st = .shadow then .shadow else .ready
  { t with arch := { t.arch with pc := t.trappc, priv := if t.arch.priv = .firmware then .firmware else .user }
           st := st, back := st }

/-- The lathe returns to IDLE; words already issued complete, and the set is pending until the last has (R193). -/
def latheAborted (a : Arch) : Arch :=
  { a with lathe := { a.lathe with st := .idle, words := [], next := 0, units := [],
                                   set := if a.lathe.flight.isEmpty then [] else a.lathe.set } }

/-- Aborts the lathe (R77, R193). -/
def abortLathe (slot : Nat) : Stage := fun s =>
  if (thr s slot).arch.lathe.st = .idle then [] else
  [onArch slot latheAborted,
   .unpost (isLatheIssue slot)]

/-! ## Starting, saving and resuming a task -/

/-- The anvils that a launch claims, at their start (R199). -/
def freshAnvils (n : Nat) : List Anvil := List.replicate n {}

/-- The window that a task starts with (R66, R264, R275). -/
def startArch (r : LRec) (t : Task) : Arch :=
  let a : Arch := match t.copy with
    | some c => c
    | none => match t.arg with
      | some v => ({} : Arch).setReg 2 v
      | none => {}
  { a with pc := BitVec.ofNat 64 (r.text + t.entry), priv := .user, t := r.regs, tags := [],
           streams := [], lathe := {}, anvils := freshAnvils r.anvils, carry := none, seqRefs := [], seqApps := [] }

/-- The thread of a task that is dispatched (R66, R230): CSRs from the record, latch clear. -/
def startThread (s : State) (slot tk : Nat) (t : Task) (shadow : Bool) : Thread :=
  let r := (kernel s t.kernel).lrec
  let a := startArch r t
  let st : SlotSt := if shadow then .shadow else .ready
  { task := tk, kernel := t.kernel, st := st, back := st, arch := a, start := a, home := slot,
    limit := r.regs, cur := r.regs
    trapvec := BitVec.ofNat 64 (r.text + r.handler.getD 0)
    chunk := { began := s.commits, ts := t.ts } }

/-- The measure of a kernel's intensity runs for 50 µs from the dispatch of its first task on (R250, log 63). -/
def measureFrom (k : Nat) : Stage := fun s =>
  let begun := s.agenda.any (fun x => match x.2 with
    | .ev (.classifyEnd n _ _) => n == k
    | _ => false)
  if (kernel s k).measuring && !begun then
    [.post (s.now + 95000) (.ev (.classifyEnd k (kernel s k).matrix (kernel s k).moved))]
  else []

/-- Puts a waiting task into a FREE slot (R66, R245); `pair` is the trailer's slot (R377). -/
def startTask (slot tk : Nat) (pair : Option Nat) : Stage := pick (fun s =>
  match task? s tk with
  | none => []
  | some t =>
    let th := startThread s slot tk t false
    [eff ([.obj (fun o => { o with slots := tabPut o.slots slot { th with partner := pair } }),
       onTask tk (fun x => { x with st := .running, slot := some slot })] ++
      (match pair with
       | some p => [.obj (fun o => { o with slots := tabPut o.slots p { startThread s p tk t true with partner := some slot } })]
       | none => [])),
     ensureRound (coreOf slot),
     (match pair with
      | some p => ensureRound (coreOf p)
      | none => skip),
     measureFrom t.kernel])

/-- The marks of a TCM allocation's lines, by offset. -/
def tcmMarks (s : State) (slot : Nat) : Tab Nat :=
  (s.o.poison.filter (fun p => decide (tcmLoc slot 0 ≤ p.1 * 64) && decide (p.1 * 64 < tcmLoc slot 0 + 65536))).map
    (fun p => (p.1 * 64 - tcmLoc slot 0, p.2))

/-- The bytes of a TCM allocation that are listed. -/
def tcmCells (s : State) (slot : Nat) : List Host.Cell :=
  (s.mem.filter (fun c => decide (tcmLoc slot 0 ≤ c.1) && decide (c.1 < tcmLoc slot 0 + 65536))).map
    (fun c => (c.1 - tcmLoc slot 0, c.2))

/-! ### Save frames (R338, R340) -/

/-- Lines of n bytes from a location on that cannot be read: poisoned, or with errors that their code cannot
correct. -/
def badLines (s : State) (loc n : Nat) : List Nat :=
  setAddAll ((s.o.poison.filter (fun p => decide (loc ≤ p.1 * 64) && decide (p.1 * 64 < loc + n))).map (·.1))
    ((s.o.flips.filter (fun b => decide (lineOf loc ≤ b / 576) && decide (b / 576 * 64 < loc + n) &&
      (match judge (grainAt s (b / 576 * 64)) (flipsOf s (b / 576)) s.fresh with
       | .lost _ => true
       | _ => false))).map (fun b => b / 576))

/-- The enabled cores and the quads of a partition on a die. -/
def dieShare (s : State) (x : Ctx) (d : Nat) : List Nat × List Nat :=
  ((defaultTable s x.cfg.partDies x.cfg.partQuads).filter (fun e => dieOf e == d), (partQuads x.cfg.partDies x.cfg.partQuads).filter (fun q => q / 256 == d))

/-- Bytes of the frames of a die: a slot frame of 192 KiB for each slot, a quad frame of 1,088 KiB for each quad (R338). -/
def dieFrames (s : State) (x : Ctx) (d : Nat) : Nat :=
  196608 * 64 * (dieShare s x d).1.length + 1114112 * (dieShare s x d).2.length

/-- Where the frames of a die begin in the save area: behind those of the dies before it (the layout is the module's own). -/
def dieBase (s : State) (x : Ctx) (d : Nat) : Nat := x.cfg.saveBase + total ((upto 0 d).map (dieFrames s x))

/-- The address of the slot frame of a slot in its context's save area (R338). -/
def slotFrame (s : State) (c slot : Nat) : Nat :=
  match ctx? s c with
  | none => 0
  | some x => dieBase s x (dieOf slot) + 196608 * (64 * (((dieShare s x (dieOf slot)).1.findIdx? (· == slot / 64 * 64)).getD 0) + slot % 64)

/-- The address of a quad frame in the save area, behind the slot frames of its die (R338). -/
def quadFrame (s : State) (x : Ctx) (q : Nat) : Nat :=
  dieBase s x (q / 256) + 196608 * 64 * (dieShare s x (q / 256)).1.length
    + 1114112 * (((dieShare s x (q / 256)).2.findIdx? (· == q)).getD 0)

/-- A frame of n bytes is written whole: marks and errors of its lines go (R338, R350). -/
def frameWritten (s : State) (c va n : Nat) : List Eff :=
  match ctxPieces s c va n .read with
  | .error _ => []
  | .ok l => [.obj (fun o => { o with
      poison := o.poison.filter (fun p => !l.any (fun x => decide (x.1 ≤ p.1 * 64) && decide (p.1 * 64 < x.1 + x.2)))
      flips := o.flips.filter (fun b => !l.any (fun x => decide (x.1 ≤ b / 576 * 64) && decide (b / 576 * 64 < x.1 + x.2))) })]

/-- Does a save frame of n bytes, written at a place of the commit order, fail (R338, R340): a line of it cannot be read, or
it was written since, so that its digest fails? With MIRRORSAVE the neighbour's copy is read instead. -/
def frameLost (s : State) (c va n since : Nat) : Bool :=
  match ctx? s c with
  | none => false
  | some x =>
    !(x.cfg.mirrorSave && mirroring s) &&
    (match ctxPieces s c va n .read with
     | .ok l => l.any (fun p => !(badLines s p.1 p.2).isEmpty || s.lastWrite.any (fun w =>
         decide (since < w.2) && decide (p.1 / 8 ≤ w.1) && decide (8 * w.1 < p.1 + p.2)))
     | .error _ => false)

/-! ### Images -/

/-- Who holds the reservations of a held chunk whose task is saved (R148). -/
def savedHolder (task : Nat) : Nat := 2 ^ 40 + task

/-- Writes the image of a slot: the task becomes SAVED, its matrix operations are cancelled and
recorded, and the slot is FREE (R93, R94, R203, R338). -/
def saveTask (slot : Nat) : Stage := seqS [nearRead (tcmLoc slot 0) 65536, pick (fun s =>
  let t := thr s slot
  let ops := (core s (coreOf slot)).mq
  let mine := ops.filter (fun m => m.task == t.task && m.remote.isNone)
  let theirs := ops.filter (fun m => m.task == t.task && m.remote.isSome)
  let cells := tcmCells s slot
  let marks := tcmMarks s slot
  [mqMoves (coreOf slot) t.task,
   eff ([onTask t.task (fun x => { x with
      st := if t.leave = .gated then .waiting else .saved, since := s.now, slot := none
      image := some { t with stop := false, leave := .preempted }, tcm := cells, tcmPoison := marks
      frame := slotFrame s (ctxOf s slot) slot, savedAt := s.commits
      cancelled := mine.map (fun m => { m with started := false }), heldMx := x.heldMx ++ theirs }),
    onCore (coreOf slot) (fun c => { c with mq := c.mq.filter (fun m => m.task != t.task) }),
    .obj (fun o => { o with resv := tabMap o.resv (fun _ w => if w = slot then savedHolder t.task else w) })] ++
    wipe (tcmLoc slot 0) 65536 ++ frameWritten s (ctxOf s slot) (slotFrame s (ctxOf s slot) slot) 196608),
   freeSlot slot,
   (match t.partner with
    | some p => freeSlot p
    | none => skip)])]

/-- A task whose image cannot be read back is IMAGE-LOST: CONTAINED, with a record to the supervisor (R340). -/
def imageLost (tk : Nat) (x : Task) (frame : Nat) : Stage := pick (fun s =>
  let pc := (x.image.map (fun im => im.arch.pc)).getD 0
  let r : SRec := { code := .imageLost, outside := true, pc := pc, info := BitVec.ofNat 64 frame, w := x.w, ts := x.ts, task := tk
                    slot := (x.image.map (·.home)).getD 0
                    kind := if (kernel s x.kernel).lrec.redundant then 3 else match x.kind with
                      | .plain => 0
                      | .iteration _ _ => 1
                      | .guess _ _ => 2 }
  [(match x.kind with
    | .iteration l j => fun s => match tabGet s.o.loops l with
      | some lp => if lp.lead = j then [onLoop l (fun y => { y with st := .stalled })] else []
      | none => []
    | .guess l _ => eff [onLoop l (fun y => { y with waveOpen := false })]
    | .plain => skip),
   dropTask tk, refuseHeld x,
   eff [onTask tk (fun y => { y with st := .contained, image := none, slot := none, held := [], tcm := [], tcmPoison := [], cancelled := [], heldMx := [], heldReqs := [] })],
   createRec x.kernel r])

/-- Loads the image of a saved task into a FREE slot (R94, R95, R203, R372): cancelled operations
enter the queue again, remote ones that were held after them; streams prefetch again; a containment
decided meanwhile is done before the first turn (R376). What was withdrawn is issued again before the slot
may issue, by the RESUMPTION that follows. -/
def resumeTask (tk slot : Nat) (pair : Option Nat) : Stage := pick (fun s =>
  match task? s tk with
  | none => []
  | some x => match x.image with
    | none => []
    | some im =>
      let im' := { im with
        partner := pair, home := slot, stop := true
        arch := { im.arch with streams := im.arch.streams.map (fun y => { y with fifo := [] }) } }
      [eff ([.obj (fun o => { o with slots := tabPut o.slots slot im'
                                     resv := tabMap o.resv (fun _ w => if w = savedHolder tk then slot else w) }),
        onTask tk (fun y => { y with st := .running, slot := some slot, image := none, tcm := [], tcmPoison := [], cancelled := [], heldMx := [], heldReqs := [] }),
        .obj (fun o => { o with poison := x.tcmPoison.foldl (fun t p => tabPut t (lineOf (tcmLoc slot p.1)) p.2) o.poison }),
        onCore (coreOf slot) (fun c => { c with mq := c.mq ++ x.cancelled ++ x.heldMx })] ++
        x.tcm.map (fun c => .store (tcmLoc slot c.1) [c.2]) ++
        (match pair with
         | some p => [.obj (fun o => { o with slots := tabPut o.slots p { im' with st := .shadow, back := .shadow, partner := some slot } })]
         | none => [])),
       refetch slot,
       (if im.arch.lathe.st = .running then (fun s => [.post (s.now + 1) (.ev (.latheWordIssue slot))]) else skip),
       (if x.cancelled.isEmpty && x.heldMx.isEmpty then skip else evNow (.matrixOpStart (coreOf slot))),
       (fun s => [.obj (fun o => { o with mxReqs := x.heldReqs.foldl (fun t r => tabUpd t r (fun q => { q with target := slot })) o.mxReqs })] ++
         x.heldReqs.map (fun r => .post s.now (.ev (.remoteMatrixArrival r)))),
       evNow (.resumption tk slot),
       ensureRound (coreOf slot),
       (match pair with
        | some p => ensureRound (coreOf p)
        | none => skip),
       (match x.doom with
        | some r => seqS [eff [onTask tk (fun y => { y with doom := none })], contain slot r]
        | none => skip)])

/-- May a task run: its group PLACED, and its context RESIDENT and not halted? -/
def mayRun (s : State) (t : Task) : Bool :=
  ((group? s t.kernel t.g).map (fun g => g.st == .placed)).getD false && (kernel s t.kernel).st == .running
    && ((ctx? s (kernel s t.kernel).ctx).map (fun c => c.st == .resident && !c.switching && !c.halted)).getD false

/-- The order in which tasks are offered slots (R262): class, timestamp, order key, and the cycle in which they came to wait;
within one cycle an iteration before a guess, then by kernel id. -/
def taskBefore (s : State) (a b : Task) : Bool :=
  let ca := (kernel s a.kernel).cls
  let cb := (kernel s b.kernel).cls
  let late : Task → Nat := fun x => match x.kind with
    | .guess _ _ => 2 ^ 64 * (2 * x.since + 1) + x.kernel
    | _ => 2 ^ 64 * (2 * x.since) + x.kernel
  decide (cb < ca) || (ca == cb &&
    (decide (tsOf s a < tsOf s b) || (tsOf s a == tsOf s b &&
      (if (a.w, a.keyTs, a.cn) = (b.w, b.keyTs, b.cn) then decide (late a ≤ late b)
       else keyLe (a.w, a.keyTs, a.cn) (b.w, b.keyTs, b.cn)))))

/-- The task of a launch, other than one, that waits for a slot on a core, a saved one too: the first in the order of R262
(R84). -/
def waitingOn (s : State) (k c self : Nat) : Option (Nat × Task) :=
  (sortBy (fun a b => taskBefore s a.2 b.2) (s.o.tasks.filter (fun x => x.1 != self && x.2.kernel == k &&
    (x.2.st == .waiting || x.2.st == .saved) && mayRun s x.2 &&
    ((group? s k x.2.g).map (fun g => g.quad == c / 4 && g.cores.contains c)).getD false))).head?

/-- The issue of a slot stops until its image is written, a pair's together (R93). -/
def stopFor (slot : Nat) (w : Leave) : Stage := fun s =>
  onThr slot (fun t => { t with stop := true, leave := w }) :: (match (thr s slot).partner with
    | some p => [onThr p (fun t => { t with stop := true })]
    | none => [])

/-! ## The end of a chunk and what follows -/

/-- Is a node of the graph unit finished for FENCE.ENGINE (R160)? -/
def nodeOver (s : State) (n : Nat) : Bool :=
  match tabGet s.o.billets n, tabGet s.o.kernels n with
  | some b, _ => b.st == .done || b.st == .faulted || b.st == .dropped
  | none, some k => k.st == .done || k.st == .killed
  | none, none => true

/-- Is a pending operation a load under way that is tracked, or is not (R144, R160)? -/
def loadOut (tracked : Bool) (p : Pend) : Bool :=
  match p.op with
  | .load _ _ _ _ t => t == tracked
  | _ => false

/-- Is the fetch of a unit of a global stream of a slot under way (R124, R149)? -/
def streamOut (s : State) (slot : Nat) : Bool :=
  s.agenda.any (fun x => match x.2 with
    | .ev (.streamUnitFetch y r) => y == slot && (((thr s slot).arch.strm r).map (·.global)).getD false
    | _ => false)

/-- Is a request one that FENCE.NEAR waits for (R160)? -/
def NearOp.fenced : NearOp → Bool
  | .signal _ => false
  | _ => true

/-- The condition of a fence, by its minor (R160). -/
def fenceHolds (s : State) (slot : Nat) (k : Nat) : Bool :=
  let t := thr s slot
  let near := !(s.o.near.any (fun r => r.2.task == t.task && r.2.op.fenced))
  let global := !(t.pend.any (loadOut false)) && !streamOut s slot
  let mirror := !mirroring s || decide (t.mirrorTo ≤ s.o.mod.mirrorAcked)
  match k with
  | 0 => near
  | 1 => global
  | 2 => t.jobs.all (nodeOver s) && !(s.o.subs.any (fun r => r.2.task == t.task && decide (r.2.kind < 2)))
  | 3 => mirror
  | _ => near && global && mirror

/-- An enabled floating-point event is taken at the bundle boundary (R185). -/
def fpCheck (slot : Nat) : Stage := fun s =>
  if (thr s slot).raised = 0 then [] else [.post s.now (.ev (.fpEvent slot))]

/-- The record of an enabled floating-point event, and FP hold (R185). -/
def fpHold (slot : Nat) : Stage := pick (fun s =>
  let t := thr s slot
  let r : SRec := { code := .fpEnabled, pc := t.arch.pc, late := t.late, raised := t.raised }
  [createRec t.kernel (recFor s slot r),
   eff [onThr slot (fun t => { t with kept := t.latch, latch := false, raised := 0, late := false, after := .nothing })],
   sleepOn slot .fpHold])

/-- The task of a slot has ended with a committed chunk (R83, R236, R282, R288): the slot is FREE. -/
def exitSlot (slot : Nat) : Stage := pick (fun s =>
  let t := thr s slot
  let a := t.arch
  [freeSlot slot,
   (match t.partner with
    | some p => freeSlot p
    | none => skip),
   eff [onTask t.task (fun x => { x with slot := none })],
   (match iterOf s slot with
    | some (l, j) => iterCommit l j t.task a
    | none => endTask t.task),
   (match (taskOf s slot).kind with
    | .guess l _ => eff [onLoop l (fun x => { x with guess := none })]
    | _ => skip),
   offer (quadOf slot)])

/-- YIELD after its chunk committed (R84): with a waiting task of the launch the slot changes hands, once it is saved as
for pre-emption. -/
def yieldSlot (slot : Nat) : Stage := pick (fun s =>
  [eff [onThr slot (fun t => { t with after := .nothing })],
   (match waitingOn s (thr s slot).kernel (coreOf slot) (thr s slot).task with
    | none => skip
    | some _ => seqS [stopFor slot .yields, evNow (.preemptionComplete slot)])])

/-- What follows the commit of a chunk (R77, R83, R84, R160, R185). -/
def afterCommit (slot : Nat) : Stage := pick (fun s =>
  let t := thr s slot
  match t.after with
  | .nothing => [fpCheck slot]
  | .trap _ _ => [enterTrap slot]
  | .exit => [exitSlot slot]
  | .yield => [yieldSlot slot, fpCheck slot]
  | .fence k => [eff [onThr slot (fun t => { t with after := .nothing })],
      if fenceHolds s slot k then fpCheck slot else sleepOn slot (.fence k)]
  | .fpHold => if anyPending t || t.arch.lathe.st != .idle then [] else [fpHold slot])

/-- Does a chunk of a redundant pair still wait for its digests: a chunk point has been compared with the chunk that it
ends, before it issued (R379)? -/
def undigested (t : Thread) : Bool :=
  t.partner.isSome && !t.chunk.firm && !(t.chunk.equal && t.chunk.bundles == 0)

/-- Must the ending chunk wait in VALIDATING: for the arbiter (R143), room for what it creates (R262), the lead (R282), or
the comparison of digests (R379)? -/
def needsArbiter (s : State) (slot : Nat) (a : After) : Bool :=
  let t := thr s slot
  t.chunk.st != .opened || (a == .exit && (iterOf s slot).isSome)
    || !roomToCreate s slot a || undigested t

/-- A slot leaves the rotation until no register is pending (R66, R72). -/
def parked (t : Thread) : Thread :=
  { t with back := if t.st = .parked ∨ t.st = .sleeping then t.back else t.st, st := .parked }

/-- Ends the current chunk: it commits at once, or goes to VALIDATING (R141, R143, R144). EXIT and
YIELD first wait, parked, until no register is pending (R83, R84). -/
def endChunk (slot : Nat) (a : After) : Stage := pick (fun s =>
  if (a == .exit || a == .yield) && anyPending (thr s slot) then
    [eff [onThr slot (fun t => { parked t with after := a })]]
  else
  [eff [onThr slot (fun t => { t with after := a })]] ++
  (if needsArbiter s slot a then
    [eff [onChunk slot (fun c => { c with st := .validating, sent := false, plain := c.st == .opened && !(a == .exit && (iterOf s slot).isSome) })], evNow (.chunkValidate slot)]
  else [commitChunk slot, afterCommit slot]))

/-- A parked slot whose last pending register is written returns to the rotation, or ends the chunk
of the EXIT or YIELD that parked it (R66, R72, R83, R84). -/
def unpark (slot : Nat) : Stage := pick (fun s =>
  let t := thr s slot
  if t.st == .parked && !anyPending t then
    eff [rejoin slot] ::
    (if (t.after == .exit || t.after == .yield) && t.chunk.st != .validating then [endChunk slot t.after] else [])
  else [])

/-- A bundle raises a trap (R77, R78, R230): nested, the slot is contained; else the lathe is
aborted, the chunk ends, and entry follows its commit. `pc` is what TRAPPC takes. -/
def raiseTrap (slot : Nat) (tr : Trap) (pc : BitVec 64) : Stage := pick (fun s =>
  let t := thr s slot
  if nested s slot then
    [contain slot { code := tr.code, first := firstOf t, nested := true, pc := pc, info := tr.info }]
  else [abortLathe slot, eff [onThr slot (fun t => { t with grant := none, fault := none })], endChunk slot (.trap tr pc)])

/-- What follows the arrival of a result: a parked slot whose last pending register it was returns,
and a trap or a hold that waited for it goes on (R66, R72, R77, R185). -/
def settle (slot : Nat) : Stage := seqS [unpark slot, pick (fun s =>
  let t := thr s slot
  if t.chunk.st = .validating then [] else
  match t.after with
  | .trap _ _ => [if anyPending t then skip else evNow (.trapEntry slot)]
  | .fpHold => [afterCommit slot]
  | _ => [fpCheck slot])]

/-! ## Waking -/

/-- Free register entries of a core (R100). -/
def entriesFree (s : State) (c : Nat) : Nat := 2048 - entriesUsed s c

/-- Has the record of an append region's iteration ended, or has the line landed (R285)? -/
def lineReady (s : State) (line owner j : Nat) : Bool :=
  match tabGet s.o.loops owner with
  | some lp => lp.landed.contains line || decide (j < lp.lead) || !(tabHas lp.iters j) ||
    s.o.seqs.any (fun q => q.2.cid == (kernel s lp.kernel).ctx && q.2.landed.contains line)
  | none => true

/-- Does the condition that a sleeping slot waits for hold (R74)? -/
def waitHolds (s : State) (slot : Nat) (t : Thread) : Bool :=
  match t.wait with
  | none => true
  | some w => match w with
    | .word _ => t.grant.isSome
    | .latch => t.latch
    | .latchUntil _ => t.latch || t.grant.isSome
    | .barrier _ _ _ => t.grant.isSome
    | .window n => decide (n ≤ t.cur + entriesFree s (coreOf slot))
    | .latheIdle => t.arch.lathe.st == .idle
    | .counter _ _ => t.grant.isSome
    | .fence k => fenceHolds s slot k
    | .translation _ _ => t.grant.isSome || t.fault.isSome
    | .loopEnd => match tabGet s.o.loops t.task with
      | some lp => lp.st == .done || lp.st == .failed
      | none => t.chunk.gloop.isNone
    | .fpHold => t.latch
    | .lead => isLead s slot
    | .version key pos app => match tabGet s.o.seqs key with
      | some q => (verExists q pos && (!app || decide (pos ≤ q.cp + 62))) || q.st == 3 || decide (q.keep ≤ pos) || decide (pos < q.cp)
      | none => true
    | .binding addr => (core s (coreOf slot)).sids.contains addr || t.fault.isSome
    | .line l o j => lineReady s l o j
    | .reply => t.grant.isSome || t.fault.isSome

/-- The value that register r of a regrown range below hi is given (R113, R118): its recipe's over the
current operands, or zero. An operand at or above r is not yet in place: it is replayed in its turn, and
a value that R117 and R114 leave no meaning for is a free value. -/
def rematReg (s : State) (slot hi : Nat) (a : Arch) (r : Nat) : Word :=
  let later := fun m => decide (r ≤ m) && decide (m < hi)
  let free := fun m => wd (Config.freeNat (s.fresh + m))
  match a.tag r with
  | .recipe n => recipeOver s slot (fun m =>
      if later m then
        match a.tag m with
        | .recipe k => if m = r then free m else
          recipeOver s slot (fun q => if later q then free q else a.reg q) (recipeOf s slot k)
        | _ => 0
      else a.reg m) (recipeOf s slot n)
  | _ => 0

/-- Registers lo to hi − 1 are rematerialised, in ascending order (R118). -/
def remat (s : State) (slot lo hi : Nat) (a : Arch) : Arch :=
  (upto lo (hi - lo)).foldl (fun a r => a.setReg r (rematReg s slot hi a r)) a

/-- A reclaimed window regrows to its target limit: values and shadows (R113). The slot returns to what it was doing, if its
image was loaded meanwhile (R94, R112). -/
def regrown (s : State) (slot : Nat) (t : Thread) : Thread :=
  let a := remat s slot t.cur t.arch.t t.arch
  let u := { t with
    cur := t.arch.t
    arch := a
    start := (upto t.cur (t.arch.t - t.cur)).foldl (fun x r => x.setReg r (a.reg r)) t.start }
  match t.outer with
  | some (st, w, n) => { u with st := st, wait := w, waitCount := n, outer := none }
  | none => woken u

/-- A sleeping slot whose condition holds rejoins the rotation and issues again (R74); the end of FP
hold gives the latch its kept value back (R185); a regrown window has its entries (R114, R118), and an
RXKEEP those that it waited for. -/
def wakeSlot (slot : Nat) : Stage := pick (fun s =>
  let t := thr s slot
  if t.st == .sleeping && waitHolds s slot t then
    match t.wait with
    | some .fpHold => [eff [onThr slot (fun t => woken { t with latch := t.kept, kept := false })]]
    | some (.window n) =>
      if t.cur < t.arch.t then [eff [onThr slot (regrown s slot), .draw 128], settle slot]
      else [eff [onThr slot (fun t => woken { t with cur := max t.cur n })]]
    | _ => [eff [rejoin slot], fpCheck slot]
  else [])

/-! ## The issue of a bundle -/

/-- BUNDLE: both words name one destination (R56). -/
def clash (c a : Plan) : Bool := c.dests.any (fun d => a.dests.contains d)

/-- The first trap of a bundle in the order of R57; that both words name one destination (R56) is found with the
A-word, once it is legal. A word's own traps are known once its operands are there (R69,
R124), and the A-word's once the C-word's address is translated. -/
def firstTrap (s : State) (slot : Nat) (c a : Plan) : Option Trap :=
  if c.ill then some (bTrap s slot .illegal)
  else if c.priv then some (bTrap s slot .priv)
  else if a.ill then some (bTrap s slot .illegal)
  else if clash c a then some (bTrap s slot .bundle)
  else if a.priv then some (bTrap s slot .priv)
  else c.c2.or (a.c2.or (if c.hold then none else c.c3.or (if c.miss.isSome || a.hold then none else a.c3)))

/-- Has a twin divergence halted the partition of a slot (R391)? -/
def haltedAt (s : State) (slot : Nat) : Bool := ((ctx? s (ctxOf s slot)).map (·.halted)).getD false

/-- Has a lathe of the core issued a word in this cycle, so that it holds the vector pipe (R164, R194)? -/
def pipeBusy (s : State) (slot : Nat) : Bool := (core s (coreOf slot)).latheAt == s.now + 1

/-- Does a bundle that needs n places of the matrix queue find too few (R195)? -/
def mqOver (s : State) (slot n : Nat) : Bool := n != 0 && decide (8 < mqTaken s (coreOf slot) + n)

/-- A miss of the TLB: the slot sleeps until it is answered, and the message goes to the translation
service core of its quad (R57, R344). -/
def sendMiss (slot va : Nat) (a : Acc) : Stage := fun s =>
  sleepOn slot (.translation (BitVec.ofNat 64 va) a.num) s ++
  [.post s.now (.ev (.tlbMiss slot va a.num))]

/-- The streams of the popped registers move on by a unit, and the next unit is fetched (R124). -/
def popStreams (slot : Nat) (l : List Nat) : Stage := fun s =>
  if l.isEmpty then [] else
  [onArch slot (fun a => { a with streams := a.streams.map (fun x =>
      if l.contains x.reg then { x with pos := x.pos + 1, fifo := x.fifo.drop 1 } else x) })] ++
  ((thr s slot).arch.streams.filter (fun x => l.contains x.reg)).zipIdx.map (fun x =>
    .post (s.now + lat s (ctxOf s slot) x.2 640) (.ev (.streamUnitFetch slot x.1.reg))) ++ [.draw 16]

/-- The bundle has taken effect: the PC moves, TURNS and the chunk count it (R80, R87, R141). -/
def advance (slot : Nat) (npc : Option (BitVec 64)) (lost : Nat) : Stage := fun _ =>
  [onThr slot (fun t => { t with
     arch := { t.arch with pc := npc.getD (t.arch.pc + 8) }
     turns := t.turns + 1, grant := none, fault := none, mark := false, reclaimed := false, waited := 0
     skip := t.skip + lost
     chunk := { t.chunk with bundles := t.chunk.bundles + 1 } })]

/-- The chunk ends after the bundle, where the bundle or a limit says so (R141). A chunk point is a chunk of its own, which
no conflict discards (R142). -/
def afterBundle (slot : Nat) (point ends : Bool) (a : After) : Stage := pick (fun s =>
  let c := (thr s slot).chunk
  if occupied s slot && (point || ends || decide (512 ≤ c.bundles) || decide (32 ≤ c.nst)) then
    [if point then eff [onChunk slot (fun c => { c with firm := true })] else skip, endChunk slot a] else [])

/-- The switch marker (R72). -/
def marker (slot : Nat) (mark : Bool) : Stage := fun s =>
  let t := thr s slot
  if mark && anyPending t then
    (if t.st == .ready || t.st == .trapped || t.st == .shadow then [onThr slot parked]
    else [onThr slot (fun t => { t with mark := true })])
  else []

/-- The values that a C-word of a leader has written at once, other than a link, go to its trailer (R378). -/
def leaderWrites (slot : Nat) (c : Plan) : Stage := fun s =>
  let t := thr s slot
  let now := c.dests.filter (fun d => decide (d < 112) && !pending t d)
  if t.partner.isSome && c.npc.isNone && now.length == 1 then [onThr slot (leaderTakes (now.map (fun d => t.arch.reg d)))] else []

/-- Does a leader find the 16 entries of its pair full (R378)? -/
def leaderFull (t : Thread) (c : Plan) : Bool := t.partner.isSome && !c.dests.isEmpty && decide (16 ≤ t.lvq.length)

/-- Both words take effect: every operand was read before either writes (R55). -/
def effects (slot : Nat) (c a : Plan) : List Stage :=
  [popStreams slot (c.pops ++ a.pops)] ++ c.stages ++ a.stages ++
  [leaderWrites slot c, advance slot (c.npc.or a.npc) (c.lost + a.lost),
   afterBundle slot (c.point || a.point) (c.ends || a.ends) (if c.after = .nothing then a.after else c.after),
   marker slot (c.mark || a.mark), fpCheck slot, eff [.draw 256]]

/-- The issue of a bundle by a slot, of the plans of its two words: it raises one trap, or loses its
position, or sleeps, or takes effect as a whole (R57, R69, R74, R142, R287). -/
def issue (s : State) (slot : Nat) (c a : Plan) : List Stage :=
  let t := thr s slot
  let pc := t.arch.pc
  [eff [.turnDone slot]] ++
  match firstTrap s slot c a with
  | some tr => [raiseTrap slot tr (if tr.code = .soft then pc + 8 else pc)]
  | none =>
    if c.hold || a.hold then [eff [.draw 256]] else
    match c.poison.or a.poison with
    | some (cls, va) => [contain slot { code := .poison, cls := cls, pc := pc, info := va }]
    | none =>
      match c.miss.or a.miss with
      | some (va, k) => [sendMiss slot va k]
      | none =>
        if leaderFull t c || ((c.vpipe || a.vpipe) && pipeBusy s slot) || mqOver s slot (c.mxs + a.mxs) then [eff [.draw 256]]
        else if (c.irrev || a.irrev) && speculative s slot && !isLead s slot then
          [sleepOn slot .lead]
        else if (c.point || a.point) && needsArbiter s slot .nothing then
          [eff [onChunk slot (fun c => { c with atPoint := true })], endChunk slot .nothing]
        else match c.sleep.or a.sleep with
          | some w => c.first ++ [sleepOn slot w, eff [.draw 256]]
          | none =>
            (if c.point || a.point then [commitChunk slot] else []) ++ effects slot c a

/-- The plan of NOP and ANOP, the partner of a word that issues alone (R47, R48). -/
def idle : Plan := {}

/-- The issue of a C-word with ANOP as its partner. -/
def fireC (p : State → Plan) (s : State) : Host.Outcome State Fault Refusal :=
  if occupied s s.cur then .next (run (issue s s.cur (p s) idle) s) else .fault .noThread

/-- The issue of an A-word with NOP as its partner. -/
def fireA (p : State → Plan) (s : State) : Host.Outcome State Fault Refusal :=
  if occupied s s.cur then .next (run (issue s s.cur idle (p s)) s) else .fault .noThread

/-- An event takes place: stages, or nothing where its condition does not hold (R7). -/
def fire (l : List Stage) (s : State) : Host.Outcome State Fault Refusal := .next (run l s)

end Sys2Proof.Machine
end

