-- ==== Sys2Proof/Machine/Near.lean ====
section
/-!
DEFINITION. Near: what is done at a quad's scratchpad and at a TCM, by an own access at its issue or
by a request on its arrival (R139, R140): words with full/empty tags and their wait queues (R154,
R155), channels (R223 to R226), atomics (R157), mailboxes (R92), and race-watch (R228).
-/

namespace Sys2Proof.Machine

/-! ## Bytes as a read delivers them -/

/-- The poison that a read of near memory consumes: a mark, or an error that the code cannot correct
(R356, R357). -/
def nearPoison (s : State) (loc n : Nat) : Option Nat :=
  if s.o.poison.isEmpty && s.o.flips.isEmpty then none
  else (poisonIn s loc n).or (firstSome (fun l => match judge 0 (flipsOf s l) s.fresh with
    | .lost c => some c
    | _ => none) (upto (lineOf loc) (lineOf (loc + n - 1) + 1 - lineOf loc)))

/-- Bytes of an access size (R50, R152). -/
def sizeBytes (sz : Nat) : Nat :=
  match sz with
  | 0 | 1 => 1
  | 2 | 3 => 2
  | 4 | 5 => 4
  | 6 => 8
  | _ => 16

/-- What a load of a size puts into a register (R152). -/
def loadValue (sz : Nat) (bs : List Byte) : Word :=
  let n := ofBytes bs
  if 6 ≤ sz then wd n
  else if sz % 2 = 0 then wd (wrap 64 (signed (8 * sizeBytes sz) n))
  else wd n

/-- The near word at a location. -/
def wordAt (s : State) (loc : Nat) : Dword := BitVec.ofNat 64 (ofBytes (lookBytes s loc 8))

/-! ## Full/empty tags and wait queues -/

/-- Is the scratchpad word at a location full (R154)? -/
def isFull (s : State) (loc : Nat) : Bool := (quad s (locQuad loc)).full.contains (locOff loc / 8 * 8)

/-- Sets the tag of a scratchpad word. -/
def setFull (loc : Nat) (b : Bool) : Eff :=
  onQuad (locQuad loc) (fun q =>
    let o := locOff loc / 8 * 8
    { q with full := if b then setAdd q.full o else q.full.filter (· != o) })

/-- Stores a word at a location. -/
def putWord (s : State) (loc : Nat) (v : Dword) : List Eff := storeMarked s loc (bytesOf 8 v.toNat)

/-- Takes a task's waiting entry out of the queues of a quad. -/
def dropWaiter (q : Nat) (p : Waiter → Bool) : Eff :=
  onQuad q (fun x => { x with waiters := x.waiters.filter (fun w => !p w) })

/-- Can what waits in a queue proceed now (R154, R155, R226)? -/
def canProceed (s : State) (w : Waiter) : Bool :=
  match w.kind with
  | 0 | 2 => isFull s w.loc
  | 1 | 3 => !isFull s w.loc
  | _ => isFull s w.loc || ((w.chan.bind (fun a => tabGet (quad s (locQuad w.loc)).chans a)).map (·.wclose)).getD false

/-- The way back of a request, as long as its bound leaves, where bounds hold (R8, R140). -/
def wayBack (s : State) (r : NearReq) : Nat :=
  let n := Config.freeNat (s.fresh + 1)
  if bounded s (kernel s r.kernel).ctx then n % (max r.upto s.now + 1 - s.now) else n

/-- Answers a request of another quad with a value, after the way back (R140); a channel request
whose slot has not yet issued on hands the value over there (R225). -/
def replyNear (id : Nat) (v : Word) (bound : Option Nat) : Stage := fun s =>
  match tabGet s.o.near id with
  | none => []
  | some r =>
    let left := match bound with
      | some b => lat s (kernel s r.kernel).ctx 1 b
      | none => wayBack s r
    [.obj (fun o => { o with near := tabDel o.near id })] ++
    (match r.pend with
     | none => []
     | some p =>
       if ((taskThr? s r.task).map (fun t => t.grant == some (wd (2 ^ 127 + id)))).getD false
       then [onTaskThr r.task (fun t => { t with grant := some v })]
       else answer r.task p [v] left s) ++ [.draw 2]

/-- A request of another quad has met poison in the word it reads: its slot learns of it after the way back
(R140, R357). -/
def replyBad (id cls : Nat) : Stage := fun s =>
  match tabGet s.o.near id with
  | none => []
  | some r =>
    [.obj (fun o => { o with near := tabDel o.near id })] ++
    (match r.pend with
     | some p =>
       if ((taskThr? s r.task).map (fun t => t.grant == some (wd (2 ^ 127 + id)))).getD false
       then consume r.task cls r.va s
       else answerBad r.task p cls r.va (wayBack s r) s ++ [.draw 2]
     | none => consume r.task cls r.va s)

/-- What waits completes with a value: a slot is granted it, a request is answered, or learns of the poison
in the word it takes. A slot that is granted poison meets it when it issues on. -/
def complete (w : Waiter) (v : Word) (bad : Option Nat) : Stage := fun s =>
  [dropWaiter (locQuad w.loc) (fun x => x == w)] ++
  (match w.req, bad with
   | none, _ => [onThr w.slot (fun t => { t with grant := some v })]
   | some id, none => replyNear id v (some (nearBound w.slot (locQuad w.loc))) s
   | some id, some c => replyBad id c s)

/-- Changes the channel whose ring stands at a location. -/
def onChan (ring : Nat) (f : Chan → Chan) : Eff :=
  onQuad (locQuad ring) (fun q => { q with chans := tabUpd q.chans ring f })

/-- What waits at a word proceeds (R154, R226). -/
def proceed (w : Waiter) : Stage := seqS [nearRead w.loc 8, fun s =>
  let bad := nearPoison s w.loc 8
  match w.kind with
  | 0 => [setFull w.loc false] ++ complete w (ext64 (wordAt s w.loc)) bad s
  | 2 => complete w (ext64 (wordAt s w.loc)) bad s
  | 1 => putWord s w.loc w.value ++ [setFull w.loc true] ++ complete w 0 none s
  | 3 =>
    putWord s w.loc w.value ++ [setFull w.loc true] ++
    (match w.chan with
     | some a => [onChan a (fun e => { e with wp := (e.wp + 1) % e.n })]
     | none => []) ++ complete w 0 none s
  | _ =>
    if isFull s w.loc then
      [setFull w.loc false] ++
      (match w.chan with
       | some a => [onChan a (fun e => { e with rp := (e.rp + 1) % e.n })]
       | none => []) ++ complete w (ext64 (wordAt s w.loc) + wd (2 ^ 64)) bad s
    else complete w (wd (2 ^ 65)) none s]

/-- Where the supervisor ring of a kernel stands, once the supervisor's group is placed (R371) and while the context holds its
quads (R336). -/
def ringBase (s : State) (k : Nat) : Option Nat :=
  let r := (kernel s k).lrec
  (r.super.filter (fun _ => ((ctx? s (kernel s k).ctx).map (fun c => c.st == .resident)).getD false)).bind (fun w => ((group? s k (w / max r.threads 1)).filter (fun g => g.st == .placed || g.st == .suspended)).map (fun g =>
    scratchLoc g.quad (g.base + r.scratch - 2048)))

/-- The change of a tag in a supervisor ring is seen by the hardware that serves the ring (R373, R374). -/
def ringTold (loc : Nat) : Stage := fun s =>
  (s.o.kernels.filter (fun k => match ringBase s k.1 with
    | some b => decide (b ≤ loc) && decide (loc < b + 2048)
    | none => false)).map (fun k => .post s.now (.ev (.recordPost k.1)))

/-- What waits for a ring waits at the words that its positions name now: A + 8 × WP to send, A + 8 × RP to receive (R226). -/
def follow (ring : Nat) : Eff := onQuad (locQuad ring) (fun q =>
  match tabGet q.chans ring with
  | none => q
  | some e => { q with waiters := q.waiters.map (fun w =>
      if w.chan = some ring then { w with loc := ring + 8 * (if w.kind = 3 then e.wp else e.rp) } else w) })

/-- What waits for a ring proceeds, one after another, as far as it can (R155, R226). -/
def chase (ring : Nat) : Nat → Stage
  | 0 => skip
  | n + 1 => pick (fun s =>
    match (quad s (locQuad ring)).waiters.find? (fun w => w.chan == some ring && !w.extra && canProceed s w) with
    | none => []
    | some w => [proceed w, eff [follow ring], chase ring n])

/-- One that waits at a word proceeds, and what waits for the same ring follows its positions. -/
def proceedAt (w : Waiter) : Stage := seqS [proceed w,
  match w.chan with
  | none => skip
  | some a => pick (fun s => [eff [follow a], chase a (quad s (locQuad a)).waiters.length])]

/-- After a change at a word, each of its waiters that can then proceed does, in queue order (R155). -/
def drain (loc : Nat) : Stage := seqS [
  each (fun s => (quad s (locQuad loc)).waiters.filter (fun w => w.loc == loc && !w.extra))
    (fun w => onlyIf (fun s => (quad s (locQuad loc)).waiters.contains w && canProceed s w) (proceedAt w)),
  ringTold loc]

/-- Joins the queue of a word, if one of the quad's 256 entries is free (R155). -/
def joinQueue (w : Waiter) : Stage := fun s =>
  let n := ((quad s (locQuad w.loc)).waiters.filter (fun x => !x.extra)).length
  [onQuad (locQuad w.loc) (fun q => { q with waiters := q.waiters ++ [{ w with extra := decide (256 ≤ n) }] })]

/-- A waiter of a core that found no free entry tries again, at the start of each round (R155). -/
def retryOver (c : Nat) : Stage := each
  (fun s => s.o.quads.flatMap (fun q => q.2.waiters.filter (fun w => w.extra && coreOf w.slot == c)))
  (fun w => pick (fun s =>
    if canProceed s w then [proceedAt w, drain w.loc]
    else if ((quad s (locQuad w.loc)).waiters.filter (fun x => !x.extra)).length < 256 then
      [eff [dropWaiter (locQuad w.loc) (fun x => x == w)], joinQueue w]
    else []))

/-! ## Channels (R223 to R226) -/

/-- What a CH instruction meets at its ring. -/
inductive ChanAt where
  | trap
  | done (l : List Stage) (v : Word)
  | wait (w : Waiter)

/-- The step of a CH instruction of a task, `kind` 0 CHBIND, 1 CHSEND, 2 CHRECV, 3 CHCLOSE (R224 to
R226). -/
def chanStep (s : State) (ring kind task k : Nat) (v : Word) (w : Waiter) : ChanAt :=
  let q := locQuad ring
  let e? := tabGet (quad s q).chans ring
  match kind, e? with
  | 0, none =>
    let n := bits v 12 0
    if 32 ≤ (quad s q).chans.length then .trap
    else
      let e : Chan := { n := n, kernel := k, writer := if v.getLsbD 16 then none else some task
                        reader := if v.getLsbD 16 then some task else none }
      let ws := (upto 0 n).map (fun i => ring + 8 * i)
      .done ([eff [onQuad q (fun x => { x with chans := tabPut x.chans ring e })], eff (ws.map (fun l => setFull l false))] ++ ws.map drain) 0
  | 0, some e =>
    if e.n ≠ bits v 12 0 then .trap
    else if v.getLsbD 16 then
      (if e.reader.isSome || e.writer == some task then .trap
       else .done [eff [onChan ring (fun x => { x with reader := some task })]] 0)
    else if e.writer.isSome || e.reader == some task then .trap
    else .done [eff [onChan ring (fun x => { x with writer := some task })]] 0
  | _, none => .trap
  | 1, some e =>
    let loc := ring + 8 * e.wp
    if e.writer ≠ some task || e.wclose || e.rclose then .trap
    else if isFull s loc then .wait { w with loc := loc, kind := 3, value := lo64 v, chan := some ring }
    else .done [nearRead loc 8, fun s => putWord s loc (lo64 v) ++ [setFull loc true, onChan ring (fun x => { x with wp := (x.wp + 1) % x.n })], drain loc,
        eff [follow ring]] 0
  | 2, some e =>
    let loc := ring + 8 * e.rp
    if e.reader ≠ some task || e.rclose then .trap
    else if isFull s loc then
      .done [nearRead loc 8, eff [setFull loc false, onChan ring (fun x => { x with rp := (x.rp + 1) % x.n })], drain loc,
          eff [follow ring]]
        (ext64 (wordAt s loc) + wd (2 ^ 64))
    else if e.wclose then .done [] (wd (2 ^ 65))
    else .wait { w with loc := loc, kind := 4, chan := some ring }
  | _, some e =>
    if e.writer ≠ some task && e.reader ≠ some task then .trap
    else if e.writer.isNone || e.reader.isNone || (e.writer == some task && e.rclose) || (e.reader == some task && e.wclose) then
      .done [eff [onQuad q (fun x => { x with chans := tabDel x.chans ring })]] 0
    else if e.writer == some task then
      .done [eff [onChan ring (fun x => { x with wclose := true })], drain (ring + 8 * e.rp)] 0
    else .done [eff [onChan ring (fun x => { x with rclose := true })]] 0

/-- The poison in the slot of a ring that CHRECV reads, or, `back`, has read when it was granted, with the
slot's number (R226, R357). -/
def chanPoison (s : State) (ring : Nat) (back : Bool) : Option (Nat × Nat) :=
  match tabGet (quad s (locQuad ring)).chans ring with
  | none => none
  | some e =>
    let i := if back then (e.rp + e.n - 1) % e.n else e.rp
    if back || isFull s (ring + 8 * i) then (nearPoison s (ring + 8 * i) 8).map (fun c => (c, i)) else none

/-! ## One step at near memory -/

/-- A signal sets the latch of the thread in a slot, and of the images saved from it (R99, log 25); a FREE slot
discards it (R88, R90). -/
def signalSlot (target : Nat) : Stage := fun s =>
  (if occupied s target then [onThr target (fun t => { t with latch := true })] else []) ++
  [.obj (fun o => { o with tasks := tabMap o.tasks (fun _ x =>
    { x with image := x.image.map (fun im => if im.home = target then { im with latch := true } else im) }) })]

/-- The eight registers of LDTR, from eight rows of 16 bytes (R209): lane P = 8c + i of the run is lane c
of row i. -/
def transposeRows (sz : Nat) (rows : List (List Byte)) : List Word :=
  let w := 2 ^ sz
  let n := 16 / w
  (upto 0 8).map (fun r => wd (ofBytes ((upto (n * r) n).flatMap (fun p =>
    ((rows.getD (p % 8) []).drop (p / 8 * w)).take w))))

/-- What a step at a location gives: changes with the words read, or nothing where the word is in the
wrong state. -/
def nearStep (s : State) (loc : Nat) : NearOp → Option (List Stage × List Word)
  | .load sz => some ([nearRead loc (sizeBytes sz.toNat)], [loadValue sz.toNat (lookBytes s loc (sizeBytes sz.toNat))])
  | .store bs => some ([nearRead loc bs.length, fun s => storeMarked s loc bs], [])
  | .ldtr sz =>
    some ([nearRead loc 128], transposeRows sz.toNat ((upto 0 8).map (fun r => lookBytes s (loc + 16 * r) 16)))
  | .fe 0 _ => if isFull s loc then some ([nearRead loc 8, eff [setFull loc false], drain loc], [ext64 (wordAt s loc)]) else none
  | .fe 1 v =>
    if isFull s loc then none
    else some ([nearRead loc 8, fun s => putWord s loc v ++ [setFull loc true], drain loc], [])
  | .fe 2 _ => if isFull s loc then some ([nearRead loc 8], [ext64 (wordAt s loc)]) else none
  | .fe 3 v => some ([eff [setFull loc (v.getLsbD 0)], drain loc], [])
  | .fe _ _ => some ([], [wd (bit (isFull s loc))])
  | .atom op x cmp =>
    let w := wordAt s loc
    let new := if op = 7 then (if w = cmp then x else w) else atomOp op w x
    some ([nearRead loc 8, fun s => putWord s loc new], [ext64 w])
  | .msend v target =>
    some ([nearRead loc 16, fun s => storeMarked s loc (bytesOf 16 v.toNat) ++ [setFull loc true, setFull (loc + 8) true],
           drain loc, drain (loc + 8)] ++
      (match target with
       | some t => [signalSlot t]
       | none => []), [0])
  | .signal t => some ([signalSlot t], [])
  | .chan _ _ => none

end Sys2Proof.Machine
end

