-- ==== Sys2Proof/Machine/Planes.lean ====
section
/-!
DEFINITION. Planes: fat pointers that an instruction interprets (R25, R26, R30, R31), the bit-plane layout
of B operands (R197), and what PLANE and UNPLANE read and write (R198).
-/

namespace Sys2Proof.Machine

/-! ## Fat pointers -/

/-- FMT of a pointer (R30). -/
def ptrFmt (p : Dword) : Nat := bits p 63 59
/-- BLOG of a pointer (R30). -/
def ptrBlog (p : Dword) : Nat := bits p 58 56
/-- ADDR of a pointer (R30). -/
def ptrAddr (p : Dword) : Nat := bits p 54 0

/-- Does a pointer pass R31 where the given layout is required? -/
def ptrNames (p : Dword) (pl : Bool) : Bool :=
  decide (1 ≤ ptrFmt p) && decide (ptrFmt p ≤ 19) && (p.getLsbD 55 == pl)

/-- Does it pass R26 too? A plane-layout pointer has no block scale (R197). -/
def ptrOk (p : Dword) (pl : Bool) : Bool :=
  ptrNames p pl && (ptrBlog p == 0 || (!pl && decide (codeWidth (ptrFmt p) ≤ 8)))

/-- Plane width of a matrix type (R197); 0 for any other format code. -/
def planeWidth (f : Nat) : Nat :=
  match f with
  | 1 | 2 | 10 => 8
  | 3 | 4 => 16
  | 9 => 11
  | 11 => 24
  | 13 | 15 | 18 | 19 => 4
  | 14 | 16 => 3
  | 17 => 2
  | _ => 0

/-- Is a format code a matrix type (R197)? -/
def isMatrix (f : Nat) : Bool := planeWidth f != 0

/-- Largest K of a matrix type (R197). -/
def largestK (f : Nat) : Nat :=
  match f with
  | 3 | 4 | 9 | 10 => 256
  | 11 => 64
  | _ => 512

/-- Elements of a block (R26). -/
def blockLen (blog : Nat) : Nat := 2 ^ (blog + 2)

/-- Bytes of n elements in element layout (R20). -/
def elemBytes (f n : Nat) : Nat := (n * codeWidth f + 7) / 8

/-- Bytes of a B operand of E elements in plane layout (R197). -/
def planeBytes (f e : Nat) : Nat := 3 * e + planeWidth f * e / 8

/-- Bytes of the scale array of n elements; none without block scale. -/
def scaleBytes (blog n : Nat) : Nat := if blog = 0 then 0 else (n + blockLen blog - 1) / blockLen blog

/-- ALIGN of an element-layout pointer (R26). -/
def elemAlign (p : Dword) : Option Trap :=
  if ptrBlog p ≠ 0 ∧ ptrAddr p % (blockLen (ptrBlog p) * codeWidth (ptrFmt p) / 8) ≠ 0
  then some (nTrap .align (ptrAddr p)) else none

/-- The own near region of n bytes at a pointer's address, or NEAR-RANGE (R31, R137). -/
def nearPtr (s : State) (slot a n : Nat) : Except Trap Nat :=
  if 2 ^ 32 ≤ a then .error (nTrap .nearRange a)
  else match nearOwn s slot a (max n 1) with
    | some l => .ok l
    | none => .error (nTrap .nearRange a)

/-- The trap that an answer stands for. -/
def trapOf {α : Type} : Except Trap α → Option Trap
  | .error t => some t
  | .ok _ => none

/-- The location that an answer stands for. -/
def locOf : Except Trap Nat → Nat
  | .error _ => 0
  | .ok l => l

/-! ## Bytes that a concurrent store may change (R206) -/

/-- The words of n bytes at a location, as they stand. -/
def wordsNow (s : State) (loc n : Nat) : List (Nat × Dword) :=
  (upto (loc / 8) ((loc + n + 7) / 8 - loc / 8)).map (fun w => (8 * w, wordAt s (8 * w)))

/-- The bytes of n bytes at a location that an operation reads which issued when its words were `old`: of
each 8-byte word that has changed since, the old or the new value. -/
def lookOld (s : State) (old : List (Nat × Dword)) (loc n : Nat) : List Byte :=
  let now := lookBytes s loc n
  if old.all (fun w => wordAt s w.1 == w.2) then now
  else (now.zipIdx).map (fun x =>
    let a := loc + x.2
    match old.find? (fun w => w.1 == a / 8 * 8) with
    | some w => if w.2 ≠ wordAt s w.1 ∧ Config.freeBool (s.fresh + a / 8) then (bytesOf 8 w.2.toNat).getD (a % 8) 0 else x.1
    | none => x.1)

/-! ## Elements -/

/-- Element i of a run in element layout (R20). -/
def elemAt (f : Nat) (v : Nat) (i : Nat) : Nat := v / 2 ^ (codeWidth f * i) % 2 ^ codeWidth f % 2 ^ elemBits f

/-- A run in element layout, as bytes. -/
def elemRun (f : Nat) (l : List Nat) : List Byte :=
  bytesOf (elemBytes f l.length) (l.foldr (fun x acc => x % 2 ^ codeWidth f + 2 ^ codeWidth f * acc) 0)

/-- The value of an element under a block scale byte (R25). -/
def scaled (c : Byte) : Num → Num
  | .fin n m e => if c = 0x80#8 then .fin false 0 0 else .fin n m (e + c.toInt)
  | x => if c = 0x80#8 then .fin false 0 0 else x

/-- Element i of an operand with its scale (R26). -/
def scaledElem (f blog v : Nat) (scales : List Byte) (i : Nat) : Num :=
  let x := decodeNum f (elemAt f v i)
  if blog = 0 then x else scaled (scales.getD (i / blockLen blog) 0) x

/-- An element in plane layout (R197): side byte, exponent of the leading plane, and the significand with
plane 0 as the top of its W bits. -/
structure PEl where
  side : Nat
  x : Int
  sig : Nat
  deriving DecidableEq, Repr

/-- An element's place in plane layout (R197). -/
def planeEl (f : Nat) : Num → PEl
  | .fin n 0 _ => ⟨bit n, 0, 0⟩
  | .fin n m e =>
    let w := planeWidth f
    if isInt f then ⟨bit n, (w : Int) - 1 + e, m⟩
    else
      let l := Nat.log2 m
      ⟨bit n, e + l, m * 2 ^ (w - 1 - l)⟩
  | .inf n => ⟨bit n + 2, 0, 0⟩
  | .nan n _ _ => ⟨bit n + 4, 0, 0⟩
  | .nar => ⟨7, 0, 0⟩

/-- The value of an element in plane layout, of its leading `p` planes. -/
def planeVal (f p : Nat) (x : PEl) : Num :=
  let n := x.side % 2 == 1
  match x.side / 2 % 4 with
  | 0 => .fin n (x.sig / 2 ^ (planeWidth f - p)) (x.x - (p : Int) + 1)
  | 1 => .inf n
  | 2 => .nan n true 0
  | _ => .nar

/-- The bytes of a B operand in plane layout (R197). -/
def planeRun (f : Nat) (els : List PEl) : List Byte :=
  let n := els.length
  let w := planeWidth f
  els.map (fun x => BitVec.ofNat 8 x.side) ++ els.flatMap (fun x => bytesOf 2 (wrap 16 x.x)) ++
    (upto 0 w).flatMap (fun j =>
      bytesOf (n / 8) (els.foldr (fun x acc => bit (x.sig.testBit (w - 1 - j)) + 2 * acc) 0))

/-- Element e of E in plane layout bytes. -/
def planeAt (f n : Nat) (bs : List Byte) (e : Nat) : PEl :=
  let w := planeWidth f
  ⟨(bs.getD e 0).toNat, signed 16 (ofBytes ((bs.drop (n + 2 * e)).take 2)),
   (upto 0 w).foldl (fun acc j => 2 * acc + bit ((bs.getD (3 * n + j * (n / 8) + e / 8) 0).toNat.testBit (e % 8))) 0⟩

/-! ## PLANE and UNPLANE (R198) -/

/-- What PLANE writes for a source of K rows and N columns. -/
def planePack (f blog k n : Nat) (src scales : List Byte) : List Byte :=
  let v := ofBytes src
  planeRun f ((upto 0 (k * n)).map (fun e =>
    planeEl f (scaledElem f blog v scales (e % k * n + e / k))))

/-- What UNPLANE writes, with its flags. -/
def planeUnpack (g f k n : Nat) (r : BitVec 4) (src : List Byte) : List Byte × BitVec 5 :=
  let out := (upto 0 (k * n)).map (fun i =>
    encodeNum g (modeOf r) (ftzOf r) (planeVal f (planeWidth f) (planeAt f (k * n) src (i % n * k + i / n))) (isInt f))
  (elemRun g (out.map (·.1)), orFlags (out.map (·.2)))

/-- The bytes that PLANE or UNPLANE reads and those it writes. -/
def planeLens (un : Bool) (k n : Nat) (dst src : Dword) : Nat × Nat :=
  if un then (planeBytes (ptrFmt src) (k * n), elemBytes (ptrFmt dst) (k * n))
  else (elemBytes (ptrFmt src) (k * n), planeBytes (ptrFmt dst) (k * n))

/-- What PLANE or UNPLANE does when its result is written: the bytes with their flags, or the poison of its
source (R357). -/
def planeDone (s : State) (slot : Nat) (un : Bool) (k n : Nat) (dst src : Dword) (scale : Nat)
    (round : BitVec 4) (old : List (Nat × Dword)) : Except Nat (Nat × List Byte × BitVec 5) :=
  let lens := planeLens un k n dst src
  let sl := locOf (nearPtr s slot (ptrAddr src) lens.1)
  let dl := locOf (nearPtr s slot (ptrAddr dst) lens.2)
  let sb := scaleBytes (ptrBlog src) (k * n)
  let scl := locOf (nearPtr s slot scale sb)
  match (nearPoison s sl lens.1).or (if sb = 0 then none else nearPoison s scl sb) with
  | some c => .error c
  | none =>
    let bs := lookOld s old sl lens.1
    if un then
      let r := planeUnpack (ptrFmt dst) (ptrFmt src) k n round bs
      .ok (dl, r.1, r.2)
    else .ok (dl, planePack (ptrFmt src) (ptrBlog src) k n bs (lookOld s old scl sb), 0)

/-- The lines that PLANE or UNPLANE reads (R356). -/
def planeReads (slot : Nat) (un : Bool) (k n : Nat) (dst src : Dword) (scale : Nat) : Stage := fun s =>
  let l := (planeLens un k n dst src).1
  let sb := scaleBytes (ptrBlog src) (k * n)
  seqS [nearRead (locOf (nearPtr s slot (ptrAddr src) l)) l, nearRead (locOf (nearPtr s slot scale sb)) sb] s

/-! ## Penalties (R308) -/

/-- An f32 difference rounded to nearest even, with its flags. -/
def subF32 (x y : Nat) : Nat × BitVec 5 :=
  let d := subNum 0 (decodeNum 11 x) (decodeNum 11 y)
  let r := encodeNum 11 0 false d.1
  (r.1, d.2 ||| r.2)

/-- Clears bit 0 of a word. -/
def clearSeen (w : Nat) : Nat := w / 2 * 2

/-- One occurrence of pass 2 at a logit word: the frequency penalty, the presence penalty where the word is
not yet seen, and the seen bit. -/
def penalise (pfreq ppres : BitVec 32) (w : Nat) : Nat × BitVec 5 :=
  let a := subF32 w pfreq.toNat
  let b := if w % 2 = 0 then subF32 a.1 ppres.toNat else (a.1, 0)
  (clearSeen b.1 + 1, a.2 ||| b.2)

/-- PENAL over the words of a slice that begins at token `first`: the words, the flags and the count. -/
def penalRun (first : Nat) (pfreq ppres : BitVec 32) (hist : List Nat) (ws : List Nat) : List Nat × BitVec 5 × Nat :=
  let hits := hist.filter (fun h => decide (first ≤ h) && decide (h < first + ws.length))
  let ws := hits.foldl (fun l h => l.modify (h - first) clearSeen) ws
  hits.foldl (fun (acc : List Nat × BitVec 5 × Nat) h =>
    let r := penalise pfreq ppres (acc.1.getD (h - first) 0)
    (acc.1.set (h - first) r.1, acc.2.1 ||| r.2, acc.2.2 + 1)) (ws, 0, 0)

/-- The 32-bit words of bytes. -/
def words32 (bs : List Byte) : List Nat := (upto 0 (bs.length / 4)).map (fun i => ofBytes ((bs.drop (4 * i)).take 4))

end Sys2Proof.Machine
end

