-- ==== Sys2Proof/Machine/Control.lean ====
section
/-!
DEFINITION. Control: no-operations, branches, jumps and calls (R80 to R82), EXIT, YIELD and TRAP (R83
to R85), ERET (R78), the CSRs (R86, R87, R243) and the event latch (R88 to R91). Each word has a plan,
which the issue of its bundle carries out, and its meaning is the issue of that plan alone.
-/

namespace Sys2Proof.Machine

open Sys2Proof

/-- A C-word's plan, with its switch marker (R47). -/
def cPlan (ls : LS) (p : Plan) : Plan := { p with mark := ls.s }

/-- GUESS inside a speculative iteration (R151, R276). -/
def Plan.noSpec (p : Plan) (s : State) (slot : Nat) : Plan := p.ownIf s slot (speculative s slot) .guess

/-- GUESS inside a guess task (R280). -/
def Plan.noGuess (p : Plan) (s : State) (slot : Nat) : Plan := p.ownIf s slot (guessing s slot) .guess

/-- DETERMINISM in a DETERM launch (R234). -/
def Plan.noDeterm (p : Plan) (s : State) (slot : Nat) : Plan := p.ownIf s slot (determ s slot) .determinism

/-- The PC of a slot. -/
def pcOf (s : State) (slot : Nat) : BitVec 64 := (thr s slot).arch.pc

/-! ## No-operations -/

/-- NOP does nothing (R58); its S bit marks (R72). -/
def planNop (ls : LS) (_s : State) : Plan := cPlan ls idle
/-- NOP. -/
def execNop (ls : LS) (s : State) : Host.Outcome State Fault Refusal := fireC (planNop ls) s

/-- ANOP does nothing (R59). -/
def planAnop (_s : State) : Plan := idle
/-- ANOP. -/
def execAnop (s : State) : Host.Outcome State Fault Refusal := fireA planAnop s

/-! ## Branches, jumps and calls -/

/-- The plan of a branch on lane 0 of a predicate (R80). -/
def branchPlan (ls : LS) (k : BitVec 3) (off : BitVec 20) (sense : Bool) (s : State) : Plan :=
  let sl := s.cur
  let taken := ((thr s sl).arch.pred k.toNat).getLsbD 0 == sense
  cPlan ls { regPlan s sl true [inPred k] with
    npc := if taken then some (pcOf s sl + 8 * off.signExtend 64) else none }

/-- BR branches when lane 0 is 1 (R80). -/
def planBr (ls : LS) (k : BitVec 3) (off : BitVec 20) (s : State) : Plan := branchPlan ls k off true s
/-- BR. -/
def execBr (ls : LS) (k : BitVec 3) (off : BitVec 20) (s : State) : Host.Outcome State Fault Refusal :=
  fireC (planBr ls k off) s

/-- BRN branches when lane 0 is 0 (R80). -/
def planBrn (ls : LS) (k : BitVec 3) (off : BitVec 20) (s : State) : Plan := branchPlan ls k off false s
/-- BRN. -/
def execBrn (ls : LS) (k : BitVec 3) (off : BitVec 20) (s : State) : Host.Outcome State Fault Refusal :=
  fireC (planBrn ls k off) s

/-- JMP: PC := PC + 8 × off (R81). -/
def planJmp (ls : LS) (off : BitVec 24) (s : State) : Plan :=
  cPlan ls { npc := some (pcOf s s.cur + 8 * off.signExtend 64) }
/-- JMP. -/
def execJmp (ls : LS) (off : BitVec 24) (s : State) : Host.Outcome State Fault Refusal :=
  fireC (planJmp ls off) s

/-- CALL: as JMP, with the link in x1 (R81). -/
def planCall (ls : LS) (off : BitVec 24) (s : State) : Plan :=
  let sl := s.cur
  cPlan ls (({ regPlan s sl true [fw 1] with npc := some (pcOf s sl + 8 * off.signExtend 64) } : Plan).does
    [wr sl 1 (ext64 (pcOf s sl + 8))])
/-- CALL. -/
def execCall (ls : LS) (off : BitVec 24) (s : State) : Host.Outcome State Fault Refusal :=
  fireC (planCall ls off) s

/-- ALIGN of a transfer to an address that is no multiple of 8 (R45). -/
def targetTrap (v : Dword) : Option Trap := if v.toNat % 8 = 0 then none else some ⟨.align, v⟩

/-- JMPR: PC := X[a]<63:0> (R82). -/
def planJmpr (ls : LS) (a : BitVec 7) (s : State) : Plan :=
  let sl := s.cur
  let v := rd64 s sl a.toNat
  cPlan ls ({ regPlan s sl true [fr a] with npc := some v } : Plan) |>.own (targetTrap v)
/-- JMPR. -/
def execJmpr (ls : LS) (a : BitVec 7) (s : State) : Host.Outcome State Fault Refusal :=
  fireC (planJmpr ls a) s

/-- CALLR: as JMPR, with the link in x1; a is read before the link is written (R82). -/
def planCallr (ls : LS) (a : BitVec 7) (s : State) : Plan :=
  let sl := s.cur
  let v := rd64 s sl a.toNat
  ((cPlan ls { regPlan s sl true [fw 1, fr a] with npc := some v }).own (targetTrap v)).does
    [wr sl 1 (ext64 (pcOf s sl + 8))]
/-- CALLR. -/
def execCallr (ls : LS) (a : BitVec 7) (s : State) : Host.Outcome State Fault Refusal :=
  fireC (planCallr ls a) s

/-! ## EXIT, YIELD, TRAP, ERET -/

/-- Has the task of a slot a carry loop open, or one buffered in its chunk (R278, R288)? -/
def loopOpen (s : State) (slot : Nat) : Bool :=
  tabHas s.o.loops (thr s slot).task || (thr s slot).chunk.gloop.isSome

/-- EXIT ends the chunk, and with its commit the task (R83, R281, R288). -/
def planExit (ls : LS) (s : State) : Plan :=
  let sl := s.cur
  let t := thr s sl
  cPlan ls (({ ill := ((iterOf s sl).isSome && t.arch.carry.isNone) || loopOpen s sl, ends := true, after := .exit } : Plan).ownIf
    s sl (t.arch.lathe.st != .idle) .lathe)
/-- EXIT. -/
def execExit (ls : LS) (s : State) : Host.Outcome State Fault Refusal := fireC (planExit ls) s

/-- YIELD ends the chunk and hands the slot to a waiting task of the launch (R84). -/
def planYield (ls : LS) (s : State) : Plan :=
  let t := thr s s.cur
  cPlan ls { ill := t.arch.priv == .handler || t.arch.lathe.st != .idle, ends := true, after := .yield }
/-- YIELD. -/
def execYield (ls : LS) (s : State) : Host.Outcome State Fault Refusal := fireC (planYield ls) s

/-- TRAP raises SOFT with its immediate (R85). -/
def planTrap (ls : LS) (imm : BitVec 10) (_s : State) : Plan :=
  cPlan ls { c3 := some (nTrap .soft imm.toNat) }
/-- TRAP. -/
def execTrap (ls : LS) (imm : BitVec 10) (s : State) : Host.Outcome State Fault Refusal :=
  fireC (planTrap ls imm) s

/-- May the slot return from a handler: at handler privilege (R78), or a firmware thread that a trap has
put into TRAPPED (R65, R66; log 21)? -/
def mayEret (t : Thread) : Bool :=
  t.arch.priv == .handler || (t.arch.priv == .firmware && (t.st == .trapped || t.back == .trapped))

/-- ERET: PC := TRAPPC at user privilege; PRIV but at handler privilege (R78). -/
def planEret (ls : LS) (s : State) : Plan :=
  let sl := s.cur
  let t := thr s sl
  cPlan ls { priv := !mayEret t, npc := some t.trappc, stages := [eff [onThr sl eretDone]] }
/-- ERET. -/
def execEret (ls : LS) (s : State) : Host.Outcome State Fault Refusal := fireC (planEret ls) s

/-! ## CSRs -/

/-- The logical-to-physical table of a slot's context, as committed (R242). -/
def l2pOf (s : State) (slot : Nat) : List Nat := ((ctx? s (ctxOf s slot)).map (·.l2p)).getD []

/-- LCORE: the lowest entry that names the core, or all ones (R242). -/
def lcore (s : State) (slot : Nat) : Dword :=
  match (l2pOf s slot).findIdx? (fun e => e / 64 == coreOf slot) with
  | some n => BitVec.ofNat 64 n
  | none => BitVec.allOnes 64

/-- L2PDATA as the thread reads it: its chunk's own write, or the committed entry (R243, R244). -/
def l2pdata (s : State) (slot : Nat) : Dword :=
  let t := thr s slot
  let l := l2pOf s slot
  if l.length ≤ t.l2pidx then 0
  else
    let e := match t.chunk.l2p.reverse.find? (fun x => x.1 == t.l2pidx) with
      | some x => x.2
      | none => l.getD t.l2pidx 0
    BitVec.ofNat 64 (2 ^ 63 + e)

/-- The value of a CSR (R87). -/
def csrValue (s : State) (slot : Nat) (c : Nat) : Dword :=
  let t := thr s slot
  let n := BitVec.ofNat 64
  match c with
  | 0x000 => n (slot % 64)
  | 0x001 => n (if 2 ^ 18 ≤ slot then 0 else slot / 64 % 4)
  | 0x002 => n (quadNo slot % 256)
  | 0x003 => n (quadNo slot / 256)
  | 0x004 => lcore s slot
  | 0x005 => n t.kernel
  | 0x006 => n (taskOf s slot).ts
  | 0x007 => n (kernelOf s slot).queue
  | 0x010 => n (s.now - s.o.mod.zero)
  | 0x011 => n t.turns
  | 0x020 => t.trapvec
  | 0x021 => t.trappc
  | 0x022 => t.trapcode
  | 0x023 => t.trapinfo
  | 0x030 => t.arch.fxflags.setWidth 64
  | 0x031 => t.fxmask.setWidth 64
  | 0x032 => t.arch.round.setWidth 64
  | 0x040 => t.waitlim.setWidth 64
  | 0x041 => n (core s (coreOf slot)).sleepcfg
  | 0x050 => n t.arch.t
  | 0x051 => n t.limit
  | 0x060 => n (recOf s slot).caph
  | 0x110 => n t.l2pidx
  | 0x111 => l2pdata s slot
  | 0x118 => ((ctx? s (ctxOf s slot)).map (·.cfg.partQuads)).getD 0
  | 0x119 => ((ctx? s (ctxOf s slot)).map (·.cfg.partDies.setWidth 64)).getD 0
  | _ => if 0x100 ≤ c ∧ c ≤ 0x108 then (die s (quadNo slot / 256)).harvest.extractLsb' (64 * (c - 0x100)) 64 else 0

/-- Does a value break the field rules of a CSR (R33, R41, R75, R76, R87, R243)? -/
def csrBad (c : Nat) (v : Dword) : Bool :=
  let n := v.toNat
  match c with
  | 0x020 | 0x021 => n % 8 != 0
  | 0x022 => decide (2 ^ 8 ≤ n)
  | 0x030 | 0x031 => decide (2 ^ 5 ≤ n)
  | 0x032 => decide (2 ^ 4 ≤ n) || decide (5 ≤ n % 8)
  | 0x040 => decide (2 ^ 32 ≤ n)
  | 0x041 => decide (3 ≤ n)
  | 0x110 => decide (2304 ≤ n)
  | _ => false

/-- A CSR takes a value. -/
def csrSet (slot : Nat) (c : Nat) (v : Dword) : Eff :=
  match c with
  | 0x020 => onThr slot (fun t => { t with trapvec := v })
  | 0x021 => onThr slot (fun t => { t with trappc := v })
  | 0x022 => onThr slot (fun t => { t with trapcode := v })
  | 0x023 => onThr slot (fun t => { t with trapinfo := v })
  | 0x030 => onArch slot (fun a => { a with fxflags := v.setWidth 5 })
  | 0x031 => onThr slot (fun t => { t with fxmask := v.setWidth 5 })
  | 0x032 => onArch slot (fun a => { a with round := v.setWidth 4 })
  | 0x040 => onThr slot (fun t => { t with waitlim := v.setWidth 32 })
  | 0x041 => onCore (coreOf slot) (fun x => { x with sleepcfg := v.toNat })
  | _ => onThr slot (fun t => { t with l2pidx := v.toNat })

/-- CSRR reads a CSR (R86); CYCLE and TURNS raise DETERMINISM in a DETERM launch (R87). -/
def planCsrr (ls : LS) (d : BitVec 7) (c : BitVec 10) (s : State) : Plan :=
  let sl := s.cur
  ((cPlan ls (regPlan s sl (csrKnown c) [fw d])).ownIf s sl
    (determ s sl && (c == 0x010#10 || c == 0x011#10)) .determinism).does
    [wr sl d.toNat (ext64 (csrValue s sl c.toNat))]
/-- CSRR. -/
def execCsrr (ls : LS) (d : BitVec 7) (c : BitVec 10) (s : State) : Host.Outcome State Fault Refusal :=
  fireC (planCsrr ls d c) s

/-- CSRW writes a CSR: ILLEGAL where it is unknown, read-only, or the value breaks its field rules,
and then PRIV below its write privilege (R86). -/
def planCsrw (ls : LS) (a : BitVec 7) (c : BitVec 10) (s : State) : Plan :=
  let sl := s.cur
  let v := rd64 s sl a.toNat
  let bad := !(pending (thr s sl) a.toNat) && csrBad c.toNat v
  ({ cPlan ls (regPlan s sl (csrWritable c && !bad) [fr a]) with
      priv := csrHandler c && (thr s sl).arch.priv == .user } : Plan).does [eff [csrSet sl c.toNat v]]
/-- CSRW. -/
def execCsrw (ls : LS) (a : BitVec 7) (c : BitVec 10) (s : State) : Host.Outcome State Fault Refusal :=
  fireC (planCsrw ls a c) s

/-- Is a value an entry that L2PDATA can take (R243)? -/
def l2pOk (s : State) (slot : Nat) (v : Dword) : Bool :=
  let n := v.toNat % 2 ^ 18
  decide ((thr s slot).l2pidx < (l2pOf s slot).length) && bits v 62 18 == 0 && n % 64 == 0
    && coreEnabled s (n / 64) && ctxHas s (ctxOf s slot) (n / 256)

/-- A CSRW of L2PDATA replaces entry L2PIDX; others see it at the chunk's commit (R243, R244). -/
def planL2pdataWrite (ls : LS) (a : BitVec 7) (s : State) : Plan :=
  let sl := s.cur
  let v := rd64 s sl a.toNat
  let bad := !(pending (thr s sl) a.toNat) && !l2pOk s sl v
  let idx := (thr s sl).l2pidx
  (cPlan ls (regPlan s sl (!bad) [fr a])).does
    [eff [onChunk sl (fun c => { c with l2p := c.l2p ++ [(idx, v.toNat % 2 ^ 18)] })]]
/-- L2PDATA_WRITE. -/
def execL2pdataWrite (ls : LS) (a : BitVec 7) (s : State) : Host.Outcome State Fault Refusal :=
  fireC (planL2pdataWrite ls a) s

/-! ## Events -/

/-- Does a slot address name a core outside the context's partition, or a quad above 143 (R88)? -/
def addrOutside (s : State) (slot : Nat) (a : Nat) : Bool :=
  decide (143 < addrQuad a) || !ctxHas s (ctxOf s slot) (a / 256)

/-- EV.WAIT samples and clears the latch, or sleeps until it is set (R89). -/
def planEvWait (ls : LS) (s : State) : Plan :=
  let sl := s.cur
  cPlan ls { sleep := if (thr s sl).latch then none else some .latch
             stages := [eff [onThr sl (fun t => { t with latch := false })]] }
/-- EV.WAIT. -/
def execEvWait (ls : LS) (s : State) : Host.Outcome State Fault Refusal := fireC (planEvWait ls) s

/-- EV.SIGNAL, a chunk point, sends a signal to the slot that X[a] names (R90). -/
def planEvSignal (ls : LS) (a : BitVec 7) (s : State) : Plan :=
  let sl := s.cur
  let v := rd64 s sl a.toNat
  let target := slotAddr v.toNat
  (({ cPlan ls (regPlan s sl true [fr a]) with point := true, irrev := true } : Plan).noGuess s sl).own
      (if addrOutside s sl target then some ⟨.perm, v⟩ else none) |>.does
    [sendNear sl (scratchLoc (target / 256) 0) target (.signal target) [] false]
/-- EV.SIGNAL. -/
def execEvSignal (ls : LS) (a : BitVec 7) (s : State) : Host.Outcome State Fault Refusal :=
  fireC (planEvSignal ls a) s

/-- EV.WAITT waits for the latch with a timeout (R91): 1 when the latch was set in time; a timeout
of 0 samples without sleeping. A sleep whose timeout has passed is granted 0. -/
def planEvWaitt (ls : LS) (d a : BitVec 7) (s : State) : Plan :=
  let sl := s.cur
  let n := bits (rd s sl a.toNat) 31 0
  let expired := (thr s sl).grant.isSome
  let latch := (thr s sl).latch && !expired
  (({ cPlan ls (regPlan s sl true [fw d, fr a]) with
      sleep := if latch || expired || n == 0 then none else some (.latchUntil (s.now + n))
      first := [fun s => [.post (s.now + n) (.ev (.waittTimeout sl))]] } : Plan).noDeterm s sl).does
    [eff [onThr sl (fun t => { t with latch := t.latch && expired })], wr sl d.toNat (wd (bit latch))]
/-- EV.WAITT. -/
def execEvWaitt (ls : LS) (d a : BitVec 7) (s : State) : Host.Outcome State Fault Refusal :=
  fireC (planEvWaitt ls d a) s

end Sys2Proof.Machine
end

