-- ==== Sys2Proof/Machine/Scalar.lean ====
section
/-!
DEFINITION. Scalar: literals (R127), scalar integer operations and their immediate forms (R128 to
R130), pointer arithmetic (R131), comparisons and predicates (R132 to R135).
-/

namespace Sys2Proof.Machine

open Sys2Proof

/-! ## What the words share -/

/-- The width of a scalar type (R128): codes 0 s32, 1 n32, 2 s64, 3 n64. -/
def sWidth (t : BitVec 2) : Nat := if t.getLsbD 1 then 64 else 32

/-- The low W bits of an operand, as a pattern. -/
def sPat (t : BitVec 2) (x : Word) : Nat := x.toNat % 2 ^ sWidth t

/-- The low W bits of an operand, signed for s types (R128). -/
def sIn (t : BitVec 2) (x : Word) : Int :=
  if t.getLsbD 0 then (sPat t x : Int) else signed (sWidth t) (sPat t x)

/-- A result modulo 2^W, sign-extended for s32 and zero-extended for n32, bits 127:64 zero (R128). -/
def sOut (t : BitVec 2) (v : Int) : Word :=
  if t = 0 then wd (wrap 64 (signed 32 (wrap 32 v))) else wd (wrap (sWidth t) v)

/-- An A-word beside a capturing lathe that it cannot feed raises LATHE (R188). -/
def aPlan (s : State) (p : Plan) : Plan :=
  if (thr s s.cur).arch.lathe.st = .capturing then
    { p with c3 := some (bTrap s s.cur .lathe) }
  else p

/-- A word with a destination d, fields it reads, and a value. -/
def valuePlan (s : State) (wf : Bool) (d : BitVec 7) (srcs : List (BitVec 7)) (v : Word) : Plan :=
  aPlan s ((regPlan s s.cur wf (fw d :: srcs.map fr)).does [wr s.cur d.toNat v])

/-- A scalar operation on X[a] and X[b]. -/
def scalarPlan (s : State) (d a b : BitVec 7) (t : BitVec 2) (f : Int → Int → Int) : Plan :=
  valuePlan s true d [a, b] (sOut t (f (sIn t (rd s s.cur a.toNat)) (sIn t (rd s s.cur b.toNat))))

/-- A scalar operation on X[a]. -/
def scalarPlan1 (s : State) (d a : BitVec 7) (t : BitVec 2) (f : Int → Int) : Plan :=
  valuePlan s true d [a] (sOut t (f (sIn t (rd s s.cur a.toNat))))

/-- An immediate form on s64 (R130). -/
def immPlan (s : State) (wf : Bool) (d a : BitVec 7) (f : Int → Int) : Plan :=
  valuePlan s wf d [a] (sOut 2 (f (sIn 2 (rd s s.cur a.toNat))))

/-- The shift amount B mod W. -/
def sAmount (t : BitVec 2) (b : Int) : Nat := (b % (sWidth t : Nat)).toNat

/-- Bit operations on W-bit patterns of signed or unsigned operands. -/
def onBits (t : BitVec 2) (f : Nat → Nat → Nat) (a b : Int) : Int :=
  (f (wrap (sWidth t) a) (wrap (sWidth t) b) : Nat)

/-- Leading zero bits of a W-bit pattern. -/
def leadingZeros (w n : Nat) : Nat := ((upto 0 w).takeWhile (fun i => !n.testBit (w - 1 - i))).length

/-- One bits of a W-bit pattern. -/
def oneBits (w n : Nat) : Nat := ((upto 0 w).filter (fun i => n.testBit i)).length

/-- A W-bit pattern reversed. -/
def reversed (w n : Nat) : Nat := total ((upto 0 w).map (fun i => bit (n.testBit i) * 2 ^ (w - 1 - i)))

/-- Position and length of a bit field (R128, BFX). -/
def fieldAt (t : BitVec 2) (b : Int) : Nat × Nat :=
  let n := wrap (sWidth t) b
  (n % 256, min (n / 256 % 256) (sWidth t))

/-- BFX: the field of A, sign-extended from its top bit for s types (R128). -/
def bitField (t : BitVec 2) (a b : Int) : Int :=
  let (p, n) := fieldAt t b
  let f := wrap n (a / (2 ^ p : Nat))
  if n = 0 then 0 else if t.getLsbD 0 then (f : Int) else signed n f

/-- BFI: D with the field replaced by the low bits of A (R128). -/
def insertField (t : BitVec 2) (d a b : Int) : Int :=
  let (p, n) := fieldAt t b
  let w := sWidth t
  (total ((upto 0 w).map (fun i =>
    bit (if p ≤ i ∧ i < p + n then (wrap w a).testBit (i - p) else (wrap w d).testBit i) * 2 ^ i)) : Nat)

/-! ## MOVI -/

/-- MOVI loads the sign-extended literal (R127). -/
def planMovi (sb : Bool) (d : BitVec 7) (lit : BitVec 32) (s : State) : Plan :=
  cPlan ⟨true, sb⟩ ((regPlan s s.cur true [fw d]).does [wr s.cur d.toNat (ext64 (lit.signExtend 64))])
/-- MOVI. -/
def execMovi (sb : Bool) (d : BitVec 7) (lit : BitVec 32) (s : State) : Host.Outcome State Fault Refusal :=
  fireC (planMovi sb d lit) s

/-- The value that a destination holds, whatever is bound to it. -/
def held (s : State) (slot f : Nat) : Word :=
  if 112 ≤ f then hearthRead s slot (f - 112) else if f = 0 then 0 else (thr s slot).arch.reg f

/-- MOVI.HI replaces bits 63:32 of what its destination holds (R127). -/
def planMoviHi (sb : Bool) (d : BitVec 7) (lit : BitVec 32) (s : State) : Plan :=
  cPlan ⟨true, sb⟩ ((regPlan s s.cur true [fw d]).does
    [wr s.cur d.toNat (ext64 (lit ++ (held s s.cur d.toNat).extractLsb' 0 32))])
/-- MOVI.HI. -/
def execMoviHi (sb : Bool) (d : BitVec 7) (lit : BitVec 32) (s : State) : Host.Outcome State Fault Refusal :=
  fireC (planMoviHi sb d lit) s

/-! ## Scalar integer operations (R128) -/

/-- ADD: A + B (R128). -/
def planAdd (d a b : BitVec 7) (t : BitVec 2) (s : State) : Plan :=
  scalarPlan s d a b t (fun x y => x + y)
/-- ADD. -/
def execAdd (d a b : BitVec 7) (t : BitVec 2) (s : State) :
    Host.Outcome State Fault Refusal := fireA (planAdd d a b t) s

/-- SUB: A − B (R128). -/
def planSub (d a b : BitVec 7) (t : BitVec 2) (s : State) : Plan :=
  scalarPlan s d a b t (fun x y => x - y)
/-- SUB. -/
def execSub (d a b : BitVec 7) (t : BitVec 2) (s : State) :
    Host.Outcome State Fault Refusal := fireA (planSub d a b t) s

/-- MUL: the low W bits of A × B (R128). -/
def planMul (d a b : BitVec 7) (t : BitVec 2) (s : State) : Plan :=
  scalarPlan s d a b t (fun x y => x * y)
/-- MUL. -/
def execMul (d a b : BitVec 7) (t : BitVec 2) (s : State) :
    Host.Outcome State Fault Refusal := fireA (planMul d a b t) s

/-- MULH: the exact product shifted right by W (R128). -/
def planMulh (d a b : BitVec 7) (t : BitVec 2) (s : State) : Plan :=
  scalarPlan s d a b t (fun x y => x * y / (2 ^ sWidth t : Nat))
/-- MULH. -/
def execMulh (d a b : BitVec 7) (t : BitVec 2) (s : State) :
    Host.Outcome State Fault Refusal := fireA (planMulh d a b t) s

/-- AND on W bits (R128). -/
def planAnd (d a b : BitVec 7) (t : BitVec 2) (s : State) : Plan :=
  scalarPlan s d a b t (onBits t (· &&& ·))
/-- AND. -/
def execAnd (d a b : BitVec 7) (t : BitVec 2) (s : State) :
    Host.Outcome State Fault Refusal := fireA (planAnd d a b t) s

/-- OR on W bits (R128). -/
def planOr (d a b : BitVec 7) (t : BitVec 2) (s : State) : Plan :=
  scalarPlan s d a b t (onBits t (· ||| ·))
/-- OR. -/
def execOr (d a b : BitVec 7) (t : BitVec 2) (s : State) :
    Host.Outcome State Fault Refusal := fireA (planOr d a b t) s

/-- XOR on W bits (R128). -/
def planXor (d a b : BitVec 7) (t : BitVec 2) (s : State) : Plan :=
  scalarPlan s d a b t (onBits t (· ^^^ ·))
/-- XOR. -/
def execXor (d a b : BitVec 7) (t : BitVec 2) (s : State) :
    Host.Outcome State Fault Refusal := fireA (planXor d a b t) s

/-- SHL: A << (B mod W) (R128). -/
def planShl (d a b : BitVec 7) (t : BitVec 2) (s : State) : Plan :=
  scalarPlan s d a b t (fun x y => x * (2 ^ sAmount t y : Nat))
/-- SHL. -/
def execShl (d a b : BitVec 7) (t : BitVec 2) (s : State) :
    Host.Outcome State Fault Refusal := fireA (planShl d a b t) s

/-- SHR: the pattern shifted right with zeros (R128). -/
def planShr (d a b : BitVec 7) (t : BitVec 2) (s : State) : Plan :=
  scalarPlan s d a b t (fun x y => (wrap (sWidth t) x / 2 ^ sAmount t y : Nat))
/-- SHR. -/
def execShr (d a b : BitVec 7) (t : BitVec 2) (s : State) :
    Host.Outcome State Fault Refusal := fireA (planShr d a b t) s

/-- SAR: shifted right with bit W−1 (R128). -/
def planSar (d a b : BitVec 7) (t : BitVec 2) (s : State) : Plan :=
  scalarPlan s d a b t (fun x y => signed (sWidth t) (wrap (sWidth t) x) / (2 ^ sAmount t y : Nat))
/-- SAR. -/
def execSar (d a b : BitVec 7) (t : BitVec 2) (s : State) :
    Host.Outcome State Fault Refusal := fireA (planSar d a b t) s

/-- ROT: the pattern rotated left (R128). -/
def planRot (d a b : BitVec 7) (t : BitVec 2) (s : State) : Plan :=
  scalarPlan s d a b t (fun x y => (wrap (sWidth t) x * 2 ^ sAmount t y + wrap (sWidth t) x / 2 ^ (sWidth t - sAmount t y) : Nat))
/-- ROT. -/
def execRot (d a b : BitVec 7) (t : BitVec 2) (s : State) :
    Host.Outcome State Fault Refusal := fireA (planRot d a b t) s

/-- MIN by the signedness of t (R128). -/
def planMin (d a b : BitVec 7) (t : BitVec 2) (s : State) : Plan :=
  scalarPlan s d a b t (fun x y => if x ≤ y then x else y)
/-- MIN. -/
def execMin (d a b : BitVec 7) (t : BitVec 2) (s : State) :
    Host.Outcome State Fault Refusal := fireA (planMin d a b t) s

/-- MAX by the signedness of t (R128). -/
def planMax (d a b : BitVec 7) (t : BitVec 2) (s : State) : Plan :=
  scalarPlan s d a b t (fun x y => if x ≤ y then y else x)
/-- MAX. -/
def execMax (d a b : BitVec 7) (t : BitVec 2) (s : State) :
    Host.Outcome State Fault Refusal := fireA (planMax d a b t) s

/-- BFX extracts a field (R128). -/
def planBfx (d a b : BitVec 7) (t : BitVec 2) (s : State) : Plan :=
  scalarPlan s d a b t (bitField t)
/-- BFX. -/
def execBfx (d a b : BitVec 7) (t : BitVec 2) (s : State) :
    Host.Outcome State Fault Refusal := fireA (planBfx d a b t) s

/-- The plan of DIV and REM (R128, R129): long, at most 40 cy; B = 0 raises DIV0 with the b field. -/
def dividePlan (s : State) (d a b : BitVec 7) (t : BitVec 2) (f : Int → Int → Int) : Plan :=
  let x := sIn t (rd s s.cur a.toNat)
  let y := sIn t (rd s s.cur b.toNat)
  aPlan s (((regPlan s s.cur (longDest d) [fw d, fr a, fr b]).own
    (if y = 0 then some (nTrap .div0 b.toNat) else none)).does
    [pendIn s.cur [d.toNat] none (.value [sOut t (f x y)] none 0) 40])

/-- DIV: truncated toward zero (R128). -/
def planDiv (d a b : BitVec 7) (t : BitVec 2) (s : State) : Plan :=
  dividePlan s d a b t Int.tdiv
/-- DIV. -/
def execDiv (d a b : BitVec 7) (t : BitVec 2) (s : State) :
    Host.Outcome State Fault Refusal := fireA (planDiv d a b t) s

/-- REM: the remainder, with the sign of A (R128). -/
def planRem (d a b : BitVec 7) (t : BitVec 2) (s : State) : Plan :=
  dividePlan s d a b t Int.tmod
/-- REM. -/
def execRem (d a b : BitVec 7) (t : BitVec 2) (s : State) :
    Host.Outcome State Fault Refusal := fireA (planRem d a b t) s

/-- ABS (R128). -/
def planAbs (d a : BitVec 7) (t : BitVec 2) (s : State) : Plan :=
  scalarPlan1 s d a t (fun x => if x < 0 then -x else x)
/-- ABS. -/
def execAbs (d a : BitVec 7) (t : BitVec 2) (s : State) :
    Host.Outcome State Fault Refusal := fireA (planAbs d a t) s

/-- NEG: 0 − A (R128). -/
def planNeg (d a : BitVec 7) (t : BitVec 2) (s : State) : Plan :=
  scalarPlan1 s d a t (fun x => -x)
/-- NEG. -/
def execNeg (d a : BitVec 7) (t : BitVec 2) (s : State) :
    Host.Outcome State Fault Refusal := fireA (planNeg d a t) s

/-- CLZ: leading zero bits (R128). -/
def planClz (d a : BitVec 7) (t : BitVec 2) (s : State) : Plan :=
  scalarPlan1 s d a t (fun x => (leadingZeros (sWidth t) (wrap (sWidth t) x) : Nat))
/-- CLZ. -/
def execClz (d a : BitVec 7) (t : BitVec 2) (s : State) :
    Host.Outcome State Fault Refusal := fireA (planClz d a t) s

/-- POPC: one bits (R128). -/
def planPopc (d a : BitVec 7) (t : BitVec 2) (s : State) : Plan :=
  scalarPlan1 s d a t (fun x => (oneBits (sWidth t) (wrap (sWidth t) x) : Nat))
/-- POPC. -/
def execPopc (d a : BitVec 7) (t : BitVec 2) (s : State) :
    Host.Outcome State Fault Refusal := fireA (planPopc d a t) s

/-- BREV: bit i to bit W−1−i (R128). -/
def planBrev (d a : BitVec 7) (t : BitVec 2) (s : State) : Plan :=
  scalarPlan1 s d a t (fun x => (reversed (sWidth t) (wrap (sWidth t) x) : Nat))
/-- BREV. -/
def execBrev (d a : BitVec 7) (t : BitVec 2) (s : State) :
    Host.Outcome State Fault Refusal := fireA (planBrev d a t) s

/-- MOV: A (R128). -/
def planMov (d a : BitVec 7) (t : BitVec 2) (s : State) : Plan :=
  scalarPlan1 s d a t (fun x => x)
/-- MOV. -/
def execMov (d a : BitVec 7) (t : BitVec 2) (s : State) :
    Host.Outcome State Fault Refusal := fireA (planMov d a t) s

/-- BFI inserts a field into X[d], which is read as a source (R128). -/
def planBfi (d a b : BitVec 7) (t : BitVec 2) (s : State) : Plan :=
  aPlan s ((regPlan s s.cur true [fx d, fr a, fr b]).does
    [wr s.cur d.toNat (sOut t (insertField t (sIn t (rd s s.cur d.toNat)) (sIn t (rd s s.cur a.toNat))
      (sIn t (rd s s.cur b.toNat))))])
/-- BFI. -/
def execBfi (d a b : BitVec 7) (t : BitVec 2) (s : State) :
    Host.Outcome State Fault Refusal := fireA (planBfi d a b t) s

/-! ## Immediate forms (R130) -/

/-- ADDI (R130). -/
def planAddi (d a : BitVec 7) (imm : BitVec 11) (s : State) : Plan :=
  immPlan s true d a (fun x => x + imm.toInt)
/-- ADDI. -/
def execAddi (d a : BitVec 7) (imm : BitVec 11) (s : State) :
    Host.Outcome State Fault Refusal := fireA (planAddi d a imm) s

/-- ANDI (R130). -/
def planAndi (d a : BitVec 7) (imm : BitVec 11) (s : State) : Plan :=
  immPlan s true d a (fun x => onBits 2 (· &&& ·) x imm.toInt)
/-- ANDI. -/
def execAndi (d a : BitVec 7) (imm : BitVec 11) (s : State) :
    Host.Outcome State Fault Refusal := fireA (planAndi d a imm) s

/-- ORI (R130). -/
def planOri (d a : BitVec 7) (imm : BitVec 11) (s : State) : Plan :=
  immPlan s true d a (fun x => onBits 2 (· ||| ·) x imm.toInt)
/-- ORI. -/
def execOri (d a : BitVec 7) (imm : BitVec 11) (s : State) :
    Host.Outcome State Fault Refusal := fireA (planOri d a imm) s

/-- XORI (R130). -/
def planXori (d a : BitVec 7) (imm : BitVec 11) (s : State) : Plan :=
  immPlan s true d a (fun x => onBits 2 (· ^^^ ·) x imm.toInt)
/-- XORI. -/
def execXori (d a : BitVec 7) (imm : BitVec 11) (s : State) :
    Host.Outcome State Fault Refusal := fireA (planXori d a imm) s

/-- SHLI; an immediate above 63 raises ILLEGAL (R130). -/
def planShli (d a : BitVec 7) (imm : BitVec 11) (s : State) : Plan :=
  immPlan s (decide (imm.toNat ≤ 63)) d a (fun x => x * (2 ^ imm.toNat : Nat))
/-- SHLI. -/
def execShli (d a : BitVec 7) (imm : BitVec 11) (s : State) :
    Host.Outcome State Fault Refusal := fireA (planShli d a imm) s

/-- SHRI; an immediate above 63 raises ILLEGAL (R130). -/
def planShri (d a : BitVec 7) (imm : BitVec 11) (s : State) : Plan :=
  immPlan s (decide (imm.toNat ≤ 63)) d a (fun x => (wrap 64 x / 2 ^ imm.toNat : Nat))
/-- SHRI. -/
def execShri (d a : BitVec 7) (imm : BitVec 11) (s : State) :
    Host.Outcome State Fault Refusal := fireA (planShri d a imm) s

/-- SARI; an immediate above 63 raises ILLEGAL (R130). -/
def planSari (d a : BitVec 7) (imm : BitVec 11) (s : State) : Plan :=
  immPlan s (decide (imm.toNat ≤ 63)) d a (fun x => x / (2 ^ imm.toNat : Nat))
/-- SARI. -/
def execSari (d a : BitVec 7) (imm : BitVec 11) (s : State) :
    Host.Outcome State Fault Refusal := fireA (planSari d a imm) s

/-! ## Pointers (R131) -/

/-- PADD and PADDI: the address field moves by an offset, and TAG where it leaves 55 bits (R131). -/
def paddPlan (s : State) (d a : BitVec 7) (srcs : List (BitVec 7)) (off : Int) : Plan :=
  let x := rd64 s s.cur a.toNat
  let sum := (bits x 54 0 : Int) + off
  aPlan s (((regPlan s s.cur true (fw d :: srcs.map fr)).own
    (if sum < 0 ∨ (2 : Int) ^ 55 ≤ sum then some ⟨.tag, x⟩ else none)).does
    [wr s.cur d.toNat (wd (bits x 63 55 * 2 ^ 55 + sum.toNat))])

/-- PADD adds a register offset (R131). -/
def planPadd (d a b : BitVec 7) (s : State) : Plan :=
  paddPlan s d a [a, b] (rd64 s s.cur b.toNat).toInt
/-- PADD. -/
def execPadd (d a b : BitVec 7) (s : State) :
    Host.Outcome State Fault Refusal := fireA (planPadd d a b) s

/-- PADDI adds an immediate offset (R131). -/
def planPaddi (d a : BitVec 7) (imm : BitVec 11) (s : State) : Plan :=
  paddPlan s d a [a] imm.toInt
/-- PADDI. -/
def execPaddi (d a : BitVec 7) (imm : BitVec 11) (s : State) :
    Host.Outcome State Fault Refusal := fireA (planPaddi d a imm) s

/-- PSET builds a pointer from an address and a tag (R131). -/
def planPset (d a b : BitVec 7) (s : State) : Plan :=
  let x := rd64 s s.cur a.toNat
  let y := rd64 s s.cur b.toNat
  aPlan s (((regPlan s s.cur true [fw d, fr a, fr b]).own
    (if 20 ≤ bits y 8 4 ∨ (bits y 8 4 = 0 ∧ bits y 3 1 ≠ 0) then some ⟨.tag, y⟩ else none)).does
    [wr s.cur d.toNat (wd (bits y 8 0 * 2 ^ 55 + bits x 54 0))])
/-- PSET. -/
def execPset (d a b : BitVec 7) (s : State) :
    Host.Outcome State Fault Refusal := fireA (planPset d a b) s

/-- PGET reads the tag of a pointer (R131). -/
def planPget (d a : BitVec 7) (s : State) : Plan :=
  valuePlan s true d [a] (wd (bits (rd s s.cur a.toNat) 63 55))
/-- PGET. -/
def execPget (d a : BitVec 7) (s : State) :
    Host.Outcome State Fault Refusal := fireA (planPget d a) s

/-- PDIFF: the signed distance of two addresses (R131). -/
def planPdiff (d a b : BitVec 7) (s : State) : Plan :=
  valuePlan s true d [a, b]
    (wd (wrap 64 ((bits (rd s s.cur a.toNat) 54 0 : Int) - bits (rd s s.cur b.toNat) 54 0)))
/-- PDIFF. -/
def execPdiff (d a b : BitVec 7) (s : State) :
    Host.Outcome State Fault Refusal := fireA (planPdiff d a b) s

/-! ## Comparisons and predicates -/

/-- A word that writes a predicate. -/
def predPlan (s : State) (wf : Bool) (k : BitVec 3) (srcs : List Field) (v : BitVec 16) (fl : BitVec 5) : Plan :=
  aPlan s ((regPlan s s.cur wf (outPred k :: srcs)).does [wrPred s.cur k.toNat v, wrFlags s.cur (thr s s.cur).fxmask fl])

/-- All 16 bits of a predicate alike. -/
def allBits (b : Bool) : BitVec 16 := if b then 0xFFFF else 0

/-- CMP compares element 0 of two registers (R132). -/
def planCmp (k c : BitVec 3) (a b : BitVec 7) (t : BitVec 4) (s : State) : Plan :=
  let f := typeFmt t.toNat
  let x := compareElem f (ftzOf (thr s s.cur).arch.round) c.toNat
    (laneElem f (rd s s.cur a.toNat) 0) (laneElem f (rd s s.cur b.toNat) 0)
  predPlan s true k [fr a, fr b] (allBits x.1) x.2
/-- CMP. -/
def execCmp (k c : BitVec 3) (a b : BitVec 7) (t : BitVec 4) (s : State) :
    Host.Outcome State Fault Refusal := fireA (planCmp k c a b t) s

/-- CMPI compares with a sign-extended immediate (R133). -/
def planCmpi (k c : BitVec 3) (a imm : BitVec 7) (t : BitVec 3) (s : State) : Plan :=
  let f := typeFmt t.toNat
  let x := compareElem f false c.toNat (laneElem f (rd s s.cur a.toNat) 0) (wrap (codeWidth f) imm.toInt)
  predPlan s true k [fr a] (allBits x.1) 0
/-- CMPI. -/
def execCmpi (k c : BitVec 3) (a imm : BitVec 7) (t : BitVec 3) (s : State) :
    Host.Outcome State Fault Refusal := fireA (planCmpi k c a imm t) s

/-- KOP combines predicates bit by bit (R134). -/
def planKop (k c a b : BitVec 3) (s : State) : Plan :=
  let p := fun (x : BitVec 3) => (thr s s.cur).arch.pred x.toNat
  let v : BitVec 16 := match c.toNat with
    | 0 => p a &&& p b
    | 1 => p a ||| p b
    | 2 => p a ^^^ p b
    | 3 => p a &&& ~~~(p b)
    | 4 => ~~~(p a)
    | 5 => p a
    | 6 => 0xFFFF
    | _ => 0
  predPlan s (Instr.kop k c a b).wf k [inPred a, inPred b] v 0
/-- KOP. -/
def execKop (k c a b : BitVec 3) (s : State) :
    Host.Outcome State Fault Refusal := fireA (planKop k c a b) s

/-- SEL selects a register by bit 0 of a predicate (R135). -/
def planSel (d a b : BitVec 7) (p : BitVec 3) (s : State) : Plan :=
  let v := if ((thr s s.cur).arch.pred p.toNat).getLsbD 0 then rd s s.cur a.toNat else rd s s.cur b.toNat
  aPlan s ((regPlan s s.cur true [fw d, fr a, fr b, inPred p]).does [wr s.cur d.toNat v])
/-- SEL. -/
def execSel (d a b : BitVec 7) (p : BitVec 3) (s : State) :
    Host.Outcome State Fault Refusal := fireA (planSel d a b p) s

/-- KMOV copies a predicate into a register (R135). -/
def planKmovToReg (d : BitVec 7) (a : BitVec 3) (s : State) : Plan :=
  aPlan s ((regPlan s s.cur true [fw d, inPred a]).does
    [wr s.cur d.toNat (((thr s s.cur).arch.pred a.toNat).setWidth 128)])
/-- KMOV to a register. -/
def execKmovToReg (d : BitVec 7) (a : BitVec 3) (s : State) :
    Host.Outcome State Fault Refusal := fireA (planKmovToReg d a) s

/-- KMOV copies bits 15:0 of a register into a predicate (R135). -/
def planKmovToPred (d : BitVec 3) (a : BitVec 7) (s : State) : Plan :=
  predPlan s true d [fr a] ((rd s s.cur a.toNat).setWidth 16) 0
/-- KMOV to a predicate. -/
def execKmovToPred (d : BitVec 3) (a : BitVec 7) (s : State) :
    Host.Outcome State Fault Refusal := fireA (planKmovToPred d a) s

end Sys2Proof.Machine
end

