-- ==== Sys2Proof/Machine/Windows.lean ====
section
/-!
DEFINITION. Windows: tags, drops and regrowth of the register window (R110 to R119), and streams:
bind, unbind, status and prefetch (R120 to R126).
-/

namespace Sys2Proof.Machine

open Sys2Proof

/-! ## Tags -/

/-- The plan that RXTAG and RXUNTAG share: their checks of x(d) (R115). `reads` are the recipe's
operands that it replays. -/
def tagPlan (s : State) (wf : Bool) (d : BitVec 7) (ws : List (BitVec 32)) : Plan :=
  let sl := s.cur
  let t := thr s sl
  let ops := recipeRegs ws
  let bound := fun r => if (t.arch.strm r).isSome then some (nTrap .stream r) else none
  { ill := !wf
    c2 := (rangeTrap t d.toNat).or <| (hazardW t d.toNat).or <| (firstSome (hazardW t) ops).or <|
      (droppedTrap t d.toNat).or <|
      firstSome (fun r => if dropped t r then some (nTrap .recipeDepth r) else none) ops
    c3 := (bound d.toNat).or (firstSome bound ops)
    lost := (recipeOps ws).length }

/-- RXTAG with a recipe sets the tag and writes the replay value; an index at or above the launch's
recipe count raises ILLEGAL (R107, R115). -/
def planRxtag (ls : LS) (d : BitVec 7) (n : BitVec 5) (s : State) : Plan :=
  let sl := s.cur
  let ws := recipeOf s sl n.toNat
  let p := tagPlan s ((Instr.rxtag ls d n).wf && decide (n.toNat < (recOf s sl).recipes)) d ws
  cPlan ls { p with
    dests := destOf d.toNat
    stages := [eff [onArch sl (fun a => (a.setReg d.toNat (recipeValue s sl ws)).setTag d.toNat (.recipe n.toNat))]] }
/-- RXTAG. -/
def execRxtag (ls : LS) (d : BitVec 7) (n : BitVec 5) (s : State) : Host.Outcome State Fault Refusal :=
  fireC (planRxtag ls d n) s

/-- RXTAG void sets the tag (R115); like every RXTAG it names x(d) as its destination (R50, R56). -/
def planRxtagVoid (ls : LS) (d : BitVec 7) (s : State) : Plan :=
  cPlan ls { tagPlan s (Instr.rxtagVoid ls d).wf d [] with
    dests := destOf d.toNat
    stages := [eff [onArch s.cur (fun a => a.setTag d.toNat .void)]] }
/-- RXTAG void. -/
def execRxtagVoid (ls : LS) (d : BitVec 7) (s : State) : Host.Outcome State Fault Refusal :=
  fireC (planRxtagVoid ls d) s

/-- RXUNTAG clears the tag (R115) of its destination. -/
def planRxuntag (ls : LS) (d : BitVec 7) (s : State) : Plan :=
  cPlan ls { tagPlan s (Instr.rxuntag ls d).wf d [] with
    dests := destOf d.toNat
    stages := [eff [onArch s.cur (fun a => a.setTag d.toNat .none)]] }
/-- RXUNTAG. -/
def execRxuntag (ls : LS) (d : BitVec 7) (s : State) : Host.Outcome State Fault Refusal :=
  fireC (planRxuntag ls d) s

/-! ## Drops and regrowth -/

/-- Why a register may not be dropped (R111, R116). -/
def keepTrap (t : Thread) (r : Nat) : Option Trap :=
  if pending t r then some (nTrap .hazard r)
  else if t.arch.tag r = .none then some (nTrap .recipeDepth r)
  else if (t.arch.strm r).isSome then some (nTrap .stream r)
  else none

/-- REGRANGE of the register that RXDROP and RXKEEP name (R53). -/
def lastTrap (t : Thread) (d : BitVec 7) : Option Trap :=
  if t.limit ≤ d.toNat then some (nTrap .regrange d.toNat) else none

/-- A trap of class 2; STREAM is an operation's own. -/
def classTwo : Option Trap → Option Trap
  | some tr => if tr.code = .stream then none else some tr
  | none => none

/-- RXDROP lowers the target limit; the entries are held until the chunk commits (R110, R116). -/
def planRxdrop (ls : LS) (d : BitVec 7) (s : State) : Plan :=
  let sl := s.cur
  let t := thr s sl
  let n := d.toNat + 1
  let bad := if t.arch.t ≤ n then none else firstSome (keepTrap t) (upto n (t.arch.t - n))
  cPlan ls {
    ill := !(Instr.rxdrop ls d).wf
    c2 := (lastTrap t d).or (classTwo bad)
    c3 := bad
    stages := if t.arch.t ≤ n then [] else [eff [onThr sl (fun t =>
      { t with cur := n, heldRegs := t.heldRegs + (t.arch.t - n), arch := { t.arch with t := n } })]] }
/-- RXDROP. -/
def execRxdrop (ls : LS) (d : BitVec 7) (s : State) : Host.Outcome State Fault Refusal :=
  fireC (planRxdrop ls d) s

/-- The operands of the recipe that tags a register. -/
def tagOperands (s : State) (slot : Nat) (r : Nat) : List Nat :=
  match (thr s slot).arch.tag r with
  | .recipe n => recipeRegs (recipeOf s slot n)
  | _ => []

/-- HAZARD of register r of the range that RXKEEP regrows (R117). -/
def regrowHazard (s : State) (slot r : Nat) : Option Trap :=
  firstSome (hazardW (thr s slot)) (tagOperands s slot r)

/-- RECIPE-DEPTH of register r of the range that RXKEEP regrows (R117). -/
def regrowDepth (s : State) (slot hi r : Nat) : Option Trap :=
  let t := thr s slot
  let ops := tagOperands s slot r
  (firstSome (fun m => if hi ≤ m then some (nTrap .recipeDepth m) else none) ops).or <|
  firstSome (fun m => if r < m ∧ m < hi then
      firstSome (fun q => if t.arch.t ≤ q ∧ r ≤ q then some (nTrap .recipeDepth q) else none) (tagOperands s slot m)
    else none) ops

/-- RXKEEP raises the target limit and rematerialises registers, sleeping while entries are not free
(R117, R118). -/
def planRxkeep (ls : LS) (d : BitVec 7) (s : State) : Plan :=
  let sl := s.cur
  let t := thr s sl
  let n := d.toNat + 1
  let lo := t.arch.t
  let range := if n ≤ lo then [] else upto lo (n - lo)
  cPlan ls {
    ill := !(Instr.rxkeep ls d).wf
    c2 := (lastTrap t d).or ((firstSome (regrowHazard s sl) range).or (firstSome (regrowDepth s sl n) range))
    sleep := if n ≤ lo ∨ n ≤ t.cur + entriesFree s (coreOf sl) then none else some (.window n)
    lost := total (range.map (fun r => match t.arch.tag r with
      | .recipe k => (recipeOps (recipeOf s sl k)).length
      | _ => 0))
    stages := if n ≤ lo then [] else [eff [onThr sl (fun t =>
      { t with cur := n, arch := { remat s sl lo n t.arch with t := n } })]] }
/-- RXKEEP. -/
def execRxkeep (ls : LS) (d : BitVec 7) (s : State) : Host.Outcome State Fault Refusal :=
  fireC (planRxkeep ls d) s

/-- The number of a tag in RXQ's word (R119). -/
def RTag.num : RTag → Nat
  | .none => 0
  | .void => 1
  | .recipe n => 32 + n

/-- A plan that writes X[d] with what describes x(a), which is named but not read. -/
def describePlan (s : State) (d a : BitVec 7) (v : Word) : Plan :=
  let sl := s.cur
  let t := thr s sl
  let p := regPlan s sl true [fw d]
  ({ p with c2 := (rangeTrap t d.toNat).or ((rangeTrap t a.toNat).or p.c2) } : Plan).does [wr sl d.toNat v]

/-- RXQ describes a register's tag and drop state (R119). -/
def planRxq (ls : LS) (d a : BitVec 7) (s : State) : Plan :=
  let t := thr s s.cur
  cPlan ls (describePlan s d a (wd (t.limit * 2 ^ 24 + t.arch.t * 2 ^ 16
    + bit (t.arch.strm a.toNat).isSome * 2 ^ 9 + bit (dropped t a.toNat) * 2 ^ 8 + (t.arch.tag a.toNat).num)))
/-- RXQ. -/
def execRxq (ls : LS) (d a : BitVec 7) (s : State) : Host.Outcome State Fault Refusal :=
  fireC (planRxq ls d a) s

/-! ## Streams -/

/-- The stream of a descriptor of 48 bytes (R120). -/
def streamOf (reg : Nat) (bs : List Byte) : Strm :=
  let f := fun i n => ofBytes ((bs.drop i).take n)
  { reg := reg, write := (f 40 8).testBit 0, global := (f 40 8).testBit 1, ptr := BitVec.ofNat 64 (f 0 8)
    counts := (upto 0 4).map (fun i => f (8 + 4 * i) 4)
    strides := (upto 0 4).map (fun i => signed 32 (f (24 + 4 * i) 4)) }

/-- The checks of a descriptor and of x(d), in the order of R122. -/
def bindTrap (s : State) (slot : Nat) (d : Nat) (bs : List Byte) : Option Trap :=
  let t := thr s slot
  let x := streamOf d bs
  let bindings := total ((coreSlots s (coreOf slot)).map (fun y => y.2.arch.streams.length))
  if x.counts.contains 0 ∨ 2 ^ 32 ≤ x.total ∨ 4 ≤ ofBytes ((bs.drop 40).take 8) ∨ 16 ≤ bindings then
    some (nTrap .stream 0)
  else if bits x.ptr 63 59 = 0 ∨ 20 ≤ bits x.ptr 63 59 ∨ bits x.ptr 58 56 ≠ 0 ∨ x.ptr.getLsbD 55 then
    some ⟨.tag, x.ptr⟩
  else if bits x.ptr 3 0 ≠ 0 ∨ x.strides.any (fun v => v % 16 != 0) then some (nTrap .align (bits x.ptr 54 0))
  else if !x.global ∧ bits x.ptr 54 32 ≠ 0 then some (nTrap .nearRange (bits x.ptr 54 0))
  else if !fieldReg d ∨ dropped t d ∨ pending t d ∨ t.arch.tag d ≠ .none ∨ (t.arch.strm d).isSome then
    some (nTrap .stream d)
  else none

/-- SBIND binds x(d) to the stream that the descriptor at X[a] gives (R120 to R123). -/
def planSbind (ls : LS) (d a : BitVec 7) (s : State) : Plan :=
  let sl := s.cur
  let t := thr s sl
  let v := rd64 s sl a.toNat
  let ea := bits v 31 0
  let p := regPlan s sl true [fr a]
  let p := { p with c2 := (rangeTrap t d.toNat).or p.c2 }
  cPlan ls <| if bits v 54 32 ≠ 0 then p.own (some ⟨.nearRange, v⟩) else match nearOwn s sl ea 48 with
    | none => p.own (some (nTrap .nearRange ea))
    | some loc =>
      if ea % 16 ≠ 0 then p.own (some (nTrap .align ea))
      else
        let bs := lookBytes s loc 48
        let x := streamOf d.toNat bs
        ({ (p.own (bindTrap s sl d.toNat bs)).at loc 48 with
           poison := p.poison.or ((nearPoison s loc 48).map (fun c => (c, BitVec.ofNat 64 ea))) } : Plan).does
          [nearRead loc 48, eff [onArch sl (fun a => { a with streams := a.streams ++ [x] })],
           if x.write then skip
           else evIn (ctxOf s sl) (if x.global then 640 else 12) (.streamUnitFetch sl d.toNat)]
/-- SBIND. -/
def execSbind (ls : LS) (d a : BitVec 7) (s : State) : Host.Outcome State Fault Refusal :=
  fireC (planSbind ls d a) s

/-- SUNBIND frees the entry bound to x(d) (R126). -/
def planSunbind (ls : LS) (d : BitVec 7) (s : State) : Plan :=
  cPlan ls { c2 := rangeTrap (thr s s.cur) d.toNat
             stages := [eff [onArch s.cur (fun a => { a with streams := a.streams.filter (fun x => x.reg != d.toNat) })]] }
/-- SUNBIND. -/
def execSunbind (ls : LS) (d : BitVec 7) (s : State) : Host.Outcome State Fault Refusal :=
  fireC (planSunbind ls d) s

/-- The status of a stream (R126). -/
def streamStatus (x : Strm) : Word :=
  wd (2 ^ 63 + bit x.write * 2 ^ 62 + bit x.exhausted * 2 ^ 61 + (x.fifo.length % 16) * 2 ^ 32 + x.pos % 2 ^ 32)

/-- SSTAT reads the status of the stream bound to x(a), without reading x(a) (R126). -/
def planSstat (ls : LS) (d a : BitVec 7) (s : State) : Plan :=
  cPlan ls (describePlan s d a (match (thr s s.cur).arch.strm a.toNat with
    | some x => streamStatus x
    | none => 0))
/-- SSTAT. -/
def execSstat (ls : LS) (d a : BitVec 7) (s : State) : Host.Outcome State Fault Refusal :=
  fireC (planSstat ls d a) s

/-! ## Prefetch -/

/-- Bytes of the chunk's own stores over n bytes at a location (R149): none where it stored nothing. -/
def ownBytes (c : Chunk) (loc n : Nat) : List (Option Byte) :=
  (upto loc n).map (fun a => c.buf.foldl (fun x b => match b with
    | .st l bs => if l ≤ a ∧ a < l + bs.length then some (bs.getD (a - l) 0) else x
    | .red _ _ _ => x) none)

/-- Bytes with the chunk's own stores over them. -/
def overlay (own : List (Option Byte)) (bs : List Byte) : List Byte :=
  (own.zip bs).map (fun x => x.1.getD x.2)

/-! ## Regions of loops and sequences -/

/-- Does a load wait for a line of its region (R285)? -/
def regionWait (s : State) (va : Nat) : Rel → Option Wait
  | .lower o j => if lineReady s (va / 64) o j then none else some (.line (va / 64) o j)
  | _ => none

/-- PERM of a load above the iteration's own record. -/
def regionLoadTrap (va : Nat) : Rel → Option Trap
  | .above => some (nTrap .perm va)
  | _ => none

/-- The bytes of a line as they landed, where its iteration has written it again (R285). -/
def asLanded (s : State) (slot line : Nat) : Option (List Byte) :=
  (firstSome (fun l => if (kernel s l.2.kernel).ctx = ctxOf s slot then tabGet l.2.again line else none) s.o.loops).or
    (firstSome (fun q => if q.2.cid = ctxOf s slot then tabGet q.2.again line else none) s.o.seqs)

/-- The bytes that a load does not read from memory: those of the chunk's own stores (R149), and of a landed line of a
lower iteration that was written again, by a free choice, each byte as it landed (R285). -/
def seenBytes (s : State) (slot ea loc n : Nat) : List (Option Byte) :=
  let own := ownBytes (thr s slot).chunk loc n
  match relOf s slot ea, asLanded s slot (ea / 64) with
  | .lower _ _, some bs => (own.zipIdx).map (fun x => x.1.or (if Config.freeBool (s.fresh + x.2) then bs[(ea + x.2) % 64]? else none))
  | _, _ => own

/-- What a stream's fetch finds at an address: a unit, or that it must wait, for a translation or for a line of
its region (R285). -/
def streamUnit (s : State) (slot : Nat) (x : Strm) (ea : Int) : Except (Option (Nat × Acc)) Unit16 :=
  let unit := fun (loc : Nat) (own : List (Option Byte)) =>
    match (if locGlobal loc then poisonIn s loc 16 else nearPoison s loc 16) with
    | some c => Unit16.poisoned c (if locGlobal loc then lineVa ea.toNat else BitVec.ofInt 64 ea)
    | none => .data (wd (ofBytes (overlay own (lookBytes s loc 16))))
  if x.global then
    if ea < 0 ∨ (2 : Int) ^ 55 ≤ ea then .ok (.fault ⟨.page, BitVec.ofInt 64 ea⟩)
    else match translate s slot ea.toNat .read with
      | .hit loc _ =>
        let r := relOf s slot ea.toNat
        match regionLoadTrap ea.toNat r, regionWait s ea.toNat r with
        | some tr, _ => .ok (.fault tr)
        | none, some _ => .error none
        | none, none => .ok (unit loc (seenBytes s slot ea.toNat loc 16))
      | .trap tr => .ok (.fault tr)
      | .miss va k => .error (some (va, k))
  else if ea < 0 ∨ (2 : Int) ^ 32 ≤ ea then .ok (.fault ⟨.nearRange, BitVec.ofInt 64 ea⟩)
  else match nearAt s slot ea.toNat with
    | some p => .ok (unit p.loc (List.replicate 16 none))
    | none => .ok (.fault (nTrap .nearRange ea.toNat))

/-- Is a unit the fault that its fetch found? -/
def Unit16.isFault : Unit16 → Bool
  | .fault _ => true
  | _ => false

/-- A read stream's next unit enters its FIFO of 8, and the fetch of the one after it begins; none is fetched behind a fault
(R121, R124). A miss is answered by the translation service core (R344). -/
def streamFetch (slot reg : Nat) : Stage := pick (fun s =>
  match (thr s slot).arch.strm reg with
  | none => []
  | some x =>
    let u := x.pos + x.fifo.length
    if x.write || decide (8 ≤ x.fifo.length) || decide (x.total ≤ u) || x.fifo.any Unit16.isFault then []
    else match streamUnit s slot x (x.addr u) with
      | .error m =>
        [fun s => (match m with
          | some (va, k) => [.post s.now (.ev (.tlbMiss slot va k.num))]
          | none => []) ++ [.post (s.now + 8) (.ev (.streamUnitFetch slot reg))]]
      | .ok v =>
        (if x.global then (match v, translate s slot (x.addr u).toNat .read with
           | .data _, .hit loc _ => linesRead loc 16
           | _, _ => [])
         else [nearRead (((nearAt s slot (x.addr u).toNat).map (·.loc)).getD 0) 16]) ++
        [eff [onArch slot (fun a => a.onStrm reg (fun y => { y with fifo := y.fifo ++ [v] }))],
         (if x.global then countMoved (thr s slot).kernel 16 else skip),
         if u + 1 < x.total ∧ x.fifo.length + 1 < 8 ∧ !v.isFault then
           evIn (ctxOf s slot) (if x.global then 640 else 12) (.streamUnitFetch slot reg)
         else skip])

/-- STREAM_UNIT_FETCH (R124). -/
def execStreamUnitFetch (slot reg : Nat) (s : State) : Host.Outcome State Fault Refusal :=
  fire [streamFetch slot reg] s

end Sys2Proof.Machine
end

