-- ==== Sys2Proof/Machine/Memory.lean ====
section
/-!
DEFINITION. Memory: loads and stores of both realms (R152, R153, R149), LDTR (R209), atomics, RED and
CAS (R157 to R159), with what carry loops and sequences rule about their regions (R151, R285, R315).
-/

namespace Sys2Proof.Machine

open Sys2Proof

/-! ## Addresses -/

/-- The near address that a base and an offset give, and where it leads (R137, R152). -/
def nearOperand (s : State) (slot : Nat) (v : Dword) (ob : Int) : Except Trap (Nat × NearAt) :=
  let ea : Int := (bits v 31 0 : Int) + ob
  if bits v 54 32 ≠ 0 then .error ⟨.nearRange, v⟩
  else if ea < 0 ∨ (2 : Int) ^ 32 ≤ ea then .error ⟨.nearRange, BitVec.ofInt 64 ea⟩
  else match nearAt s slot ea.toNat with
    | none => .error (nTrap .nearRange ea.toNat)
    | some p => .ok (ea.toNat, p)

/-- The global address that a base and an offset give (R152). -/
def globalOperand (v : Dword) (ob : Int) : Except Trap Nat :=
  let ea : Int := (bits v 54 0 : Int) + ob
  if ea < 0 ∨ (2 : Int) ^ 55 ≤ ea then .error ⟨.page, BitVec.ofInt 64 ea⟩ else .ok ea.toNat

/-- ALIGN of an address (R152). -/
def alignTrap (ea n : Nat) : Option Trap := if ea % n = 0 then none else some (nTrap .align ea)

/-- The byte offset of a short form: its field in units of the access size (R50). -/
def shortOff (sz : BitVec 3) (off : BitVec 7) : Int := off.toInt * (sizeBytes sz.toNat : Nat)

/-- A literal offset. -/
def longOff (lit : BitVec 32) : Int := lit.toInt

/-- A load's destination is bound to a stream: STREAM (R152). -/
def Plan.boundDest (p : Plan) (s : State) (d : BitVec 7) : Plan :=
  let t := thr s s.cur
  if !dropped t d.toNat && (t.arch.strm d.toNat).isSome then { p with c3 := some (nTrap .stream d.toNat) } else p

/-- ILLEGAL of a hearth destination that turns out to be long (R105). -/
def Plan.farDest (p : Plan) (s : State) (d : BitVec 7) (remote : Bool) : Plan :=
  p.ownIf s s.cur (remote && fieldHearth d) .illegal

/-! ## Tracked loads -/

/-- Is a load of the address tracked: outside every region, and not in a guess task (R280, R285)? -/
def tracks (s : State) (slot : Nat) (r : Rel) : Bool := r == .outside && !guessing s slot

/-! ## Near loads and stores -/

/-- The plan of a near load. -/
def nearLoadPlan (s : State) (mark : Bool) (d b : BitVec 7) (sz : BitVec 3) (ob : Int) : Plan :=
  let sl := s.cur
  let n := sizeBytes sz.toNat
  let p := (regPlan s sl true [fw d, fr b]).boundDest s d
  let p := { p with mark := mark }
  match nearOperand s sl (rd64 s sl b.toNat) ob with
  | .error tr => p.own (some tr)
  | .ok (ea, at_) =>
    let p := ((p.farDest s d at_.remote).own (alignTrap ea n)).own (raceTrap s sl at_.loc ea n false)
    if at_.remote then p.does [raceMark sl at_.loc n false, sendNear sl at_.loc ea (.load sz) [d.toNat] true]
    else
      ({ p.at at_.loc n with poison := p.poison.or ((nearPoison s at_.loc n).map (fun c => (c, BitVec.ofNat 64 ea))) } : Plan).does
        [raceMark sl at_.loc n false, nearRead at_.loc n, wr sl d.toNat (loadValue sz.toNat (lookBytes s at_.loc n))]

/-- LD.N, short form (R152). -/
def planLdN (sb : Bool) (d b : BitVec 7) (sz : BitVec 3) (off : BitVec 7) (s : State) : Plan :=
  nearLoadPlan s sb d b sz (shortOff sz off)
/-- LD.N. -/
def execLdN (sb : Bool) (d b : BitVec 7) (sz : BitVec 3) (off : BitVec 7) (s : State) :
    Host.Outcome State Fault Refusal := fireC (planLdN sb d b sz off) s

/-- LD.N, long form (R152). -/
def planLdNLong (sb : Bool) (d b : BitVec 7) (sz : BitVec 3) (lit : BitVec 32) (s : State) : Plan :=
  nearLoadPlan s sb d b sz (longOff lit)
/-- LD.N, long form. -/
def execLdNLong (sb : Bool) (d b : BitVec 7) (sz : BitVec 3) (lit : BitVec 32) (s : State) :
    Host.Outcome State Fault Refusal := fireC (planLdNLong sb d b sz lit) s

/-- The plan of a near store, a chunk point; in a speculative iteration GUESS outside the own TCM (R151). -/
def nearStorePlan (s : State) (mark : Bool) (v b : BitVec 7) (sz : BitVec 3) (ob : Int) : Plan :=
  let sl := s.cur
  let n := sizeBytes sz.toNat
  let bs := bytesOf n (rd s sl v.toNat).toNat
  let p := { regPlan s sl true [fr v, fr b] with mark := mark, point := true }
  match nearOperand s sl (rd64 s sl b.toNat) ob with
  | .error tr => p.own (some tr)
  | .ok (ea, at_) =>
    let p := ((p.ownIf s sl (locScratch at_.loc && speculative s sl) .guess).own (alignTrap ea n)).own
      (raceTrap s sl at_.loc ea n true)
    (if at_.remote then p else p.at at_.loc n).does [raceMark sl at_.loc n true,
      if at_.remote then sendNear sl at_.loc ea (.store bs) [] false
      else seqS [nearRead at_.loc n, fun s => storeMarked s at_.loc bs]]

/-- ST.N, short form (R153). -/
def planStN (sb : Bool) (v b : BitVec 7) (sz : BitVec 3) (off : BitVec 7) (s : State) : Plan :=
  nearStorePlan s sb v b sz (shortOff sz off)
/-- ST.N. -/
def execStN (sb : Bool) (v b : BitVec 7) (sz : BitVec 3) (off : BitVec 7) (s : State) :
    Host.Outcome State Fault Refusal := fireC (planStN sb v b sz off) s

/-- ST.N, long form (R153). -/
def planStNLong (sb : Bool) (v b : BitVec 7) (sz : BitVec 3) (lit : BitVec 32) (s : State) : Plan :=
  nearStorePlan s sb v b sz (longOff lit)
/-- ST.N, long form. -/
def execStNLong (sb : Bool) (v b : BitVec 7) (sz : BitVec 3) (lit : BitVec 32) (s : State) :
    Host.Outcome State Fault Refusal := fireC (planStNLong sb v b sz lit) s

/-! ## Global loads -/

/-- A tracked load enters its words into the read signature (R143, R145, R349). -/
def Chunk.addRead (c : Chunk) (loc n page : Nat) : Chunk :=
  { c with st := if c.st = .opened then .buffering else c.st
           reads := setAddAll c.reads (upto (loc / 8) ((loc + n - 1) / 8 + 1 - loc / 8))
           pages := setAdd c.pages page }

/-- Has the chunk reduced a word of these bytes (R158)? -/
def reducedHere (c : Chunk) (loc n : Nat) : Bool :=
  (upto (loc / 8) ((loc + n - 1) / 8 + 1 - loc / 8)).any (fun w => c.reds.contains w)

/-- What a global access finds at its address: its traps, a miss, or the location. -/
def globalAt (s : State) (slot : Nat) (p : Plan) (ea n : Nat) (a : Acc) (f : Plan → Nat → Plan) : Plan :=
  let p := p.own (alignTrap ea n)
  match translate s slot ea a with
  | .trap tr => p.own (some tr)
  | .miss va k => { p with miss := p.miss.or (some (va, k)) }
  | .hit loc _ => f p loc

/-- When the last untracked load under way of a slot that reads a word among n bytes at a location is served. -/
def servedBy (s : State) (slot loc n : Nat) : Nat :=
  let t := thr s slot
  let ids := (t.pend.filter (fun p => match p.op with
    | .load l sz _ _ tracked => !tracked && decide (l / 8 ≤ (loc + n - 1) / 8) && decide (loc / 8 ≤ (l + sizeBytes sz.toNat - 1) / 8)
    | _ => false)).map (·.id)
  s.agenda.foldl (fun m x => match x.2 with
    | .ev (.pendingResultWrite tk id) => if tk = t.task ∧ ids.contains id then max m x.1 else m
    | _ => m) 0

/-- A global load sets out. Untracked loads of one word by one thread are served in their order (R149). -/
def loadIn (slot d loc : Nat) (sz : BitVec 3) (own : List (Option Byte)) (ea : Nat) (tracked : Bool) : Stage := fun s =>
  let least := if tracked then 0 else servedBy s slot loc (sizeBytes sz.toNat)
  [onThr slot (fun t => { t with pend := t.pend ++ [{ id := s.fresh, dests := [d], op := .load loc sz own (BitVec.ofNat 64 ea) tracked }] }),
   .post (max least (s.now + lat s (ctxOf s slot) 0 (loadBound slot loc))) (.ev (.pendingResultWrite (thr s slot).task s.fresh)), .draw 1] ++
  countMoved (thr s slot).kernel (sizeBytes sz.toNat) s

/-- The plan of a global load, tracked or not (R149, R152). -/
def globalLoadPlan (s : State) (mark tracked : Bool) (d b : BitVec 7) (sz : BitVec 3) (ob : Int) : Plan :=
  let sl := s.cur
  let n := sizeBytes sz.toNat
  let c := (thr s sl).chunk
  let p := (regPlan s sl (longDest d) [fw d, fr b]).boundDest s d
  let p := { p with mark := mark }
  match globalOperand (rd64 s sl b.toNat) ob with
  | .error tr => p.own (some tr)
  | .ok ea => globalAt s sl p ea n .read (fun p loc =>
    let r := relOf s sl ea
    let sees := tracked && tracks s sl r
    ({ (p.own (regionLoadTrap ea r)).ownIf s sl (sees && reducedHere c loc n) .illegal with
        sleep := regionWait s ea r } : Plan).does
      [if sees then eff [onChunk sl (fun c => c.addRead loc n (ea / 65536))] else skip,
       loadIn sl d.toNat loc sz (seenBytes s sl ea loc n) ea sees])

/-- LD.G, short form. -/
def planLdG (sb : Bool) (d b : BitVec 7) (sz : BitVec 3) (off : BitVec 7) (s : State) : Plan :=
  globalLoadPlan s sb true d b sz (shortOff sz off)
/-- LD.G. -/
def execLdG (sb : Bool) (d b : BitVec 7) (sz : BitVec 3) (off : BitVec 7) (s : State) :
    Host.Outcome State Fault Refusal := fireC (planLdG sb d b sz off) s

/-- LD.G, long form. -/
def planLdGLong (sb : Bool) (d b : BitVec 7) (sz : BitVec 3) (lit : BitVec 32) (s : State) : Plan :=
  globalLoadPlan s sb true d b sz (longOff lit)
/-- LD.G, long form. -/
def execLdGLong (sb : Bool) (d b : BitVec 7) (sz : BitVec 3) (lit : BitVec 32) (s : State) :
    Host.Outcome State Fault Refusal := fireC (planLdGLong sb d b sz lit) s

/-- LDU.G, short form: untracked (R149). -/
def planLduG (sb : Bool) (d b : BitVec 7) (sz : BitVec 3) (off : BitVec 7) (s : State) : Plan :=
  globalLoadPlan s sb false d b sz (shortOff sz off)
/-- LDU.G. -/
def execLduG (sb : Bool) (d b : BitVec 7) (sz : BitVec 3) (off : BitVec 7) (s : State) :
    Host.Outcome State Fault Refusal := fireC (planLduG sb d b sz off) s

/-- LDU.G, long form. -/
def planLduGLong (sb : Bool) (d b : BitVec 7) (sz : BitVec 3) (lit : BitVec 32) (s : State) : Plan :=
  globalLoadPlan s sb false d b sz (longOff lit)
/-- LDU.G, long form. -/
def execLduGLong (sb : Bool) (d b : BitVec 7) (sz : BitVec 3) (lit : BitVec 32) (s : State) :
    Host.Outcome State Fault Refusal := fireC (planLduGLong sb d b sz lit) s

/-! ## Global stores -/

/-- The plan of a global store (R153); an iteration's store into its own record is an append store. -/
def globalStorePlan (s : State) (mark : Bool) (v b : BitVec 7) (sz : BitVec 3) (ob : Int) : Plan :=
  let sl := s.cur
  let n := sizeBytes sz.toNat
  let bs := bytesOf n (rd s sl v.toNat).toNat
  let p := { (regPlan s sl true [fr v, fr b]).noGuess s sl with mark := mark }
  match globalOperand (rd64 s sl b.toNat) ob with
  | .error tr => p.own (some tr)
  | .ok ea =>
    let r := relOf s sl ea
    globalAt s sl p ea n (if r = .mine then .append else .write) (fun p loc =>
      (p.own (regionStoreTrap s sl ea r)).does
        [if r = .mine then appendStore sl loc ea bs
         else eff [onChunk sl (fun c => c.addStore loc bs (ea / 65536))]])

/-- ST.G, short form. -/
def planStG (sb : Bool) (v b : BitVec 7) (sz : BitVec 3) (off : BitVec 7) (s : State) : Plan :=
  globalStorePlan s sb v b sz (shortOff sz off)
/-- ST.G. -/
def execStG (sb : Bool) (v b : BitVec 7) (sz : BitVec 3) (off : BitVec 7) (s : State) :
    Host.Outcome State Fault Refusal := fireC (planStG sb v b sz off) s

/-- ST.G, long form. -/
def planStGLong (sb : Bool) (v b : BitVec 7) (sz : BitVec 3) (lit : BitVec 32) (s : State) : Plan :=
  globalStorePlan s sb v b sz (longOff lit)
/-- ST.G, long form. -/
def execStGLong (sb : Bool) (v b : BitVec 7) (sz : BitVec 3) (lit : BitVec 32) (s : State) :
    Host.Outcome State Fault Refusal := fireC (planStGLong sb v b sz lit) s

/-! ## LDTR -/

/-- LDTR reads eight rows of 16 bytes as one access and transposes them into the run x(d) to x(d + 7)
(R209). -/
def planLdtr (ls : LS) (d b : BitVec 7) (sz : BitVec 2) (off : BitVec 7) (s : State) : Plan :=
  let sl := s.cur
  let ds := upto d.toNat 8
  let p := regPlan s sl true [outRun d.toNat 8, fr b]
  cPlan ls <| match nearOperand s sl (rd64 s sl b.toNat) (16 * off.toInt) with
  | .error tr => p.own (some tr)
  | .ok (ea, at_) =>
    let ends := match nearAt s sl (ea + 127) with
      | some e => e.loc == at_.loc + 127
      | none => false
    let p := (((p.own (if ends then none else some (nTrap .nearRange ea))).farDest s d at_.remote).own
      (alignTrap ea 16)).own (raceTrap s sl at_.loc ea 128 false)
    if at_.remote then p.does [raceMark sl at_.loc 128 false, sendNear sl at_.loc ea (.ldtr sz) ds true]
    else
      let rows := (upto 0 8).map (fun i => lookBytes s (at_.loc + 16 * i) 16)
      ({ p.at at_.loc 128 with poison := p.poison.or ((nearPoison s at_.loc 128).map (fun c => (c, BitVec.ofNat 64 ea))) } : Plan).does
        (raceMark sl at_.loc 128 false :: nearRead at_.loc 128 ::
          ((transposeRows sz.toNat rows).zipIdx).map (fun x => wr sl (d.toNat + x.2) x.1))
/-- LDTR. -/
def execLdtr (ls : LS) (d b : BitVec 7) (sz : BitVec 2) (off : BitVec 7) (s : State) :
    Host.Outcome State Fault Refusal := fireC (planLdtr ls d b sz off) s

/-! ## Atomics -/

/-- The plan of a near atomic (R157, R159): a chunk point, GUESS in a speculative iteration,
DETERMINISM on a scratchpad word in a DETERM launch. -/
def nearAtomPlan (s : State) (p : Plan) (d a : BitVec 7) (op : Nat) (x cmp : Dword) : Plan :=
  let sl := s.cur
  let p := { p.noSpec s sl with point := true }
  match nearOperand s sl (rd64 s sl a.toNat) 0 with
  | .error tr => p.own (some tr)
  | .ok (ea, at_) =>
    let p := ((p.ownIf s sl (locScratch at_.loc && determ s sl) .determinism).farDest s d at_.remote).own (alignTrap ea 8)
    if at_.remote then p.does [sendNear sl at_.loc ea (.atom op x cmp) [d.toNat] true]
    else match nearStep s at_.loc (.atom op x cmp) with
      | some (st, vs) =>
        ({ p.at at_.loc 8 with poison := p.poison.or ((nearPoison s at_.loc 8).map (fun c => (c, BitVec.ofNat 64 ea))) } : Plan).does
          (st ++ [wr sl d.toNat (vs.headD 0)])
      | none => p

/-- ATOM.N (R157). -/
def planAtomN (ls : LS) (d a b : BitVec 7) (op : BitVec 3) (s : State) : Plan :=
  cPlan ls (nearAtomPlan s (regPlan s s.cur (Instr.atomN ls d a b op).wf [fw d, fr a, fr b]) d a op.toNat
    (rd64 s s.cur b.toNat) 0)
/-- ATOM.N. -/
def execAtomN (ls : LS) (d a b : BitVec 7) (op : BitVec 3) (s : State) :
    Host.Outcome State Fault Refusal := fireC (planAtomN ls d a b op) s

/-- CAS near (R157): d is read and written. -/
def planCasN (ls : LS) (d a b : BitVec 7) (s : State) : Plan :=
  cPlan ls (nearAtomPlan s (regPlan s s.cur true [fx d, fr a, fr b]) d a 7
    (rd64 s s.cur b.toNat) (rd64 s s.cur d.toNat))
/-- CAS near. -/
def execCasN (ls : LS) (d a b : BitVec 7) (s : State) : Host.Outcome State Fault Refusal :=
  fireC (planCasN ls d a b) s

/-- A global atomic sets out for its owning slice; its own chunk follows the commit of the one before
it (R157). -/
def sendAtom (slot d loc op : Nat) (x cmp va : Dword) : Stage := fun s =>
  [onThr slot (fun t => { t with pend := t.pend ++ [{ id := s.fresh, dests := [d], op := .atom loc op x cmp va }] }),
   .post (s.now + lat s (ctxOf s slot) 0 (if locDie loc = dieOf slot then 300 else 700))
     (.ev (.globalAtomicExecute (thr s slot).task s.fresh)), .draw 1]

/-- The plan of a global atomic (R157, R159). -/
def globalAtomPlan (s : State) (p : Plan) (d a : BitVec 7) (op : Nat) (x cmp : Dword) : Plan :=
  let sl := s.cur
  let p := { (p.noSpec s sl).noDeterm s sl with point := true }
  match globalOperand (rd64 s sl a.toNat) 0 with
  | .error tr => p.own (some tr)
  | .ok ea => globalAt s sl p ea 8 .atomic (fun p loc => p.does [sendAtom sl d.toNat loc op x cmp (BitVec.ofNat 64 ea)])

/-- ATOM.G (R157). -/
def planAtomG (ls : LS) (d a b : BitVec 7) (op : BitVec 3) (s : State) : Plan :=
  cPlan ls (globalAtomPlan s (regPlan s s.cur (Instr.atomG ls d a b op).wf [fw d, fr a, fr b]) d a op.toNat
    (rd64 s s.cur b.toNat) 0)
/-- ATOM.G. -/
def execAtomG (ls : LS) (d a b : BitVec 7) (op : BitVec 3) (s : State) :
    Host.Outcome State Fault Refusal := fireC (planAtomG ls d a b op) s

/-- CAS global (R157). -/
def planCasG (ls : LS) (d a b : BitVec 7) (s : State) : Plan :=
  cPlan ls (globalAtomPlan s (regPlan s s.cur (longDest d) [fx d, fr a, fr b]) d a 7
    (rd64 s s.cur b.toNat) (rd64 s s.cur d.toNat))
/-- CAS global. -/
def execCasG (ls : LS) (d a b : BitVec 7) (s : State) : Host.Outcome State Fault Refusal :=
  fireC (planCasG ls d a b) s

/-- A RED enters the reduce signature and the buffer, and counts as one store (R141, R158). -/
def Chunk.addRed (c : Chunk) (loc op : Nat) (v : Dword) (page : Nat) : Chunk :=
  { c with st := if c.st = .opened then .buffering else c.st
           nst := c.nst + 1
           buf := c.buf ++ [.red loc op v]
           reds := setAdd c.reds (loc / 8)
           pages := setAdd c.pages page }

/-- RED.G buffers a reduction that its chunk's commit applies (R158); into a region, PERM (R285). -/
def planRedG (ls : LS) (a b : BitVec 7) (op : BitVec 3) (s : State) : Plan :=
  let sl := s.cur
  let p := (regPlan s sl (Instr.redG ls a b op).wf [fr a, fr b]).noGuess s sl
  cPlan ls <| match globalOperand (rd64 s sl a.toNat) 0 with
  | .error tr => p.own (some tr)
  | .ok ea => globalAt s sl p ea 8 .write (fun p loc =>
    (p.own (if (loopRegion s sl ea).isSome || ((kvRegion s sl ea).isSome && (iterOf s sl).isSome)
      then some (nTrap .perm ea) else none)).does
      [eff [onChunk sl (fun c => c.addRed loc op.toNat (rd64 s sl b.toNat) (ea / 65536))]])
/-- RED.G. -/
def execRedG (ls : LS) (a b : BitVec 7) (op : BitVec 3) (s : State) :
    Host.Outcome State Fault Refusal := fireC (planRedG ls a b op) s

/-! ## The atomic at its slice, and results -/

/-- The pending record of a task. -/
def pendOf (s : State) (task id : Nat) : Option Pend :=
  (taskThr? s task).bind (fun t => t.pend.find? (fun p => p.id == id))

/-- A global atomic executes as a chunk of its own (R157), once no held chunk of another slot has its
word reserved (R148), its task's floors let it (R268), and the thread's earlier atomics have executed (R146). Of a poisoned line
nothing is changed before the slot is contained (R357). -/
def atomExecute (task id : Nat) : Stage := pick (fun s =>
  match pendOf s task id, (task? s task) with
  | some p, some tk =>
    (match p.op with
     | .atom loc op x cmp va =>
       let bound := loadBound (tk.slot.getD ((tk.image.map (·.home)).getD 0)) loc
       let c := (kernel s tk.kernel).ctx
       let earlier := ((taskThr? s task).map (fun t => (t.pend.takeWhile (fun q => q.id != id)).any atomOut)).getD false
       let held := match tabGet s.o.resv (loc / 8) with
         | some o => some o != tk.slot
         | none => false
       let gated := match tk.slot with
         | some sl => !(gates s sl).all (fun f => decide ((thr s sl).chunk.ts ≤ f))
         | none => false
       if held || gated || earlier then [fun s => [.post (s.now + 8) (.ev (.globalAtomicExecute task id))]]
       else
         linesRead loc 8 ++
         [pick (fun s => match poisonIn s loc 8 with
           | some cls => [fun s => answerBad task id cls (lineVa va.toNat) (lat s c 0 bound) s ++ [.draw 1], kick]
           | none =>
             [fun s =>
               let w := memWord s.mem loc
               let new := if op = 7 then (if w = cmp then x else w) else atomOp op w x
               [.store loc (bytesOf 8 new.toNat), .commit [loc / 8]] ++
               answer task id [ext64 w] (lat s c 0 bound) s ++ [.draw 1],
              mirrorFor task [(loc, 8)], countMoved tk.kernel 8, wakeCounters, kick])]
     | _ => [])
  | _, _ => [])

/-- GLOBAL_ATOMIC_EXECUTE (R157). -/
def execGlobalAtomicExecute (task op : Nat) (s : State) : Host.Outcome State Fault Refusal :=
  fire [atomExecute task op] s

/-- Writes the results of a long instruction into the current window and, for a committed chunk, its
shadow; a hearth or stream destination by its own rule (R71, R103, R106, R124, R147). -/
def writeResults (task : Nat) (p : Pend) (vs : List Word) : Stage := fun s =>
  (p.dests.zip vs).flatMap (fun x =>
    match (task? s task).bind (·.slot) with
    | some sl =>
      if 112 ≤ x.1 || ((thr s sl).arch.strm x.1).isSome then wr sl x.1 x.2 s
      else if p.committed then [onThr sl (setBoth x.1 x.2)]
      else if fieldReg x.1 then [onArch sl (fun a => a.setReg x.1 x.2)] else []
    | none => [onTaskThr task (owes p.committed x.1 x.2)])

/-- Flags of a result that arrives (R41, R42, R185). -/
def addFlags (task : Nat) (committed : Bool) (fl : BitVec 5) : Stage :=
  if fl = 0 then skip else eff [onTaskThr task (fun t =>
    { t with
      arch := { t.arch with fxflags := t.arch.fxflags ||| fl }
      start := if committed then { t.start with fxflags := t.start.fxflags ||| fl } else t.start
      raised := t.raised ||| (fl &&& t.fxmask)
      late := t.late || (fl &&& t.fxmask) != 0 })]

/-- The result of a long instruction arrives: registers, a predicate and flags are written together, and
the record goes (R42, R71, R147, R252). -/
def resultArrives (task id : Nat) : Stage := pick (fun s =>
  match pendOf s task id with
  | none => []
  | some p =>
    let slot := (task? s task).bind (·.slot)
    let gone : Stage := eff [onTaskThr task (fun t => { t with pend := t.pend.filter (fun q => q.id != id) })]
    let after : Stage := match slot with
      | some sl => settle sl
      | none => skip
    match p.op with
    | .value vs k fl =>
      [writeResults task p vs,
       (match p.pred, k with
        | some n, some v => eff [onTaskThr task (fun t => { t with
            arch := t.arch.setPred n v, start := if p.committed then t.start.setPred n v else t.start })]
        | _, _ => skip),
       addFlags task p.committed fl, gone, after]
    | .load loc sz own va _ =>
      let n := sizeBytes sz.toNat
      let reads := (own.take n).length < n || own.contains none
      linesRead loc (if reads then n else 0) ++
      [pick (fun s => match (if reads then poisonIn s loc n else none) with
        | some c => [gone, consume task c (lineVa va.toNat)]
        | none =>
          let v := loadValue sz.toNat (overlay own (lookBytes s loc n))
          [writeResults task p [v], eff [onTaskThr task (leaderTakes [v])], gone, after])]
    | .bad c info => [gone, consume task c info]
    | .plane un k n dst src scale round old =>
      (match slot with
       | none => []
       | some sl =>
         match planeDone s sl un k n dst src scale round old with
         | .error c => [gone, consume task c (BitVec.ofNat 64 (ptrAddr src))]
         | .ok (loc, bs, fl) =>
           [planeReads sl un k n dst src scale, nearRead loc bs.length, (fun s => storeMarked s loc bs), writeResults task p [wd bs.length], addFlags task p.committed fl, gone, after])
    | .penal ea first count pfreq ppres hist =>
      (match slot.bind (fun sl => nearOwn s sl ea (4 * count)) with
       | none => []
       | some loc =>
         match nearPoison s loc (4 * count) with
         | some c => [gone, consume task c (BitVec.ofNat 64 ea)]
         | none =>
           let r := penalRun first pfreq ppres hist (words32 (lookBytes s loc (4 * count)))
           [nearRead loc (4 * count), (fun s => storeMarked s loc (r.1.flatMap (bytesOf 4))), writeResults task p [wd r.2.2],
            addFlags task p.committed r.2.1, gone, after])
    | _ => [])

/-- PENDING_RESULT_WRITE (R71). -/
def execPendingResultWrite (task op : Nat) (s : State) : Host.Outcome State Fault Refusal :=
  fire [resultArrives task op] s

end Sys2Proof.Machine
end

