-- ==== Sys2Proof/Machine/Sync.lean ====
section
/-!
DEFINITION. Sync: full/empty words (R154, R155), channels (R225, R226), fences and CHUNK (R160, R161),
barriers (R216 to R222), MSEND (R92), nest counters (R251 to R253), and the arrival of requests at other
quads and at die barriers (R140, R218, R219).
-/

namespace Sys2Proof.Machine

open Sys2Proof

/-! ## Full/empty words -/

/-- The scratchpad word that an FE or CH instruction names; TCM is NEAR-RANGE (R154, R225). -/
def wordOperand (s : State) (slot : Nat) (v : Dword) : Except Trap (Nat × NearAt) :=
  match nearOperand s slot v 0 with
  | .error tr => .error tr
  | .ok (ea, at_) => if locScratch at_.loc then .ok (ea, at_) else .error (nTrap .nearRange ea)

/-- The plan of an FE instruction (R154, R155): `kind` 0 TAKE, 1 PUT, 2 PEEK, 3 FESET, 4 FEQ. Granted
after a sleep, it completes with what it was granted. -/
def fePlan (s : State) (p : Plan) (d : Option (BitVec 7)) (a : BitVec 7) (kind : Nat) (v : Dword) : Plan :=
  let sl := s.cur
  let t := thr s sl
  let p := { p.noSpec s sl with point := true }
  let put := fun (w : Word) => match d with
    | some d => wr sl d.toNat w
    | none => skip
  match wordOperand s sl (rd64 s sl a.toNat) with
  | .error tr => p.own (some tr)
  | .ok (ea, at_) =>
    let p := match d with
      | some d => p.farDest s d at_.remote
      | none => p
    let p := p.own (alignTrap ea 8)
    let p := if at_.remote || !((kind == 0 || kind == 2) && (t.grant.isSome || isFull s at_.loc)) then p else
      { p with poison := p.poison.or ((nearPoison s at_.loc 8).map (fun c => (c, BitVec.ofNat 64 ea))) }
    if at_.remote then
      p.does [sendNear sl at_.loc ea (.fe kind v) ((d.map (fun x => [x.toNat])).getD []) d.isSome]
    else
    let p := p.at at_.loc 8
    match t.grant with
      | some g => p.does [put g]
      | none =>
        match nearStep s at_.loc (.fe kind v) with
        | some (st, vs) => p.does (st ++ [put (vs.headD 0)])
        | none => { p with
            sleep := some (.word at_.loc)
            first := [joinQueue { loc := at_.loc, kind := kind, slot := sl, req := none, value := v, chan := none }] }

/-- TAKE (R154). -/
def planTake (ls : LS) (d a : BitVec 7) (s : State) : Plan :=
  cPlan ls (fePlan s (regPlan s s.cur true [fw d, fr a]) (some d) a 0 0)
/-- TAKE. -/
def execTake (ls : LS) (d a : BitVec 7) (s : State) : Host.Outcome State Fault Refusal := fireC (planTake ls d a) s

/-- PUT (R154). -/
def planPut (ls : LS) (a b : BitVec 7) (s : State) : Plan :=
  cPlan ls (fePlan s (regPlan s s.cur true [fr a, fr b]) none a 1 (rd64 s s.cur b.toNat))
/-- PUT. -/
def execPut (ls : LS) (a b : BitVec 7) (s : State) : Host.Outcome State Fault Refusal := fireC (planPut ls a b) s

/-- PEEK (R154). -/
def planPeek (ls : LS) (d a : BitVec 7) (s : State) : Plan :=
  cPlan ls (fePlan s (regPlan s s.cur true [fw d, fr a]) (some d) a 2 0)
/-- PEEK. -/
def execPeek (ls : LS) (d a : BitVec 7) (s : State) : Host.Outcome State Fault Refusal := fireC (planPeek ls d a) s

/-- FESET (R154). -/
def planFeset (ls : LS) (a : BitVec 7) (f : BitVec 1) (s : State) : Plan :=
  cPlan ls (fePlan s (regPlan s s.cur true [fr a]) none a 3 (f.setWidth 64))
/-- FESET. -/
def execFeset (ls : LS) (a : BitVec 7) (f : BitVec 1) (s : State) : Host.Outcome State Fault Refusal :=
  fireC (planFeset ls a f) s

/-- FEQ (R154). -/
def planFeq (ls : LS) (d a : BitVec 7) (s : State) : Plan :=
  cPlan ls (fePlan s (regPlan s s.cur true [fw d, fr a]) (some d) a 4 0)
/-- FEQ. -/
def execFeq (ls : LS) (d a : BitVec 7) (s : State) : Host.Outcome State Fault Refusal := fireC (planFeq ls d a) s

/-! ## Channels -/

/-- The request that a granted value stands for, where CHRECV waits in another quad's queue (R225). -/
def waitsRemote (g : Word) : Option Nat := if g.getLsbD 127 then some (g.toNat - 2 ^ 127) else none

/-- The plan of a CH instruction (R225, R226): `kind` 0 CHBIND, 1 CHSEND, 2 CHRECV, 3 CHCLOSE; `extra`
are its own checks after ALIGN, from the ring's address. -/
def chPlan (s : State) (p : Plan) (d : Option (BitVec 7)) (a : BitVec 7) (kind : Nat) (v : Word)
    (extra : Nat → Option Trap) : Plan :=
  let sl := s.cur
  let t := thr s sl
  let p := { p.noSpec s sl with point := true }
  let put := fun (w : Word) => match d with
    | some d => wr sl d.toNat w
    | none => skip
  match wordOperand s sl (rd64 s sl a.toNat) with
  | .error tr => p.own (some tr)
  | .ok (ea, at_) =>
    let p := match d with
      | some d => p.farDest s d at_.remote
      | none => p
    let p := (p.own (alignTrap ea 8)).own (extra ea)
    let bad : Option (Nat × Nat) := if at_.remote || kind != 2 then none else match t.grant with
      | none => chanPoison s at_.loc false
      | some g => if g.getLsbD 64 then chanPoison s at_.loc true else none
    let p : Plan := { p with poison := p.poison.or (bad.map (fun x => (x.1, BitVec.ofNat 64 (ea + 8 * x.2)))) }
    match t.grant with
    | some g =>
      (match waitsRemote g with
       | some id => p.does [eff [onThr sl (fun t => { t with pend := t.pend ++
           [{ id := id, dests := (d.map (fun x => [x.toNat])).getD [] }] })]]
       | none => p.does [put g])
    | none =>
      if at_.remote then
        { p with sleep := some .reply, first := [sendNear sl at_.loc ea (.chan kind v) [] true] }
      else
        let w : Waiter := { loc := at_.loc, kind := kind, slot := sl, req := none, value := 0, chan := none }
        let p := p.at at_.loc 8
        match chanStep s at_.loc kind t.task t.kernel v w with
        | .trap => p.own (some (nTrap .channel ea))
        | .done st x => p.does (st ++ [put x])
        | .wait w => { p with sleep := some (.word w.loc), first := [joinQueue w] }

/-- CHBIND's checks of its control word and of the ring's end (R225). -/
def chbindTrap (s : State) (slot : Nat) (v : Word) (ea : Nat) : Option Trap :=
  let q := (nearAt s slot ea).map (fun p => locQuad p.loc)
  let n := bits v 12 0
  if bits v 127 17 ≠ 0 ∨ bits v 15 13 ≠ 0 ∨ n < 2 ∨ 4096 < n then some (bTrap s slot .illegal)
  else match nearAt s slot (ea + 8 * n - 8) with
    | some e => if locScratch e.loc && some (locQuad e.loc) == q then none else some (nTrap .nearRange ea)
    | none => some (nTrap .nearRange ea)

/-- CHBIND binds the thread as writer or reader of a ring (R224, R225). -/
def planChbind (ls : LS) (a b : BitVec 7) (s : State) : Plan :=
  let v := rd s s.cur b.toNat
  cPlan ls (chPlan s (regPlan s s.cur true [fr a, fr b]) none a 0 v (chbindTrap s s.cur v))
/-- CHBIND. -/
def execChbind (ls : LS) (a b : BitVec 7) (s : State) : Host.Outcome State Fault Refusal :=
  fireC (planChbind ls a b) s

/-- CHSEND (R226). -/
def planChsend (ls : LS) (a b : BitVec 7) (s : State) : Plan :=
  cPlan ls (chPlan s (regPlan s s.cur true [fr a, fr b]) none a 1 (rd s s.cur b.toNat) (fun _ => none))
/-- CHSEND. -/
def execChsend (ls : LS) (a b : BitVec 7) (s : State) : Host.Outcome State Fault Refusal :=
  fireC (planChsend ls a b) s

/-- CHRECV (R226). -/
def planChrecv (ls : LS) (d a : BitVec 7) (s : State) : Plan :=
  cPlan ls (chPlan s (regPlan s s.cur true [fw d, fr a]) (some d) a 2 0 (fun _ => none))
/-- CHRECV. -/
def execChrecv (ls : LS) (d a : BitVec 7) (s : State) : Host.Outcome State Fault Refusal :=
  fireC (planChrecv ls d a) s

/-- CHCLOSE (R224, R226). -/
def planChclose (ls : LS) (a : BitVec 7) (s : State) : Plan :=
  cPlan ls (chPlan s (regPlan s s.cur true [fr a]) none a 3 0 (fun _ => none))
/-- CHCLOSE. -/
def execChclose (ls : LS) (a : BitVec 7) (s : State) : Host.Outcome State Fault Refusal :=
  fireC (planChclose ls a) s

/-! ## Fences and CHUNK -/

/-- The plan of a fence: the chunk ends, and the next bundle waits for the fence's condition (R160). -/
def fencePlan (ls : LS) (k : Nat) : Plan := cPlan ls { ends := true, after := .fence k }

/-- FENCE.NEAR (R160). -/
def planFenceNear (ls : LS) (_s : State) : Plan := fencePlan ls 0
/-- FENCE.NEAR. -/
def execFenceNear (ls : LS) (s : State) : Host.Outcome State Fault Refusal := fireC (planFenceNear ls) s
/-- FENCE.GLOBAL (R160). -/
def planFenceGlobal (ls : LS) (_s : State) : Plan := fencePlan ls 1
/-- FENCE.GLOBAL. -/
def execFenceGlobal (ls : LS) (s : State) : Host.Outcome State Fault Refusal := fireC (planFenceGlobal ls) s
/-- FENCE.ENGINE (R160). -/
def planFenceEngine (ls : LS) (_s : State) : Plan := fencePlan ls 2
/-- FENCE.ENGINE. -/
def execFenceEngine (ls : LS) (s : State) : Host.Outcome State Fault Refusal := fireC (planFenceEngine ls) s
/-- FENCE.MIRROR (R160). -/
def planFenceMirror (ls : LS) (_s : State) : Plan := fencePlan ls 3
/-- FENCE.MIRROR. -/
def execFenceMirror (ls : LS) (s : State) : Host.Outcome State Fault Refusal := fireC (planFenceMirror ls) s
/-- FENCE.SYSTEM: the conditions of NEAR, GLOBAL and MIRROR (R160). -/
def planFenceSystem (ls : LS) (_s : State) : Plan := fencePlan ls 4
/-- FENCE.SYSTEM. -/
def execFenceSystem (ls : LS) (s : State) : Host.Outcome State Fault Refusal := fireC (planFenceSystem ls) s

/-- CHUNK ends the current chunk (R161). -/
def planChunk (ls : LS) (_s : State) : Plan := cPlan ls { ends := true }
/-- CHUNK. -/
def execChunk (ls : LS) (s : State) : Host.Outcome State Fault Refusal := fireC (planChunk ls) s

/-! ## Barriers -/

/-- Where the barrier of a name is kept for a slot: its group, or the slot's die (R216). -/
def barHome (s : State) (slot n : Nat) : Nat := if n < 16 then (taskOf s slot).g else dieOf slot

/-- The barrier that a name means for a slot. -/
def barAt (s : State) (slot n : Nat) : Bar := barOf s (thr s slot).kernel (barHome s slot n) n

/-- Has the launch declared the barrier (R216)? -/
def barDeclared (s : State) (slot n : Nat) : Bool :=
  if n < 16 then decide (n < (recOf s slot).qbar) else decide (n - 16 < (recOf s slot).dbar)

/-- The plan that BAR's minors share (R221): the bundle ends the chunk. -/
def barPlan (s : State) (n : BitVec 5) (arrives : Bool) (fs : List Field) (own : Option Trap) : Plan :=
  let sl := s.cur
  let ok := barDeclared s sl n.toNat && (!arrives || decide ((barAt s sl n.toNat).p ≠ 0))
  { ((regPlan s sl ok fs).own own).noSpec s sl with ends := true }

/-- The chunk takes a barrier operation along: it takes effect at the commit (R218). -/
def withBar (slot n : Nat) (k : BarKind) : Stage := eff [onChunk slot (fun c => { c with bar := some (n, k) })]

/-- BAR.ARRIVE (R222). -/
def planBarArrive (ls : LS) (d : BitVec 7) (n : BitVec 5) (s : State) : Plan :=
  cPlan ls ((barPlan s n true [fw d] none).does [withBar s.cur n.toNat (.arrive d.toNat)])
/-- BAR.ARRIVE. -/
def execBarArrive (ls : LS) (d : BitVec 7) (n : BitVec 5) (s : State) : Host.Outcome State Fault Refusal :=
  fireC (planBarArrive ls d n) s

/-- BAR.WAIT completes on a late token or in another phase, else sleeps until PHASE changes (R222). -/
def planBarWait (ls : LS) (a : BitVec 7) (n : BitVec 5) (s : State) : Plan :=
  let sl := s.cur
  let t := rd s sl a.toNat
  let ph := (barAt s sl n.toNat).phase
  let home := barHome s sl n.toNat
  let go := (thr s sl).grant.isSome || t.getLsbD 16 || decide (ph ≠ bits t 15 0)
  cPlan ls { barPlan s n false [fr a] none with
    sleep := if go then none else some (.barrier home n.toNat ph)
    first := [eff [onBar (thr s sl).kernel home n.toNat (fun b => { b with waiters := b.waiters ++ [⟨(thr s sl).task, .wait⟩] })]] }
/-- BAR.WAIT. -/
def execBarWait (ls : LS) (a : BitVec 7) (n : BitVec 5) (s : State) : Host.Outcome State Fault Refusal :=
  fireC (planBarWait ls a n) s

/-- BAR.SYNC arrives, then waits on its own token (R222). -/
def planBarSync (ls : LS) (n : BitVec 5) (s : State) : Plan :=
  cPlan ls ((barPlan s n true [] none).does [withBar s.cur n.toNat .sync])
/-- BAR.SYNC. -/
def execBarSync (ls : LS) (n : BitVec 5) (s : State) : Host.Outcome State Fault Refusal :=
  fireC (planBarSync ls n) s

/-- BAR.WAITD arrives with a deadline (R222). -/
def planBarWaitd (ls : LS) (d a : BitVec 7) (n : BitVec 5) (s : State) : Plan :=
  let sl := s.cur
  cPlan ls (((barPlan s n true [fw d, fr a] none).noDeterm s sl).does
    [withBar sl n.toNat (.waitd d.toNat (rd64 s sl a.toNat).toNat)])
/-- BAR.WAITD. -/
def execBarWaitd (ls : LS) (d a : BitVec 7) (n : BitVec 5) (s : State) : Host.Outcome State Fault Refusal :=
  fireC (planBarWaitd ls d a n) s

/-- BAR.INIT sets the participant count (R221, R222). -/
def planBarInit (ls : LS) (a : BitVec 7) (n : BitVec 5) (s : State) : Plan :=
  let sl := s.cur
  let v := (rd64 s sl a.toNat).toNat
  let top := if n.toNat < 16 then 256 else 36864
  cPlan ls ((barPlan s n false [fr a] (if v = 0 ∨ top < v then some (bTrap s sl .illegal) else none)).does
    [withBar sl n.toNat (.init v)])
/-- BAR.INIT. -/
def execBarInit (ls : LS) (a : BitVec 7) (n : BitVec 5) (s : State) : Host.Outcome State Fault Refusal :=
  fireC (planBarInit ls a n) s

/-! ## MSEND -/

/-- MSEND writes a 16-byte mailbox and may set a latch (R92). -/
def planMsend (ls : LS) (d a b : BitVec 7) (s : State) : Plan :=
  let sl := s.cur
  let v := rd64 s sl a.toNat
  let box := bits v 31 0
  let target := bits v 49 32
  let sig := v.getLsbD 63
  let p := { (regPlan s sl (longDest d) [fw d, fr a, fr b]).noGuess s sl with point := true, irrev := true }
  let range := some (nTrap .nearRange box)
  cPlan ls <| match nearAt s sl box with
  | none => p.own range
  | some at_ =>
    if !locScratch at_.loc then p.own range
    else ((p.own (alignTrap box 16)).own (if sig && addrOutside s sl target then some ⟨.perm, v⟩ else none)).does
      [sendNear sl at_.loc box (.msend (rd s sl b.toNat) (if sig then some target else none)) [d.toNat] true]
/-- MSEND. -/
def execMsend (ls : LS) (d a b : BitVec 7) (s : State) : Host.Outcome State Fault Refusal :=
  fireC (planMsend ls d a b) s

/-! ## Nest counters -/

/-- NEST opens a counter at its chunk's commit (R251). -/
def planNest (ls : LS) (n : BitVec 2) (a b : BitVec 7) (s : State) : Plan :=
  let sl := s.cur
  let v := rd64 s sl a.toNat
  let p := (rd64 s sl b.toNat).toNat
  let r : NestReq := { n := n.toNat, e0 := bits v 20 0, e1 := bits v 41 21, e2 := bits v 62 42, p := p }
  let bad := r.e0 = 0 ∨ (r.e2 ≠ 0 ∧ r.e1 = 0) ∨ v.getLsbD 63 ∨ p = 0 ∨ 256 < p
  cPlan ls (((regPlan s sl true [fr a, fr b]).own (if bad then some (bTrap s sl .illegal) else none)).does
    [eff [onChunk sl (fun c => { c with nests := c.nests ++ [r] })]])
/-- NEST. -/
def execNest (ls : LS) (n : BitVec 2) (a b : BitVec 7) (s : State) : Host.Outcome State Fault Refusal :=
  fireC (planNest ls n a b) s

/-- The depth of a counter (R251). -/
def nestDepth (e1 e2 : Nat) : Nat := if e1 = 0 then 1 else if e2 = 0 then 2 else 3

/-- The registers that NEXT writes for a claim: the indices i0, i1 and i2 of u, as many as the depth, and c (R252). -/
def claimRegs (c : Claim) : List Nat :=
  let i0 := c.u % c.e0
  match nestDepth c.e1 c.e2 with
  | 1 => [i0, c.c]
  | 2 => [i0, c.u / c.e0 % c.e1, c.c]
  | _ => [i0, c.u / c.e0 % c.e1, c.u / (c.e0 * c.e1), c.c]

/-- A new claim from a counter (R252). -/
def newClaim (n : Nat) (x : Nest) : Claim :=
  if x.opened && x.remaining != 0 then
    { n := n, u := x.next, c := (x.remaining + 2 * x.p - 1) / (2 * x.p), e0 := x.e0, e1 := x.e1, e2 := x.e2 }
  else if x.opened then { n := n, u := 0, c := 0, e0 := x.e0, e1 := x.e1, e2 := x.e2 }
  else { n := n, u := 0, c := 0, e0 := 0, e1 := 0, e2 := 0 }

/-- NEXT claims a run, or returns a claim that the slot has kept (R252, R253). -/
def planNext (ls : LS) (d : BitVec 7) (n : BitVec 2) (k : BitVec 3) (s : State) : Plan :=
  let sl := s.cur
  let t := thr s sl
  let g := (taskOf s sl).g
  let x := ((group? s t.kernel g).map (fun y => tabD y.nests n.toNat {})).getD {}
  let keptOne := decide (t.used < t.claims.length)
  let c := if keptOne then t.claims.getD t.used ⟨n.toNat, 0, 0, 0, 0, 0⟩ else newClaim n.toNat x
  let vs := claimRegs c
  let ds := upto d.toNat vs.length
  let p := regPlan s sl (longDest d) [outRun d.toNat vs.length, outPred k]
  let full := !keptOne && c.c != 0 && decide (16 ≤ t.claims.length)
  let take : Stage :=
    if keptOne then eff [onThr sl (fun t => { t with used := t.used + 1 })]
    else if c.c = 0 then skip
    else eff [onThr sl (fun t => { t with claims := t.claims ++ [c], used := t.used + 1 }),
      onGroup t.kernel g (fun y => { y with nests := tabMod y.nests n.toNat {} (fun z =>
        { z with next := z.next + c.c, remaining := z.remaining - c.c }) })]
  cPlan ls (((p.noSpec s sl).ownIf s sl full .illegal).does
    [take, pendIn sl ds (if k = 0 then none else some k.toNat)
      (.value (vs.map wd) (some (allBits (c.c != 0))) 0) 96])
/-- NEXT. -/
def execNext (ls : LS) (d : BitVec 7) (n : BitVec 2) (k : BitVec 3) (s : State) : Host.Outcome State Fault Refusal :=
  fireC (planNext ls d n k) s

/-! ## Arrivals -/

/-- The bytes of near memory whose values a request takes. -/
def NearOp.reads : NearOp → Nat
  | .load sz => sizeBytes sz.toNat
  | .ldtr _ => 128
  | .fe 0 _ => 8
  | .fe 2 _ => 8
  | .atom _ _ _ => 8
  | _ => 0

/-- Does a request find its word in the wrong state, so that it reads nothing yet (R155)? -/
def waits (s : State) (loc : Nat) (op : NearOp) : Bool := (nearStep s loc op).isNone

/-- A channel request at its ring's quad: refused, done, or waiting in a word's queue; its slot issues on
(R225). One that pre-emption withdrew from the queue keeps its acceptance (R95, log 33). -/
def chanArrives (req : Nat) (r : NearReq) (kind : Nat) (v : Word) : Stage := pick (fun s =>
  let gone : Eff := .obj (fun o => { o with near := tabDel o.near req })
  let waits : Stage := eff [.obj (fun o => { o with near := tabUpd o.near req (fun r => { r with waiting := true }) })]
  let w : Waiter := { loc := r.loc, kind := kind, slot := r.slot, req := some req, value := 0, chan := none }
  match chanStep s r.loc kind r.task r.kernel v w with
  | .trap => if r.again then [joinQueue { w with kind := kind + 2, value := lo64 v, chan := some r.loc }, waits]
    else [eff [gone, onTaskThr r.task (fun t => { t with fault := some ⟨.channel, r.va⟩ })]]
  | .done st x =>
    match (if kind = 2 then chanPoison s r.loc false else none) with
    | some c => st ++ [eff [gone], consume r.task c.1 (r.va + BitVec.ofNat 64 (8 * c.2))]
    | none => st ++ [if r.again then replyNear req x none else eff [gone, onTaskThr r.task (fun t => { t with grant := some x })]]
  | .wait w =>
    [joinQueue w, waits, if r.again then skip else
      eff [onTaskThr r.task (fun t => { t with grant := some (if kind = 2 then wd (2 ^ 127 + req) else 0) })]])

/-- A request arrives at its quad and takes effect there, or waits in its word's queue (R140, R155). -/
def nearArrives (req : Nat) : Stage := pick (fun s =>
  match tabGet s.o.near req with
  | none => []
  | some r =>
    if r.waiting then [] else
    match r.op with
    | .chan kind v => [chanArrives req r kind v]
    | op =>
      let n := op.reads
      match (if n = 0 || waits s r.loc op then none else nearPoison s r.loc n) with
      | some c => [replyBad req c]
      | none =>
        match nearStep s r.loc op, op with
        | some (st, vs), .ldtr _ =>
          st ++ [(fun s => [.obj (fun o => { o with near := tabDel o.near req })] ++
            (match r.pend with
             | some p => answer r.task p vs (wayBack s r) s
             | none => []) ++ [.draw 2] : Stage)]
        | some (st, vs), _ => st ++ [replyNear req (vs.headD 0) none]
        | none, .fe kind v =>
          [joinQueue { loc := r.loc, kind := kind, slot := r.slot, req := some req, value := v, chan := none },
           eff [.obj (fun o => { o with near := tabUpd o.near req (fun r => { r with waiting := true }) })]]
        | none, _ => [])

/-- REMOTE_NEAR_ARRIVAL (R140). -/
def execRemoteNearArrival (req : Nat) (s : State) : Host.Outcome State Fault Refusal := fire [nearArrives req] s

/-- An arrival or INIT reaches a die barrier; those of one cycle are taken in slot order (R218, R219). -/
def dieArrives (req : Nat) : Stage := pick (fun s =>
  match tabGet s.o.barSends req with
  | none => []
  | some r =>
    let earlier := s.agenda.any (fun x => decide (x.1 ≤ s.now) && match x.2 with
      | .ev (.dieBarrierArrival q) => (match tabGet s.o.barSends q with
        | some y => y.kernel == r.kernel && y.die == r.die && y.bar == r.bar && decide (y.slot < r.slot)
        | none => false)
      | _ => false)
    if earlier then [fun s => [.post s.now (.ev (.dieBarrierArrival req))]]
    else [eff [.obj (fun o => { o with barSends := tabDel o.barSends req })],
      barEffect r.kernel r.die r.bar r.task r.kind])

/-- DIE_BARRIER_ARRIVAL (R218). -/
def execDieBarrierArrival (req : Nat) (s : State) : Host.Outcome State Fault Refusal := fire [dieArrives req] s

/-- A barrier's deadline passes with C < P: the phase closes, and P − C arrivals are owed. The arrivals of
that cycle have come first (R219). -/
def deadline (k home n : Nat) : Stage := pick (fun s =>
  let b := barOf s k home n
  match b.dl with
  | some x =>
    if s.now < x + s.o.mod.zero ∨ b.p ≤ b.c then []
    else [barComplete k home n false (b.p - b.c)]
  | none => [])

/-- BARRIER_DEADLINE (R219). -/
def execBarrierDeadline (k home bar : Nat) (s : State) : Host.Outcome State Fault Refusal :=
  fire [deadline k home bar] s

/-- The near address of a scratchpad word in its slot's own-quad window (R137). -/
def ownAddress (s : State) (slot loc : Nat) : Nat :=
  0x100000 + (locOff loc - ((group? s (thr s slot).kernel (taskOf s slot).g).map (·.base)).getD 0)

/-- A bounded sleep whose counter has passed WAITLIM ends in the trap WAIT-LIMIT; the instruction has had
no effect and its queue entry goes (R75, R155). -/
def limitPassed (slot : Nat) : Stage := pick (fun s =>
  let t := thr s slot
  match t.wait with
  | some (.word loc) =>
    if t.st == .sleeping && t.grant.isNone && t.waitlim != 0 && decide (t.waitlim.toNat < t.waitCount) then
      [eff [dropWaiter (locQuad loc) (fun w => w.slot == slot && w.req.isNone), rejoin slot],
       raiseTrap slot (nTrap .waitLimit (ownAddress s slot loc)) t.arch.pc]
    else []
  | _ => [])

/-- WAIT_LIMIT (R75). -/
def execWaitLimit (slot : Nat) (s : State) : Host.Outcome State Fault Refusal := fire [limitPassed slot] s

end Sys2Proof.Machine
end

