-- ==== Sys2Proof/Machine/Anvil.lean ====
section
/-!
DEFINITION. Anvil: the matrix unit (R195 to R208), SWAPT (R210), and remote matrix commands (R211 to
R214). An operation enters its core's queue at issue, leaves it when no operation that it must follow is
under way, and changes its anvil when it completes.
-/

namespace Sys2Proof.Machine

open Sys2Proof

/-! ## Anvils as numbers (R200, R201, R207) -/

/-- Combines the classes of an element (R201). -/
def ACls.join : ACls → ACls → ACls
  | .fin, c => c
  | c, .fin => c
  | .pinf, .pinf => .pinf
  | .ninf, .ninf => .ninf
  | _, _ => .nan

/-- An anvil's element at a position. -/
def Anvil.at (x : Anvil) (p : Nat) : AEl := tabD x.el p {}

/-- Is an element as a fresh anvil holds it? Such an element is not listed. -/
def AEl.blank (e : AEl) : Bool := e.v == 0 && e.cls == .fin

/-- Sets an element. -/
def Anvil.put (x : Anvil) (p : Nat) (e : AEl) : Anvil :=
  { x with el := if e.blank then tabDel x.el p else tabPut x.el p e }

/-- Adds a class to an element; SPC when it is not FIN (R200, R201). -/
def Anvil.addCls (x : Anvil) (p : Nat) (c : ACls) : Anvil :=
  if c = .fin then x
  else { x.put p { x.at p with cls := (x.at p).cls.join c } with spc := true }

/-- An exact value m × 2^e in units of 2^u, truncated toward zero, and whether a bit was dropped. -/
def inUnits (neg : Bool) (m : Nat) (e u : Int) : Int × Bool :=
  let d := e - u
  let t := if 0 ≤ d then m * 2 ^ d.toNat else m / 2 ^ (-d).toNat
  (if neg then -(t : Int) else t, decide (d < 0) && m % 2 ^ (-d).toNat != 0)

/-- Adds a finite value to an element: exactly, but for a truncation that IXW records (R201). -/
def Anvil.addFin (x : Anvil) (p : Nat) (neg : Bool) (m : Nat) (e : Int) : Anvil :=
  let t := inUnits neg m e (x.bias - 96)
  { x.put p { x.at p with v := (x.at p).v + BitVec.ofInt 192 t.1 } with ixw := x.ixw || t.2 }

/-- The contribution of a product to an element (R201). -/
def Anvil.addProduct (x : Anvil) (p : Nat) (a b : Num) : Anvil :=
  match a, b with
  | .fin s m e, .fin r n f => x.addFin p (s != r) (m * n) (e + f)
  | .inf s, .inf r => x.addCls p (if s == r then .pinf else .ninf)
  | .inf s, .fin r n _ => x.addCls p (if n = 0 then .nan else if s == r then .pinf else .ninf)
  | .fin s m _, .inf r => x.addCls p (if m = 0 then .nan else if s == r then .pinf else .ninf)
  | _, _ => x.addCls p .nan

/-- Adds an anvil into another (R207). -/
def Anvil.addAnvil (x y : Anvil) : Anvil :=
  let z := y.el.foldl (fun (acc : Anvil) c =>
    let n := c.2.v.toInt
    (acc.addFin c.1 (decide (n < 0)) n.natAbs (y.bias - 96)).addCls c.1 c.2.cls) x
  { z with ixw := z.ixw || y.ixw }

/-- An anvil of zeros with a bias (R199, R207). -/
def Anvil.cleared (b : Int) : Anvil := { bias := b }

/-- The status word of an anvil (R207). -/
def Anvil.status (x : Anvil) : Word :=
  wd (wrap 16 x.bias + bit x.ixw * 2 ^ 16 + bit x.spc * 2 ^ 17)

/-- Class numbers (R207). -/
def ACls.num : ACls → Nat
  | .fin => 0 | .pinf => 1 | .ninf => 2 | .nan => 3

/-- Half of an element (R207). -/
def AEl.raw (e : AEl) (half : Bool) : Word :=
  if half then wd (bits e.v 191 128 + e.cls.num * 2 ^ 64) else e.v.setWidth 128

/-- The value of an element under a bias, as ARND rounds it (R200, R208). -/
def AEl.num (e : AEl) (b : Int) : Num :=
  match e.cls with
  | .fin => .fin (decide (e.v.toInt < 0)) e.v.toInt.natAbs (b - 96)
  | .pinf => .inf false
  | .ninf => .inf true
  | .nan => .default

/-- ARND's result and flags (R208). Exact zero gives +0. -/
def arndValue (x : Anvil) (mode : Nat) (ctl : Word) : Word × BitVec 5 :=
  let f := bits ctl 20 16
  let p := bits ctl 7 0
  let rs := (upto 0 (laneCount f)).map (fun j =>
    let q := p + j
    let v := (x.at q).num x.bias
    if mode = 5 then
      let i := 256 * bits ctl 63 40 + q
      let c := wd (i / 4 % 2 ^ 32 + i / 4 / 2 ^ 32 * 2 ^ 32 + bits ctl 39 32 * 2 ^ 64 + 2 * 2 ^ 96)
      encodeDraw f (lane 32 (zmix (ctl.extractLsb' 64 32) (ctl.extractLsb' 96 32) c) (i % 4)) false v
    else encodeNum f mode false v)
  (lanesWord (codeWidth f) (rs.map (·.1)), orFlags (rs.map (·.2)))

/-- The product of two operands added into an anvil (R201, R205): `a` gives A(i, k), `b` B(k, n). -/
def Anvil.mma (x : Anvil) (m n k : Nat) (a b : Nat → Nat → Num) : Anvil :=
  (upto 0 m).foldl (fun x i => (upto 0 n).foldl (fun x j => (upto 0 k).foldl (fun x q =>
    x.addProduct (16 * i + j) (a i q) (b q j)) x) x) x

/-! ## The operands of an MMA -/

/-- M and N of a shape code (R204). -/
def shapeMN (sh : BitVec 5) : Nat × Nat :=
  match sh.toNat / 8 with
  | 0 => (16, 16)
  | 1 => (16, 8)
  | 2 => (8, 16)
  | _ => (16, 4)

/-- K of a shape code (R204). -/
def shapeK (sh : BitVec 5) : Nat := 16 * 2 ^ (sh.toNat % 8)

/-- The plane count of an MMA (R201). -/
def planeCount (f q : Nat) : Nat := if q = 0 then planeWidth f else min q (planeWidth f)

/-- The scale array's address in a register value. -/
def scaleAddr (blog : Nat) (v : Dword) : Nat := if blog = 0 then 0 else bits v 63 0

/-- The traps of an MMA's pointers, in the order of R205: `sc` is the scale array's address. -/
def mmaTrap (s : State) (slot : Nat) (ill : Trap) (m n k : Nat) (pa pb : Dword) (sc : Nat) : Option Trap :=
  let f := ptrFmt pa
  if !ptrOk pa false || !isMatrix f then some ⟨.tag, pa⟩
  else if !ptrOk pb true || ptrFmt pb ≠ f then some ⟨.tag, pb⟩
  else if largestK f < k then some ill
  else (trapOf (nearPtr s slot (ptrAddr pa) (elemBytes f (m * k)))).or <|
    (trapOf (nearPtr s slot (ptrAddr pb) (planeBytes f (k * n)))).or <|
    (if ptrBlog pa = 0 then none else trapOf (nearPtr s slot sc (scaleBytes (ptrBlog pa) (m * k)))).or <|
    (if ptrAddr pb % 16 ≠ 0 then some (nTrap .align (ptrAddr pb))
     else if ptrBlog pa = 0 then alignAddr (ptrAddr pa) else elemAlign pa)
where
  /-- ALIGN of an unscaled A operand. -/
  alignAddr (a : Nat) : Option Trap := if a % 16 = 0 then none else some (nTrap .align a)

/-- The regions that an MMA reads: A, B and the scale array, as location and length. -/
def mmaRegions (s : State) (slot m n k a b f : Nat) (scale : Nat × Nat) : List (Nat × Nat) :=
  let r := fun ad len => (locOf (nearPtr s slot ad len), len)
  [r a (elemBytes f (m * k)), r b (planeBytes f (k * n))] ++
    (if scale.1 = 0 then [] else [r scale.2 (scaleBytes scale.1 (m * k))])

/-- The words of those regions, as they stand. -/
def mmaWords (s : State) (slot m n k a b f : Nat) (scale : Nat × Nat) : List (Nat × Dword) :=
  (mmaRegions s slot m n k a b f scale).flatMap (fun r => wordsNow s r.1 r.2)

/-- An MMA applied to an anvil, with the operand bytes of this moment (R205, R206). -/
def mmaApply (s : State) (slot m n k a b f : Nat) (scale : Nat × Nat) (p : Nat) (old : List (Nat × Dword))
    (x : Anvil) : Anvil :=
  let rs := (mmaRegions s slot m n k a b f scale).map (fun r => lookOld s old r.1 r.2)
  let av := ofBytes (rs.getD 0 [])
  let bb := rs.getD 1 []
  let sc := rs.getD 2 []
  x.mma m n k (fun i q => scaledElem f scale.1 av sc (i * k + q)) (fun q j => planeVal f p (planeAt f (k * n) bb (j * k + q)))

/-! ## The queue (R195, R196) -/

/-- The anvils that an operation reads or writes. -/
def MxKind.anvils : MxKind → List Nat
  | .mma _ _ _ x _ _ _ _ _ _ => [x]
  | .aclr x _ => [x]
  | .arnd _ x _ _ => [x]
  | .copy d a => [d, a]
  | .status _ a => [a]
  | .raw _ a _ => [a]
  | .aadd d a => [d, a]
  | .sendAdd a _ => [a]
  | .addIn d _ => [d]

/-- Is an operation an MMA? MMAs of one anvil overlap (R196, R201). -/
def MxKind.isMma : MxKind → Bool
  | .mma _ _ _ _ _ _ _ _ _ _ => true
  | _ => false

/-- The anvil that an operation writes. -/
def MxKind.writes : MxKind → Option Nat
  | .mma _ _ _ x _ _ _ _ _ _ => some x
  | .aclr x _ => some x
  | .copy d _ => some d
  | .aadd d _ => some d
  | .addIn d _ => some d
  | _ => none

/-- The bound of an operation from the cycle in which it leaves the queue, but for a copy to the shadow (R196). -/
def MxKind.bound : MxKind → Nat
  | .mma _ _ k _ _ _ _ _ p _ => k / 16 * p + 10
  | .aclr _ _ => 8
  | .arnd _ _ _ _ => 40
  | _ => 24

/-- The cycles for which an operation keeps the array busy: K/16 steps of p cycles (R196). -/
def MxKind.busy : MxKind → Nat
  | .mma _ _ k _ _ _ _ _ p _ => k / 16 * p
  | _ => 0

/-- The bound of an operation: a chunk's first write of an anvil takes 24 cy more, to copy it to its shadow (R202). -/
def MxOp.bound (op : MxOp) : Nat := op.kind.bound + (if op.copies then 24 else 0)

/-- Is the queue of a core full (R195)? -/
def queueFull (s : State) (c : Nat) : Bool := decide (8 ≤ mqTaken s c)

/-- An operation enters a core's queue (R195). -/
def enqueue (c : Nat) (op : MxOp) : Stage := fun s =>
  [onCore c (fun x => { x with mq := x.mq ++ [{ op with id := s.fresh }] }),
   .post s.now (.ev (.matrixOpStart c)), .draw 1]

/-- An operation of the slot enters its core's queue; a register destination is pending from then. -/
def enqueueOwn (slot : Nat) (k : MxKind) (dests : List Nat) : Stage := fun s =>
  let anvs := (thr s slot).chunk.anvs
  let op : MxOp := { id := 0, task := (thr s slot).task, kind := k, pend := s.fresh
                     copies := k.writes.any (fun d => !anvs.contains d) }
  (if dests.isEmpty then [] else [onThr slot (fun t => { t with pend := t.pend ++ [{ id := s.fresh, dests := dests }] })]) ++
  (match k.writes with
   | some d => [onChunk slot (fun c => { c with anvs := setAdd c.anvs d })]
   | none => []) ++
  [onCore (coreOf slot) (fun x => { x with mq := x.mq ++ [{ op with id := s.fresh }] }),
   .post s.now (.ev (.matrixOpStart (coreOf slot))), .draw 1]

/-- May an operation leave the queue: no operation under way uses its anvils, but that MMAs of one anvil
overlap (R195, R196)? -/
def mayStart (s : State) (c : Nat) (op : MxOp) : Bool :=
  (core s c).mq.all (fun m => !m.started || m.task != op.task || (m.kind.isMma && op.kind.isMma)
    || !(m.kind.anvils.any (fun a => op.kind.anvils.contains a)))

/-- The near memory that an operation reads: location, length and near address. -/
def opRegions (s : State) (slot : Nat) : MxKind → List ((Nat × Nat) × Nat)
  | .mma m n k _ a b f scale _ _ => (mmaRegions s slot m n k a b f scale).zip [a, b, scale.2]
  | _ => []

/-- Race-watch checks the reads of an operation as it leaves the queue; a violation contains its slot (R228). -/
def opRace (op : MxOp) : Stage := pick (fun s =>
  match (task? s op.task).bind (·.slot) with
  | none => []
  | some sl =>
    let rs := opRegions s sl op.kind
    match firstSome (fun r => raceTrap s sl r.1.1 r.2 r.1.2 false) rs with
    | some tr => [containTask op.task { code := .determinism, info := tr.info }]
    | none => rs.map (fun r => raceMark sl r.1.1 r.1.2 false))

/-- The first waiting operation of a core leaves the queue and starts (R195, R196). -/
def startOp (c : Nat) : Stage := pick (fun s =>
  match (core s c).mq.find? (fun m => !m.started) with
  | none => []
  | some op =>
    if mayStart s c op then
      let k := ((task? s op.task).map (·.kernel)).getD 0
      [opRace op, fun s => [onCore c (fun x => { x with mq := x.mq.map (fun m => if m.id = op.id then { m with started := true } else m) }),
        .post (s.now + lat s (kernel s k).ctx 0 op.bound) (.ev (.matrixOpComplete c op.id)), .post s.now (.ev (.matrixOpStart c)), .draw 1],
       if (kernel s k).measuring then eff [onKernel k (fun x => { x with matrix := x.matrix + op.kind.busy })] else skip]
    else [])

/-- MATRIX_OP_START (R195). -/
def execMatrixOpStart (core : Nat) (s : State) : Host.Outcome State Fault Refusal := fire [startOp core] s

/-- An anvil of a thread. -/
def anvilOf (t : Thread) (a : Nat) : Anvil := t.arch.anvils.getD a {}

/-- Changes an anvil of a list. -/
def anvilsSet (l : List Anvil) (a : Nat) (f : Anvil → Anvil) : List Anvil := l.set a (f (l.getD a {}))

/-- An anvil operation takes effect: on the anvil, and on its shadow too where its chunk has committed or
it came from another core (R202). -/
def writeAnvil (slot : Nat) (both : Bool) (a : Nat) (f : Anvil → Anvil) : Eff :=
  onThr slot (fun t => { t with
    arch := { t.arch with anvils := anvilsSet t.arch.anvils a f }
    start := if both then { t.start with anvils := anvilsSet t.start.anvils a f } else t.start })

/-- Gives a waiting register its value and its flags now (R42, R71). -/
def deliver (task pend : Nat) (v : Word) (fl : BitVec 5) : Stage := seqS [
  eff [onTaskThr task (fun t => { t with pend := t.pend.map (fun p =>
    if p.id = pend then { p with op := .value [v] none fl } else p) })],
  resultArrives task pend]

/-- The poison in the operands of an operation (R214, R357). -/
def opPoison (s : State) (slot : Nat) (k : MxKind) : Option (Nat × Nat) :=
  firstSome (fun r => (nearPoison s r.1.1 r.1.2).map (fun c => (c, r.2))) (opRegions s slot k)

/-- The lines that an operation reads (R356). -/
def opReads (slot : Nat) (k : MxKind) : Stage := each (fun s => opRegions s slot k) (fun r => nearRead r.1.1 r.1.2)

/-- What an operation does when it completes, on the thread in a slot. -/
def opEffect (slot : Nat) (op : MxOp) : Stage := pick (fun s =>
  let t := thr s slot
  let both := op.committed || op.remote.isSome
  let write := fun a f => eff [writeAnvil slot both a f]
  match op.kind with
  | .mma m n k x a b f scale p old => [write x (mmaApply s slot m n k a b f scale p old)]
  | .aclr x b => [write x (fun _ => Anvil.cleared b)]
  | .copy d a => [write d (fun _ => anvilOf t a)]
  | .aadd d a => [write d (fun x => x.addAnvil (anvilOf t a))]
  | .addIn d src => [write d (fun x => x.addAnvil src)]
  | .arnd _ a mode ctl => let r := arndValue (anvilOf t a) mode ctl; [deliver op.task op.pend r.1 r.2]
  | .status _ a => [deliver op.task op.pend (anvilOf t a).status 0]
  | .raw _ a ctl => [deliver op.task op.pend (((anvilOf t a).at (bits ctl 7 0)).raw (ctl.getLsbD 8)) 0]
  | .sendAdd a req =>
    [fun s => match tabGet s.o.mxReqs req with
      | none => []
      | some r =>
        [.obj (fun o => { o with mxReqs := tabPut o.mxReqs req { r with add := r.add.map (fun x => (x.1, anvilOf t a)) } }),
         .post (s.now + lat s (ctxOf s slot) 0 (if dieOf slot = dieOf r.target then 212 else 452)) (.ev (.remoteMatrixArrival req)), .draw 1]])

/-- An operation completes: it takes effect and its place is free (R195, R196); one whose operands are
poisoned writes nothing, and its slot is contained (R214). The sender of an operation from another core
learns of it; with no thread left there, of that (R212, R213). -/
def completeOp (c id : Nat) : Stage := pick (fun s =>
  match (core s c).mq.find? (fun m => m.id == id && m.started) with
  | none => []
  | some op =>
    let gone : Stage := eff [onCore c (fun x => { x with mq := x.mq.filter (fun m => m.id != id) })]
    let slot := (task? s op.task).bind (·.slot)
    let tell := fun (v : Nat) => match op.remote with
      | some t => deliver t op.pend (wd v) 0
      | none => skip
    [gone] ++
    (match slot with
     | none => [tell 1]
     | some sl => match opPoison s sl op.kind with
       | some (cls, a) => [consume op.task cls (BitVec.ofNat 64 a)]
       | none => [opReads sl op.kind, opEffect sl op, tell 0]) ++
    [evNow (.matrixOpStart c)])

/-- MATRIX_OP_COMPLETE (R196). -/
def execMatrixOpComplete (core op : Nat) (s : State) : Host.Outcome State Fault Refusal :=
  fire [completeOp core op] s

/-! ## Words of the matrix queue -/

/-- ANVIL of a field at or above the launch's count (R199). -/
def anvilTrap (s : State) (slot : Nat) (fs : List Nat) : Option Trap :=
  firstSome (fun f => if (recOf s slot).anvils ≤ f then some (nTrap .anvil f) else none) fs

/-- The plan of an operation: it waits for room in the queue (R69, R195). -/
def matrixPlan (s : State) (wf : Bool) (fs : List Field) (anvils : List Nat) (own : Option Trap)
    (dests : List Nat) (k : MxKind) : Plan :=
  let sl := s.cur
  let p := ((regPlan s sl wf fs).own (anvilTrap s sl anvils)).own own
  aPlan s (({ p with mxs := 1 } : Plan).does [enqueueOwn sl k dests])

/-- MMA (R204 to R206). -/
def planMma (sh : BitVec 5) (n : BitVec 3) (a b : BitVec 7) (q : BitVec 3) (s : State) : Plan :=
  let sl := s.cur
  let pa := rd64 s sl a.toNat
  let pb := rd64 s sl b.toNat
  let blog := if pending (thr s sl) a.toNat then 0 else ptrBlog pa
  let sc := scaleAddr blog (rd64 s sl (a.toNat + 1))
  let (m, nn) := shapeMN sh
  let k := shapeK sh
  let f := ptrFmt pa
  matrixPlan s (Instr.mma sh n a b q).wf
    [if blog = 0 then fr a else inRun a.toNat 2, fr b] [n.toNat]
    (mmaTrap s sl (bTrap s sl .illegal) m nn k pa pb sc) []
    (.mma m nn k n.toNat (ptrAddr pa) (ptrAddr pb) f (blog, sc) (planeCount f q.toNat)
      (mmaWords s sl m nn k (ptrAddr pa) (ptrAddr pb) f (blog, sc)))
/-- MMA. -/
def execMma (sh : BitVec 5) (n : BitVec 3) (a b : BitVec 7) (q : BitVec 3) (s : State) :
    Host.Outcome State Fault Refusal := fireA (planMma sh n a b q) s

/-- Is a bias allowed (R207)? -/
def biasOk (v : Int) : Bool := decide (-2048 ≤ v) && decide (v ≤ 2047)

/-- ACLR (R207). -/
def planAclr (d : BitVec 3) (a : BitVec 7) (s : State) : Plan :=
  let v := rd64 s s.cur a.toNat
  matrixPlan s true [fr a] [d.toNat] (if biasOk v.toInt then none else some ⟨.anvil, v⟩) [] (.aclr d.toNat v.toInt)
/-- ACLR. -/
def execAclr (d : BitVec 3) (a : BitVec 7) (s : State) : Host.Outcome State Fault Refusal := fireA (planAclr d a) s

/-- Is ARND's control word allowed (R208)? -/
def arndOk (c : Word) : Bool :=
  let f := bits c 20 16
  bits c 31 21 == 0 && bits c 15 8 == 0 && decide (1 ≤ f) && decide (f ≤ 19) && bits c 7 0 % laneCount f == 0

/-- ARND (R208). -/
def planArnd (d : BitVec 7) (a : BitVec 3) (b : BitVec 7) (t : BitVec 3) (s : State) : Plan :=
  let c := rd s s.cur b.toNat
  matrixPlan s (Instr.arnd d a b t).wf [fw d, fr b] [a.toNat]
    (if arndOk c then none else some (bTrap s s.cur .illegal)) [d.toNat] (.arnd d.toNat a.toNat t.toNat c)
/-- ARND. -/
def execArnd (d : BitVec 7) (a : BitVec 3) (b : BitVec 7) (t : BitVec 3) (s : State) :
    Host.Outcome State Fault Refusal := fireA (planArnd d a b t) s

/-- AMOV, a copy (R207). -/
def planAmov (d a : BitVec 3) (s : State) : Plan :=
  matrixPlan s true [] [d.toNat, a.toNat] none [] (.copy d.toNat a.toNat)
/-- AMOV. -/
def execAmov (d a : BitVec 3) (s : State) : Host.Outcome State Fault Refusal := fireA (planAmov d a) s

/-- AMOV.ST (R207). -/
def planAmovSt (d : BitVec 7) (a : BitVec 3) (s : State) : Plan :=
  matrixPlan s (longDest d) [fw d] [a.toNat] none [d.toNat] (.status d.toNat a.toNat)
/-- AMOV.ST. -/
def execAmovSt (d : BitVec 7) (a : BitVec 3) (s : State) : Host.Outcome State Fault Refusal :=
  fireA (planAmovSt d a) s

/-- AMOV.RAW (R207). -/
def planAmovRaw (d : BitVec 7) (a : BitVec 3) (b : BitVec 7) (s : State) : Plan :=
  let c := rd s s.cur b.toNat
  matrixPlan s (longDest d) [fw d, fr b] [a.toNat]
    (if bits c 63 9 = 0 then none else some (bTrap s s.cur .illegal)) [d.toNat] (.raw d.toNat a.toNat c)
/-- AMOV.RAW. -/
def execAmovRaw (d : BitVec 7) (a : BitVec 3) (b : BitVec 7) (s : State) : Host.Outcome State Fault Refusal :=
  fireA (planAmovRaw d a b) s

/-- AADD (R207). -/
def planAadd (d a : BitVec 3) (s : State) : Plan :=
  matrixPlan s true [] [d.toNat, a.toNat] none [] (.aadd d.toNat a.toNat)
/-- AADD. -/
def execAadd (d a : BitVec 3) (s : State) : Host.Outcome State Fault Refusal := fireA (planAadd d a) s

/-! ## PLANE and UNPLANE -/

/-- The trap of the shape operand of PLANE and UNPLANE (R198): `p` is the plane-layout pointer. -/
def planeShape (ill : Trap) (x : Word) (p : Dword) : Option Trap :=
  let k := bits x 15 0
  let n := bits x 31 16
  let top := if ptrNames p true then (if isMatrix (ptrFmt p) then largestK (ptrFmt p) else 512) else 512
  if k % 16 ≠ 0 ∨ k < 16 ∨ top < k ∨ (n ≠ 4 ∧ n ≠ 8 ∧ n ≠ 16) ∨ bits x 63 32 ≠ 0 then some ill else none

/-- The pointer checks of PLANE and UNPLANE (R198, R31). -/
def planeTags (un : Bool) (dst src : Dword) : Option Trap :=
  if un then
    if !ptrOk dst false || ptrBlog dst != 0 then some ⟨.tag, dst⟩
    else if !ptrOk src true || !isMatrix (ptrFmt src) then some ⟨.tag, src⟩ else none
  else if !ptrOk dst true || !isMatrix (ptrFmt dst) then some ⟨.tag, dst⟩
  else if !ptrOk src false || ptrFmt src != ptrFmt dst then some ⟨.tag, src⟩ else none

/-- The plan of PLANE and UNPLANE (R198): near stores, so chunk points; in a speculative iteration GUESS
unless the destination is the own TCM (R151). -/
def planePlan (s : State) (ls : LS) (un : Bool) (d a b : BitVec 7) : Plan :=
  let sl := s.cur
  let t := thr s sl
  let x := rd s sl d.toNat
  let dst := rd64 s sl a.toNat
  let src := rd64 s sl b.toNat
  let blog := if un || pending t b.toNat then 0 else ptrBlog src
  let sc := scaleAddr blog (rd64 s sl (b.toNat + 1))
  let k := bits x 15 0
  let n := bits x 31 16
  let p := regPlan s sl (longDest d) [fx d, fr a, if blog = 0 then fr b else inRun b.toNat 2]
  let p := { p with point := true }
  let p := (p.own (planeShape (bTrap s sl .illegal) x (if un then src else dst))).own (planeTags un dst src)
  cPlan ls <| if p.c3.isSome then p else
  let lens := planeLens un k n dst src
  let rs := nearPtr s sl (ptrAddr src) lens.1
  let rd' := nearPtr s sl (ptrAddr dst) lens.2
  let sb := scaleBytes blog (k * n)
  let p := ((p.own (trapOf rd')).own (trapOf rs)).own (if sb = 0 then none else trapOf (nearPtr s sl sc sb))
  let el := if un then dst else src
  let pl := if un then src else dst
  let p := (p.own (if ptrAddr pl % 16 ≠ 0 then some (nTrap .align (ptrAddr pl)) else none)).own (elemAlign el)
  let p := p.ownIf s sl (speculative s sl && locScratch (locOf rd')) .guess
  let sl' := locOf (nearPtr s sl sc sb)
  let p := ((p.own (raceTrap s sl (locOf rs) (ptrAddr src) lens.1 false)).own
    (if sb = 0 then none else raceTrap s sl sl' sc sb false)).own (raceTrap s sl (locOf rd') (ptrAddr dst) lens.2 true)
  let old := wordsNow s (locOf rs) lens.1 ++
    (if sb = 0 then [] else wordsNow s sl' sb)
  p.does [raceMark sl (locOf rs) lens.1 false, if sb = 0 then skip else raceMark sl sl' sb false, raceMark sl (locOf rd') lens.2 true,
    pendIn sl [d.toNat] none (.plane un k n dst src sc (t.arch.round) old) 64]

/-- PLANE (R198). -/
def planPlane (ls : LS) (d a b : BitVec 7) (s : State) : Plan := planePlan s ls false d a b
/-- PLANE. -/
def execPlane (ls : LS) (d a b : BitVec 7) (s : State) : Host.Outcome State Fault Refusal :=
  fireC (planPlane ls d a b) s

/-- UNPLANE (R198). -/
def planUnplane (ls : LS) (d a b : BitVec 7) (s : State) : Plan := planePlan s ls true d a b
/-- UNPLANE. -/
def execUnplane (ls : LS) (d a b : BitVec 7) (s : State) : Host.Outcome State Fault Refusal :=
  fireC (planUnplane ls d a b) s

/-! ## SWAPT (R210) -/

/-- The slot with which a slot exchanges (R210). -/
def partnerSlot (slot : Nat) : Nat :=
  let q := quadOf slot % 256
  let c := coreOf slot % 4
  let i := q / 12
  let j := q % 12
  dieOf slot * 65536 + (j * 12 + i) * 256 + (if i = j then 3 - c else c) * 64 + slot % 64

/-- The oldest SWAPT that a thread has outstanding. -/
def swapOf (t : Thread) : Option (Pend × Nat × Nat) :=
  firstSome (fun p => match p.op with
    | .swapt ea len => some (p, ea, len)
    | _ => none) t.pend

/-- Do the SWAPTs of a slot and of its partner meet? They are of one launch. -/
def swapMeets (s : State) (slot : Nat) : Bool :=
  let q := partnerSlot slot
  occupied s slot && occupied s q && (thr s slot).kernel == (thr s q).kernel
    && (swapOf (thr s slot)).isSome && (swapOf (thr s q)).isSome

/-- The match of a waiting SWAPT is scheduled once the partner's has come. -/
def swapPost (slot : Nat) : Stage := fun s =>
  if swapMeets s slot then [.post (s.now + lat s (ctxOf s slot) 0 1200) (.ev (.swaptMatch slot)), .draw 1] else []

/-- SWAPT offers a region (R210). -/
def planSwapt (ls : LS) (d a b : BitVec 7) (s : State) : Plan :=
  let sl := s.cur
  let v := rd64 s sl a.toNat
  let ea := bits v 31 0
  let len := (rd64 s sl b.toNat).toNat
  let badLen := len < 16 ∨ 4096 < len ∨ len % 16 ≠ 0
  let p := { (regPlan s sl (longDest d) [fw d, fr a, fr b]).noSpec s sl with point := true }
  let p := p.own (if badLen then some (bTrap s sl .illegal) else none)
  let p := p.own (if (nearOwn s sl ea (if badLen then 1 else len)).isNone then some (nTrap .nearRange ea) else none)
  let p := (p.own (alignTrap ea 16)).own
    (if (groupOn (kernelOf s sl) (quadOf (partnerSlot sl))).isNone then some (nTrap .perm ea) else none)
  cPlan ls (p.does [(fun s => [onThr sl (fun t => { t with pend := t.pend ++
      [{ id := s.fresh, dests := [d.toNat], op := .swapt ea len }] }), .draw 1]), swapPost sl])
/-- SWAPT. -/
def execSwapt (ls : LS) (d a b : BitVec 7) (s : State) : Host.Outcome State Fault Refusal :=
  fireC (planSwapt ls d a b) s

/-- Partner SWAPTs meet: equal lengths exchange the regions, others move nothing (R210). -/
def swapMatch (slot : Nat) : Stage := pick (fun s =>
  let q := partnerSlot slot
  if !swapMeets s slot then [] else
  match swapOf (thr s slot), swapOf (thr s q) with
  | some (p, ea, n), some (r, eb, m) =>
    let tell := fun (v : Nat) => [deliver (thr s slot).task p.id (wd v) 0, deliver (thr s q).task r.id (wd v) 0]
    if n ≠ m then tell 0
    else
      match nearOwn s slot ea n, nearOwn s q eb n with
      | some la, some lb =>
        (match nearPoison s la n, nearPoison s lb n with
         | some c, _ => [consume (thr s slot).task c (BitVec.ofNat 64 ea)]
         | _, some c => [consume (thr s q).task c (BitVec.ofNat 64 eb)]
         | none, none =>
           let xa := lookBytes s la n
           let xb := lookBytes s lb n
           [nearRead la n, nearRead lb n, fun s => storeMarked s la xb, fun s => storeMarked s lb xa] ++ tell n)
      | _, _ => []
  | _, _ => [])

/-- SWAPT_MATCH (R210). -/
def execSwaptMatch (slot : Nat) (s : State) : Host.Outcome State Fault Refusal := fire [swapMatch slot] s

/-! ## MXSEND (R211 to R213) -/

/-- CAPABILITY of a value for the target, the right (38 commands, 39 send-adds) and the anvils (R211, R212). -/
def capBad (s : State) (slot : Nat) (cap : Dword) (target right : Nat) (anvils : List Nat) : Bool :=
  let k := (thr s slot).kernel
  Config.check k (cap.setWidth 48) != cap.extractLsb' 48 16 || bits cap 31 0 != k || !cap.getLsbD right
    || !cap.getLsbD (32 + dieOf target) || !ctxHas s (ctxOf s slot) (quadOf target)
    || anvils.any (fun a => !cap.getLsbD (40 + a))

/-- The command that a WORD holds, with the anvils it names (R212): an MMA, ACLR, AADD, or a copying AMOV,
its register fields zero. -/
def commandOf (w : BitVec 32) : Option (Instr × List Nat) :=
  match decodeA w with
  | .ok (.mma sh n a b q) =>
    if a = 0 ∧ b = 0 ∧ (Instr.mma sh n a b q).wf then some (.mma sh n a b q, [n.toNat]) else none
  | .ok (.aclr d a) => if a = 0 then some (.aclr d a, [d.toNat]) else none
  | .ok (.amov d a) => some (.amov d a, [d.toNat, a.toNat])
  | .ok (.aadd d a) => some (.aadd d a, [d.toNat, a.toNat])
  | _ => none

/-- Does an address lie in the own-quad scratchpad window (R137)? -/
def inQuadWindow (a : Nat) : Bool := decide (0x100000 ≤ a) && decide (a < 0x200000)

/-- NEAR-RANGE or ANVIL of a command's operands at the sender (R207, R212). -/
def commandTrap (i : Instr) (aa ba : BitVec 32) : Option Trap :=
  match i with
  | .mma _ _ _ _ _ =>
    if !inQuadWindow aa.toNat then some (nTrap .nearRange aa.toNat)
    else if !inQuadWindow ba.toNat then some (nTrap .nearRange ba.toNat) else none
  | .aclr _ _ => if biasOk aa.toInt then none else some ⟨.anvil, aa.signExtend 64⟩
  | _ => none

/-- A request sets out for another core (R212, R213). -/
def sendMx (slot d : Nat) (r : MxReq) : Stage := fun s =>
  [onThr slot (fun t => { t with pend := t.pend ++ [{ id := s.fresh, dests := [d] }] }),
   .obj (fun o => { o with mxReqs := tabPut o.mxReqs s.fresh { r with task := (thr s slot).task, pend := s.fresh } })]

/-- The part of a plan that both forms of MXSEND share. -/
def mxPlan (s : State) (d a b : BitVec 7) (right : Nat) (anvils : List Nat) : Plan :=
  let sl := s.cur
  let cap := rd64 s sl a.toNat
  let pay := rd s sl b.toNat
  let target := slotAddr pay.toNat
  let p := { (regPlan s sl (longDest d) [fw d, fr a, fr b]).noGuess s sl with point := true, irrev := true }
  let p := if right = 38 then p.noDeterm s sl else p
  (p.own (if 143 < addrQuad target then some ⟨.perm, lo64 pay⟩ else none)).own
    (if capBad s sl cap target right anvils then some ⟨.capability, cap⟩ else none)

/-- MXSEND, the command form (R212). -/
def planMxsend (ls : LS) (d a b : BitVec 7) (s : State) : Plan :=
  let sl := s.cur
  let pay := rd s sl b.toNat
  let w := pay.extractLsb' 32 32
  let aa := pay.extractLsb' 64 32
  let ba := pay.extractLsb' 96 32
  let target := slotAddr pay.toNat
  cPlan ls <| match commandOf w with
  | none => (mxPlan s d a b 38 []).own (some (bTrap s sl .illegal))
  | some (i, an) =>
    let p := (mxPlan s d a b 38 an).ownIf s sl (bits pay 21 18 != 0) .illegal
    (p.own (commandTrap i aa ba)).does
      [sendMx sl d.toNat
        { task := 0, pend := 0, target := target, kernel := (thr s sl).kernel, word := w, afmt := bits pay 31 27
          bfmt := bits pay 26 22, aaddr := aa, baddr := ba, add := none },
       (fun s => [.post (s.now + lat s (ctxOf s sl) 1 (if dieOf sl = dieOf target then 180 else 420)) (.ev (.remoteMatrixArrival s.fresh)), .draw 2])]
/-- MXSEND. -/
def execMxsend (ls : LS) (d a b : BitVec 7) (s : State) : Host.Outcome State Fault Refusal :=
  fireC (planMxsend ls d a b) s

/-- MXSEND.ADD: the local anvil's half enters the local queue (R212, R213). -/
def planMxsendAdd (ls : LS) (d a b : BitVec 7) (s : State) : Plan :=
  let sl := s.cur
  let pay := rd s sl b.toNat
  let l := bits pay 20 18
  let r := bits pay 23 21
  let p := ((mxPlan s d a b 39 [r]).ownIf s sl (bits pay 127 24 != 0) .illegal).own (anvilTrap s sl [l])
  cPlan ls (({ p with mxs := 1 } : Plan).does
    [sendMx sl d.toNat
      { task := 0, pend := 0, target := slotAddr pay.toNat, kernel := (thr s sl).kernel, word := 0, afmt := 0
        bfmt := 0, aaddr := 0, baddr := 0, add := some (r, {}) },
     (fun s => enqueueOwn sl (.sendAdd l s.fresh) [] s)])
/-- MXSEND.ADD. -/
def execMxsendAdd (ls : LS) (d a b : BitVec 7) (s : State) : Host.Outcome State Fault Refusal :=
  fireC (planMxsendAdd ls d a b) s

/-- The task that a slot address names for a request: the thread in the slot, or one saved from it (R203). -/
def mxTarget (s : State) (r : MxReq) : Option Nat :=
  if occupied s r.target then
    (if (thr s r.target).kernel = r.kernel && (thr s r.target).st != .quarantined then some (thr s r.target).task else none)
  else (s.o.tasks.find? (fun x => x.2.kernel == r.kernel && (x.2.image.map (fun im => im.home == r.target)).getD false)).map (·.1)

/-- The operation that a command is at its target, or the outcome that refuses it (R212): the pointers of an MMA
are checked where the thread is in its slot. -/
def commandAt (s : State) (r : MxReq) (t : Thread) : Except Nat MxKind :=
  let have_ := fun a => decide (a < t.arch.anvils.length)
  match r.add with
  | some (x, y) => if have_ x then .ok (.addIn x y) else .error 2
  | none => match commandOf r.word with
    | none => .error 3
    | some (i, an) =>
      if !an.all have_ then .error 2
      else match i with
        | .aclr d _ => .ok (.aclr d.toNat r.aaddr.toInt)
        | .amov d a => .ok (.copy d.toNat a.toNat)
        | .aadd d a => .ok (.aadd d.toNat a.toNat)
        | .mma sh n _ _ q =>
          let (m, nn) := shapeMN sh
          let k := shapeK sh
          let pa := BitVec.ofNat 64 (r.afmt * 2 ^ 59 + r.aaddr.toNat)
          let pb := BitVec.ofNat 64 (r.bfmt * 2 ^ 59 + 2 ^ 55 + r.baddr.toNat)
          if occupied s r.target && (mmaTrap s r.target ⟨.illegal, 0⟩ m nn k pa pb 0).isSome then .error 3
          else .ok (.mma m nn k n.toNat r.aaddr.toNat r.baddr.toNat r.afmt (0, 0) (planeCount r.afmt q.toNat)
            (mmaWords s r.target m nn k r.aaddr.toNat r.baddr.toNat r.afmt (0, 0)))
        | _ => .error 3

/-- A request reaches its target core (R195, R203, R212, R213): refused, held with a saved image, waiting
for room in the queue, or queued; a command is accepted when it is queued. -/
def mxArrives (req : Nat) : Stage := pick (fun s =>
  match tabGet s.o.mxReqs req with
  | none => []
  | some r =>
    let gone : Stage := eff [.obj (fun o => { o with mxReqs := tabDel o.mxReqs req })]
    let c := coreOf r.target
    match mxTarget s r with
    | none => [gone, deliver r.task r.pend 1 0]
    | some tk =>
      match (taskThr? s tk) with
      | none => [gone, deliver r.task r.pend 1 0]
      | some t =>
        match commandAt s r t with
        | .error v => [gone, deliver r.task r.pend (wd v) 0]
        | .ok k =>
          let op : MxOp := { id := req, task := tk, kind := k, pend := r.pend, remote := some r.task }
          match (task? s tk).bind (·.slot) with
          | none => [eff [onTask tk (fun x => { x with heldReqs := x.heldReqs ++ [req] }),
              .obj (fun o => { o with mxReqs := tabUpd o.mxReqs req (fun y => { y with held := true }) })]]
          | some _ =>
            if queueFull s c then [fun s => [.post (s.now + 1) (.ev (.remoteMatrixArrival req))]]
            else [gone, enqueue c op] ++ (if r.add.isNone && !r.held then [deliver r.task r.pend 0 0] else []))

/-- REMOTE_MATRIX_ARRIVAL (R213). -/
def execRemoteMatrixArrival (req : Nat) (s : State) : Host.Outcome State Fault Refusal := fire [mxArrives req] s

end Sys2Proof.Machine
end

