-- ==== Sys2Proof/Machine/Place.lean ====
section
/-!
DEFINITION. Place: the distributor. Room on quads and placement transactions (R245 to R248, R250), the
dispatch of tasks to slots with the reclaim of register entries (R100, R114, R245, R262, R377), class
pre-emption (R248), the take of a gated slot (R270), and a kernel's completion, kill, suspension and
resumption (R235 to R237).
-/

namespace Sys2Proof.Machine

open Sys2Proof

/-! ## Counters and chunks of the module's own agents -/

/-- Bytes written as one chunk of its own, by an agent that is no thread (R236, R360, R364, R385, R386):
marks of lines covered whole go, the chunk takes its place in the commit order, and what waits for it
wakes. `src` is the queue and the SEQ of the command from which what a doorbell sends descends (R329). -/
def ownChunk (c : Nat) (src : Nat × Nat) (l : List (Nat × List Byte)) : Stage := pick (fun s =>
  if l.isEmpty then [] else
  let buf := l.map (fun x => BufOp.st x.1 x.2)
  [(fun s => l.flatMap (fun x => storeMarked s x.1 x.2) ++
    [.commit (setAddAll [] (l.flatMap (fun x => (upto 0 x.2.length).map (fun i => (x.1 + i) / 8))))] : Stage),
   mirrorOut (bufWrites buf),
   eff ((doorbells s c buf).flatMap (fun r =>
     [onCtx c (fun x => { x with rings := tabMod x.rings r {} (fun y => { y with queue := src.1, root := src.2 }) }),
      .post s.now (.ev (.sendRingSend c r))])),
   wakeCounters])

/-- Increments the 64-bit word at a context's address by 1, as a chunk of its own; address 0 is none, and
an address that nothing maps leaves nothing to write (R229, R236, R364, R386). -/
def bumpCounter (c : Nat) (src : Nat × Nat) (va : Nat) : Stage := pick (fun s =>
  if va = 0 then [] else
  match ctxXlat s c va .write with
  | .error _ => []
  | .ok loc => [lineRead (lineOf loc), fun s => ownChunk c src [(loc, bytesOf 8 (memWord s.mem loc + 1).toNat)] s])

/-! ## Room on a quad -/

/-- Entries that REGROWING slots of a core wait for (R112, R114). -/
def regrowNeed (s : State) (c : Nat) : Nat :=
  total ((coreSlots s c).map (fun x => match x.2.wait with
    | some (.window n) => if x.2.st = .sleeping then n - x.2.cur else 0
    | _ => 0))

/-- What a core has free. -/
structure CRoom where
  core : Nat
  slots : Nat
  entries : Nat
  anvils : Nat
  tcm : Nat
  deriving DecidableEq, Repr

/-- What a quad has free: places for groups, quad barriers and recipes, the regions taken, and the kernels
whose recipes it holds; with the die barriers free on its die, and the kernels that claim some (R216). -/
structure QRoom where
  quad : Nat
  groups : Nat
  regions : List (Nat × Nat)
  bars : Nat
  recipes : Nat
  kers : List Nat
  dbars : Nat
  dkers : List Nat
  cores : List CRoom
  deriving DecidableEq, Repr

/-- A quad with nothing on it. -/
def emptyRoom (s : State) (q : Nat) : QRoom :=
  { quad := q, groups := 16, regions := [], bars := 16, recipes := 32, kers := [], dbars := 16, dkers := []
    cores := (quadCores s q).map (fun c => ⟨c, 64, 2048, 8, 65536⟩) }

/-- Bytes of a core's TCM that its threads have (R14, R229); a trailer has none of its own (R377). -/
def tcmUsed (s : State) (c : Nat) : Nat :=
  total ((coreSlots s c).map (fun x => if x.2.st = .shadow then 0 else (kernel s x.2.kernel).lrec.tcm))

/-- What a core has free, once every REGROWING slot is served. -/
def coreRoom (s : State) (c : Nat) : CRoom :=
  ⟨c, 64 - (coreSlots s c).length, entriesFree s c - regrowNeed s c, 8 - anvilsUsed s c, 65536 - tcmUsed s c⟩

/-- Does a group hold its reservation? -/
def Group.holds (g : Group) : Bool := g.st == .placed || g.st == .suspended

/-- The groups on a quad of contexts that are RESIDENT, with their kernels. -/
def groupsOn (s : State) (q : Nat) : List (Nat × Kernel × Group) :=
  s.o.kernels.flatMap (fun k =>
    if ((ctx? s k.2.ctx).map (fun c => c.st == .resident)).getD false then
      (k.2.groups.filter (fun g => g.2.quad == q && g.2.holds)).map (fun g => (k.1, k.2, g.2))
    else [])

/-- The kernels with a group on a die, of contexts that are RESIDENT. -/
def kernelsOn (s : State) (d : Nat) : List (Nat × Kernel) :=
  s.o.kernels.filter (fun k => ((ctx? s k.2.ctx).map (fun c => c.st == .resident)).getD false
    && k.2.groups.any (fun g => g.2.quad / 256 == d && g.2.holds))

/-- What a quad has free now. -/
def quadRoom (s : State) (q : Nat) : QRoom :=
  let gs := groupsOn s q
  let ks := setAddAll [] (gs.map (·.1))
  let ds := kernelsOn s (q / 256)
  { quad := q
    groups := 16 - gs.length
    regions := gs.map (fun g => (g.2.2.base, g.2.1.lrec.scratch))
    bars := 16 - total (gs.map (fun g => g.2.1.lrec.qbar))
    recipes := 32 - total (ks.map (fun k => (kernel s k).lrec.recipes))
    kers := ks
    dbars := 16 - total (ds.map (fun k => k.2.lrec.dbar))
    dkers := ds.map (·.1)
    cores := (quadCores s q).map (coreRoom s) }

/-- The lowest offset at which n bytes fit beside the regions taken, if any. -/
def firstFit (taken : List (Nat × Nat)) (n : Nat) : Option Nat :=
  leastBy id ((0 :: taken.map (fun r => r.1 + r.2)).filter (fun a =>
    decide (a + n ≤ 2 ^ 20) && taken.all (fun r => decide (a + n ≤ r.1) || decide (r.1 + r.2 ≤ a))))

/-- Reserves a group on a quad (R216, R245): the base of its region, and the room left. -/
def reserve (k : Nat) (r : LRec) (x : QRoom) : Option (Nat × QRoom) :=
  let held := x.kers.contains k
  if x.groups = 0 ∨ x.bars < r.qbar ∨ (!held && decide (x.recipes < r.recipes)) ∨ x.cores.isEmpty
      ∨ (r.redundant && decide (x.cores.length < 2)) ∨ (!x.dkers.contains k && decide (x.dbars < r.dbar)) then none
  else (firstFit x.regions r.scratch).map (fun b =>
    (b, { x with groups := x.groups - 1, regions := x.regions ++ [(b, r.scratch)], bars := x.bars - r.qbar
                 recipes := if held then x.recipes else x.recipes - r.recipes, kers := setAdd x.kers k
                 dbars := if x.dkers.contains k then x.dbars else x.dbars - r.dbar, dkers := setAdd x.dkers k }))

/-- The rooms of the quads once one of them has taken a group: the die's barriers are claimed for all its quads. -/
def roomsWith (z : QRoom) (rooms : List QRoom) : List QRoom :=
  rooms.map (fun w => if w.quad = z.quad then z else
    if w.quad / 256 = z.quad / 256 then { w with dbars := z.dbars, dkers := z.dkers } else w)

/-- Can a core take one more thread of a launch (R14, R100, R199, R245)? -/
def CRoom.fits (r : LRec) (c : CRoom) : Bool :=
  decide (1 ≤ c.slots) && decide (r.regs ≤ c.entries) && decide (r.anvils ≤ c.anvils) && decide (r.tcm ≤ c.tcm)

/-- The core for a thread: the one with the fewest occupied slots, the lowest index among equals (R245). -/
def bestCore (r : LRec) (l : List CRoom) (p : Nat → Bool) : Option Nat :=
  (mostBy (·.slots) (l.filter (fun c => p c.core && c.fits r))).map (·.core)

/-- A core gives a thread of a launch its share. -/
def takeCore (r : LRec) (c : Nat) (l : List CRoom) : List CRoom :=
  l.map (fun x => if x.core = c then { x with slots := x.slots - 1, entries := x.entries - r.regs, anvils := x.anvils - r.anvils, tcm := x.tcm - r.tcm } else x)

/-- The share of a trailer (R377): a leader's, but for the TCM. -/
def LRec.trailer (r : LRec) : LRec := { r with tcm := 0 }

/-- Reserves slots for n threads on allowed cores (R247, R377). -/
def reserveSlots (r : LRec) (p : Nat → Bool) : Nat → List CRoom → Option (List CRoom)
  | 0, l => some l
  | n + 1, l =>
    match bestCore r l p with
    | none => none
    | some c =>
      let l' := takeCore r c l
      if r.redundant then
        match bestCore r.trailer l' (fun x => p x && x != c) with
        | none => none
        | some d => reserveSlots r p n (takeCore r.trailer d l')
      else reserveSlots r p n l'

/-! ## Where groups go -/

/-- The quads in the order of the first logical core of each in a table (R246). -/
def tableQuads (l2p : List Nat) : List Nat :=
  l2p.foldl (fun l e => if l.contains (e / 256) then l else l ++ [e / 256]) []

/-- Quads that hold groups of a kernel of a given class of intensity (R250). -/
def holdsClass (s : State) (q : Nat) (i : Intensity) : Bool := (groupsOn s q).any (fun g => g.2.1.intens == i)

/-- The quads in the order in which an automatic placement tries them (R246, R250). -/
def tryQuads (s : State) (k : Kernel) : List Nat :=
  let l := tableQuads k.l2p
  let other := match k.intens with
    | .memory => some Intensity.compute
    | .compute => some Intensity.memory
    | .neutral => none
  if ((ctx? s k.ctx).map (fun c => c.cfg.isolated)).getD true then l
  else match other with
    | none => l
    | some i => l.filter (fun q => holdsClass s q i) ++ l.filter (fun q => !holdsClass s q i)

/-- The entry of a placement table: the quad and the cores it allows (R246). -/
def tableEntry (s : State) (l2p : List Nat) (e : BitVec 32) : Nat × List Nat :=
  let c := l2p.getD (bits e 15 0) 0 / 64
  (c / 4, if e.getLsbD 31 then quadCores s (c / 4) else [c])

/-- Where one group can go, given the room of the quads, and the room left: base, quad, allowed cores. -/
def placeGroup (s : State) (kid : Nat) (k : Kernel) (g : Nat) (rooms : List QRoom) :
    Option (Nat × Nat × List Nat × List QRoom) :=
  let cands := if k.lrec.place then [tableEntry s k.l2p (k.ptable.getD g 0)]
    else (tryQuads s k).map (fun q => (q, quadCores s q))
  firstSome (fun c =>
    (rooms.find? (fun x => x.quad == c.1)).bind (fun x =>
      (reserve kid k.lrec x).bind (fun y =>
        let done := fun z : QRoom => some (y.1, c.1, c.2, roomsWith z rooms)
        if k.lrec.gang then
          (reserveSlots k.lrec (fun n => c.2.contains n) k.lrec.threads y.2.cores).bind (fun l =>
            done { y.2 with cores := l })
        else done y.2))) cands

/-- The groups of a kernel that have no place yet, in ascending number. -/
def unplaced (k : Kernel) : List Nat := (upto 0 k.lrec.groups).filter (fun g => !tabHas k.groups g)

/-- A transaction for every group in turn (R246, R247): what is placed. An automatic placement goes in
ascending number and stops at the first group that fits nowhere; one of a table passes it over. -/
def placeAll (s : State) (kid : Nat) (k : Kernel) : List Nat → List QRoom → List (Nat × Nat × Nat × List Nat)
  | [], _ => []
  | g :: r, rooms =>
    match placeGroup s kid k g rooms with
    | some (base, q, cores, rooms') => (g, base, q, cores) :: placeAll s kid k r rooms'
    | none => if k.lrec.place then placeAll s kid k r rooms else []

/-- What a transaction for a kernel places now: one group; with GANG all groups or none (R247). -/
def placement (s : State) (kid : Nat) (rooms : List QRoom) : List (Nat × Nat × Nat × List Nat) :=
  let k := kernel s kid
  let l := placeAll s kid k (unplaced k) rooms
  if k.lrec.gang then (if l.length < k.lrec.groups then [] else l) else l.take 1

/-! ## The distributor's order (R248) -/

/-- May the distributor offer a kernel: READY and of a queue that is not HELD (R323), or RUNNING with groups still unplaced,
of a context that is RESIDENT? -/
def offerable (s : State) (k : Kernel) : Bool :=
  (k.st == .ready || (k.st == .running && decide (k.groups.length < k.lrec.groups))) && !k.tried && !k.busy
    && ((tabGet s.o.queues k.queue).map (fun q => q.st == .opened || (q.st == .held && k.st == .running))).getD false
    && ((ctx? s k.ctx).map (fun c => c.st == .resident && !c.switching && !c.halted)).getD false

/-- How often a kernel's context was served in its class on its die. -/
def ctxTurn (s : State) (k : Kernel) : Nat := tabD (((ctx? s k.ctx).map (·.turnAt)).getD []) (8 * k.die + k.cls) 0

/-- The weight of a context's share (R248). -/
def ctxShare (s : State) (c : Nat) : Nat := max 1 (((ctx? s c).map (·.cfg.quantum)).getD 1)

/-- Does the distributor serve kernel a before b (R248)? Of two contexts of one class it is the one served less often for
its weight. -/
def before (s : State) (a b : Kernel) : Bool :=
  decide (b.cls < a.cls) || (a.cls == b.cls &&
    (if a.ctx = b.ctx then decide (a.readyAt ≤ b.readyAt) else
      let x := ctxTurn s a * ctxShare s b.ctx
      let y := ctxTurn s b * ctxShare s a.ctx
      decide (x < y) || (x == y && decide (a.ctx < b.ctx))))

/-- A kernel's context has been served once more; the contexts that ask for nothing there do not save their turns up
(R248). -/
def served (k : Kernel) : Stage := fun s =>
  let key := 8 * k.die + k.cls
  let asks := fun c => s.o.kernels.any (fun y => y.2.ctx == c && y.2.die == k.die && y.2.cls == k.cls && offerable s y.2)
  let now := fun (c : Nat) (t : Tab Nat) =>
    if c = k.ctx then tabPut t key (ctxTurn s k + 1)
    else if asks c then t
    else tabPut t key (max (tabD t key 0) ((ctxTurn s k * ctxShare s c + ctxShare s k.ctx - 1) / ctxShare s k.ctx))
  [.obj (fun o => { o with ctxs := tabMap o.ctxs (fun c x => { x with turnAt := now c x.turnAt }) })]

/-- The kernel that a die's distributor serves next, unless a transaction is under way. -/
def nextKernel (s : State) (d : Nat) : Option Nat :=
  let l := s.o.kernels.filter (fun k => k.2.die == d)
  if l.any (fun k => k.2.busy) then none
  else ((sortBy (fun a b => before s a.2 b.2) (l.filter (fun k => offerable s k.2))).head?).map (·.1)

/-- Lets the distributor of a die serve its next kernel. -/
def distribute (d : Nat) : Stage := fun s =>
  match nextKernel s d with
  | some k => [.post s.now (.ev (.placementStart k))]
  | none => []

/-- Room may have come free: every kernel may be tried again. -/
def roomFreed : Stage := seqS [
  eff [.obj (fun o => { o with kernels := tabMap o.kernels (fun _ k => { k with tried := false }) })],
  distribute 0, distribute 1, distribute 2, distribute 3]

/-! ## Dispatch of tasks to slots -/

/-- The tasks that wait for a slot on a quad, saved ones among them (R248, R262, R263). -/
def waitingTasks (s : State) (q : Nat) : List (Nat × Task) :=
  s.o.tasks.filter (fun x => (x.2.st == .waiting || x.2.st == .saved) && mayRun s x.2
    && ((group? s x.2.kernel x.2.g).map (fun g => g.quad == q)).getD false)

/-- The waiting tasks of a quad in order. -/
def offerOrder (s : State) (q : Nat) : List (Nat × Task) := sortBy (fun a b => taskBefore s a.2 b.2) (waitingTasks s q)

/-- The lowest FREE slot of a core. -/
def freeSlotOf (s : State) (c : Nat) : Option Nat := (upto (64 * c) 64).find? (fun x => !occupied s x)

/-- The cores of a group as they stand, for a task: what is left once every REGROWING slot is served. -/
def taskRooms (s : State) (t : Task) : List CRoom := (((group? s t.kernel t.g).map (·.cores)).getD []).map (coreRoom s)

/-- What a task needs of a core: its launch's figures, or those of its image (R94, R100). -/
def taskNeed (s : State) (t : Task) : LRec :=
  let r := (kernel s t.kernel).lrec
  match t.image with
  | some im => { r with regs := im.cur + im.heldRegs }
  | none => r

/-- The cores on which a task, and with it a trailer, can be dispatched now. -/
def coresFor (s : State) (t : Task) : Option (Nat × Option Nat) :=
  let r := taskNeed s t
  let l := taskRooms s t
  match bestCore r l (fun _ => true) with
  | none => none
  | some c =>
    if (kernel s t.kernel).lrec.redundant then
      (bestCore r.trailer l (fun x => x != c)).map (fun d => (c, some d))
    else some (c, none)

/-- A task starts in a slot, or its image is resumed there, if it can be read back (R66, R94, R340). -/
def dispatch (tk : Nat) (t : Task) (slot : Nat) (pair : Option Nat) : Stage := pick (fun s =>
  if t.image.isSome then
    [if frameLost s (kernel s t.kernel).ctx t.frame 196608 t.savedAt then imageLost tk t t.frame else resumeTask tk slot pair]
  else [startTask slot tk pair])

/-- Dispatches the next of some tasks that fits somewhere, up to n times (R245). -/
def dispatchFrom (l : State → List (Nat × Task)) : Nat → Stage
  | 0 => skip
  | n + 1 => pick (fun s =>
    match firstSome (fun x => (coresFor s x.2).bind (fun c => (freeSlotOf s c.1).map (fun sl =>
        (x, sl, c.2.bind (freeSlotOf s))))) (l s) with
    | none => []
    | some (x, sl, pair) => [dispatch x.1 x.2 sl pair, dispatchFrom l n])

/-- Dispatches the next waiting task of a quad that fits somewhere, up to n times (R245, R262). -/
def dispatchN (q : Nat) : Nat → Stage := dispatchFrom (fun s => offerOrder s q)

/-- The task of a launch that waits for a slot takes one that has been given up, a trailer's with it, where it fits (R84). -/
def takeSlot (k self slot : Nat) (trail : Option Nat) : Stage := pick (fun s =>
  match waitingOn s k (coreOf slot) self with
  | none => []
  | some (tk, t) =>
    let fits := fun sl => !occupied s sl && (taskRooms s t).any (fun y => y.core == coreOf sl && y.fits (taskNeed s t))
    if fits slot && trail.all fits then [dispatch tk t slot trail] else [])

/-! ## Placement -/

/-- The window of R247 in cy: 2 µs. -/
def placeBound : Nat := 3800

/-- The distributor starts a transaction; it reads the table as committed now (R244, R247). -/
def placeStarts (k : Nat) : Stage := pick (fun s =>
  let x := kernel s k
  if nextKernel s x.die ≠ some k then [] else
  [served x,
   eff [onKernel k (fun x => { x with busy := true, st := if x.st = .ready then .placing else x.st
                                      l2p := ((ctx? s x.ctx).map (·.l2p)).getD [] })],
   postIn (kernel s k).ctx placeBound (.ev (.placementEnd k))])

/-- PLACEMENT_START (R247). -/
def execPlacementStart (k : Nat) (s : State) : Host.Outcome State Fault Refusal := fire [placeStarts k] s

/-- What a core that takes a group is given: the recipes, the hearth image and the capability (R107, R211,
R235); SLEEPCFG is 0 when a new launch takes the core (R76). -/
def equipCore (k : Nat) (x : Kernel) (c : Nat) : Stage := fun s =>
  let img := x.lrec.hmask.zip x.himage
  [onCore c (fun y => { y with
    sleepcfg := if y.recipes.contains k then y.sleepcfg else 0
    recipes := setAdd y.recipes k
    hearth := tabMod (img.foldl (fun h r => tabMod h r.1 {} (hearthWrite s.now r.2)) y.hearth)
      x.lrec.caph {} (hearthWrite s.now (ext64 x.cap)) })]

/-- A group takes its place (R156, R217, R245, R249): the region zero and its tags empty, its barriers set,
its counters closed, and its first tasks waiting (R232, R260, R263). -/
def placeOne (k : Nat) (p : Nat × Nat × Nat × List Nat) : Stage := pick (fun s =>
  let x := kernel s k
  let (g, base, q, cores) := p
  let r := x.lrec
  let bars : Tab Bar := (upto 0 r.qbar).map (fun n => (n, ({ p := r.threads } : Bar)))
  [eff [onKernel k (fun y => { y with groups := tabPut y.groups g { quad := q, base := base, cores := cores, bars := bars } }),
    onQuad q (fun y => { y with ctx := x.ctx, full := y.full.filter (fun o => !(decide (base ≤ o) && decide (o < base + r.scratch))) })], eff (wipe (scratchLoc q base) r.scratch)] ++
  cores.map (equipCore k x) ++
  (upto 0 r.threads).map (fun t => newTask
    { kernel := k, w := g * r.threads + t, g := g, t := t, ts := r.tsbase, keyTs := r.tsbase, entry := r.entry }))

/-- The waiting tasks of a kernel, in the order of R262. -/
def kernelTasks (s : State) (k : Nat) : List (Nat × Task) :=
  sortBy (fun a b => taskBefore s a.2 b.2) (s.o.tasks.filter (fun x => x.2.kernel == k && x.2.st == .waiting && mayRun s x.2))

/-- A transaction commits or rolls back (R235, R247). A SUSPEND that waited for its end follows; else the tasks of a gang take
their slots together. -/
def placeEnds (k : Nat) : Stage := pick (fun s =>
  let x := kernel s k
  if !x.busy then [] else
  let l := if x.st = .placing || x.st = .running then
      placement s k ((tableQuads x.l2p).map (quadRoom s)) else []
  let st : KSt := if x.st = .placing then (if l.isEmpty then .ready else .running) else x.st
  let measured := !x.lrec.place && !((ctx? s x.ctx).map (fun c => c.cfg.isolated)).getD true
  [eff [onKernel k (fun y => { y with busy := false, tried := l.isEmpty && (x.st == .placing || x.st == .running), st := st
                                      measuring := y.measuring || (st == .running && x.st == .placing && measured) })]] ++
  l.map (placeOne k) ++
  [if l.isEmpty then skip else eff [.post s.now (.ev (.floorChange k)), .post s.now (.ev (.recordPost k))],
   if x.suspending && st == .running then eff [onKernel k (fun y => { y with
        suspending := false, st := .suspended
        groups := tabMap y.groups (fun _ g => if g.st = .placed then { g with st := .suspended } else g) })]
     else seqS [eff [onKernel k (fun y => { y with suspending := false })],
       if x.lrec.gang then dispatchFrom (fun s => kernelTasks s k) (l.length * x.lrec.threads) else skip],
   distribute x.die])

/-- PLACEMENT_END (R247). -/
def execPlacementEnd (k : Nat) (s : State) : Host.Outcome State Fault Refusal := fire [placeEnds k] s

/-- KERNEL_READY (R235): the predecessor count is 0, and the kernel is offered to the distributor. -/
def kernelReady (k : Nat) : Stage := pick (fun s =>
  let x := kernel s k
  if x.st = .waiting ∧ x.preds.isEmpty then
    [eff [onKernel k (fun y => { y with st := .ready, readyAt := s.fresh }), .draw 1], distribute x.die]
  else [])

/-- KERNEL_READY. -/
def execKernelReady (k : Nat) (s : State) : Host.Outcome State Fault Refusal := fire [kernelReady k] s

/-- The class of a kernel by its measure (R250); the quotient of zero by zero gives a free one. -/
def intensity (free busy bytes : Nat) : Intensity :=
  if busy = 0 ∧ bytes = 0 then (match Config.freeNat free % 3 with
    | 0 => .neutral
    | 1 => .compute
    | _ => .memory)
  else if bytes ≤ 4 * busy then .compute else if 16 * busy < bytes then .memory else .neutral

/-- The measure of intensity ends (R250): matrix-busy cycles over global bytes moved, since its start. -/
def classify (k busy bytes : Nat) : Stage := fun s =>
  if (kernel s k).measuring then
    [onKernel k (fun x => { x with measuring := false, intens := intensity s.fresh (x.matrix - busy) (x.moved - bytes) }), .draw 1]
  else []

/-- CLASSIFY_END (R250). -/
def execClassifyEnd (k busy bytes : Nat) (s : State) : Host.Outcome State Fault Refusal := fire [classify k busy bytes] s

/-! ## Reclaim (R114) -/

/-- May the block below the current limit of a window be taken, where C is now `c`? -/
def blockFree (s : State) (slot : Nat) (t : Thread) (c : Nat) : Bool :=
  let ops := fun r => match t.arch.tag r with
    | .recipe n => recipeRegs (recipeOf s slot n)
    | _ => []
  decide (16 ≤ c) &&
  (upto (c - 8) 8).all (fun r => t.arch.tag r != .none && !pending t r && (t.arch.strm r).isNone
    && (ops r).all (fun m => !(decide (r < m) && decide (c - 8 ≤ m)))) &&
  (upto 1 (c - 9)).all (fun r => (ops r).all (fun m => decide (m < c - 8)))

/-- The lowest limit that a window can be brought to, a block at a time. -/
def lowest (s : State) (slot : Nat) (t : Thread) : Nat → Nat → Nat
  | 0, c => c
  | n + 1, c => if blockFree s slot t c then lowest s slot t n (c - 8) else c

/-- The slots of a core in the order of reclaim, with what each can give: SLEEPING ones, then PARKED. -/
def givers (s : State) (c : Nat) : List (Nat × Nat) :=
  let ok := fun (x : Nat × Thread) => !x.2.reclaimed && (match x.2.wait with
    | some (.window _) => false
    | _ => true)
  let l := (coreSlots s c).filter ok
  ((l.filter (fun x => x.2.st == .sleeping)) ++ (l.filter (fun x => x.2.st == .parked))).map (fun x =>
    (x.1, x.2.cur - lowest s x.1 x.2 14 x.2.cur))

/-- Takes blocks from the givers until enough is freed. -/
def takeBlocks : Nat → List (Nat × Nat) → List (Nat × Nat)
  | 0, _ => []
  | _, [] => []
  | need + 1, (sl, n) :: r =>
    let k := min n ((need + 8) / 8 * 8)
    if k = 0 then takeBlocks (need + 1) r else (sl, k) :: takeBlocks (need + 1 - k) r

/-- Entries that a core must have free to admit a task (R114). -/
def entriesWanted (s : State) (c : Nat) (t : Task) : Nat := (kernel s t.kernel).lrec.regs + regrowNeed s c

/-- Does a core lack entries alone for a task, and can its slots give them (R114)? -/
def canReclaim (s : State) (c : Nat) (t : Task) : Bool :=
  decide (entriesFree s c < entriesWanted s c t)
    && decide (entriesWanted s c t ≤ entriesFree s c + total ((givers s c).map (·.2)))
    && decide ((coreSlots s c).length < 64) && decide (anvilsUsed s c + (taskNeed s t).anvils ≤ 8)
    && decide (tcmUsed s c + (taskNeed s t).tcm ≤ 65536)

/-- Reclaims entries of a core for a task that waits for a slot there (R114). -/
def reclaim (c : Nat) (t : Task) : Stage := fun s =>
  if canReclaim s c t then
    (takeBlocks (entriesWanted s c t - entriesFree s c) (givers s c)).map (fun x =>
      onThr x.1 (fun t => { t with cur := t.cur - x.2, reclaimed := true }))
  else []

/-- Where slots that have come to sleep or to park can give what the next waiting task lacks, slots are offered
again (R114). -/
def reclaimDue (c : Nat) : Stage := fun s =>
  match (offerOrder s (c / 4)).head? with
  | some x => if (taskRooms s x.2).any (fun y => y.core == c) && canReclaim s c x.2 then offer (c / 4) s else []
  | none => []

/-- Regrows and wakes the REGROWING slots of a quad that entries have come free for (R114). -/
def regrowAll (q : Nat) : Stage := each
  (fun s => s.o.slots.filter (fun x => quadOf x.1 == q && decide (x.1 < 2 ^ 18) && (match x.2.wait with
    | some (.window _) => true
    | _ => false)))
  (fun x => wakeSlot x.1)

/-- What a task that still waits asks for: entries, or the slot of another (R114, R248, R270). -/
def askRoom (q : Nat) : Stage := pick (fun s => match (offerOrder s q).head? with
  | none => []
  | some x => ((taskRooms s x.2).map (fun c => reclaim c.core x.2)) ++ [dispatchN q 1,
      fun s => if (offerOrder s q).isEmpty then [] else [.post s.now (.ev (.classPreempt q))]])

/-- Free slots of a quad are offered to its waiting tasks; where only entries lack, the core reclaims; what
still waits may pre-empt a lower class or take a gated slot (R114, R245, R248, R262, R270); groups are offered the room that
has come free (R246). -/
def dispatchAll (q : Nat) : Stage := seqS [regrowAll q, dispatchN q 256, kick, askRoom q, distribute 0, distribute 1, distribute 2, distribute 3]

/-- TASK_DISPATCH (R245). -/
def execTaskDispatch (q : Nat) (s : State) : Host.Outcome State Fault Refusal := fire [dispatchAll q] s

/-! ## Class pre-emption and gated slots -/

/-- The slots on allowed cores of a task's group, with their threads. -/
def allowedSlots (s : State) (t : Task) : List (Nat × Thread) :=
  (((group? s t.kernel t.g).map (·.cores)).getD []).flatMap (coreSlots s)

/-- Is every slot of some cores taken? -/
def coresFull (s : State) (l : List Nat) : Bool := l.all (fun c => decide (64 ≤ (coreSlots s c).length))

/-- Is every slot on the allowed cores of a task taken (R270)? -/
def slotsFull (s : State) (t : Task) : Bool := coresFull s (((group? s t.kernel t.g).map (·.cores)).getD [])

/-- The slot that a waiting task of a higher class pre-empts (R248): lowest class, then highest slot number,
then highest core index. -/
def classVictim (s : State) (t : Task) : Option Nat :=
  let c := (kernel s t.kernel).cls
  let l := (allowedSlots s t).filter (fun x => x.2.st != .quarantined && x.2.st != .shadow
    && decide ((kernel s x.2.kernel).cls < c))
  if (allowedSlots s t).any (fun x => x.2.stop) then none
  else (leastBy (fun x => (kernel s x.2.kernel).cls * 2 ^ 20 + (63 - x.1 % 64) * 4 + (3 - x.1 / 64 % 4)) l).map (·.1)

/-- The pre-emption of a lower class on a quad; where there is none to pre-empt, a gated slot may be taken. -/
def classPreempts (q : Nat) : Stage := pick (fun s =>
  match (offerOrder s q).find? (fun x => coresFull s (quadCores s q) && (classVictim s x.2).isSome) with
  | some x => [(match classVictim s x.2 with
      | some v => evNow (.preemptionRequest v)
      | none => skip)]
  | none => [evNow (.gatedSlotTake q)])

/-- CLASS_PREEMPT (R248). -/
def execClassPreempt (q : Nat) (s : State) : Host.Outcome State Fault Refusal := fire [classPreempts q] s

/-- The slot that a waiting task takes from a task whose chunk waits for its floor (R268, R270): the highest
timestamp above its own, then the highest order key. -/
def gatedVictim (s : State) (t : Task) : Option Nat :=
  let l := (allowedSlots s t).filter (fun x => x.2.chunk.st == .validating && x.2.chunk.blocked
    && !x.2.chunk.firm && !(gates s x.1).all (fun f => decide (x.2.chunk.ts ≤ f)) && decide (tsOf s t < x.2.chunk.ts))
  if (allowedSlots s t).any (fun x => x.2.stop) then none else
  ((sortBy (fun a b =>
      let x := taskOf s a.1
      let y := taskOf s b.1
      decide (b.2.chunk.ts < a.2.chunk.ts) || (a.2.chunk.ts == b.2.chunk.ts
        && keyLe (y.w, y.keyTs, y.cn) (x.w, x.keyTs, x.cn))) l).head?).map (·.1)

/-- A gated chunk gives up its slot (R97, R270): it is discarded, and the task is saved at its start, to wait again; the slot
is then offered. -/
def yieldGated (slot : Nat) : Stage := seqS [giveUp slot, stopFor slot .gated, evNow (.preemptionComplete slot)]

/-- A waiting task takes a gated slot. -/
def gatedTake (q : Nat) : Stage := pick (fun s =>
  match firstSome (fun x => if slotsFull s x.2 then gatedVictim s x.2 else none) (offerOrder s q) with
  | none => []
  | some v => [yieldGated v])

/-- GATED_SLOT_TAKE (R270). -/
def execGatedSlotTake (q : Nat) (s : State) : Host.Outcome State Fault Refusal := fire [gatedTake q] s

/-! ## The end of nodes -/

/-- A queue that closes is FREE once its last kernel is freed (R323). -/
def queueSettle (q : Nat) : Stage := fun s =>
  match tabGet s.o.queues q with
  | some x =>
    if x.st == .closing && !(s.o.kernels.any (fun k => k.2.queue == q && k.2.st != .done && k.2.st != .killed))
    then [.obj (fun o => { o with queues := tabDel o.queues q })] else []
  | none => []

/-- Successors of a node that is DONE lose a predecessor; those that have none left become READY (R235, R364). -/
def nodeDone (n : Nat) : Stage := seqS [
  eff [.obj (fun o => { o with
    kernels := tabMap o.kernels (fun _ k => { k with preds := k.preds.filter (· != n) })
    billets := tabMap o.billets (fun _ b => { b with preds := b.preds.filter (· != n) }) })],
  fun s => (s.o.kernels.filter (fun k => k.2.st == .waiting && k.2.preds.isEmpty)).map (fun k => .post s.now (.ev (.kernelReady k.1))) ++
    (setAddAll [] ((s.o.billets.filter (fun b => b.2.st == .waiting && b.2.preds.isEmpty)).map (fun b => b.2.die))).map
      (fun d => .post s.now (.ev (.billetStart d)))]

/-- The mark of a predecessor that is gone for good: no node ever takes this number (R237). -/
def goneMark (n : Nat) : Nat := n + 2 ^ 33

/-- A node is KILLED or dropped: its successors stay blocked, and each is reported to the host (R237). -/
def nodeKilled (n : Nat) : Stage := pick (fun s =>
  let ks := s.o.kernels.filter (fun k => k.2.preds.contains n && k.2.st == .waiting)
  let bs := s.o.billets.filter (fun b => b.2.preds.contains n && b.2.st == .waiting)
  ks.map (fun k => kernelEgress k.1 20 (BitVec.ofNat 256 k.1) []) ++
  bs.map (fun b => egress b.2.ctx b.2.queue 20 b.2.root (BitVec.ofNat 256 b.1) []) ++
  [eff [.obj (fun o => { o with
    kernels := tabMap o.kernels (fun _ k => { k with preds := k.preds.map (fun p => if p = n then goneMark n else p) })
    billets := tabMap o.billets (fun _ b => { b with preds := b.preds.map (fun p => if p = n then goneMark n else p) }) })]])

/-- Channels of a kernel, its recipes in the cores and its reservations go (R223, R235, R236). -/
def kernelFreed (k : Nat) : Stage := eff [.obj (fun o => { o with
  quads := tabMap o.quads (fun _ q => { q with chans := q.chans.filter (fun c => c.2.kernel != k) })
  cores := tabMap o.cores (fun _ c => { c with recipes := c.recipes.filter (· != k) })
  barSends := o.barSends.filter (fun b => b.2.kernel != k) })]

/-- A kernel completes (R235, R236): its counter is incremented, then successors lose a predecessor, and the
host is told. -/
def kernelCompletes (k : Nat) : Stage := pick (fun s =>
  let x := kernel s k
  if x.st = .running && x.left == 0 then
    [eff [onKernel k (fun y => { y with st := .done, dbars := [] })],
     kernelFreed k, bumpCounter x.ctx (x.queue, x.root) x.lrec.counter, nodeDone k,
     kernelEgress k 17 (BitVec.ofNat 256 k) [], evNow (.recordPost k), queueSettle x.queue, roomFreed]
  else [])

/-- KERNEL_COMPLETE (R236). -/
def execKernelComplete (k : Nat) (s : State) : Host.Outcome State Fault Refusal := fire [kernelCompletes k] s

/-- States in which a kernel can be killed (R235). -/
def killable (k : Kernel) : Bool := k.st != .done && k.st != .killed

/-- A kernel is KILLED (R235, R237): no chunk of it commits, its slots, regions, barriers and channels are
free, and its counter is unchanged. -/
def killKernel (k : Nat) : Stage := pick (fun s =>
  let x := kernel s k
  if !tabHas s.o.kernels k || !killable x then [] else
  let ts := s.o.tasks.filter (fun t => t.2.kernel == k)
  (s.o.slots.filter (fun y => y.2.kernel == k)).map (fun y => seqS [eff (wipe (tcmLoc y.1 0) x.lrec.tcm), freeSlot y.1]) ++
  ts.map (fun t => dropTask t.1) ++
  [eff [.obj (fun o => { o with
      tasks := o.tasks.filter (fun t => t.2.kernel != k)
      loops := o.loops.filter (fun l => l.2.kernel != k)
      resv := o.resv.filter (fun w => ((tabGet s.o.slots w.2).map (fun t => t.kernel != k)).getD true)
      subs := o.subs.filter (fun r => !(ts.any (fun t => t.1 == r.2.task))) }),
    onKernel k (fun y => { y with st := .killed, busy := false, recs := [], posted := [], ord := [], ordDone := [], dbars := [], epoch := []
                                  groups := tabMap y.groups (fun _ g => if g.st = .ended then g else { g with st := .killed, bars := [], nests := [] }) })],
   (fun s => if s.o.kernels.any (fun y => y.2.ctx == x.ctx && y.2.st == .halted) then []
     else [onCtx x.ctx (fun c => { c with halted := false })] : Stage),
   kernelFreed k, nodeKilled k, queueSettle x.queue, roomFreed] ++
  (setAddAll [] (x.groups.map (fun g => g.2.quad))).map offer)

/-- SUSPEND of a kernel (R235, R249): its slots are pre-empted; one that is being placed waits for the end of
its transaction. -/
def suspendKernel (k : Nat) : Stage := pick (fun s =>
  let x := kernel s k
  if x.busy && x.st == .placing then [eff [onKernel k (fun y => { y with suspending := true })]]
  else if x.st = .running then
    [eff [onKernel k (fun y => { y with
          st := .suspended
          groups := tabMap y.groups (fun _ g => if g.st = .placed then { g with st := .suspended } else g) })],
     (fun s => (s.o.slots.filter (fun y => y.2.kernel == k && y.2.st != .shadow)).map (fun y => .post s.now (.ev (.preemptionRequest y.1))) : Stage)]
  else [])

/-- RESUME of a kernel (R235, R249): its tasks wait for slots on their quads again; one whose last task ended meanwhile
completes. -/
def resumeKernel (k : Nat) : Stage := pick (fun s =>
  let x := kernel s k
  if x.st = .suspended then
    [eff [onKernel k (fun y => { y with
          st := .running, tried := false
          groups := tabMap y.groups (fun _ g => if g.st = .suspended then { g with st := .placed } else g) })],
     if x.left = 0 then evNow (.kernelComplete k) else skip] ++
    (setAddAll [] (x.groups.map (fun g => g.2.quad))).map offer ++ [distribute x.die]
  else [])

end Sys2Proof.Machine
end

