-- ==== Sys2Proof/Machine/Graph.lean ====
section
/-!
DEFINITION. Graph: the work identifier (R232, R233), the launch record and its checks (R107, R229, R231,
R246, R371), the billet and its checks (R358, R359, R362), the graph unit (R235, R363), submissions
(R238, R365 to R367), and the copy engines (R359 to R361, R364).
-/

namespace Sys2Proof.Machine

open Sys2Proof

/-! ## WID -/

/-- The value that WID gives for N (R233). -/
def widValue (s : State) (slot n : Nat) : Option Nat :=
  let t := taskOf s slot
  let r := recOf s slot
  match n with
  | 6 => some t.w
  | 7 => some t.g
  | 8 => some t.t
  | _ => if n < 6 ∧ n < r.widths.length then some (widField r t.w n) else none

/-- WID reads a field of the work identifier (R233). -/
def planWid (ls : LS) (d n : BitVec 7) (s : State) : Plan :=
  let v := widValue s s.cur n.toNat
  (cPlan ls (regPlan s s.cur v.isSome [fw d])).does [wr s.cur d.toNat (ext64 (BitVec.ofNat 64 (v.getD 0)))]
/-- WID. -/
def execWid (ls : LS) (d n : BitVec 7) (s : State) : Host.Outcome State Fault Refusal := fireC (planWid ls d n) s

/-! ## Reading for the module's own units -/

/-- A field of n bytes at an offset. -/
def fld (bs : List Byte) (off n : Nat) : Nat := ofBytes ((bs.drop off).take n)

/-- The granules of 64 KiB that a region of bytes meets (R363); none where it is unused. -/
def granules (base len : Nat) : List (Nat × Nat) :=
  if len = 0 then [] else [(base / 65536, (base + len - 1) / 65536 + 1 - base / 65536)]

/-! ## The launch record (R229) -/

/-- The launch record in its 256 bytes. -/
def parseRec (bs : List Byte) : LRec :=
  let f := fld bs
  let reg := fun j => granules (f (128 + 16 * j) 8) (f (136 + 16 * j) 8)
  { text := f 0 8, textlen := f 8 8, entry := f 16 4
    handler := if f 20 4 = 2 ^ 32 - 1 then none else some (f 20 4)
    groups := f 24 4, threads := f 28 2, regs := f 30 1, anvils := f 31 1, tcm := f 32 4, scratch := f 36 4
    qbar := f 40 1, dbar := f 41 1, ordch := f 42 1, recipes := f 43 1
    determ := (f 44 1).testBit 0, redundant := (f 44 1).testBit 1, twin := (f 44 1).testBit 2
    prio := f 45 1 % 8, gang := (f 46 1).testBit 0, racewatch := (f 46 1).testBit 1
    place := f 46 1 / 4 % 4 == 1, caph := f 47 1 / 16
    widths := (upto 56 (f 47 1 % 8)).map (fun i => f i 1)
    super := if f 48 8 = 2 ^ 64 - 1 then none else some (f 48 8)
    hmask := (upto 0 16).filter (fun j => (f 62 2).testBit j)
    tsbase := f 64 8, ordptr := f 96 8, counter := f 104 8
    reads := (upto 0 4).flatMap reg, writes := (upto 4 4).flatMap reg }

/-- Is a value an address in the global realm (R341)? -/
def isAddr (a : Nat) : Bool := decide (a < 2 ^ 55)

/-- Does a launch record break a field rule (R229, R371: FIELD)? -/
def recFieldBad (bs : List Byte) : Bool :=
  let f := fld bs
  let r := parseRec bs
  let wc := f 47 1 % 8
  f 112 16 != 0 || (upto 0 8).any (fun j => !isAddr (f (128 + 16 * j) 8))
    || f 104 8 % 8 != 0 || !isAddr (f 104 8) || f 96 8 % 8 != 0 || !isAddr (f 96 8)
    || !isAddr (f 88 8) || !isAddr (f 80 8) || !isAddr (f 72 8)
    || (upto 0 6).any (fun i => let w := f (56 + i) 1
         if i < wc then decide (w = 0) || decide (64 < w) else w != 0)
    || (f 47 1).testBit 3 || decide (wc = 0) || decide (6 < wc)
    || decide (16 ≤ f 46 1) || decide (2 ≤ f 46 1 / 4) || decide (8 ≤ f 45 1) || decide (8 ≤ f 44 1)
    || decide (32 < r.recipes) || decide (16 < r.ordch) || decide (16 < r.dbar) || decide (16 < r.qbar)
    || r.scratch % 64 != 0 || decide (2 ^ 20 < r.scratch) || r.tcm % 16 != 0 || decide (65536 < r.tcm)
    || decide (8 < r.anvils) || r.regs % 8 != 0 || decide (r.regs < 8) || decide (112 < r.regs)
    || decide (r.threads = 0) || decide ((if r.redundant then 128 else 256) < r.threads) || decide (r.groups = 0)
    || r.entry % 8 != 0 || decide (r.textlen ≤ r.entry)
    || (match r.handler with
        | some h => h % 8 != 0 || decide (r.textlen ≤ h)
        | none => false)
    || r.textlen % 8 != 0 || decide (r.textlen < 8) || decide (2 ^ 24 < r.textlen)
    || r.text % 64 != 0 || !isAddr r.text
    || (r.redundant && r.twin) || r.hmask.contains r.caph || (r.place && decide (65536 < r.groups))
    || (match r.super with
        | some w => decide (r.groups * r.threads ≤ w) || decide (r.scratch < 2048)
        | none => false)

/-- Does a placement table break its rules (R246: FIELD)? -/
def tableBad (r : LRec) (cores : Nat) (t : List (BitVec 32)) : Bool :=
  t.any (fun e => bits e 30 16 != 0 || decide (cores ≤ bits e 15 0)
    || (!e.getLsbD 31 && (decide (64 < r.threads) || r.redundant)))

/-- Is an operand of a recipe operation allowed (R107)? -/
def recipeArgOk (r : LRec) (kind v : Nat) : Bool :=
  match kind with
  | 0 => true
  | 1 => decide (1 ≤ v) && decide (v < r.regs)
  | 2 => decide (v < 16)
  | 3 => decide (v < r.widths.length)
  | 4 | 5 => true
  | _ => false

/-- Is a recipe operation allowed (R107, R108)? -/
def recipeOpOk (r : LRec) (w : BitVec 32) : Bool :=
  let op := bits w 31 27
  decide (op ≤ 13) && recipeArgOk r (bits w 26 24) (bits w 23 17) && recipeArgOk r (bits w 16 14) (bits w 13 0)
    && (op != 12 || (bits w 16 14 == 0 && bits w 13 0 == 0))

/-- Does a recipe break R107 (RECIPE)? -/
def recipeBad (r : LRec) (ws : List (BitVec 32)) : Bool :=
  let ops := recipeOps ws
  ops.isEmpty || ops.any (fun w => !recipeOpOk r w) || (ws.drop ops.length).any (fun w => bits w 31 27 != 0)

/-- 32-bit words of bytes. -/
def words4 (bs : List Byte) (n : Nat) : List (BitVec 32) := (upto 0 n).map (fun i => BitVec.ofNat 32 (fld bs (4 * i) 4))

/-- Is the table a permutation of the enabled cores (R244)? -/
def tableWhole (s : State) (x : Ctx) : Bool :=
  let l := defaultTable s x.cfg.partDies x.cfg.partQuads
  l.length == x.l2p.length && l.all (fun e => x.l2p.contains e)

/-- No placement in the partition can ever succeed (R231, R246, R377: FIT): no quad could take a group of
the launch, or its table of logical cores is no permutation, or its gang does not fit the empty partition. `ents` are the
entries of the placement table that could be read: a gang whose table is not known whole is held to the whole partition. -/
def fitBad (s : State) (x : Ctx) (k : Kernel) (ents : List (Option (BitVec 32))) : Bool :=
  let r := k.lrec
  let known := ents.all Option.isSome
  let k := { k with l2p := x.l2p, lrec := { r with place := r.place && known } }
  let quads := tableQuads (defaultTable s x.cfg.partDies x.cfg.partQuads)
  let rooms := quads.map (emptyRoom s)
  (r.place && !tableWhole s x) || rooms.all (fun q => (reserve 0 r q).isNone) ||
  (if r.gang then decide ((placeAll s 0 k (upto 0 r.groups) rooms).length < r.groups)
   else (ents.filterMap id).any (fun e => ((rooms.find? (fun q => q.quad == (tableEntry s x.l2p e).1)).bind (reserve 0 r)).isNone))

/-! ## The billet (R358) -/

/-- A footprint region of a billet. -/
def footOf (v : Nat) : List (Nat × Nat) := if v % 2 ^ 25 = 0 then [] else [(v / 2 ^ 25, v % 2 ^ 25)]

/-- The billet in its 128 bytes. -/
def parseBillet (bs : List Byte) : Billet :=
  let f := fld bs
  { addr := 0, die := 0, ctx := 0, queue := 0, root := 0, kernel := 0
    op := f 0 1, snear := (f 2 1).testBit 0, dnear := (f 2 1).testBit 1
    len := f 16 4, rows := f 20 4, sstride := signed 32 (f 24 4), dstride := signed 32 (f 28 4)
    src := BitVec.ofNat 64 (f 32 8), dst := BitVec.ofNat 64 (f 40 8), aux := BitVec.ofNat 64 (f 48 8)
    counter := f 56 8
    reads := (upto 0 4).flatMap (fun j => footOf (f (64 + 8 * j) 8))
    writes := (upto 4 4).flatMap (fun j => footOf (f (64 + 8 * j) 8)), order := 0 }

/-- Element width of a billet in bytes, from DST's format (R359). -/
def Billet.elem (b : Billet) : Nat := codeWidth (ptrFmt b.dst) / 8

/-- COPY, COPY2D and FILL do not use the formats (R359). -/
def Billet.plain (b : Billet) : Bool := b.op == 1 || b.op == 2 || b.op == 5

/-- Is a pointer of a billet right (R31, R359): its format, no block scale, element layout where the
operation uses the format, and for a near one an address of the remote window? -/
def Billet.ptrFits (b : Billet) (p : Dword) (near : Bool) : Bool :=
  let a := if b.plain then 16 else max b.elem 1
  decide (1 ≤ ptrFmt p) && decide (ptrFmt p ≤ 19) && ptrBlog p == 0 && ptrAddr p % a == 0
    && (b.plain || (!p.getLsbD 55 && codeWidth (ptrFmt p) % 8 == 0))
    && (!near || (decide (ptrAddr p < 2 ^ 32) && decide (2 ^ 31 ≤ ptrAddr p)))

/-- Do regions cover the bytes from a to b (b not among them)? Each region extends what is covered. -/
def covered (l : List (Nat × Nat)) (a b : Int) : Bool :=
  let step := fun p : Int => l.foldl (fun q r =>
    if ((r.1 * 65536 : Nat) : Int) ≤ p ∧ p < (((r.1 + r.2) * 65536 : Nat) : Int) then max q (((r.1 + r.2) * 65536 : Nat) : Int) else q) p
  decide (b ≤ step (step (step (step a))))

/-- The first byte of row r of a side of a billet. -/
def Billet.rowAt (b : Billet) (src : Bool) (r : Nat) : Int :=
  if src then (ptrAddr b.src : Int) + (r : Int) * b.sstride else (ptrAddr b.dst : Int) + (r : Int) * b.dstride

/-- Do the extents that are known lie in the declared regions of their kind (R361, R362)? -/
def Billet.extentsOk (b : Billet) : Bool :=
  let e := b.elem
  let src := (ptrAddr b.src : Int)
  let dst := (ptrAddr b.dst : Int)
  let n := b.len * e
  match b.op with
  | 1 | 2 =>
    (b.snear || (upto 0 b.rows).all (fun r => covered b.reads (b.rowAt true r) (b.rowAt true r + b.len)))
      && (b.dnear || (upto 0 b.rows).all (fun r => covered b.writes (b.rowAt false r) (b.rowAt false r + b.len)))
  | 3 => covered b.writes dst (dst + n) && covered b.reads b.aux.toNat (b.aux.toNat + 4 * b.len)
  | 4 => covered b.reads src (src + n) && covered b.reads b.aux.toNat (b.aux.toNat + 4 * b.len)
  | 5 => covered b.writes dst (dst + b.len)
  | _ => covered b.reads src (src + n) && covered b.writes dst (dst + n) && covered b.reads dst (dst + n)

/-- Does a billet break a field rule (R358, R359, R362: FIELD)? -/
def billetFieldBad (bs : List Byte) : Bool :=
  let f := fld bs
  let b := parseBillet bs
  let indexed := b.op == 3 || b.op == 4
  decide (b.op = 0) || decide (6 < b.op) || f 1 1 != 0 || decide (4 ≤ f 2 1) || f 3 13 != 0
    || decide (b.len = 0) || (b.plain && b.len % 16 != 0)
    || (if b.op = 2 then decide (b.rows = 0) || decide (2 ^ 24 < b.rows) else b.rows != 1)
    || (b.op != 2 && (f 24 4 != 0 || f 28 4 != 0))
    || (b.op == 2 && decide (1 < b.rows) && (b.sstride % 16 != 0 || b.dstride % 16 != 0))
    || (if b.op = 5 then f 32 8 != 0 else !b.ptrFits b.src b.snear) || !b.ptrFits b.dst b.dnear
    || ((b.snear || b.dnear) && b.op != 1 && b.op != 2)
    || (if b.op = 5 then false else if indexed then f 48 8 % 4 != 0 || !isAddr (f 48 8) else f 48 8 != 0)
    || (!b.plain && ptrFmt b.src != ptrFmt b.dst) || (b.op == 6 && decide (8 < ptrFmt b.dst))
    || f 56 8 % 8 != 0 || !isAddr (f 56 8) || !b.extentsOk

/-! ## The graph unit -/

/-- Is a billet a node of the graph unit (R363, R364)? -/
def Billet.pending (b : Billet) : Bool := b.st != .done && b.st != .dropped

/-- Is a kernel a node of the graph unit? -/
def Kernel.pending (k : Kernel) : Bool := k.st != .done && k.st != .killed

/-- Nodes that a die's graph unit holds (R363). -/
def nodesOn (s : State) (d : Nat) : Nat :=
  (s.o.kernels.filter (fun k => k.2.die == d && k.2.pending)).length
    + (s.o.billets.filter (fun b => b.2.die == d && b.2.pending)).length

/-- Do two lists of granule regions overlap? -/
def regionsMeet (a b : List (Nat × Nat)) : Bool :=
  a.any (fun x => b.any (fun y => decide (x.1 < y.1 + y.2) && decide (y.1 < x.1 + x.2)))

/-- Does a new node wait for an earlier one, by their footprints (R363)? -/
def mustFollow (er ew nr nw : List (Nat × Nat)) : Bool := regionsMeet ew nr || regionsMeet ew nw || regionsMeet er nw

/-- The pending nodes of the context on the die that a new node follows (R363). -/
def edgesOf (s : State) (c d : Nat) (nr nw : List (Nat × Nat)) : List Nat :=
  setAddAll ((s.o.kernels.filter (fun k => k.2.ctx == c && k.2.die == d && k.2.pending
      && mustFollow k.2.lrec.reads k.2.lrec.writes nr nw)).map (·.1))
    ((s.o.billets.filter (fun b => b.2.ctx == c && b.2.die == d && b.2.pending
      && mustFollow b.2.reads b.2.writes nr nw)).map (·.1))

/-- Is an id held by a node that is not over (R235)? -/
def idHeld (s : State) (n : Nat) : Bool :=
  ((tabGet s.o.kernels n).map Kernel.pending).getD false || ((tabGet s.o.billets n).map Billet.pending).getD false

/-- The next count of a die after `c`, skipping those held (R235). -/
def nextCount (s : State) (d : Nat) : Nat → Nat → Nat
  | 0, c => c
  | n + 1, c =>
    let c' := if c + 1 < 2 ^ 30 then c + 1 else 1
    if idHeld s (d * 2 ^ 30 + c') then nextCount s d n c' else c'

/-- The id that a die gives its next node (R235). -/
def nextId (s : State) (d : Nat) : Nat := d * 2 ^ 30 + nextCount s d 1025 (die s d).count

/-- The capability of a launch (R211). -/
def mintCap (id anvils : Nat) (dies : BitVec 4) : BitVec 64 :=
  let body := BitVec.ofNat 48 ((2 ^ anvils - 1) * 2 ^ 40 + 2 ^ 39 + 2 ^ 38 + dies.toNat * 2 ^ 32 + id)
  Config.check id body ++ body

/-- What the graph unit makes of a launch record (R231): the refusal code, and the kernel when it is 0. Recipes and table
entries that could be read are checked, also beside ones that could not. -/
def judgeLaunch (s : State) (d c : Nat) (bs : Option (List Byte)) (full : Bool) : Nat × Kernel :=
  match bs, ctx? s c with
  | some bs, some x =>
    if recFieldBad bs then (1, {}) else
    let r := parseRec bs
    let text := ctxBytes s c r.text r.textlen .fetch
    let recs := (upto 0 r.recipes).map (fun i => (ctxBytes s c (fld bs 72 8 + 16 * i) 16 .read).map (fun b => words4 b 4))
    let hearth := ctxBytes s c (fld bs 80 8) (16 * r.hmask.length) .read
    let ents := if r.place then (upto 0 r.groups).map (fun g =>
      (ctxBytes s c (fld bs 88 8 + 4 * g) 4 .read).map (fun b => BitVec.ofNat 32 (ofBytes b))) else []
    let ord := ctxPieces s c r.ordptr (8 * r.ordch) .atomic
    let k : Kernel :=
      { lrec := r, recipes := recs.map (·.getD []), ptable := ents.map (·.getD 0), ctx := c, die := d, left := r.groups, l2p := x.l2p
        himage := (upto 0 r.hmask.length).map (fun i => wd (fld (hearth.getD []) (16 * i) 16))
        text := (upto 0 (r.textlen / 8)).map (fun i => BitVec.ofNat 64 (fld ((text.getD [])) (8 * i) 8)) }
    let sum := total r.widths
    if tableBad r x.l2p.length (ents.filterMap id) then (1, {})
    else if (recs.filterMap id).any (recipeBad r) then (2, {})
    else if 64 < sum ∨ 2 ^ sum < r.groups * r.threads then (3, {})
    else if r.twin && !x.cfg.twin then (4, {})
    else if fitBad s x k ents then (5, {})
    else if text.isNone || recs.any Option.isNone || hearth.isNone || ents.any Option.isNone || (match ord with
        | .error _ => true
        | .ok _ => false) then (6, {})
    else if full || decide (1024 ≤ nodesOn s d) then (7, {})
    else (0, k)
  | _, _ => (6, {})

/-- Accepts a kernel (R235): its id, its edges, and the state WAITING. -/
def acceptKernel (d id : Nat) (k : Kernel) (queue cls root : Nat) (host : Bool) : Stage := pick (fun s =>
  let preds := edgesOf s k.ctx d k.lrec.reads k.lrec.writes
  [eff [.obj (fun o => { o with kernels := tabPut o.kernels id { k with
      cap := mintCap id k.lrec.anvils (((ctx? s k.ctx).map (·.cfg.partDies)).getD 0)
      queue := queue, cls := cls, root := root, host := host, preds := preds, floor := k.lrec.tsbase } }),
    onDie d (fun x => { x with count := id % 2 ^ 30 })],
   if preds.isEmpty then evNow (.kernelReady id) else skip])

/-- Accepts a billet (R364). -/
def acceptBillet (d id : Nat) (b : Billet) (r : SubReq) : Stage := pick (fun s =>
  let preds := edgesOf s r.ctx d b.reads b.writes
  [eff [.obj (fun o => { o with billets := tabPut o.billets id { b with
      addr := r.addr, die := d, ctx := r.ctx, queue := r.queue, root := r.root, kernel := r.kernel
      preds := preds, order := s.fresh } }),
    onDie d (fun x => { x with count := id % 2 ^ 30 }), .draw 1],
   if preds.isEmpty then evNow (.billetStart d) else skip])

/-- The task remembers a node for FENCE.ENGINE (R160). -/
def rememberNode (task id : Nat) : Eff := onTaskThr task (fun t => { t with jobs := t.jobs ++ [id] })

/-- The result of a submission in X[d] (R238, R365). -/
def subResult (id code : Nat) (determ : Bool) : Word := wd ((if code = 0 ∧ !determ then id else 0) + code * 2 ^ 32)

/-- State number of a billet for JOBQ (R367). -/
def BSt.num : BSt → Nat
  | .waiting => 1
  | .ready => 2
  | .running => 3
  | .faulted => 4
  | .done => 5
  | .dropped => 0

/-- The word of JOBQ: the billet most recently accepted from an address (R367). -/
def jobWord (s : State) (c d addr : Nat) : Word :=
  match mostBy (fun b => b.2.order) (s.o.billets.filter (fun b => b.2.ctx == c && b.2.die == d && b.2.addr == addr)) with
  | none => 0
  | some b => if b.2.st = .dropped then 0 else wd (b.2.st.num + b.2.code * 2 ^ 8 + b.2.unit * 2 ^ 32)

/-- The oldest FAULTED billet of a context on a die, read from an address (R365). -/
def oldestFaulted (s : State) (c d addr : Nat) : Option Nat :=
  (leastBy (fun b => b.2.order) (s.o.billets.filter (fun b =>
    b.2.ctx == c && b.2.die == d && b.2.addr == addr && b.2.st == .faulted))).map (·.1)

/-- A request reaches a graph unit and is answered (R231, R238, R362, R365, R367). -/
def graphReceives (req : Nat) : Stage := pick (fun s =>
  match tabGet s.o.subs req with
  | none => []
  | some r =>
    let gone : Stage := eff [.obj (fun o => { o with subs := tabDel o.subs req })]
    let reply : Word → Stage := fun v => fun s => answer r.task r.pend [v] (lat s r.ctx 0 60) s ++ [.draw 1]
    let id := nextId s r.die
    gone ::
    match r.kind with
    | 0 =>
      let (code, k) := judgeLaunch s r.die r.ctx r.bytes false
      if code = 0 then
        [acceptKernel r.die id k r.queue (min k.lrec.prio r.cls) r.root false, eff [rememberNode r.task id],
         reply (subResult id 0 r.determ)]
      else [reply (subResult 0 code r.determ)]
    | 1 =>
      (match r.bytes with
       | none => [reply (subResult 0 6 r.determ)]
       | some bs =>
         if billetFieldBad bs then [reply (subResult 0 1 r.determ)]
         else if 1024 ≤ nodesOn s r.die then [reply (subResult 0 7 r.determ)]
         else [acceptBillet r.die id (parseBillet bs) r, eff [rememberNode r.task id], reply (subResult id 0 r.determ)])
    | 2 =>
      (match oldestFaulted s r.ctx r.die r.addr with
       | none => [reply 1]
       | some b => [eff [onBillet b (fun x => { x with st := .ready, readyAt := s.fresh }), .draw 1],
           evNow (.billetStart r.die), reply 0])
    | _ => [reply (jobWord s r.ctx r.die r.addr)])

/-- GRAPH_UNIT_RECEIVE (R231). -/
def execGraphUnitReceive (req : Nat) (s : State) : Host.Outcome State Fault Refusal := fire [graphReceives req] s

/-! ## Submissions by threads -/

/-- A request sets out for the own die's graph unit, with the bytes at its address, where they could be found, read as
untracked loads (R149, R238, R365). A poisoned line contains the slot (R357). Requests of a die arrive in their order. -/
def submit (slot d kind addr : Nat) (at_ : Option (List (Nat × Nat))) : Stage := pick (fun s =>
  let t := thr s slot
  let k := kernelOf s slot
  let dd := dieOf slot
  let pieces := at_.getD []
  pieces.flatMap (fun x => linesRead x.1 x.2) ++
  [pick (fun s =>
    match firstSome (fun x => poisonIn s x.1 x.2) pieces with
    | some c => [contain slot { code := .poison, cls := c, pc := t.arch.pc, info := lineVa addr }]
    | none =>
      [fun s =>
        let due := ((s.o.subs.filter (fun x => x.2.die == dd)).map (·.2.due)).foldl max (s.now + lat s k.ctx 0 120)
        let r : SubReq :=
          { kind := kind, die := dd, addr := addr, bytes := at_.map (fun l => l.flatMap (fun x => lookBytes s x.1 x.2)), ctx := k.ctx, queue := k.queue
            cls := k.cls, root := k.root, task := t.task, pend := s.fresh, determ := k.lrec.determ, kernel := t.kernel, due := due }
        [onThr slot (fun t => { t with pend := t.pend ++ [{ id := s.fresh, dests := [d] }] }),
         .obj (fun o => { o with subs := tabPut o.subs s.fresh r }),
         .post due (.ev (.graphUnitReceive s.fresh)), .draw 1]])])

/-- The plan of a submission, but for what it sends. -/
def submitPlan (ls : LS) (d a : BitVec 7) (align : Nat) (s : State) : Plan :=
  let v := rd64 s s.cur a.toNat
  (({ cPlan ls (regPlan s s.cur (longDest d) [fw d, fr a]) with point := true, irrev := true } : Plan).noGuess s s.cur).own
      (if bits v 54 0 % align = 0 then none else some ⟨.align, v⟩)

/-- LAUNCH submits a launch record, which its core's TLB translates (R238, R343). -/
def planLaunch (ls : LS) (d a : BitVec 7) (s : State) : Plan :=
  let p := bits (rd64 s s.cur a.toNat) 54 0
  globalAt s s.cur (submitPlan ls d a 256 s) p 256 .read (fun q loc => q.does [submit s.cur d.toNat 0 p (some [(loc, 256)])])
/-- LAUNCH. -/
def execLaunch (ls : LS) (d a : BitVec 7) (s : State) : Host.Outcome State Fault Refusal := fireC (planLaunch ls d a) s

/-- JOB submits a billet; where it cannot be read, the graph unit refuses it (R362, R365). -/
def planJob (ls : LS) (d a : BitVec 7) (s : State) : Plan :=
  let p := bits (rd64 s s.cur a.toNat) 54 0
  (submitPlan ls d a 128 s).does [fun s' => submit s.cur d.toNat 1 p (ctxPieces s' (ctxOf s' s.cur) p 128 .read).toOption s']
/-- JOB. -/
def execJob (ls : LS) (d a : BitVec 7) (s : State) : Host.Outcome State Fault Refusal := fireC (planJob ls d a) s

/-- JOB.RESUME makes the oldest FAULTED billet from an address READY (R365). -/
def planJobResume (ls : LS) (d a : BitVec 7) (s : State) : Plan :=
  (submitPlan ls d a 1 s).does [submit s.cur d.toNat 2 (bits (rd64 s s.cur a.toNat) 54 0) (some [])]
/-- JOB.RESUME. -/
def execJobResume (ls : LS) (d a : BitVec 7) (s : State) : Host.Outcome State Fault Refusal := fireC (planJobResume ls d a) s

/-- JOBQ asks for the state of a billet (R367). -/
def planJobq (ls : LS) (d a : BitVec 7) (s : State) : Plan :=
  let sl := s.cur
  ((cPlan ls (regPlan s sl (longDest d) [fw d, fr a])).noDeterm s sl).does
    [submit sl d.toNat 3 (bits (rd64 s sl a.toNat) 54 0) (some [])]
/-- JOBQ. -/
def execJobq (ls : LS) (d a : BitVec 7) (s : State) : Host.Outcome State Fault Refusal := fireC (planJobq ls d a) s

/-- Poison that a read of global memory meets (R356, R357). -/
def globalPoison (s : State) (loc n : Nat) : Option Nat :=
  if s.o.poison.isEmpty && s.o.flips.isEmpty then none
  else (poisonIn s loc n).or (match judge (grainAt s loc) (flipsOf s (lineOf loc)) s.fresh with
    | .lost c => some c
    | _ => none)

/-- JOBW sleeps until a completion counter reaches its target (R366). -/
def planJobw (ls : LS) (a b : BitVec 7) (s : State) : Plan :=
  let sl := s.cur
  let ea := bits (rd64 s sl a.toNat) 54 0
  let n := (rd64 s sl b.toNat).toNat
  let c := (thr s sl).chunk
  globalAt s sl (cPlan ls (regPlan s sl true [fr a, fr b])) ea 8 .read (fun p loc =>
    let v := ofBytes (overlay (ownBytes c loc 8) (lookBytes s loc 8))
    { p with
      poison := p.poison.or ((globalPoison s loc 8).map (fun c => (c, lineVa ea)))
      sleep := if (thr s sl).grant.isSome || decide (n ≤ v) then none else some (.counter loc n) })
/-- JOBW. -/
def execJobw (ls : LS) (a b : BitVec 7) (s : State) : Host.Outcome State Fault Refusal := fireC (planJobw ls a b) s

/-! ## The copy engines (R359 to R361) -/

/-- One access of a unit: where it reads (an address, or a pattern), where it writes, and how many bytes.
`add` reads the destination too. -/
structure Move where
  src : Option Int
  dst : Int
  size : Nat
  add : Bool := false
  deriving DecidableEq, Repr

/-- How many units a billet has (R360). -/
def Billet.units (b : Billet) : Nat :=
  match b.op with
  | 3 | 4 | 6 => (b.len * b.elem + 255) / 256
  | _ => (b.len * b.rows + 255) / 256

/-- Where a side of a billet stands: a near address of the submitting kernel, or a global one (R137, R361). While the context is
OUT the regions of its groups stand in its quad frames (R336, R364). -/
def engineLoc (s : State) (b : Billet) (near : Bool) (a : Int) (acc : Acc) : Except Code Nat :=
  if near then
    let x := a.toNat - 2 ^ 31
    let q := x / 2 ^ 28 * 256 + x / 2 ^ 20 % 256
    if a < 2 ^ 31 ∨ 2 ^ 32 ≤ a then .error .page
    else match (groupOn (kernel s b.kernel) q).bind (fun g => regionAt (kernel s b.kernel).lrec g (x % 2 ^ 20)) with
      | some l => .ok (if ((ctx? s b.ctx).map (fun c => c.st == .out)).getD false then savedLoc b.ctx q (locOff l) else l)
      | none => .error .page
  else if a < 0 then .error .page else ctxXlat s b.ctx a.toNat acc

/-- Index k of a gather or scatter, or its fault with the address of the index word. -/
def engineIndex (s : State) (b : Billet) (k : Nat) : Except (Code × Int) Nat :=
  match ctxXlat s b.ctx (b.aux.toNat + 4 * k) .read with
  | .ok l => .ok (ofBytes (lookBytes s l 4))
  | .error e => .error (e, b.aux.toNat + 4 * k)

/-- The elements of unit u. -/
def Billet.elems (b : Billet) (u : Nat) : List Nat :=
  upto (256 / max b.elem 1 * u) (min (256 / max b.elem 1) (b.len - 256 / max b.elem 1 * u))

/-- Where the index words of unit u stand. -/
def Billet.indexWords (b : Billet) (s : State) (u : Nat) : List Nat :=
  if b.op = 3 ∨ b.op = 4 then
    (b.elems u).filterMap (fun k => match ctxXlat s b.ctx (b.aux.toNat + 4 * k) .read with
      | .ok l => some l
      | .error _ => none)
  else []

/-- The accesses of unit u of a billet, in order, or the fault of an index word (R359, R360). -/
def Billet.moves (b : Billet) (s : State) (u : Nat) : Except (Code × Int) (List Move) :=
  let e := b.elem
  let src := (ptrAddr b.src : Int)
  let dst := (ptrAddr b.dst : Int)
  let els := b.elems u
  match b.op with
  | 3 | 4 =>
    els.foldr (fun k acc => match engineIndex s b k, acc with
      | .error c, _ => .error c
      | .ok _, .error c => .error c
      | .ok i, .ok r => .ok ((if b.op = 3 then ⟨some (src + i * e), dst + k * e, e, false⟩
          else ⟨some (src + k * e), dst + i * e, e, false⟩) :: r)) (.ok [])
  | 6 => .ok (els.map (fun (k : Nat) => ⟨some (src + k * e), dst + k * e, e, true⟩))
  | _ =>
    let pieces := upto (16 * u) (min 16 (b.len * b.rows / 16 - 16 * u))
    .ok (pieces.map (fun p =>
      let r := 16 * p / b.len
      let o := 16 * p % b.len
      { src := if b.op = 5 then none else some (b.rowAt true r + o), dst := b.rowAt false r + o, size := 16 }))

/-- Is an access of a gather or scatter outside the declared regions (R361)? -/
def Billet.strays (b : Billet) (m : Move) : Bool :=
  match b.op with
  | 3 => (m.src.map (fun a => !covered b.reads a (a + m.size))).getD false
  | 4 => !covered b.writes m.dst (m.dst + m.size)
  | _ => false

/-- What one access does: where it reads, if it does, and what it writes where. -/
def Billet.oneMove (b : Billet) (s : State) (m : Move) : Except (Code × Int) (Option Nat × Nat × List Byte) :=
  let acc : Acc := if m.add then .atomic else .write
  if b.strays m then .error (.perm, if b.op = 3 then m.src.getD 0 else m.dst)
  else
    let src := match m.src with
      | none => Except.ok none
      | some a => match engineLoc s b b.snear a .read with
        | .ok l => .ok (some l)
        | .error c => .error (c, a)
    match src, engineLoc s b b.dnear m.dst acc with
    | .error c, _ => .error c
    | .ok _, .error c => .error (c, m.dst)
    | .ok l, .ok d =>
      let data := match l with
        | none => bytesOf 8 b.aux.toNat ++ bytesOf 8 b.aux.toNat
        | some x => lookBytes s x m.size
      .ok (l, d, if m.add then bytesOf m.size (ofBytes data + ofBytes (lookBytes s d m.size)) else data)

/-- Everything that a unit does, or its first fault with the address. -/
def Billet.unitWork (b : Billet) (s : State) (u : Nat) : Except (Code × Int) (List (Option Nat × Nat × List Byte)) :=
  match b.moves s u with
  | .error c => .error c
  | .ok l => l.foldr (fun m acc => match b.oneMove s m, acc with
      | .error c, _ => .error c
      | .ok _, .error c => .error c
      | .ok x, .ok r => .ok (x :: r)) (.ok [])

/-- Joins writes that stand side by side. -/
def joinRuns (l : List (Nat × List Byte)) : List (Nat × List Byte) :=
  l.foldr (fun x acc => match acc with
    | (a, bs) :: r => if x.1 + x.2.length = a then (x.1, x.2 ++ bs) :: r else x :: acc
    | [] => [x]) []

/-- Is the engine of a billet stalled by the throttling (R400)? -/
def engineStalled (s : State) (b : Billet) : Bool :=
  match s.o.mod.throttle with
  | .off => false
  | .shared => !((ctx? s b.ctx).map (fun c => c.cfg.isolated)).getD true
  | .all => true

/-- A billet faults (R364): its code and unit stand, and its kernel's supervisor and the host are told. -/
def billetFaults (n : Nat) (b : Billet) (c : Code) (a : Int) : Stage := pick (fun s =>
  let r : SRec := { code := c, pc := BitVec.ofNat 64 b.addr, info := BitVec.ofInt 64 a }
  [eff [onBillet n (fun x => { x with st := .faulted, code := c.num }), onDie b.die (fun d => { d with engines := d.engines - 1 })],
   (if ((tabGet s.o.kernels b.kernel).map (fun k => k.pending && k.lrec.super.isSome)).getD false then createRec b.kernel r else skip),
   egress b.ctx b.queue 19 b.root r.body [], evNow (.billetStart b.die)])

/-- A unit reads its source and writes its destination as one chunk of its own (R360); what it reads
poisoned it writes poisoned (R361). -/
def unitRuns (n : Nat) : Stage := pick (fun s =>
  match tabGet s.o.billets n with
  | none => []
  | some b =>
    if b.st ≠ .running then []
    else if engineStalled s b then [fun s => [.post (s.now + 100) (.ev (.engineUnit n))]]
    else match b.unitWork s b.unit with
      | .error (c, a) => [billetFaults n b c a]
      | .ok work =>
        let reads := work.filterMap (fun x => x.1.map (fun l => (l, x.2.2.length))) ++ (b.indexWords s b.unit).map (fun l => (l, 4))
        reads.flatMap (fun x => if s.o.flips.isEmpty then [] else linesRead x.1 x.2) ++
        [pick (fun s =>
          let cls := firstSome (fun x => poisonIn s x.1 x.2) reads
          let runs := joinRuns (work.map (·.2))
          [ownChunk b.ctx (b.queue, b.root) runs,
           (match cls with
            | none => skip
            | some c => eff [.obj (fun o => { o with poison := (runs.flatMap (fun r =>
                upto (lineOf r.1) (lineOf (r.1 + r.2.length - 1) + 1 - lineOf r.1))).foldl (fun t l => tabPut t l c) o.poison })]),
           eff [onBillet n (fun x => { x with unit := x.unit + 1 })],
           if b.units ≤ b.unit + 1 then evNow (.billetDone n) else evIn b.ctx 64 (.engineUnit n)])])

/-- ENGINE_UNIT (R360). -/
def execEngineUnit (n : Nat) (s : State) : Host.Outcome State Fault Refusal := fire [unitRuns n] s

/-- A billet whose predecessors are over is READY; READY ones take free engines in the order in which they
became so (R363, R364). -/
def billetStarts (d : Nat) : Stage := seqS [
  each (fun s => s.o.billets.filter (fun b => b.2.die == d && b.2.st == .waiting && b.2.preds.isEmpty))
    (fun b => fun s => [onBillet b.1 (fun x => { x with st := .ready, readyAt := s.fresh }), .draw 1]),
  each (fun s => (sortBy (fun a b => decide (a.2.readyAt ≤ b.2.readyAt))
      (s.o.billets.filter (fun b => b.2.die == d && b.2.st == .ready))).take (64 - (die s d).engines))
    (fun b => seqS [eff [onBillet b.1 (fun x => { x with st := .running }), onDie d (fun x => { x with engines := x.engines + 1 })],
      evIn b.2.ctx 64 (.engineUnit b.1)])]

/-- BILLET_START (R363). -/
def execBilletStart (d : Nat) (s : State) : Host.Outcome State Fault Refusal := fire [billetStarts d] s

/-- Fences on engines that their condition now lets go are found by the rotation; a billet that is DONE
increments its counter, then frees its successors and its engine (R364). -/
def billetEnds (n : Nat) : Stage := pick (fun s =>
  match tabGet s.o.billets n with
  | none => []
  | some b =>
    if b.st = .running ∧ b.units ≤ b.unit then
      [eff [onBillet n (fun x => { x with st := .done }), onDie b.die (fun d => { d with engines := d.engines - 1 })],
       bumpCounter b.ctx (b.queue, b.root) b.counter, nodeDone n, evNow (.billetStart b.die)]
    else [])

/-- BILLET_DONE (R364). -/
def execBilletDone (n : Nat) (s : State) : Host.Outcome State Fault Refusal := fire [billetEnds n] s

/-- A pending billet is dropped (R339, R364); a running one stops after the units that it has done. -/
def dropBillet (n : Nat) : Stage := pick (fun s =>
  match tabGet s.o.billets n with
  | none => []
  | some b =>
    if !b.pending then [] else
    [eff [onBillet n (fun x => { x with st := .dropped }),
      onDie b.die (fun d => if b.st = .running then { d with engines := d.engines - 1 } else d)],
     nodeKilled n, evNow (.billetStart b.die)])

end Sys2Proof.Machine
end

