-- ==== Sys2Proof/Machine/Loop.lean ====
section
/-!
DEFINITION. Loop: tasks and timestamps (R260 to R265), floors (R267), ordered channels (R272, R273), and
the words of carry loops (R277 to R281, R288).
-/

namespace Sys2Proof.Machine

open Sys2Proof

/-! ## TSPAWN and TSTAMP -/

/-- TSPAWN buffers a task (R264). -/
def planTspawn (ls : LS) (d a b : BitVec 7) (s : State) : Plan :=
  let sl := s.cur
  let v := rd s sl a.toNat
  let entry := bits v 95 64
  let ts := bits v 63 0
  let held := (thr s sl).chunk.spawns.length
  let bad := bits v 127 96 ≠ 0 ∨ entry % 8 ≠ 0 ∨ (recOf s sl).textlen ≤ entry ∨ ts < (taskOf s sl).ts ∨ 8 ≤ held
  cPlan ls ((((regPlan s sl true [fw d, fr a, fr b]).noGuess s sl).own
    (if bad then some (bTrap s sl .illegal) else none)).does
    [eff [onChunk sl (fun c => { c with spawns := c.spawns ++ [⟨entry, ts, rd s sl b.toNat⟩] })], wr sl d.toNat (wd held)])
/-- TSPAWN. -/
def execTspawn (ls : LS) (d a b : BitVec 7) (s : State) : Host.Outcome State Fault Refusal :=
  fireC (planTspawn ls d a b) s

/-- TSTAMP raises the task's timestamp at the commit of its chunk (R265). -/
def planTstamp (ls : LS) (a : BitVec 7) (s : State) : Plan :=
  let sl := s.cur
  let v := (rd64 s sl a.toNat).toNat
  cPlan ls ((((regPlan s sl true [fr a]).noSpec s sl).own
    (if v < (taskOf s sl).ts then some (bTrap s sl .illegal) else none)).does
    [eff [onChunk sl (fun c => { c with tstamp := some v })]])
/-- TSTAMP. -/
def execTstamp (ls : LS) (a : BitVec 7) (s : State) : Host.Outcome State Fault Refusal :=
  fireC (planTstamp ls a) s

/-! ## Floors (R267, R274) -/

/-- A floor that has risen: the epoch record is cleared (R269). -/
def floorMoves (old : Nat) (new : Option Nat) : Option Nat :=
  match new with
  | some f => if old < f then some f else none
  | none => none

/-- The floors of a kernel's domains are taken anew, and chunks that wait may go (R267, R268). -/
def floorsAnew (k : Nat) : Stage := pick (fun s =>
  [(match floorMoves (kernel s k).floor (floorOf s (domainTasks s k)) with
    | some f => if (kernel s k).lrec.determ then eff [onKernel k (fun x => { x with floor := f, epoch := [] })] else skip
    | none => skip),
   eff ((s.o.loops.filter (fun l => l.2.kernel == k)).filterMap (fun l =>
     (floorMoves l.2.floor (floorOf s (loopTasks s l.1))).map (fun f =>
       onLoop l.1 (fun x => { x with floor := f, epoch := [] })))),
   kick])

/-- FLOOR_CHANGE (R267). -/
def execFloorChange (dom : Nat) (s : State) : Host.Outcome State Fault Refusal := fire [floorsAnew dom] s

/-! ## Ordered channels -/

/-- ORDATOM sends a request to an ordered channel (R272, R273). -/
def planOrdatom (ls : LS) (d : BitVec 7) (n : BitVec 4) (b : BitVec 7) (s : State) : Plan :=
  let sl := s.cur
  let r := recOf s sl
  let t := taskOf s sl
  let k := (thr s sl).kernel
  let x := rd64 s sl b.toNat
  let ok := longDest d && decide (n.toNat < r.ordch) && r.gang && r.qbar != 0
  cPlan ls (({ (regPlan s sl ok [fw d, fr b]).noSpec s sl with point := true } : Plan).does
    [fun s => [onThr sl (fun t => { t with pend := t.pend ++ [{ id := s.fresh, dests := [d.toNat] }] }),
      onKernel k (fun y => { y with ord := tabMod y.ord n.toNat [] (fun l => l ++
        [{ task := (thr s sl).task, pend := s.fresh, w := t.w, ts := t.keyTs, cn := t.cn, interval := t.b0,
           addend := x }]) }), .draw 1]])
/-- ORDATOM. -/
def execOrdatom (ls : LS) (d : BitVec 7) (n : BitVec 4) (b : BitVec 7) (s : State) :
    Host.Outcome State Fault Refusal := fireC (planOrdatom ls d n b) s

/-- The order key of a request. -/
def OrdReq.key (r : OrdReq) : Nat × Nat × Nat := (r.w, r.ts, r.cn)

/-- Has b0 completed the phase of a batch in every group of a kernel, one that has ended without it never (R220, R272)? -/
def batchOver (s : State) (k batch : Nat) : Bool :=
  (kernel s k).left != 0 && (kernel s k).groups.all (fun g => decide (batch < (tabD g.2.bars 0 {}).phases))

/-- Closes the next batch of an ordered channel: its requests take their values in order-key order; those
of different tasks with equal keys are contained, their addends left out (R272, R273). -/
def closeBatch (k chan : Nat) : Stage := pick (fun s =>
  let x := kernel s k
  let n := tabD x.ordDone chan 0
  if !tabHas s.o.kernels k || !batchOver s k n then [] else
  let all := tabD x.ord chan []
  let batch := all.filter (fun r => decide (r.interval ≤ n))
  let clash := fun (r : OrdReq) => batch.any (fun q => q.task != r.task && q.key == r.key)
  let good := sortBy (fun a b => keyLe a.key b.key) (batch.filter (fun r => !clash r))
  let va := x.lrec.ordptr + 8 * chan
  let at_ := ctxXlat s x.ctx va .write
  let s0 := match at_ with
    | .ok loc => BitVec.ofNat 64 (ofBytes (lookBytes s loc 8))
    | .error _ => BitVec.ofNat 64 (Config.freeNat s.fresh)
  let sums := good.foldl (fun (acc : Dword × List (OrdReq × Dword)) r => (acc.1 + r.addend, acc.2 ++ [(r, acc.1)])) (s0, [])
  [eff [onKernel k (fun y => { y with ordDone := tabPut y.ordDone chan (n + 1)
                                      ord := tabMod y.ord chan [] (fun l => l.filter (fun r => decide (n < r.interval))) })]] ++
  (match good.isEmpty, at_ with
   | false, .ok loc => linesRead loc 8 ++
      [fun s => storeMarked s loc (bytesOf 8 sums.1.toNat) ++ [.commit [loc / 8]], mirrorOut [(loc, 8)], wakeCounters]
   | _, _ => []) ++
  sums.2.map (fun r => (fun s => answer r.1.task r.1.pend [ext64 r.2] (lat s x.ctx 0 300) s ++ [.draw 1] : Stage)) ++
  (batch.filter clash).map (fun r => containTask r.task { code := .determinism, info := BitVec.ofNat 64 va }) ++
  [fun s => [.draw 1] ++ if batchOver s k (n + 1) then [.post s.now (.ev (.ordatomBatchClose k chan))] else []])

/-- ORDATOM_BATCH_CLOSE (R272). -/
def execOrdatomBatchClose (kernel chan : Nat) (s : State) : Host.Outcome State Fault Refusal :=
  fire [closeBatch kernel chan] s

/-! ## GLOOP -/

/-- The append regions in a table (R284). -/
def regionsOf (n : Nat) (bs : List Byte) : List (Nat × Nat × Nat) :=
  (upto 0 n).map (fun r =>
    let f := fun i k => ofBytes ((bs.drop (16 * r + i)).take k)
    (f 0 8 % 2 ^ 55, f 8 4, f 12 4))

/-- Do two regions overlap? -/
def appendsMeet (a b : Nat × Nat × Nat) : Bool :=
  decide (a.1 < b.1 + b.2.1 * b.2.2) && decide (b.1 < a.1 + a.2.1 * a.2.2)

/-- Does a table break R284: a field out of range, or two regions that overlap? -/
def regionsBad : List (Nat × Nat × Nat) → Bool
  | [] => false
  | r :: l => r.1 % 64 != 0 || r.2.1 % 64 != 0 || r.2.1 == 0 || decide (262144 < r.2.1) || r.2.2 == 0
      || l.any (appendsMeet r) || regionsBad l

/-- GLOOP buffers a carry loop, which its chunk's commit creates (R277, R278). -/
def planGloop (sb : Bool) (d a b : BitVec 7) (lit : BitVec 32) (s : State) : Plan :=
  let sl := s.cur
  let v := rd s sl a.toNat
  let nc := bits lit 31 29
  let wid := bits lit 28 26
  let goff := bits lit 20 0
  let atab := bits v 127 96
  let body := bits v 95 64
  let nreg := bits v 34 32
  let textlen := (recOf s sl).textlen
  let ts := (taskOf s sl).ts
  let ill := bits lit 25 21 ≠ 0 ∨ speculative s sl ∨ loopOpen s sl ∨ textlen ≤ 8 * goff ∨ (wid = 0 ∧ goff ≠ 0)
  let bad := bits v 63 35 ≠ 0 ∨ body % 8 ≠ 0 ∨ textlen ≤ body ∨ 4 < nreg ∨ 2 ^ 64 ≤ ts + 2 ^ 33
  let trapIf := fun (x : Bool) => if x then some (bTrap s sl .illegal) else none
  let there := (regTraps s sl [fr a]).isNone && !fieldHold (thr s sl) (fr a) && (streamTrap (thr s sl) (fr a)).isNone
  let p := { regPlan s sl (longDest d && !decide ill && !(there && decide bad)) [fw d, fr a, inRun b.toNat (nc + 1)] with mark := sb }
  let bs? := if nreg = 0 then some [] else (nearOwn s sl atab (16 * nreg)).map (fun l => lookBytes s l (16 * nreg))
  let p := p.own (match bs? with
    | none => some (nTrap .nearRange atab)
    | some _ => if nreg ≠ 0 ∧ atab % 16 ≠ 0 then some (nTrap .align atab) else none)
  let regions := regionsOf nreg (bs?.getD [])
  let p := p.own (trapIf (regionsBad regions))
  let p := { p with poison := p.poison.or (if nreg = 0 then none else
    ((nearOwn s sl atab (16 * nreg)).bind (fun l => nearPoison s l (16 * nreg))).map (fun c => (c, BitVec.ofNat 64 atab))) }
  let r : GloopReq := { d := d.toNat, b := b.toNat, nc := nc, wid := wid, goff := goff, body := body, n := bits v 31 0
                        regions := regions }
  p.does
    [nearRead ((nearOwn s sl atab (16 * nreg)).getD 0) (16 * nreg), eff [onChunk sl (fun c => { c with gloop := some r })], pendIn sl [d.toNat] none (.value [wd (ts + 1)] none 0) 200]
/-- GLOOP. -/
def execGloop (sb : Bool) (d a b : BitVec 7) (lit : BitVec 32) (s : State) : Host.Outcome State Fault Refusal :=
  fireC (planGloop sb d a b lit) s

/-! ## GPUT, GEND, ACCEPT, GQUIT -/

/-- The loop that the task of a slot works in. -/
def loopAt (s : State) (slot : Nat) : Option (Nat × Loop) :=
  match (taskOf s slot).kind with
  | .iteration l _ => (tabGet s.o.loops l).map (fun x => (l, x))
  | .guess l _ => (tabGet s.o.loops l).map (fun x => (l, x))
  | .plain => none

/-- The carried registers' values as a word reads them. -/
def carried (s : State) (slot : Nat) (r : GloopReq) : List Word := (upto r.b (r.nc + 1)).map (rd s slot)

/-- A GPUT offers the start carry of iteration j; without effect once iteration j − 1 has ended, past the trip
count, after the wave's end, or where the loop is not RUNNING (R279, R283). -/
def offerCarry (owner j : Nat) (vs : List Word) : Stage := pick (fun s =>
  match tabGet s.o.loops owner with
  | none => []
  | some lp =>
    if decide (j - 1 < lp.lead) || (lp.req.n != 0 && decide (lp.req.n ≤ j)) || !lp.waveOpen || lp.st != .running
    then [] else [newIter owner j vs])

/-- The k-th GPUT of a wave at iteration i: its offer comes after what else reaches the loop in its cycle (R283). -/
def gputStage (owner i : Nat) (vs : List Word) : Stage := fun s =>
  match tabGet s.o.loops owner with
  | none => []
  | some lp => [onLoop owner (fun x => { x with gputs := lp.gputs + 1 }), .post s.now (.offer owner (i + lp.gputs + 1) vs)]

/-- GPUT offers a guess; the last one ends the guess task as EXIT would (R279). -/
def planGput (ls : LS) (s : State) : Plan :=
  let sl := s.cur
  match loopAt s sl, (taskOf s sl).kind with
  | some (o, lp), .guess _ i =>
    let last := lp.gputs + 1 == lp.req.wid
    let p := { regPlan s sl true [inRun lp.req.b (lp.req.nc + 1)] with ends := last, after := if last then .exit else .nothing }
    cPlan ls ((p.ownIf s sl (last && (thr s sl).arch.lathe.st != .idle) .lathe).does
      [gputStage o i (carried s sl lp.req)])
  | _, _ => cPlan ls { ill := !guessing s sl }
/-- GPUT. -/
def execGput (ls : LS) (s : State) : Host.Outcome State Fault Refusal := fireC (planGput ls) s

/-- The plan of ACCEPT and GQUIT: the produced carry with its comparison kind (R281). -/
def acceptPlan (s : State) (fs : List Field) (kind : Cmp) : Plan :=
  let sl := s.cur
  let t := thr s sl
  let ok := (iterOf s sl).isSome && t.arch.carry.isNone && t.arch.priv != .handler
  match loopAt s sl with
  | some (_, lp) =>
    (regPlan s sl ok (fs ++ [inRun lp.req.b (lp.req.nc + 1)])).does
      [eff [onArch sl (fun a => { a with carry := some (carried s sl lp.req, kind) })]]
  | none => regPlan s sl ok fs

/-- GQUIT ends the loop after this iteration (R281). -/
def planGquit (ls : LS) (s : State) : Plan := cPlan ls (acceptPlan s [] .quit)
/-- GQUIT. -/
def execGquit (ls : LS) (s : State) : Host.Outcome State Fault Refusal := fireC (planGquit ls) s

/-- ACCEPT.EQ (R281). -/
def planAcceptEq (ls : LS) (s : State) : Plan := cPlan ls (acceptPlan s [] .eq)
/-- ACCEPT.EQ. -/
def execAcceptEq (ls : LS) (s : State) : Host.Outcome State Fault Refusal := fireC (planAcceptEq ls) s

/-- ACCEPT.TOL; DETERMINISM in a DETERM kernel (R281). -/
def planAcceptTol (ls : LS) (a : BitVec 7) (s : State) : Plan :=
  cPlan ls ((acceptPlan s [fr a] (.tol ((rd s s.cur a.toNat).setWidth 32))).noDeterm s s.cur)
/-- ACCEPT.TOL. -/
def execAcceptTol (ls : LS) (a : BitVec 7) (s : State) : Host.Outcome State Fault Refusal :=
  fireC (planAcceptTol ls a) s

/-- GEND collects the final carry once the loop has ended, and frees the loop (R288). -/
def planGend (ls : LS) (d : BitVec 7) (s : State) : Plan :=
  let sl := s.cur
  let tk := (thr s sl).task
  let ok := !speculative s sl && loopOpen s sl
  match tabGet s.o.loops tk with
  | none => cPlan ls { regPlan s sl ok [fw d] with sleep := some .loopEnd }
  | some lp =>
    let ended := lp.st == .done || lp.st == .failed
    let regs := upto lp.req.b (lp.req.nc + 1)
    cPlan ls (({ regPlan s sl ok [fw d, outRun lp.req.b (lp.req.nc + 1)] with sleep := if ended then none else some .loopEnd } : Plan).does
      ((regs.zip lp.final).map (fun x => wr sl x.1 x.2) ++
      [wr sl d.toNat (wd (lp.c % 2 ^ 32 + bit (lp.st == .failed) * 2 ^ 63)),
       eff [.obj (fun o => { o with loops := tabDel o.loops tk })], evNow (.floorChange (thr s sl).kernel), kick]))
/-- GEND. -/
def execGend (ls : LS) (d : BitVec 7) (s : State) : Host.Outcome State Fault Refusal := fireC (planGend ls d) s

end Sys2Proof.Machine
end

