-- ==== Sys2Proof/Machine/Page.lean ====
section
/-!
DEFINITION. Page: misses and their answers (R344, R345), TLBW, TLBI and TLBR of a translation service core
(R346 to R349), and the patrol (R356).
-/

namespace Sys2Proof.Machine

open Sys2Proof

/-! ## The pending table -/

/-- The number of a page of 64 KiB. -/
def pageNum (va : Nat) : Nat := va / 65536

/-- The pending entry that a miss joins: same tenant and address bits 54:16 (R344). -/
def pendingEntry (q : Quad) (tid va : Nat) : Option (Nat × PMiss) :=
  q.misses.find? (fun m => m.2.tid == tid && pageNum m.2.va.toNat == pageNum va)

/-- A miss reaches the translation service core of its quad: it joins an entry or takes a free one, which
sets the latch of the core's firmware thread and sets the shipped firmware to work (R344, R345). -/
def missArrives (slot va acc : Nat) : Stage := pick (fun s =>
  let q := quadOf slot
  let tid := ctxOf s slot
  let c := coreOf slot % 4
  match pendingEntry (quad s q) tid va with
  | some (i, _) =>
    [eff [onQuad q (fun x => { x with misses := tabUpd x.misses i (fun m =>
      { m with cores := setAdd m.cores c, acc := setAdd m.acc acc }) })]]
  | none => match tabFree (quad s q).misses 0 64 with
    | none => []
    | some i =>
      [(fun s => [onQuad q (fun x => { x with misses := tabPut x.misses i ⟨BitVec.ofNat 64 va, tid, [c], [acc]⟩ }),
         .post (s.now + lat s tid 0 1500) (.walk q i), .draw 1]),
       signalSlot (tscSlot q)])

/-- TLB_MISS (R344). -/
def execTlbMiss (slot va acc : Nat) (s : State) : Host.Outcome State Fault Refusal :=
  if occupied s slot then fire [missArrives slot va acc] s else fire [] s

/-- Does a slot of a core wait on a pending entry? -/
def waitsOn (s : State) (q : Nat) (m : PMiss) (slot : Nat) (t : Thread) : Bool :=
  quadOf slot == q && decide (slot < 2 ^ 18) && ctxOf s slot == m.tid &&
    match t.wait with
    | some (.translation va _) => pageNum va.toNat == pageNum m.va.toNat
    | _ => false

/-- The slots that wait on a pending entry of a quad. -/
def waitingOnMiss (s : State) (q : Nat) (m : PMiss) : List (Nat × Thread) :=
  s.o.slots.filter (fun x => waitsOn s q m x.1 x.2)

/-- The slots of one core that wait on an entry are answered, and wait for nothing more; the core leaves the entry, which is
free when none is left (R346). -/
def answerCore (q i c : Nat) (m : PMiss) : Stage := fun s =>
  ((waitingOnMiss s q m).filter (fun x => coreOf x.1 % 4 == c)).map (fun x => onThr x.1 (fun t => { t with wait := none })) ++
  [onQuad q (fun x =>
    let left := m.cores.filter (· != c)
    { x with misses := if left.isEmpty then tabDel x.misses i else tabPut x.misses i { m with cores := left } })]

/-- The fault notice of an answer: a record for the kernel's supervisor thread, and its egress (R345). -/
def faultNotice (slot : Nat) (c : Code) (va : BitVec 64) : Stage := pick (fun s =>
  let k := (thr s slot).kernel
  let r := recFor s slot { code := c, pc := (thr s slot).arch.pc, info := va }
  [if (kernel s k).lrec.super.isSome then createRec k r else skip, kernelEgress k 19 r.body []])

/-- The address of the unit that a read stream fetches next. -/
def Strm.next (x : Strm) : Int := x.addr (x.pos + x.fifo.length)

/-- The read streams of a quad's slots whose fetch waits on an entry (R124, R344). -/
def streamsOnMiss (s : State) (q : Nat) (m : PMiss) : List (Nat × Strm) :=
  (s.o.slots.filter (fun x => quadOf x.1 == q && decide (x.1 < 2 ^ 18) && ctxOf s x.1 == m.tid && m.cores.contains (coreOf x.1 % 4))).flatMap
    (fun x => (x.2.arch.streams.filter (fun y => !y.write && y.global && decide (pageNum y.next.toNat = pageNum m.va.toNat)
      && s.agenda.any (fun a => a.2 == .ev (.streamUnitFetch x.1 y.reg)))).map (fun y => (x.1, y)))

/-- An answer of PAGE or PERM: every waiting slot raises it at its bundle, and a stream's unit holds it; each kernel's
supervisor is told, and the entry is free (R124, R345, R346). -/
def answerFault (q i : Nat) (m : PMiss) (c : Code) : Stage := pick (fun s =>
  let l := waitingOnMiss s q m
  let va := fun (t : Thread) => match t.wait with
    | some (.translation v _) => v
    | _ => m.va
  let ys := streamsOnMiss s q m
  let all := l.map (fun x => (x.1, va x.2)) ++ ys.map (fun y => (y.1, BitVec.ofInt 64 y.2.next))
  let first := setAddAll [] (all.map (fun x => (thr s x.1).kernel))
  [eff (l.map (fun x => onThr x.1 (fun t => { t with fault := some ⟨c, va t⟩ })) ++
     ys.map (fun y => onArch y.1 (fun a => a.onStrm y.2.reg (fun z => { z with fifo := z.fifo ++ [.fault ⟨c, BitVec.ofInt 64 y.2.next⟩] }))) ++
     [onQuad q (fun x => { x with misses := tabDel x.misses i })])] ++
  first.filterMap (fun k => (all.find? (fun x => (thr s x.1).kernel == k)).map (fun x => faultNotice x.1 c x.2)))

/-! ## Writing entries -/

/-- A core of a quad. -/
def quadCore (q c : Nat) : Nat := 4 * q + c

/-- Do two entries of one tenant overlap (R346)? -/
def entriesOverlap (e f : BitVec 128) : Bool :=
  bits e 127 116 == bits f 127 116 &&
    (let n := max (entrySize e) (entrySize f)
     bits e 54 16 * 2 ^ 16 / n == bits f 54 16 * 2 ^ 16 / n)

/-- Does an entry contain one of a chunk's pages? -/
def holdsPage (e : BitVec 128) (pages : List Nat) : Bool :=
  pages.any (fun p => p * 65536 / entrySize e == bits e 54 16 * 2 ^ 16 / entrySize e)

/-- Entries of a core are cleared: a chunk that holds accesses translated through one of them is discarded at its end, one in
an image too (R349). A commit of the cycle has been taken before. -/
def clearEntries (c : Nat) (p : Nat → BitVec 128 → Bool) : Stage := fun s =>
  let gone := (core s c).tlb.filter (fun x => x.2.getLsbD 0 && p x.1 x.2)
  let hit := fun (t : Thread) => gone.any (fun g => bits g.2 127 116 == (kernel s t.kernel).ctx && holdsPage g.2 t.chunk.pages)
  let mark := fun (t : Thread) => { t with chunk := { t.chunk with stale := true } }
  if gone.isEmpty then [] else
  [onCore c (fun x => { x with tlb := x.tlb.filter (fun y => !(y.2.getLsbD 0 && p y.1 y.2)) })] ++
  ((coreSlots s c).filter (fun x => hit x.2)).map (fun x => onThr x.1 mark) ++
  (s.o.tasks.filter (fun x => (x.2.image.map (fun t => coreOf t.home == c && hit t)).getD false)).map (fun x => onTaskThr x.1 mark)

/-- Writes entry i of a core: what it overlaps and what stood there is cleared; an invalid one that answers nothing clears
only what stood there (R346). -/
def writeEntry (c i : Nat) (e : BitVec 128) (answers : Bool) : Stage := seqS [
  clearEntries c (fun j f => j == i || ((e.getLsbD 0 || answers) && entriesOverlap e f)),
  eff [onCore c (fun x => { x with tlb := tabPut x.tlb i e })]]

/-- Does a page leave its realm, or is it out of line with its size (R341, R342)? -/
def entryPlaceBad (e : BitVec 128) : Bool :=
  let n := entrySize e
  let pa := bits e 84 64 * 2 ^ 16
  let top := if e.getLsbD 104 then 96 * 10 ^ 9 else 2 ^ 26
  pa % n != 0 || (bits e 54 16 * 2 ^ 16) % n != 0 || decide (top < pa + n)

/-- Does an entry break R346? -/
def entryBad (e : BitVec 128) : Bool :=
  bits e 101 85 != 0 || bits e 63 55 != 0 || bits e 15 1 != 0 || bits e 111 110 == 3
    || decide (11 ≤ bits e 115 112) || bits e 127 116 == 0 || entryPlaceBad e

/-- The entry that a walk-table page makes for a tenant (R342). -/
def entryOfPage (tid : Nat) (p : PageCfg) : BitVec 128 :=
  BitVec.ofNat 128 (tid % 4096 * 2 ^ 116 + p.grain.toNat * 2 ^ 112 + p.size.toNat * 2 ^ 110 + bit p.mirror * 2 ^ 109
    + bit p.append * 2 ^ 108 + bit p.x * 2 ^ 107 + bit p.w * 2 ^ 106 + bit p.r * 2 ^ 105 + bit p.hbm * 2 ^ 104
    + p.die.toNat * 2 ^ 102 + p.pa / 2 ^ 16 % 2 ^ 21 * 2 ^ 64 + p.va / 2 ^ 16 % 2 ^ 39 * 2 ^ 16 + 1)

/-- The entry of a core's TLB that the shipped firmware writes: a free one, or one of its choice. -/
def walkIndex (s : State) (c : Nat) : Nat := (tabFree (core s c).tlb 0 64).getD (Config.freeNat (s.fresh + c) % 64)

/-- Does a waiting core hold an entry of another tenant whose page contains the address (R332)? -/
def otherTenant (s : State) (q : Nat) (m : PMiss) : Bool :=
  m.cores.any (fun c => (core s (quadCore q c)).tlb.any (fun x =>
    bits x.2 127 116 != m.tid && entryHas x.2 (bits x.2 127 116) m.va.toNat))

/-- The shipped firmware answers a pending miss: where its walk finds no mapping of the context, PERM if the page has
an entry of another tenant (R332) and else PAGE; where it finds one, an entry on each core that waits (R344, R345). -/
def walkAnswer (q i : Nat) : List Stage := [pick (fun s =>
  match tabGet (quad s q).misses i with
  | none => []
  | some m =>
    match (if inWindows s m.tid m.va.toNat then ctxPage s m.tid m.va.toNat else none) with
    | none => [answerFault q i m (if otherTenant s q m then .perm else .page)]
    | some p => m.cores.flatMap (fun c =>
        [pick (fun s => [writeEntry (quadCore q c) (walkIndex s (quadCore q c)) (entryOfPage m.tid p) true]),
         pick (fun s => match tabGet (quad s q).misses i with
           | some m => [answerCore q i c m]
           | none => []), eff [.draw 1]]))]

/-! ## TLBW, TLBI, TLBR -/

/-- The quad of a firmware thread of a translation service core. -/
def serviceQuad (slot : Nat) : Nat := (slot - 2 ^ 18) / 64

/-- PRIV: these words execute only at firmware privilege on a translation service core (R60). -/
def Plan.service (p : Plan) (s : State) : Plan :=
  { p with priv := !(decide (2 ^ 18 ≤ s.cur) && decide (s.cur < 2 ^ 19) && (thr s s.cur).arch.priv == .firmware) }

/-- Is TLBW's control word and entry illegal (R346)? -/
def tlbwBad (q : Quad) (e : BitVec 128) (c : Dword) : Bool :=
  let resp := bits c 25 24
  let m := tabGet q.misses (bits c 21 16)
  if bits c 63 26 ≠ 0 ∨ bits c 23 22 ≠ 0 ∨ bits c 15 14 ≠ 0 ∨ bits c 7 2 ≠ 0 ∨ (resp = 0 ∧ bits c 21 16 ≠ 0) then true
  else if 2 ≤ resp then m.isNone
  else entryBad e || (resp == 1 && match m with
    | some m => !entryHas (e ||| 1) m.tid m.va.toNat
    | none => true)

/-- TLBW writes an entry and may answer a pending miss (R346). -/
def planTlbw (ls : LS) (a b : BitVec 7) (s : State) : Plan :=
  let sl := s.cur
  let e := rd s sl a.toNat
  let c := rd64 s sl b.toNat
  let q := serviceQuad sl
  let i := bits c 21 16
  let resp := bits c 25 24
  let kc := bits c 1 0
  let m := tabGet (quad s q).misses i
  cPlan ls ((((regPlan s sl true [fr a, fr b]).service s).ownIf s sl (tlbwBad (quad s q) e c) .illegal).does
    (match m with
     | some m =>
       (match resp with
        | 0 => [writeEntry (quadCore q kc) (bits c 13 8) e false]
        | 1 => [writeEntry (quadCore q kc) (bits c 13 8) e true, answerCore q i kc m]
        | 2 => [answerFault q i m .page]
        | _ => [answerFault q i m .perm])
     | none => [writeEntry (quadCore q kc) (bits c 13 8) e false]))
/-- TLBW. -/
def execTlbw (ls : LS) (a b : BitVec 7) (s : State) : Host.Outcome State Fault Refusal := fireC (planTlbw ls a b) s

/-- TLBI clears entries on the named cores (R347). -/
def planTlbi (ls : LS) (a b : BitVec 7) (s : State) : Plan :=
  let sl := s.cur
  let c := rd64 s sl b.toNat
  let scope := bits c 5 4
  let tid := bits c 27 16
  let va := bits (rd s sl a.toNat) 54 0
  let bad := bits c 63 28 ≠ 0 ∨ bits c 15 6 ≠ 0 ∨ scope = 3 ∨ bits c 3 0 = 0
  let hit := fun (e : BitVec 128) => match scope with
    | 0 => entryHas e tid va
    | 1 => bits e 127 116 == tid
    | _ => true
  cPlan ls ((((regPlan s sl true ((if scope = 0 then [fr a] else []) ++ [fr b])).service s).own
    (if bad then some (bTrap s sl .illegal) else none)).does
    (((upto 0 4).filter (fun i => c.getLsbD i)).map (fun i =>
      clearEntries (quadCore (serviceQuad sl) i) (fun _ e => hit e))))
/-- TLBI. -/
def execTlbi (ls : LS) (a b : BitVec 7) (s : State) : Host.Outcome State Fault Refusal := fireC (planTlbi ls a b) s

/-- A pending-table entry as TLBR reads it (R348). -/
def PMiss.word (m : PMiss) : Word :=
  wd (total ((setAddAll [] m.acc).map (fun x => 2 ^ (80 + x))) + total ((setAddAll [] m.cores).map (fun x => 2 ^ (76 + x)))
    + m.tid % 4096 * 2 ^ 64 + 2 ^ 63 + m.va.toNat % 2 ^ 55)

/-- TLBR reads a TLB entry or a pending-table entry (R348). An absent TLB entry reads as zero, V = 0. -/
def planTlbr (ls : LS) (d b : BitVec 7) (s : State) : Plan :=
  let sl := s.cur
  let c := rd64 s sl b.toNat
  let q := serviceQuad sl
  let pt := c.getLsbD 31
  let bad := if pt then bits c 63 32 ≠ 0 ∨ bits c 30 22 ≠ 0 ∨ bits c 15 0 ≠ 0
    else bits c 63 14 ≠ 0 ∨ bits c 7 2 ≠ 0
  let v : Word := if pt then ((tabGet (quad s q).misses (bits c 21 16)).map PMiss.word).getD 0
    else tabD (core s (quadCore q (bits c 1 0))).tlb (bits c 13 8) 0
  cPlan ls ((((regPlan s sl true [fw d, fr b]).service s).own (if bad then some (bTrap s sl .illegal) else none)).does
    [wr sl d.toNat v])
/-- TLBR. -/
def execTlbr (ls : LS) (d b : BitVec 7) (s : State) : Host.Outcome State Fault Refusal := fireC (planTlbr ls d b) s

/-! ## The patrol -/

/-- PATROL_READ: the patrol reads a line of HBM or die store, and handles what it finds as an access does,
but that no slot consumes the line (R356). -/
def execPatrolRead (line : Nat) (s : State) : Host.Outcome State Fault Refusal :=
  fire (if locGlobal (line * 64) then [lineRead line] else []) s

end Sys2Proof.Machine
end

