-- ==== Sys2Proof/Machine/Sequence.lean ====
section
/-!
DEFINITION. Sequence: records and their binding (R291 to R293), versions and the sequence machine (R294 to
R299), the draw tree (R302 to R305), and the words SLICEMASS, DRAW, PENAL, GMASK, TOKAPP, SEQCMT and
ACCEPT.SEQ (R300, R301, R307 to R311).
-/

namespace Sys2Proof.Machine

open Sys2Proof

/-! ## The record (R291 to R293) -/

/-- The key of a bound sequence: its context and SID. -/
def seqKey (cid addr : Nat) : Nat := cid * 2 ^ 47 + addr / 256

/-- The sequence that a record describes; TIP is CP (R293). -/
def seqOf (cid addr loc : Nat) (bs : List Byte) : Seq :=
  let f := fun i n => ofBytes ((bs.drop i).take n)
  let w := fun i => BitVec.ofNat 32 (f i 4)
  { cid := cid, addr := addr, loc := loc, st := f 0 1, flim := f 2 1, maskreq := (f 1 1).testBit 1, greedy := (f 1 1).testBit 0
    vocab := f 8 4, seed := BitVec.ofNat 64 (f 12 8), cinv := w 20, pfreq := w 24, ppres := w 28, hist := f 32 2
    nslices := f 34 2, dlcy := f 36 4, digit0 := f 40 4, minus := f 44 4, faulttok := f 48 4, ringlen := f 52 4
    ring := f 56 8, vbase := f 64 8, cp := f 72 4, tip := f 72 4, keep := f 80 4
    optab := (upto 0 16).map (fun e => w (128 + 4 * e))
    kvreg := ((regionsOf 4 (bs.drop 192)).zipIdx.filter (fun r => f (192 + 16 * r.2) 16 != 0)).map (·.1), lastGen := 0 }

/-- Is an OPTAB entry enabled? -/
def opOn (e : BitVec 32) : Bool := e.getLsbD 31
/-- KIND of an OPTAB entry. -/
def opKind (e : BitVec 32) : Nat := bits e 21 18
/-- TOKEN of an OPTAB entry. -/
def opToken (e : BitVec 32) : Nat := bits e 17 0

/-- Is a token the digit of a sequence? -/
def isDigit (q : Seq) (t : Nat) : Bool := decide (q.digit0 ≤ t) && decide (t < q.digit0 + 10)

/-- Two enabled entries that name one token. -/
def opTwice : List (BitVec 32) → Bool
  | [] => false
  | e :: l => (opOn e && l.any (fun f => opOn f && opToken f == opToken e)) || opTwice l

/-- Does a record break R293? -/
def recordBad (q : Seq) (bs : List Byte) : Bool :=
  let f := fun i n => ofBytes ((bs.drop i).take n)
  q.st == 0 || decide (3 < q.st) || f 3 5 != 0 || f 84 44 != 0 || decide (4 ≤ f 1 1)
    || q.optab.any (fun e => bits e 30 22 != 0)
    || decide (q.vocab < 16) || decide (262144 < q.vocab)
    || decide (q.ringlen < 64) || decide (2 ^ 24 < q.ringlen) || q.ringlen != 2 ^ Nat.log2 q.ringlen
    || decide (q.ringlen < q.hist + 64) || decide (4096 < q.hist) || q.nslices == 0 || decide (4096 < q.nslices)
    || decide (q.vocab ≤ q.digit0 + 9)
    || (!q.greedy && match decodeNum 11 q.cinv.toNat with
        | .fin n m _ => n || m == 0
        | _ => true)
    || q.optab.any (fun e => opOn e && (decide (q.vocab ≤ opToken e) || isDigit q (opToken e) || opToken e == q.minus
        || opToken e == q.faulttok))
    || opTwice q.optab || regionsBad q.kvreg

/-- The slots that wait for the binding of a sequence. -/
def bindWaiters (s : State) (key : Nat) : List Nat :=
  (s.o.slots.filter (fun x => x.2.wait == some (.binding key))).map (·.1)

/-- A core caches a bound sequence: eight of them, the oldest going first (R293). -/
def cacheSid (c key : Nat) : Eff :=
  onCore c (fun x => { x with sids :=
    let l := x.sids.filter (· != key) ++ [key]
    if 8 < l.length then l.drop 1 else l })

/-- The version at CP has been read: what binding leaves (R293, R296). A poisoned record or version ends the
sequence (R312); one that is ENDED already unbinds again. -/
def bindRecord (key : Nat) (q : Seq) (poisoned : Bool) : Stage := seqS [
  eff [.obj (fun o => { o with seqs := tabPut o.seqs key q })],
  fun s =>
    let g := memNat s.mem (verLoc s q q.cp + 576) 4
    [onSeq key (fun x => { x with vers := [(x.cp, (g, 0))], lastGen := g })],
  seqWriteBack key,
  if q.st = 3 then (fun s => [.post (s.now + 1) (.ev (.seqUnbind q.cid q.addr))])
  else if poisoned then seqEnd key 3 else seqSettle key]

/-- The home unit binds a sequence, or finds its record wrong: SEQ at every bundle that waits (R293). A
unit with 4,096 bound sequences holds the bundles back. -/
def bindSeq (cid addr : Nat) : Stage := pick (fun s =>
  let key := seqKey cid addr
  let ws := bindWaiters s key
  let cache := eff (ws.map (fun sl => cacheSid (coreOf sl) key))
  let k := kernel s (((ws.head?).map (fun sl => (thr s sl).kernel)).getD 0)
  if ws.isEmpty then [] else
  if tabHas s.o.seqs key then [cache] else
  match ctxXlat s cid addr .read with
  | .error c => [eff (ws.map (fun sl => onThr sl (fun t => { t with fault := some (nTrap c addr) })))]
  | .ok loc =>
    if 4096 ≤ (s.o.seqs.filter (fun x => locDie x.2.loc == locDie loc)).length then []
    else
      linesRead loc 256 ++ [pick (fun s =>
        let bs := lookBytes s loc 256
        let q := seqOf cid addr loc bs
        if recordBad q bs then [eff (ws.map (fun sl => onThr sl (fun t => { t with fault := some (nTrap .seq addr) })))]
        else
          let vl := verLoc s q q.cp
          linesRead vl 1024 ++ [pick (fun s =>
            [bindRecord key { q with root := k.root, queue := k.queue } ((poisonIn s loc 256).isSome || (poisonIn s vl 1024).isSome), cache])])])

/-- SEQ_BIND (R293). -/
def execSeqBind (cid addr : Nat) (s : State) : Host.Outcome State Fault Refusal := fire [bindSeq cid addr] s

/-- Takes a sequence out of its unit; the kept fields are written back, and bundles that wait for a binding
ask again (R293). -/
def unbindSeq (key : Nat) : Stage := seqS [
  seqWriteBack key,
  fun s => [.obj (fun o => { o with
      seqs := tabDel o.seqs key
      cores := tabMap o.cores (fun _ c => { c with sids := c.sids.filter (· != key) }) })] ++
    s.o.slots.filterMap (fun x => match x.2.wait with
      | some (.binding k) => some (.post (s.now + 1) (.ev (.seqBind (k / 2 ^ 47) (k % 2 ^ 47 * 256))))
      | _ => none)]

/-- Is a reference to a sequence outstanding? -/
def seqInUse (s : State) (key : Nat) (q : Seq) : Bool :=
  q.steps.any (fun x => x.2.result.isNone && !(x.2.waiting.1.isEmpty && x.2.waiting.2.isEmpty))
    || s.o.slots.any (fun x => match x.2.wait with
        | some (.version k _ _) => k == key
        | some (.binding k) => k == key
        | _ => false)

/-- An ENDED sequence unbinds once no reference is outstanding (R293). -/
def unbindEnded (cid addr : Nat) : Stage := pick (fun s =>
  let key := seqKey cid addr
  match tabGet s.o.seqs key with
  | none => []
  | some q =>
    if q.st ≠ 3 then []
    else if seqInUse s key q then [fun s => [.post (s.now + 1000) (.ev (.seqUnbind cid addr))]]
    else [unbindSeq key])

/-- SEQ_UNBIND (R293). -/
def execSeqUnbind (cid addr : Nat) (s : State) : Host.Outcome State Fault Refusal := fire [unbindEnded cid addr] s

/-! ## Versions and the sequence machine (R294 to R299) -/

/-- A version as fields (R294). -/
structure Ver where
  q : List Nat
  mem : List Nat
  mode : Nat
  kind : Nat
  need : Nat
  got : Nat
  ops : List Nat
  fqn : Nat
  fq : List Nat
  gen : Nat
  deriving DecidableEq, Repr

/-- The version in 1,024 bytes. -/
def verOf (bs : List Byte) : Ver :=
  let f := fun i n => ofBytes ((bs.drop i).take n)
  { q := (upto 0 16).map (fun i => f (2 * i) 2), mem := (upto 0 256).map (fun i => f (32 + 2 * i) 2)
    mode := f 544 1, kind := f 545 1, need := f 546 1, got := f 547 1, ops := (upto 0 3).map (fun i => f (548 + i) 1)
    fqn := f 551 1, fq := (upto 0 6).map (fun i => f (552 + 4 * i) 4), gen := f 576 4 }

/-- The 1,024 bytes of a version. -/
def Ver.bytes (v : Ver) : List Byte :=
  v.q.flatMap (bytesOf 2) ++ v.mem.flatMap (bytesOf 2) ++ bytesOf 1 v.mode ++ bytesOf 1 v.kind ++ bytesOf 1 v.need
    ++ bytesOf 1 v.got ++ v.ops.flatMap (bytesOf 1) ++ bytesOf 1 v.fqn ++ v.fq.flatMap (bytesOf 4) ++ bytesOf 4 v.gen
    ++ List.replicate 444 0

/-- Operands that a kind takes (R298). -/
def kindOperands (k : Nat) : Nat :=
  match k with
  | 0 => 0
  | 1 | 2 | 8 | 12 | 13 => 2
  | 14 | 15 => 1
  | _ => 3

/-- Queues forced tokens (R298, R299). -/
def Ver.queue (v : Ver) (l : List Nat) : Ver :=
  { v with fq := (v.fq.take v.fqn ++ l ++ List.replicate 6 0).take 6, fqn := v.fqn + l.length }

/-- A fault: q15 counts it and the fault token is queued (R299). -/
def Ver.fault (v : Ver) (tok : Nat) : Ver :=
  { v with q := v.q.set 15 ((v.q.getD 15 0 + 1) % 2 ^ 16) }.queue [tok]

/-- Decimal digits of a number, most significant first; at least one. -/
def decimals (n : Nat) : Nat → List Nat
  | 0 => [n % 10]
  | f + 1 => if n < 10 then [n] else decimals (n / 10) f ++ [n % 10]

/-- Writes q(i) and q14 (R298). -/
def Ver.setQ (v : Ver) (i : Nat) (x : Int) : Ver :=
  { v with q := (v.q.set i (wrap 16 x)).set 14 (wrap 16 x) }

/-- Executes a token op: the version after it, or none for a fault (R298). -/
def Ver.execute (v : Ver) (sq : Seq) : Option Ver :=
  let o := fun i => v.ops.getD i 0
  let q := fun i => signed 16 (v.q.getD i 0)
  let a := q (o 1)
  let b := q (o 2)
  let inMem := decide (0 ≤ a) && decide (a ≤ 255)
  let set := fun x => some (v.setQ (o 0) x)
  match v.kind with
  | 0 => some v
  | 1 => set (o 1)
  | 2 => set a
  | 3 => set (a + b)
  | 4 => set (a - b)
  | 5 => set (a * b)
  | 6 => if b = 0 then none else set (Int.tdiv a b)
  | 7 => if b = 0 then none else set (Int.tmod a b)
  | 8 => set (-a)
  | 9 => set (min a b)
  | 10 => set (max a b)
  | 11 => set (if a < b then -1 else if a = b then 0 else 1)
  | 12 => if inMem then set (signed 16 (v.mem.getD a.toNat 0)) else none
  | 13 => if inMem then some { v with
      mem := v.mem.set a.toNat (v.q.getD (o 0) 0), q := v.q.set 14 (v.q.getD (o 0) 0) } else none
  | 14 =>
    let x := q (o 0)
    let v := { v with q := v.q.set 14 (v.q.getD (o 0) 0) }
    some (v.queue ((if x < 0 then [sq.minus] else []) ++ (decimals x.natAbs 5).map (fun d => sq.digit0 + d)))
  | _ => set 0

/-- Decodes a token in a version (R297): the version after it, whether a token op was executed, and whether
a fault was queued. -/
def Ver.decode (v : Ver) (sq : Seq) (t : Nat) : Ver × Bool × Bool :=
  if v.mode = 0 then
    match sq.optab.find? (fun e => opOn e && opToken e == t) with
    | none => (v, false, false)
    | some e =>
      if opKind e = 0 then (v, true, false)
      else ({ v with mode := 1, kind := opKind e, need := kindOperands (opKind e), got := 0 }, false, false)
  else if isDigit sq t then
    let v' := { v with ops := v.ops.set v.got (t - sq.digit0) }
    if v.got + 1 < v.need then ({ v' with got := v.got + 1 }, false, false)
    else
      let v' := { v' with mode := 0 }
      match v'.execute sq with
      | some w => (w, true, false)
      | none => (v'.fault sq.faulttok, true, true)
  else ({ v with mode := 0 }.fault sq.faulttok, false, true)

/-- The head of the forced queue is used up (R299). -/
def Ver.advance (v : Ver) : Ver := { v with fq := v.fq.drop 1 ++ [0], fqn := v.fqn - 1 }

/-- V(p) of a sequence as it stands. -/
def verAt (s : State) (q : Seq) (p : Nat) : Ver := verOf (lookBytes s (verLoc s q p) 1024)

/-- Is V(p) one of a sequence's versions? -/
def hasVer (q : Seq) (p : Nat) : Bool := verExists q p && tabHas q.vers p

/-- GEN of V(p). -/
def genOf (q : Seq) (p : Nat) : Nat := ((tabGet q.vers p).map (·.1)).getD 0

/-! ## References -/

/-- A reference to the sequence whose record address a register holds (R293): ALIGN, page faults, then, where
the core does not cache it, the bundle waits for the binding. -/
def seqPlan (s : State) (p : Plan) (a : Dword) (f : Plan → Nat → Seq → Plan) : Plan :=
  let sl := s.cur
  let addr := bits a 54 0
  let cid := ctxOf s sl
  let key := seqKey cid addr
  let p := p.own (alignTrap addr 256)
  match translate s sl addr .read with
  | .trap t => p.own (some t)
  | .miss va k => { p with miss := p.miss.or (some (va, k)) }
  | .hit _ _ =>
    match (if (core s (coreOf sl)).sids.contains key then tabGet s.o.seqs key else none) with
    | some q => f p key q
    | none => { p with
        sleep := some (.binding key)
        first := [fun s => [.post (s.now + lat s cid 0 900) (.ev (.seqBind cid addr)), .draw 1]] }

/-- What a reference at position p meets: it waits in an iteration task, or its kind is decided, or V(p)
stands (R300, R304). -/
inductive RefAt where
  | wait
  | kind (k : Nat)
  | ver (v : Ver)

/-- A reference at a position (R300, R304): ENDED first, then RANGE where no version stands or will. -/
def refAt (s : State) (slot : Nat) (q : Seq) (p : Nat) : RefAt :=
  if q.st = 3 ∨ q.keep ≤ p ∨ (hasVer q p ∧ verFinal s q p) then .kind 4
  else if hasVer q p then .ver (verAt s q p)
  else if q.cp ≤ p ∧ (iterOf s slot).isSome then .wait
  else .kind 7

/-- The first reference of an iteration to a sequence is remembered with its version (R301). -/
def markRef (slot key p gen : Nat) : Stage := fun s =>
  if (iterOf s slot).isSome && !((thr s slot).arch.seqRefs.any (fun x => x.1 == key)) then
    [onArch slot (fun a => { a with seqRefs := a.seqRefs ++ [(key, p, gen)] })]
  else []

/-- A long result of a known value within a bound. -/
def known (slot d : Nat) (v : Nat) (bound : Nat) : Stage := pendIn slot [d] none (.value [wd v] none 0) bound

/-- The slice that a descriptor names and its checks (R307). -/
structure SliceArg where
  naddr : Nat
  first : Nat
  count : Nat
  pos : Nat
  deriving DecidableEq, Repr

/-- The slice descriptor in a register (R307). -/
def sliceArg (v : Word) : SliceArg := ⟨bits v 127 96, bits v 95 64, bits v 63 32, bits v 31 0⟩

/-- The traps of a slice descriptor, and the poison in its logits (R307, R312). -/
def slicePlan (s : State) (p : Plan) (x : SliceArg) : Plan :=
  let sl := s.cur
  let bad := x.count = 0 ∨ x.count % 4 ≠ 0 ∨ 262144 < x.count
  let p := p.own (if bad then some (bTrap s sl .illegal) else none)
  if p.c3.isSome then p else
  match nearOwn s sl x.naddr (4 * x.count) with
  | none => p.own (some (nTrap .nearRange x.naddr))
  | some loc =>
    let p := p.own (alignTrap x.naddr 16)
    { p with poison := p.poison.or ((nearPoison s loc (4 * x.count)).map (fun c => (c, BitVec.ofNat 64 x.naddr))) }

/-- The location of a slice's logits. -/
def sliceLoc (s : State) (slot : Nat) (x : SliceArg) : Nat := (nearOwn s slot x.naddr (4 * x.count)).getD 0

/-! ## The draw tree (R302 to R304) -/

/-- Bit i of the mask bound to a version, if one is (R309). -/
def maskBit (s : State) (q : Seq) (p i : Nat) : Option Bool :=
  (tabGet q.masks p).map (fun a => (memGet s.mem (ctxLoc s q.cid (a + i / 8) .read)).getLsbD (i % 8))

/-- Is a logit allowed (R303)? -/
def allowed (s : State) (q : Seq) (p : Nat) (v : Ver) (i : Nat) (l : BitVec 32) : Bool :=
  !(decodeNum 11 l.toNat).isNan
    && (match maskBit s q p i with
        | some b => b
        | none => !q.maskreq)
    && (v.mode == 0 || isDigit q i)

/-- The larger of two logits, the first among equals (R303). -/
def maxLogit (a : Option (BitVec 32)) (l : BitVec 32) : Option (BitVec 32) :=
  match a with
  | none => some l
  | some m => if ltNum (decodeNum 11 m.toNat) (decodeNum 11 l.toNat) then some l else some m

/-- The weight of an allowed logit under M (R303): from 0 to 2^32. -/
def weight (q : Seq) (m l : BitVec 32) : Nat :=
  let x := decodeNum 11 l.toNat
  let y := decodeNum 11 m.toNat
  if x = .inf true then 0
  else if q.greedy then (if eqNum x y then 2 ^ 32 else 0)
  else if y = .inf false then (if x = .inf false then 2 ^ 32 else 0)
  else
    let z := encodeNum 11 0 false (mulNum (subNum 0 x y).1 (decodeNum 11 q.cinv.toNat)).1
    match decodeNum 11 (exp2Lane 0 z.1).1 with
    | .fin false n e => min (2 ^ 32) (if 0 ≤ e + 32 then n * 2 ^ (e + 32).toNat else n / 2 ^ (-(e + 32)).toNat)
    | .inf false => 2 ^ 32
    | _ => 0

/-- The logits that a slice gives: of a word that has changed since issue, the old or the new value (R307). -/
def Slice.chosen (s : State) (x : Slice) : Slice :=
  { x with logits := (x.logits.zipIdx).map (fun l =>
      let now := BitVec.ofNat 32 (ofBytes (lookBytes s (x.loc + 4 * l.2) 4))
      if now ≠ l.1 ∧ Config.freeBool (s.fresh + x.first + l.2) then now else l.1) }

/-- The weights of a slice under M (R303). -/
def sliceWeights (s : State) (q : Seq) (p : Nat) (v : Ver) (m : Option (BitVec 32)) (x : Slice) : List Nat :=
  (x.logits.zipIdx).map (fun l =>
    match m with
    | some m => if allowed s q p v (x.first + l.2) l.1 then weight q m l.1 else 0
    | none => 0)

/-- The poison in a version's words (R312). -/
def verPoison (s : State) (q : Seq) (p : Nat) : Option (Nat × BitVec 64) :=
  (poisonIn s (verLoc s q p) 1024).map (fun c => (c, lineVa (q.vbase + 1024 * (p % 64))))

/-- The poison in the mask bits of a slice, where a mask is bound to its version (R309, R312). -/
def maskPoison (s : State) (q : Seq) (p first count : Nat) : Option (Nat × BitVec 64) :=
  (tabGet q.masks p).bind (fun a => firstSome (fun l =>
    (poisonIn s (ctxLoc s q.cid (64 * l) .read) 64).map (fun c => (c, lineVa (64 * l))))
    (upto ((a + first / 8) / 64) ((a + (first + count - 1) / 8) / 64 + 1 - (a + first / 8) / 64)))

/-- A SLICEMASS receives its mass (R307). -/
def answerMass (cid : Nat) (x : Slice) (ws : List Nat) : Stage := fun s =>
  answer x.task x.pend [wd (total ws * 2 ^ 64)] (lat s cid 0 (2 * ((x.count + 3) / 4) + 40)) s ++ [.draw 1]

/-- Changes a step. -/
def onStep (key p : Nat) (f : DrawStep → DrawStep) : Eff :=
  onSeq key (fun q => { q with steps := tabUpd q.steps p f })

/-- Gives the result of a step to every DRAW that waits (R304). -/
def stepResult (key p kind tok : Nat) : Stage := pick (fun s =>
  match (tabGet s.o.seqs key).bind (fun q => tabGet q.steps p) with
  | none => []
  | some x =>
    (x.draws.map (fun d => (fun s => answer d.1 d.2 [wd (kind * 2 ^ 32 + tok)] (lat s (key / 2 ^ 47) 0 2280) s ++ [.draw 1] : Stage))) ++
    [eff [onStep key p (fun x => { x with result := some (kind, tok), draws := [] })]])

/-- More slices than SLICES: the step is SLICE (R307). Its SLICEMASSes that wait end with the kind. -/
def stepSlice (key p : Nat) : Stage := pick (fun s =>
  match (tabGet s.o.seqs key).bind (fun q => tabGet q.steps p) with
  | none => []
  | some x => [endWaiting { x with draws := [] } 5, stepResult key p 5 0xFFFFFFFF])

/-- All contributions of an attempt are in: M returns, unless a mask that is required is still missing. -/
def stepFull (q : Seq) (p : Nat) (x : DrawStep) : Bool :=
  x.slices.length == q.nslices && x.result.isNone && x.m.isNone && (!q.maskreq || tabHas q.masks p)

/-- Posts the return of M where a step is complete. -/
def fullCheck (key p : Nat) : Stage := fun s =>
  match tabGet s.o.seqs key with
  | none => []
  | some q => match tabGet q.steps p with
    | some x => if stepFull q p x then [.post (s.now + lat s q.cid 0 600) (.ev (.drawMaxReturn q.cid q.addr p)), .draw 1] else []
    | none => []

/-- A contribution reaches its step (R302, R305): it opens the attempt, which takes a number of its own, replaces one of equal FIRST, or, after
the result or with M known, receives its mass at once. -/
def contribute (key p : Nat) (c : Slice) : Stage := pick (fun s =>
  match tabGet s.o.seqs key with
  | none => []
  | some q =>
    let x := tabD q.steps p { gen := genOf q p }
    let put := fun (f : DrawStep → DrawStep) => eff [onSeq key (fun q => { q with steps := tabMod q.steps p { gen := genOf q p } f })]
    let replaced := ((tabGet x.slices c.first).map (fun o => [o])).getD []
    let excess := decide (q.nslices < (tabPut x.slices c.first c).length)
    match x.m with
    | some m =>
      let ws := sliceWeights s q p (verAt s q p) m (c.chosen s)
      [answerMass q.cid c ws] ++
      (if x.result.isSome then [] else
        [put (fun x => { x with slices := tabPut x.slices c.first { c with weights := ws } }),
         if excess then stepSlice key p else skip])
    | none =>
      if x.result.isSome then [fun s => answer c.task c.pend [wd 0] (lat s q.cid 0 40) s ++ [.draw 1]] else
      let at_ := if x.slices.isEmpty then s.fresh else x.attempt
      [put (fun x => { x with attempt := at_, slices := tabPut x.slices c.first c, dropped := x.dropped ++ replaced }),
       (if x.slices.isEmpty && q.maskreq && q.dlcy != 0 then
          (fun s => [.post (s.now + q.dlcy) (.ev (.maskDeadline q.cid q.addr p at_))]) else skip), eff [.draw 1],
       if excess then stepSlice key p else fullCheck key p])

/-- The root returns M to every contributor; each computes its weights and mass, and the masses go to the
root (R303). -/
def maxReturns (cid addr p : Nat) : Stage := pick (fun s =>
  let key := seqKey cid addr
  match tabGet s.o.seqs key with
  | none => []
  | some q => match tabGet q.steps p with
    | none => []
    | some x =>
      if !stepFull q p x then []
      else if (verPoison s q p).isSome then [seqEnd key 3]
      else match firstSome (fun c => (maskPoison s q p c.2.first c.2.count).map (fun y => (c.2.task, y))) x.slices with
      | some (tk, c, va) => [consume tk c va]
      | none =>
      let v := verAt s q p
      let slices := tabMap x.slices (fun _ c => c.chosen s)
      let m := slices.foldl (fun m c => (c.2.logits.zipIdx).foldl (fun m l =>
        if allowed s q p v (c.2.first + l.2) l.1 then maxLogit m l.1 else m) m) none
      let ws := fun c => sliceWeights s q p v m c
      [eff [onStep key p (fun x => { x with m := some m, slices := tabMap slices (fun _ c => { c with weights := ws c }) })]] ++
      (slices.map (fun c => answerMass cid c.2 (ws c.2))) ++ (x.dropped.map (fun c => answerMass cid c (ws (c.chosen s)))) ++
      [fun s => [.post (s.now + lat s cid 0 1000) (.ev (.drawRoot cid addr p)), .draw q.vocab]])

/-- DRAW_MAX_RETURN (R303). -/
def execDrawMaxReturn (cid addr pos : Nat) (s : State) : Host.Outcome State Fault Refusal :=
  fire [maxReturns cid addr pos] s

/-- Do the runs tile 0 to V − 1 exactly (R304)? -/
def tiles (v : Nat) : Nat → Tab Slice → Bool
  | n, [] => n == v
  | n, (f, c) :: l => f == n && tiles v (n + c.count) l

/-- The token whose run of the cumulated weights holds the target (R304). -/
def pickToken (target : Nat) : Nat → List (Nat × Nat) → Nat
  | _, [] => 0xFFFFFFFF
  | c, (i, w) :: l => if target < c + w then i else pickToken target (c + w) l

/-- The 64 random bits of a position (R304). -/
def drawBits (q : Seq) (p : Nat) : Nat :=
  let z := zmix (q.seed.extractLsb' 0 32) (q.seed.extractLsb' 32 32)
    (wd (p + q.sid % 2 ^ 32 * 2 ^ 32 + q.sid / 2 ^ 32 % 2 ^ 32 * 2 ^ 64 + 3 * 2 ^ 96))
  bits z 63 0

/-- The root draws the token once all masses are in (R304). -/
def rootDraws (cid addr p : Nat) : Stage := pick (fun s =>
  let key := seqKey cid addr
  match tabGet s.o.seqs key with
  | none => []
  | some q => match tabGet q.steps p with
    | none => []
    | some x =>
      if x.m.isNone || x.result.isSome || x.slices.length != q.nslices then []
      else if !tiles q.vocab 0 x.slices then [stepResult key p 5 0xFFFFFFFF]
      else
        let ws := x.slices.flatMap (fun c => (c.2.weights.zipIdx).map (fun w => (c.1 + w.2, w.1)))
        let sum := total (ws.map (·.2))
        if sum = 0 then [stepResult key p 3 0xFFFFFFFF]
        else [stepResult key p 0 (pickToken (drawBits q p * sum / 2 ^ 64) 0 ws)])

/-- DRAW_ROOT (R304). -/
def execDrawRoot (cid addr pos : Nat) (s : State) : Host.Outcome State Fault Refusal :=
  fire [rootDraws cid addr pos] s

/-- An attempt's deadline passes without a mask: its words end with DEFERRED, and the next SLICEMASS opens a
new attempt (R305). -/
def maskLate (cid addr p attempt : Nat) : Stage := pick (fun s =>
  let key := seqKey cid addr
  match tabGet s.o.seqs key with
  | none => []
  | some q => match tabGet q.steps p with
    | none => []
    | some x =>
      if x.attempt ≠ attempt ∨ x.result.isSome ∨ tabHas q.masks p then []
      else [endWaiting x 2, eff [onStep key p (fun x => { gen := x.gen, attempt := x.attempt + 1 })]])

/-- MASK_DEADLINE (R305). -/
def execMaskDeadline (cid addr pos attempt : Nat) (s : State) : Host.Outcome State Fault Refusal :=
  fire [maskLate cid addr pos attempt] s

/-! ## SLICEMASS, DRAW, PENAL, GMASK -/

/-- DETERMINISM of SLICEMASS and DRAW in a DETERM kernel on a sequence with a mask deadline (R305). -/
def Plan.maskDeterm (p : Plan) (s : State) (q : Seq) : Plan :=
  p.ownIf s s.cur (determ s s.cur && q.maskreq && q.dlcy != 0) .determinism

/-- The sleep of a reference until its version is created (R300). -/
def Plan.awaitVer (p : Plan) (key pos : Nat) (app : Bool) : Plan := { p with sleep := some (.version key pos app) }

/-- Poison that the slot's own read of a sequence's words meets (R312). -/
def Plan.tainted (p : Plan) (x : Option (Nat × BitVec 64)) : Plan := { p with poison := p.poison.or x }

/-- What the mask bits of a slice need, page by page: they are untracked loads of the slot (R307). -/
def Plan.masked (p : Plan) (s : State) (q : Seq) (pos first count : Nat) : Plan :=
  match tabGet q.masks pos with
  | none => p
  | some a =>
    let lo := (a + first / 8) / 65536
    let hi := (a + (first + count - 1) / 8) / 65536
    ((upto lo (hi + 1 - lo)).foldl (fun (p : Plan) x => match translate s s.cur (max (a + first / 8) (65536 * x)) .read with
      | .hit _ _ => p
      | .trap t => p.own (some t)
      | .miss va k => { p with miss := p.miss.or (some (va, k)) }) p).tainted (maskPoison s q pos first count)

/-- SLICEMASS contributes a slice's maximum and mass (R307). -/
def planSlicemass (ls : LS) (d a b : BitVec 7) (s : State) : Plan :=
  let sl := s.cur
  let x := sliceArg (rd s sl b.toNat)
  let p := slicePlan s (regPlan s sl (longDest d) [fw d, fr a, fr b]) x
  cPlan ls <| seqPlan s p (rd64 s sl a.toNat) (fun p key q =>
    let p := p.maskDeterm s q
    match refAt s sl q x.pos with
    | .wait => p.awaitVer key x.pos false
    | .kind k => p.does [known sl d.toNat (k * 2 ^ 32) 40]
    | .ver v =>
      let p := (p.tainted (verPoison s q x.pos)).does [markRef sl key x.pos (genOf q x.pos)]
      if v.fqn ≠ 0 then p.does [known sl d.toNat (2 ^ 32) 40]
      else if q.vocab < x.first + x.count then p.does [known sl d.toNat (5 * 2 ^ 32) 40]
      else
        let loc := sliceLoc s sl x
        (p.masked s q x.pos x.first x.count).does [nearRead loc (4 * x.count), fun s => seqS [pendAwait sl [d.toNat],
          contribute key x.pos { first := x.first, count := x.count, loc := loc, task := (thr s sl).task, pend := s.fresh
                                 logits := (words32 (lookBytes s loc (4 * x.count))).map (BitVec.ofNat 32) },
          eff [.draw 512]] s])
/-- SLICEMASS. -/
def execSlicemass (ls : LS) (d a b : BitVec 7) (s : State) : Host.Outcome State Fault Refusal :=
  fireC (planSlicemass ls d a b) s

/-- A DRAW waits for its step's result. -/
def awaitDraw (slot d key p gen : Nat) : Stage := fun s =>
  [onThr slot (fun t => { t with pend := t.pend ++ [{ id := s.fresh, dests := [d], op := .draw key p gen }] }),
   onSeq key (fun q => { q with steps := tabMod q.steps p { gen := gen } (fun x =>
     { x with draws := x.draws ++ [((thr s slot).task, s.fresh)] }) }), .draw 1]

/-- DRAW returns the token of a step (R304, R307). -/
def planDraw (ls : LS) (d a b : BitVec 7) (s : State) : Plan :=
  let sl := s.cur
  let v := rd s sl b.toNat
  let pos := bits v 31 0
  let p := (regPlan s sl (longDest d) [fw d, fr a, fr b]).ownIf s sl (bits v 127 32 != 0) .illegal
  cPlan ls <| seqPlan s p (rd64 s sl a.toNat) (fun p key q =>
    let p := p.maskDeterm s q
    match refAt s sl q pos with
    | .wait => p.awaitVer key pos false
    | .kind k => p.does [known sl d.toNat (k * 2 ^ 32 + 0xFFFFFFFF) 2280]
    | .ver v =>
      let p := (p.tainted (verPoison s q pos)).does [markRef sl key pos (genOf q pos)]
      if v.fqn ≠ 0 then p.does [known sl d.toNat (2 ^ 32 + v.fq.headD 0) 2280]
      else match (tabGet q.steps pos).bind (·.result) with
        | some (k, t) => p.does [known sl d.toNat (k * 2 ^ 32 + t) 2280]
        | none => p.does [awaitDraw sl d.toNat key pos (genOf q pos)])
/-- DRAW. -/
def execDraw (ls : LS) (d a b : BitVec 7) (s : State) : Host.Outcome State Fault Refusal :=
  fireC (planDraw ls d a b) s

/-- The history that PENAL reads: positions max(0, p − H) to p − 1, oldest first (R308). -/
def history (s : State) (q : Seq) (p : Nat) : List Nat :=
  (ringTokens s q (p - q.hist) (p - (p - q.hist))).map (·.toNat)

/-- PENAL penalises a slice's logits by the history (R308): a chunk point; in a speculative iteration GUESS
unless the slice is in the own TCM (R151). -/
def planPenal (ls : LS) (d a b : BitVec 7) (s : State) : Plan :=
  let sl := s.cur
  let x := sliceArg (rd s sl b.toNat)
  let p := slicePlan s { regPlan s sl (longDest d) [fw d, fr a, fr b] with point := true } x
  let p := p.ownIf s sl (speculative s sl && locScratch (sliceLoc s sl x)) .guess
  cPlan ls <| seqPlan s p (rd64 s sl a.toNat) (fun p key q =>
    if q.st = 3 then p.does [known sl d.toNat (4 * 2 ^ 32) 60]
    else if hasVer q x.pos then
      (p.tainted (ringPoison s q (x.pos - q.hist) (x.pos - (x.pos - q.hist)))).does [markRef sl key x.pos (genOf q x.pos),
        pendIn sl [d.toNat] none (.penal x.naddr x.first x.count q.pfreq q.ppres (history s q x.pos)) (4 * q.hist + 60)]
    else if q.cp ≤ x.pos ∧ (iterOf s sl).isSome then p.awaitVer key x.pos false
    else p.does [known sl d.toNat (7 * 2 ^ 32) 60])
/-- PENAL. -/
def execPenal (ls : LS) (d a b : BitVec 7) (s : State) : Host.Outcome State Fault Refusal :=
  fireC (planPenal ls d a b) s

/-- GMASK binds a grammar mask to a version (R309). -/
def planGmask (ls : LS) (d a b : BitVec 7) (s : State) : Plan :=
  let sl := s.cur
  let v := rd s sl b.toNat
  let pos := bits v 31 0
  let addr := bits v 118 64
  let p := ((regPlan s sl (longDest d) [fw d, fr a, fr b]).noSpec s sl).ownIf s sl
    (bits v 63 32 != 0 || bits v 127 119 != 0) .illegal
  let p := p.own (alignTrap addr 64)
  cPlan ls <| seqPlan s p (rd64 s sl a.toNat) (fun p key q =>
    if q.st = 3 then p.does [known sl d.toNat (4 * 2 ^ 32) 420]
    else if !hasVer q pos || ((tabGet q.steps pos).bind (·.result)).isSome then p.does [known sl d.toNat (7 * 2 ^ 32) 420]
    else p.does [eff [onSeq key (fun q => { q with masks := tabPut q.masks pos addr })], fullCheck key pos,
      known sl d.toNat 0 420])
/-- GMASK. -/
def execGmask (ls : LS) (d a b : BitVec 7) (s : State) : Host.Outcome State Fault Refusal :=
  fireC (planGmask ls d a b) s

/-! ## TOKAPP and SEQCMT -/

/-- The kernel of a slot stands for what a sequence sends on its behalf (R311, R316). -/
def onBehalf (slot key : Nat) : Stage := fun s =>
  [onSeq key (fun q => { q with root := (kernelOf s slot).root, queue := (kernelOf s slot).queue })]

/-- Appends a token at p and builds V(p + 1) (R295, R310). -/
def appendToken (slot key p t gen : Nat) (v : Ver) : Stage := seqS [
  onBehalf slot key,
  seqCut key p (p + 1),
  fun s =>
    match tabGet s.o.seqs key with
    | none => []
    | some q =>
      storeMarked s (ringLoc s q p) (bytesOf 4 t) ++ storeMarked s (verLoc s q (p + 1)) { v with gen := gen }.bytes ++
      [onSeq key (fun q => { q with vers := tabPut q.vers (p + 1) (gen, (thr s slot).task), tip := p + 1, lastGen := gen }),
       onArch slot (fun a => { a with seqApps := a.seqApps ++ [(key, p + 1, gen)] })] ++
      mirrorOut [(ringLoc s q p, 4), (verLoc s q (p + 1), v.bytes.length)] s,
  seqWriteBack key, seqSettle key]

/-- TOKAPP appends a token (R310): a chunk point. -/
def planTokapp (ls : LS) (d a b : BitVec 7) (s : State) : Plan :=
  let sl := s.cur
  let x := rd s sl b.toNat
  let pos := bits x 31 0
  let tok := bits x 63 32
  let p := ({ regPlan s sl (longDest d) [fw d, fr a, fr b] with point := true } : Plan).ownIf s sl (bits x 127 64 != 0) .illegal
  let none_ := fun k => known sl d.toNat (k * 2 ^ 32 + 0xFFFFFFFF) 60
  cPlan ls <| seqPlan s p (rd64 s sl a.toNat) (fun p key q =>
    match refAt s sl q pos with
    | .kind k => p.does [none_ k]
    | .wait => p.awaitVer key pos true
    | .ver v =>
      if q.cp + 62 < pos then (if (iterOf s sl).isSome then p.awaitVer key pos true else p.does [none_ 7])
      else
        let p := (p.tainted (verPoison s q pos)).does [markRef sl key pos (genOf q pos)]
        let forced := decide (v.fqn ≠ 0)
        let t := if forced then v.fq.headD 0 else tok
        if !forced && decide (q.vocab ≤ tok) then p.does [none_ 7]
        else
          let r := (if forced then v.advance else v).decode q t
          p.does [appendToken sl key pos t (q.lastGen + 1) r.1,
            known sl d.toNat (t + bit forced * 2 ^ 32 + bit r.2.1 * 2 ^ 35 + bit r.2.2 * 2 ^ 36
              + r.1.q.getD 14 0 * 2 ^ 48) 60])
/-- TOKAPP. -/
def execTokapp (ls : LS) (d a b : BitVec 7) (s : State) : Host.Outcome State Fault Refusal :=
  fireC (planTokapp ls d a b) s

/-- SEQCMT's result: CP after the instruction, and its kind (R311). -/
def cmtResult (slot d key kind : Nat) : Stage := fun s =>
  known slot d (((tabGet s.o.seqs key).map (·.cp)).getD 0 + kind * 2 ^ 32) 300 s

/-- The plan of SEQCMT (R311): a chunk point, GUESS in a speculative iteration (R300). -/
def cmtPlan (s : State) (ls : LS) (d a b : BitVec 7) (act : Nat → Seq → Nat → Option (List Stage)) : Plan :=
  let sl := s.cur
  let x := rd s sl b.toNat
  let p := ({ regPlan s sl (longDest d) [fw d, fr a, fr b] with point := true } : Plan).noSpec s sl
  cPlan ls <| seqPlan s (p.ownIf s sl (bits x 127 32 != 0) .illegal) (rd64 s sl a.toNat) (fun p key q =>
    if q.st = 3 then p.does [cmtResult sl d.toNat key 4]
    else match act key q (bits x 31 0) with
      | some l => p.does ([onBehalf sl key] ++ l ++ [cmtResult sl d.toNat key 0])
      | none => p.does [cmtResult sl d.toNat key 7])

/-- SEQCMT.COMMIT moves CP and sends the tokens it passes (R311). -/
def planSeqcmtCommit (ls : LS) (d a b : BitVec 7) (s : State) : Plan :=
  cmtPlan s ls d a b (fun key q n => if q.cp ≤ n ∧ n ≤ q.tip ∧ n ≤ q.keep then some [seqAdvance key n] else none)
/-- SEQCMT.COMMIT. -/
def execSeqcmtCommit (ls : LS) (d a b : BitVec 7) (s : State) : Host.Outcome State Fault Refusal :=
  fireC (planSeqcmtCommit ls d a b) s

/-- SEQCMT.REWIND moves TIP back, and CP to the KEEP of a STOP (R311). -/
def planSeqcmtRewind (ls : LS) (d a b : BitVec 7) (s : State) : Plan :=
  cmtPlan s ls d a b (fun key q n =>
    if (q.cp ≤ n ∧ n ≤ q.tip) ∨ (q.st = 2 ∧ n = q.keep ∧ q.keep ≤ q.tip) then
      some [seqCut key n (n + 1), eff [onSeq key (fun q => { q with tip := n, cp := min q.cp n })], versionAtCp key,
        seqWriteBack key, seqSettle key]
    else none)
where
  /-- V(CP) is kept (R294): where CP has moved back, the version that stands there. -/
  versionAtCp (key : Nat) : Stage := fun s =>
    match tabGet s.o.seqs key with
    | none => []
    | some q => if tabHas q.vers q.cp then [] else
      [onSeq key (fun x => { x with vers := tabPut x.vers x.cp (memNat s.mem (verLoc s q q.cp + 576) 4, 0) })]
/-- SEQCMT.REWIND. -/
def execSeqcmtRewind (ls : LS) (d a b : BitVec 7) (s : State) : Host.Outcome State Fault Refusal :=
  fireC (planSeqcmtRewind ls d a b) s

/-! ## ACCEPT.SEQ -/

/-- ACCEPT.SEQ records the produced carry with the sequence's comparison (R281). -/
def planAcceptSeq (ls : LS) (a : BitVec 7) (s : State) : Plan :=
  let v := rd64 s s.cur a.toNat
  cPlan ls (seqPlan s (acceptPlan s [fr a] (.seq (seqKey (ctxOf s s.cur) (bits v 54 0)))) v (fun p _ _ => p))
/-- ACCEPT.SEQ. -/
def execAcceptSeq (ls : LS) (a : BitVec 7) (s : State) : Host.Outcome State Fault Refusal :=
  fireC (planAcceptSeq ls a) s

end Sys2Proof.Machine
end

