-- ==== Sys2Proof/Machine/Rotation.lean ====
section
/-!
DEFINITION. Rotation: the rounds of a core (R68, R74 to R76), the instruction cache (R46), trap entry
(R77), the end of containment (R370), pre-emption and resumption (R93 to R99), the steps of a chunk's
commit (R144 to R148, R268, R269, R379, R380), enabled floating-point events (R185), and the wake-ups
(R74, R91).
-/

namespace Sys2Proof.Machine

open Sys2Proof

/-! ## Rounds -/

/-- Is a slot in the rotation (R64, R68)? One whose image is being written is not. -/
def inRotation (t : Thread) : Bool := (t.st == .ready || t.st == .trapped || t.st == .shadow) && !t.stop

/-- Is a pre-emption request for a slot to be taken in this cycle (R67)? -/
def asked (s : State) (slot : Nat) : Bool := s.agenda.any (fun x => decide (x.1 ≤ s.now) && x.2 == .ev (.preemptionRequest slot))

/-- The slots of a core whose awaited condition holds; a pre-emption request of the cycle goes before a wake-up (R67). -/
def wakers (s : State) (c : Nat) : List (Nat × Thread) :=
  (allSlots s c).filter (fun x => x.2.st == .sleeping && !x.2.stop && waitHolds s x.1 x.2 && !asked s x.1)

/-- Wait counters count the round; one that passes WAITLIM ends its sleep (R75). -/
def countWaits (c : Nat) : Stage := fun s =>
  (allSlots s c).flatMap (fun x => match x.2.wait with
    | some (.word _) =>
      if x.2.st = .sleeping ∧ x.2.grant.isNone then
        [onThr x.1 (fun t => { t with waitCount := t.waitCount + 1 })] ++
        (if x.2.waitlim ≠ 0 ∧ x.2.waitlim.toNat < x.2.waitCount + 1 then [.post s.now (.ev (.waitLimit x.1))] else [])
      else []
    | _ => [])

/-- A slot asleep on a translation whose miss found the pending table full sends it again (R344). -/
def resendMisses (c : Nat) : Stage := fun s =>
  (allSlots s c).flatMap (fun x => match x.2.wait with
    | some (.translation va k) =>
      if x.2.grant.isNone && x.2.fault.isNone && !x.2.stop && (pendingEntry (quad s (quadOf x.1)) (ctxOf s x.1) va.toNat).isNone
      then [.post s.now (.ev (.tlbMiss x.1 va.toNat k))] else []
    | _ => [])

/-- Cycles that a register file takes to wake from its depth (R76). -/
def wakeTime (depth : Nat) : Nat := if depth = 1 then 3 else 60

/-- The cycles of a round's positions (R68): by slot number, one a cycle, and none less than 8 cycles after the slot's
position before (R2, log 62). -/
def turnTimes (cy : Nat) : List (Nat × Thread) → List (Nat × Nat)
  | [] => []
  | x :: r => (x.1, max cy x.2.notBefore) :: turnTimes (max cy x.2.notBefore + 1) r

/-- The positions of a round (R68): one for each slot of the rotation; the next round follows after 8 cycles, or after
the last position where that is later. While the register file is lowered there are none. -/
def positions (c : Nat) : Stage := fun s =>
  let x := core s c
  let l := (allSlots s c).filter (fun y => inRotation y.2)
  let times := if x.lowered = 0 then turnTimes s.now l else []
  let last := times.foldl (fun m y => max m (y.2 + 1)) (s.now + 8)
  [onCore c (fun y => { y with rounds := y.rounds + 1, roundAt := s.now, live := !(allSlots s c).isEmpty })] ++
  (if x.lowered = 1 ∧ !(l.isEmpty && (wakers s c).isEmpty) then
     [onCore c (fun y => { y with lowered := 2 }), .post (s.now + wakeTime x.depth) (.ev (.regfileWake c))] else []) ++
  times.flatMap (fun y => [onThr y.1 (fun t => { t with joining := false, notBefore := y.2 + 8 }), .post y.2 (.turn y.1)]) ++
  (if (allSlots s c).isEmpty then [] else [.post last (.ev (.roundStart c))])

/-- A round starts. -/
def roundStarts (c : Nat) : Stage := pick (fun s =>
  if !(core s c).live then [] else
  [countWaits c, retryOver c, resendMisses c, reclaimDue c,
   (if (core s c).lowered = 0 then each (fun s => wakers s c) (fun x => wakeSlot x.1) else skip),
   positions c])

/-- ROUND_START (R68). -/
def execRoundStart (c : Nat) (s : State) : Host.Outcome State Fault Refusal := fire [roundStarts c] s

/-- ICACHE_FILL (R46): the line is in the cache. -/
def execIcacheFill (c line : Nat) (s : State) : Host.Outcome State Fault Refusal :=
  fire [eff [onCore c (fun x => { x with lines := setAdd x.lines line })]] s

/-- The register file is lowered after 64 idle cycles, if SLEEPCFG names a depth (R76). -/
def fileLowers (c : Nat) : Stage := fun s =>
  let x := core s c
  match x.idleFrom with
  | some t =>
    if t + 64 ≤ s.now ∧ x.lowered = 0 ∧ x.sleepcfg ≠ 0 ∧ !((allSlots s c).any (fun y => active y.2))
    then [onCore c (fun y => { y with lowered := 1, depth := y.sleepcfg })] else []
  | none => []

/-- REGFILE_LOWER (R76). -/
def execRegfileLower (c : Nat) (s : State) : Host.Outcome State Fault Refusal := fire [fileLowers c] s

/-- REGFILE_WAKE (R76): the file returns to full operation; the slots that wake join the next round. -/
def execRegfileWake (c : Nat) (s : State) : Host.Outcome State Fault Refusal :=
  fire [eff [onCore c (fun x => { x with lowered := 0, idleFrom := none })]] s

/-- SLEEP_WAKE (R74). -/
def execSleepWake (slot : Nat) (s : State) : Host.Outcome State Fault Refusal := fire [wakeSlot slot] s

/-- The timeout of a sleeping EV.WAITT passes: it is granted 0, which its slot writes when it issues again
(R74, R91). -/
def waittOver (slot : Nat) : Stage := pick (fun s =>
  match (thr s slot).awaits with
  | some (.latchUntil dl) =>
    if (thr s slot).st = .sleeping ∧ !(thr s slot).latch ∧ dl ≤ s.now then
      [eff [onThr slot (fun t => { t with grant := some 0 })], wakeSlot slot]
    else []
  | _ => [])

/-- WAITT_TIMEOUT (R91). -/
def execWaittTimeout (slot : Nat) (s : State) : Host.Outcome State Fault Refusal := fire [waittOver slot] s

/-! ## Traps and containment -/

/-- TRAP_ENTRY (R77): the chunk has ended and no register is pending. -/
def execTrapEntry (slot : Nat) (s : State) : Host.Outcome State Fault Refusal := fire [enterTrap slot] s

/-- The code of a containment that is decided outside issue (R369, R376). -/
def outsideCode (n : Nat) : Option Code :=
  match n with
  | 0x10 => some .determinism
  | 0x20 => some .poison
  | 0x21 => some .mismatch
  | 0x22 => some .imageLost
  | _ => none

/-- A containment decided outside issue reaches its slot (R370, R376). -/
def quarantines (slot code : Nat) (info : BitVec 64) (cls : Nat) : Stage := pick (fun s =>
  match outsideCode code with
  | some c =>
    if occupied s slot && (thr s slot).st != .quarantined then
      [contain slot { code := c, outside := true, cls := cls, pc := (thr s slot).arch.pc, info := info }] else []
  | none => [])

/-- QUARANTINE (R370). -/
def execQuarantine (slot : Nat) (code : BitVec 8) (info : BitVec 64) (cls : BitVec 2) (s : State) :
    Host.Outcome State Fault Refusal := fire [quarantines slot code.toNat info cls.toNat] s

/-- The scrub is complete: the slot is FREE (R370). -/
def quarantineEnds (slot : Nat) : Stage := pick (fun s =>
  let t := thr s slot
  if occupied s slot && t.st == .quarantined then
    [eff [.obj (fun o => { o with slots := tabDel o.slots slot })],
     offer (quadOf slot)]
  else [])

/-- QUARANTINE_DONE (R370). -/
def execQuarantineDone (slot : Nat) (s : State) : Host.Outcome State Fault Refusal := fire [quarantineEnds slot] s

/-! ## Pre-emption -/

/-- Withdraws what waits in words' queues of other quads for a task (R95): the requests are kept, to set out
again on resumption. -/
def withdraw (task : Nat) : Stage := fun s =>
  let mine := s.o.near.filter (fun r => r.2.task == task && r.2.waiting)
  if mine.isEmpty then [] else
  [.obj (fun o => { o with
    near := tabMap o.near (fun _ r => if r.task = task ∧ r.waiting then { r with again := true } else r)
    quads := tabMap o.quads (fun _ q => { q with waiters := q.waiters.filter (fun w => match w.req with
      | some i => !(mine.any (fun r => r.1 == i))
      | none => true) }) })]

/-- A pre-emption request is taken (R67, R93): issue stops. A request for a slot that is being quarantined is
dropped; one for a trailer is its pair's. -/
def preemptAsked (slot : Nat) : Stage := pick (fun s =>
  let t := thr s slot
  if !occupied s slot || t.st == .quarantined || t.stop then []
  else if t.st == .shadow then
    (match t.partner with
     | some p => [evNow (.preemptionRequest p)]
     | none => [])
  else
    [stopFor slot .preempted, eff [.unpost (isLatheIssue slot)], fun s => [.post (s.now + 1) (.ev (.preemptionComplete slot))]])

/-- PREEMPTION_REQUEST (R93). -/
def execPreemptionRequest (slot : Nat) (s : State) : Host.Outcome State Fault Refusal := fire [preemptAsked slot] s

/-- Has a DRAW's step all its contributions (R95)? -/
def drawReady (s : State) (key pos : Nat) : Bool :=
  match (tabGet s.o.seqs key).bind (fun q => (tabGet q.steps pos).map (fun x => (q, x))) with
  | some (q, x) => x.result.isSome || x.m.isSome || x.slices.length == q.nslices
  | none => false

/-- Must a pending record of a slot's task be written before its image is (R95, R312)? -/
def mustSettle (s : State) (slot task : Nat) (p : Pend) : Bool :=
  match p.op with
  | .swapt _ _ => swapMeets s slot
  | .draw key pos _ => drawReady s key pos
  | .await =>
    s.o.subs.any (fun r => r.2.task == task && r.2.pend == p.id)
      || s.o.mxReqs.any (fun r => r.2.task == task && r.2.pend == p.id && r.2.add.isNone && !r.2.held)
      || s.o.seqs.any (fun q => q.2.steps.any (fun x => x.2.waiting.2.contains (task, p.id)))
  | _ => true

/-- May the image of a slot be written: what R93, R95 and R97 make it wait for is over? A trap entry under way waits for the
slot's matrix operations too, since it comes after their results. -/
def settled (s : State) (slot : Nat) : Bool :=
  let t := thr s slot
  !(t.pend.any (mustSettle s slot t.task))
    && !(s.o.near.any (fun r => r.2.task == t.task && !r.2.waiting && r.2.op.fenced))
    && !((core s (coreOf slot)).mq.any (fun m => m.task == t.task && m.remote.isSome && m.started))
    && t.arch.lathe.flight.isEmpty
    && t.chunk.st != .validating
    && (match t.after with
        | .trap _ _ => anyPending t && !t.pend.any (fun p => (core s (coreOf slot)).mq.any (fun m =>
            m.task == t.task && m.remote.isNone && m.pend == p.id))
        | .fence _ => false
        | _ => true)

/-- DRAWs that wait are withdrawn from their steps (R95). -/
def withdrawDraws (slot : Nat) : Stage := fun s =>
  let t := thr s slot
  t.pend.filterMap (fun p => match p.op with
    | .draw key pos _ => some (onSeq key (fun q => { q with steps := tabUpd q.steps pos (fun x =>
        { x with draws := x.draws.filter (fun d => d != (t.task, p.id)) }) }))
    | _ => none)

/-- Does a chunk wait at its slices for what may not come soon, so that its slot is given up (R97, log 33)? A chunk point
that has taken effect does not. -/
def gated (s : State) (slot : Nat) : Bool :=
  let c := (thr s slot).chunk
  c.st == .validating && c.blocked && !c.firm && (!ungated s slot || haltedAt s slot)

/-- Once what is outstanding has settled, the image is written and the slot is FREE (R93); after a YIELD it takes the waiting
task (R84). Requests that wait in other quads' queues are withdrawn (R95). -/
def preemptDone (slot : Nat) : Stage := pick (fun s =>
  let t := thr s slot
  if !occupied s slot || !t.stop then []
  else [withdraw t.task, if gated s slot then giveUp slot else skip, pick (fun s =>
    if settled s slot then [withdrawDraws slot, saveTask slot,
      if t.leave = .yields then takeSlot t.kernel t.task slot t.partner else skip, offer (quadOf slot)]
    else [fun s => [.post (s.now + 8) (.ev (.preemptionComplete slot))]])])

/-- PREEMPTION_COMPLETE (R93). -/
def execPreemptionComplete (slot : Nat) (s : State) : Host.Outcome State Fault Refusal := fire [preemptDone slot] s

/-! ## Resumption -/

/-- A withdrawn DRAW is issued again (R95): it joins its step, or is answered if the step has a result or the
version is another (R304). -/
def redraw (slot : Nat) (p : Pend) : Stage := fun s =>
  let t := (thr s slot).task
  match p.op with
  | .draw key pos gen =>
    let give := fun (k tok : Nat) => answer t p.id [wd (k * 2 ^ 32 + tok)] (lat s (ctxOf s slot) 0 2280) s ++ [.draw 1]
    (match tabGet s.o.seqs key with
     | none => give 4 0xFFFFFFFF
     | some q =>
       if (tabGet q.vers pos).map (·.1) ≠ some gen then give 6 0xFFFFFFFF
       else match (tabGet q.steps pos).bind (·.result) with
         | some r => give r.1 r.2
         | none => [onSeq key (fun q => { q with steps := tabMod q.steps pos { gen := gen } (fun x =>
             { x with draws := x.draws ++ [(t, p.id)] }) })])
  | _ => []

/-- A window that was reclaimed before its image was saved regrows, and then the slot returns to its state (R94, R112). -/
def regrows (t : Thread) : Thread :=
  if decide (t.arch.t ≤ t.cur) || (match t.wait with
    | some (.window _) => true
    | _ => false) then t
  else if t.st = .parked ∨ t.st = .sleeping then
    { t with st := .sleeping, wait := some (.window t.arch.t), waitCount := 0, outer := some (t.st, t.wait, t.waitCount) }
  else woken t

/-- What pre-emption withdrew is issued again before the slot's first turn, requests to one quad in program order,
and the wait is sampled again (R94, R95, R140, R372). -/
def reissue (slot : Nat) : Stage := seqS [
  pick (fun s => (thr s slot).owed.map (fun x => wr slot x.1 x.2)),
  eff [onThr slot (fun t => { t with owed := [] })],
  (fun s =>
    let t := thr s slot
    let mine := s.o.near.filter (fun r => r.2.task == t.task && r.2.waiting && r.2.again)
    let comes := mine.zipIdx.map (fun r => (r.1.1, locQuad r.1.2.loc, s.now + lat s (ctxOf s slot) r.2 (nearBound slot (locQuad r.1.2.loc))))
    let due := fun (id q : Nat) => ((comes.filter (fun c => decide (c.1 ≤ id) && c.2.1 == q)).map (·.2.2)).foldl max 0
    [.obj (fun o => { o with near := tabMap o.near (fun id r =>
       if r.task = t.task ∧ r.waiting ∧ r.again then
         { r with waiting := false, slot := slot, order := due id (locQuad r.loc), upto := s.now + nearBound slot (locQuad r.loc) }
       else r) })] ++
    comes.map (fun c => .post (due c.1 c.2.1) (.ev (.remoteNearArrival c.1))) ++
    [.draw mine.length] : Stage),
  pick (fun s => (thr s slot).pend.map (redraw slot)),
  swapPost slot,
  (fun s =>
    let t := thr s slot
    (match t.awaits with
     | some (.latchUntil dl) => [.post (max dl s.now) (.ev (.waittTimeout slot))]
     | some (.word _) => if t.grant.isNone then [onThr slot (fun t => { woken t with waited := t.waitCount })] else []
     | some (.counter _ _) => if t.grant.isNone then [onThr slot woken] else []
     | some (.translation _ _) => if t.grant.isNone && t.fault.isNone then [onThr slot woken] else []
     | _ => []) : Stage),
  eff [onThr slot regrows],
  (fun s =>
    let t := thr s slot
    let k := kernel s t.kernel
    let ring := (k.lrec.super).bind (fun w => (group? s t.kernel (w / max k.lrec.threads 1)).map (fun g => scratchLoc g.quad (g.base + k.lrec.scratch - 2048)))
    (match ring with
     | none => []
     | some base => (k.posted.filter (fun r => r.2.code == .fpEnabled && r.2.task == t.task)).flatMap (fun r =>
         storeMarked s (base + 64 * r.1) (bytesOf 8 ({ r.2 with slot := slot } : SRec).word0.toNat))) : Stage),
  (fun s =>
    let t := thr s slot
    (if 3 ≤ t.chunk.tries ∧ !t.chunk.resvd then [.post s.now (.ev (.heldChunkReserve slot))] else []) ++
    [onThr slot (fun t => { t with stop := false })] ++
    (match t.partner with
     | some p => [onThr p (fun t => { t with stop := false })]
     | none => []) : Stage), settle slot]

/-- A saved image is loaded into a FREE slot, and what was withdrawn is issued again (R93 to R95, R340). -/
def resumes (tk slot : Nat) : Stage := pick (fun s =>
  match task? s tk with
  | none => []
  | some x =>
    if x.slot = some slot && (thr s slot).stop && x.image.isNone && (thr s slot).st != .quarantined then [reissue slot]
    else if x.image.isSome && !occupied s slot && (x.st == .saved || x.st == .waiting) then
      match coresFor s x with
      | some (c, pair) => if c = coreOf slot ∨ (!(kernel s x.kernel).lrec.redundant &&
            (taskRooms s x).any (fun y => y.core == coreOf slot && y.fits (taskNeed s x))) then
          [dispatch tk x slot (pair.bind (freeSlotOf s))] else []
      | none => if frameLost s (kernel s x.kernel).ctx x.frame 196608 x.savedAt then [imageLost tk x x.frame] else []
    else [])

/-- RESUMPTION (R94). -/
def execResumption (task slot : Nat) (s : State) : Host.Outcome State Fault Refusal := fire [resumes task slot] s

/-! ## The steps of a commit -/

/-- What the digest of a slot's chunk covers (R379): its stores and REDs in order, the chunk point before which it ends, with
the registers that the bundle's fields name, and its trap. -/
def digestItems (s : State) (slot : Nat) : List Nat :=
  let t := thr s slot
  let w := bundleAt s slot
  (t.chunk.buf.flatMap (fun b => match b with
    | .st loc bs => [0, loc, bs.length, ofBytes bs]
    | .red loc op v => [1, loc, op, v.toNat])) ++ [t.arch.pc.toNat] ++
    (if t.chunk.atPoint then w.toNat :: [17, 10, 3, 50, 43, 36].map (fun i => (t.arch.reg (w.toNat / 2 ^ i % 128)).toNat) else []) ++
    (match t.after with
     | .trap tr _ => [2, tr.code.num]
     | _ => [3])

/-- The two threads of a pair have their digests: the trailer's covers what a soft error may have made of the same numbers
(R378, R379). -/
def pairDigests (slot : Nat) : Stage := fun s =>
  match (thr s slot).partner with
  | none => []
  | some p => [onThr p (fun t => { t with digest := [Config.digest (Config.upset s.fresh (digestItems s slot))] }), .draw 1]

/-- Do the digests of a pair differ (R380)? A chunk point that has taken effect was compared before it did. -/
def unequal (s : State) (slot : Nat) : Bool :=
  match (thr s slot).partner with
  | none => false
  | some p => !(thr s slot).chunk.firm && (thr s p).digest != (thr s slot).digest

/-- Is a tracked load of the current chunk still out (R144)? -/
def loadsOut (t : Thread) : Bool := t.pend.any (fun p => !p.committed && loadOut true p)

/-- The bound of a commit in cy (R61). -/
def commitBound (s : State) (slot : Nat) : Nat :=
  let c := (thr s slot).chunk
  let r := recOf s slot
  (if c.plain && r.redundant then 0 else if (c.reads ++ c.writes ++ c.reds).all (fun w => locDie (8 * w) == dieOf slot) then 300 else 700)
    + (if r.redundant then 200 else 0) + (if r.twin then 4750 else 0)

/-- Once every tracked load is served, the signatures go to the owning slices (R144); in a twin launch the
digest goes to the other module and is held beside what came from there (R390). -/
def validates (slot : Nat) : Stage := pick (fun s =>
  let t := thr s slot
  if !occupied s slot || t.chunk.st != .validating || t.chunk.sent then []
  else if loadsOut t then [fun s => [.post (s.now + 4) (.ev (.chunkValidate slot))]]
  else
    let d := Config.digest (digestItems s slot)
    let key := keyNum (taskOf s slot)
    let own := (t.kernel, key, t.chunk.index, d)
    [eff [onThr slot (fun t => { t with chunk := { t.chunk with sent := true }, digest := [d] })],
     pairDigests slot,
     (if (recOf s slot).twin then
       seqS [eff [onMod (fun m => { m with twinOwn := m.twinOwn ++ [own] })], sendReply (.digest t.kernel key t.chunk.index d),
         pick (fun s => [if twinUnequal s t.kernel key t.chunk.index then evNow (.twinHalt (ctxOf s slot)) else skip])]
      else skip),
     evIn (ctxOf s slot) (commitBound s slot) (.chunkCommit slot)])

/-- CHUNK_VALIDATE (R144). -/
def execChunkValidate (slot : Nat) (s : State) : Host.Outcome State Fault Refusal := fire [validates slot] s

/-- A virtual address of a word, for TRAPINFO (R369). -/
def vaOf (s : State) (c w : Nat) : Nat :=
  match ctx? s c with
  | none => 8 * w
  | some x => match x.pages.find? (fun p => p.2.map && decide (pageLoc p.2 p.2.va ≤ 8 * w) && decide (8 * w < pageLoc p.2 p.2.va + pageSize p.2)) with
    | some p => p.2.va + (8 * w - pageLoc p.2 p.2.va)
    | none => 8 * w

/-- DETERMINISM decided at the slices (R269, R376). -/
def determContain (slot : Nat) (y : Option Epoch) (info : Nat) : Stage := pick (fun s =>
  [contain slot { code := .determinism, outside := true, pc := (thr s slot).arch.pc, info := BitVec.ofNat 64 info
                  ocn := (y.map (fun e => e.cn)).getD 0, w5 := BitVec.ofNat 64 ((y.map (fun e => e.w)).getD 0) }])

/-- Would a commit exceed the 2^20 words of a slice's epoch record (R269)? -/
def epochOver (s : State) (slot : Nat) : Bool :=
  let c := (thr s slot).chunk
  (epochsOf s slot).any (fun l => !l.isEmpty && (upto 0 32).any (fun z =>
    decide (2 ^ 20 < sliceWords z c.reads c.writes c.reds + total (l.map (fun e => sliceWords z e.reads e.writes e.reds)))))

/-- The chunk of a redundant pair whose digests differ is discarded, and the second time in a row the pair
is contained (R380). -/
def mismatch (slot : Nat) : Stage := pick (fun s =>
  let t := thr s slot
  if t.chunk.unequal = 0 then
    [discardChunk slot, eff [onChunk slot (fun c => { c with tries := t.chunk.tries, held := t.chunk.held, unequal := 1 })]]
  else [contain slot { code := .mismatch, outside := true, pc := t.start.pc, info := t.start.pc, w5 := t.digest.headD 0 }])

/-- With the synchronous acknowledgement point, a commit with mirror writes completes on the neighbour's
acknowledgement: the slot waits for it (R388). -/
def awaitMirror (slot : Nat) : Stage := pick (fun s =>
  let t := thr s slot
  if ((ctx? s (ctxOf s slot)).map (·.cfg.syncMirror)).getD false && decide (s.o.mod.mirrorAcked < t.mirrorTo)
    && mirroring s && t.after == .nothing && (t.st == .ready || t.st == .trapped)
  then [sleepOn slot (.fence 3)] else [])

/-- A validated chunk commits once it is released; until then a task that waits for a slot may take its slot (R270). A conflict
discards it, and an overlap with a chunk of equal timestamp contains its slot (R144 to R148, R268, R269, R379). -/
def commits (slot : Nat) : Stage := pick (fun s =>
  let t := thr s slot
  let c := t.chunk
  if !occupied s slot || c.st != .validating || !c.sent || c.blocked then []
  else if !released s slot || haltedAt s slot then
    [eff ([onChunk slot (fun c => { c with blocked := true })] ++
      (if (offerOrder s (quadOf slot)).isEmpty then [] else [.post s.now (.ev (.classPreempt (quadOf slot)))]))]
  else match epochClash s slot with
    | some (y, w) => [determContain slot (some y) (vaOf s (ctxOf s slot) w)]
    | none =>
      if !c.firm && (c.stale || conflicts s c) then [evNow (.chunkDiscard slot)]
      else if epochOver s slot then [determContain slot none (2 ^ 63 + vaOf s (ctxOf s slot) ((c.reads ++ c.writes ++ c.reds).headD 0))]
      else if unequal s slot then [mismatch slot]
      else [recordEpoch slot, commitChunk slot,
        (if t.partner.isSome && c.atPoint then eff [onChunk slot (fun c => { c with equal := true })] else skip),
        awaitMirror slot, afterCommit slot, (if c.resvd then kick else skip)])

/-- CHUNK_COMMIT (R146). -/
def execChunkCommit (slot : Nat) (s : State) : Host.Outcome State Fault Refusal := fire [commits slot] s

/-- A chunk is discarded for a conflict and runs again; after the third time in a row its next attempt is a
held one (R147, R148). One that only a cleared translation discards keeps its count (R349). -/
def discards (slot : Nat) : Stage := pick (fun s =>
  let c := (thr s slot).chunk
  if !occupied s slot || c.st != .validating || c.firm then []
  else if !conflicts s c then [discardChunk slot, eff [onChunk slot (fun x => { x with tries := c.tries, held := c.held })]]
  else
  [discardChunk slot, fun s =>
    if 3 ≤ (thr s slot).chunk.tries then
      [onChunk slot (fun c => { c with resvd := false }), .post s.now (.ev (.heldChunkReserve slot))] else []])

/-- CHUNK_DISCARD (R147). -/
def execChunkDiscard (slot : Nat) (s : State) : Host.Outcome State Fault Refusal := fire [discards slot] s

/-- The owning slices reserve every word of a held chunk in one step; a word that another has reserved makes
it wait (R148). -/
def reserves (slot : Nat) : Stage := pick (fun s =>
  let c := (thr s slot).chunk
  if !occupied s slot || decide (c.tries < 3) || c.st == .validating then []
  else if c.held.any (fun w => match tabGet s.o.resv w with
      | some x => x != slot
      | none => false) then [fun s => [.post (s.now + 16) (.ev (.heldChunkReserve slot))]]
  else [eff [.obj (fun o => { o with resv := c.held.foldl (fun t w => tabPut t w slot) o.resv }),
    onChunk slot (fun c => { c with resvd := true })]])

/-- HELD_CHUNK_RESERVE (R148). -/
def execHeldChunkReserve (slot : Nat) (s : State) : Host.Outcome State Fault Refusal := fire [reserves slot] s

/-! ## Enabled floating-point events -/

/-- An enabled event is taken at a bundle boundary (R185): the chunk ends, and FP hold follows. -/
def fpEvents (slot : Nat) : Stage := pick (fun s =>
  let t := thr s slot
  if occupied s slot && t.raised != 0 && (t.st == .ready || t.st == .trapped || t.st == .parked)
    && t.after == .nothing && t.chunk.st != .validating
  then [endChunk slot .fpHold] else [])

/-- FP_EVENT (R185). -/
def execFpEvent (slot : Nat) (s : State) : Host.Outcome State Fault Refusal := fire [fpEvents slot] s

end Sys2Proof.Machine
end

