-- ==== Sys2Proof/Machine/Super.lean ====
section
/-!
DEFINITION. Super: the supervisor ring of a kernel (R371 to R373), the supervisor's commands (R374), and
records that go to the host (R375).
-/

namespace Sys2Proof.Machine

open Sys2Proof

/-! ## The ring -/

/-- The task of the supervisor thread: the first task of its work identifier. -/
def superTask (s : State) (k : Nat) : Option (Nat × Task) :=
  (kernel s k).lrec.super.bind (fun w => s.o.tasks.find? (fun t => t.2.kernel == k && t.2.w == w && t.2.cn == 0
    && (match t.2.kind with
        | .plain => true
        | _ => false)))

/-- Is the supervisor thread ended or contained (R373)? Before its group is placed it is neither. -/
def superGone (s : State) (k : Nat) : Bool :=
  let r := (kernel s k).lrec
  ((r.super.bind (fun w => group? s k (w / max r.threads 1))).map (fun g => g.st == .ended || g.st == .killed ||
    match superTask s k with
    | none => true
    | some t => t.2.st == .contained)).getD false

/-- A record with the slot address at the time of writing (R372). -/
def freshSlot (s : State) (r : SRec) : SRec :=
  { r with slot := ((task? s r.task).bind (·.slot)).getD r.slot }

/-- Posts the oldest waiting record of a kernel to the next entry of its ring, if that is free (R372, R373): words
1 to 6, word 7 empty, word 0 full, and the supervisor's latch. -/
def postRecord (k : Nat) : Stage := pick (fun s =>
  let x := kernel s k
  match x.recs with
  | [] => []
  | r0 :: rest =>
    if x.lrec.super.isNone || superGone s k then [evNow (.recordToHost k)]
    else match ringBase s k with
      | none => []
      | some base =>
        let e := x.ringAt % 32
        let loc := base + 64 * e
        let r := freshSlot s r0
        if tabHas x.posted e || isFull s loc then []
        else
          [(fun s => storeMarked s (loc + 8) (((r.words.drop 1) ++ [0]).flatMap (fun (w : Dword) => bytesOf 8 w.toNat)) ++
             [setFull (loc + 56) false] ++ putWord s loc r.word0 ++ [setFull loc true,
              onKernel k (fun y => { y with recs := rest, posted := tabPut y.posted e r, ringAt := (e + 1) % 32 })] : Stage),
           drain (loc + 56), drain loc,
           (match superTask s k with
            | some t => eff [onTaskThr t.1 (fun y => { y with latch := true })]
            | none => skip),
           evNow (.recordPost k)])

/-! ## What a supervisor can do to a task -/

/-- Is a task the lead of its loop (R276)? -/
def leadTask (s : State) (t : Task) : Option Nat :=
  match t.kind with
  | .iteration l j => ((tabGet s.o.loops l).filter (fun lp => lp.lead == j)).map (fun _ => l)
  | _ => none

/-- RESTART of a CONTAINED task (R263, R283): it waits for a slot again, from its start, with the timestamp that
it held; for a lead its loop runs again. -/
def restart (tk : Nat) : Stage := pick (fun s =>
  match task? s tk with
  | none => []
  | some t =>
    [eff [onTask tk (fun x => { x with st := .waiting, slot := none, image := none, since := s.now })],
     (match leadTask s t with
      | some l => eff [onLoop l (fun lp => { lp with st := if lp.st = .stalled then .running else lp.st })]
      | none => skip),
     (match group? s t.kernel t.g with
      | some g => offer g.quad
      | none => skip)])

/-- ABANDON of a CONTAINED task (R263, R283): the lead of a STALLED loop fails the loop with its start carry; an
unconfirmed iteration is rejected with those above it, and its wave's guess task ends; any other is DONE. -/
def abandon (tk : Nat) : Stage := pick (fun s =>
  match task? s tk with
  | none => []
  | some t =>
    match t.kind with
    | .iteration l j =>
      (match tabGet s.o.loops l with
       | none => [endTask tk]
       | some lp =>
         if lp.lead = j then
           [rejectFrom l j [], endLoop l .failed (((tabGet lp.iters j).map (·.2)).getD [])]
         else [rejectFrom l j [], endGuess l])
    | .guess l _ => [endGuess l, endTask tk]
    | .plain => [endTask tk])

/-- The end of FP hold (R185): the latch takes its kept value, and the slot issues again. -/
def endHold (tk : Nat) : Eff := onTaskThr tk (fun t =>
  if t.awaits = some .fpHold then woken { t with latch := t.kept, kept := false } else t)

/-- Is the thread of a task in FP hold? -/
def inHold (s : State) (tk : Nat) : Bool := ((taskThr? s tk).map (fun t => t.awaits == some .fpHold)).getD false

/-! ## Commands (R374) -/

/-- The command of a posted entry: words 6 and 7, once word 7 is full and does not hold the result of an earlier
command (R374). -/
def entryCommand (s : State) (k e : Nat) : Option (SRec × Dword × Dword) :=
  match ringBase s k, tabGet (kernel s k).posted e with
  | some base, some r =>
    let loc := base + 64 * e
    if isFull s (loc + 56) && !r.answered then some (r, wordAt s (loc + 48), wordAt s (loc + 56)) else none
  | _, _ => none

/-- Is a command word one of the form of R374: CMD in bits 63:56, the rest zero? -/
def plainCmd (w : Dword) : Bool := bits w 55 0 == 0

/-- Marks the command of a posted entry as answered, or its word 7 as empty again (R374). -/
def answeredAs (k e : Nat) (b : Bool) : Eff := onKernel k (fun y =>
  { y with posted := tabMap y.posted (fun i r => if i = e then { r with answered := b } else r) })

/-- Writes the result of a command: word 7 with bit 63 and RESULT, left full (R374). -/
def cmdResult (k e n : Nat) : Stage := pick (fun s =>
  match ringBase s k with
  | none => []
  | some base =>
    let loc := base + 64 * e + 56
    [fun s => putWord s loc (BitVec.ofNat 64 (2 ^ 63 + n)) ++ [setFull loc true, answeredAs k e true], drain loc])

/-- Is the task of a record CONTAINED? -/
def contained (s : State) (r : SRec) : Bool := ((task? s r.task).map (fun t => t.st == .contained)).getD false

/-- RESTART and ABANDON do not fit the record of a thread that is only held (R374); SETCSR of one that is not in FP
hold is found by its own check. -/
def misfit (r : SRec) : Bool := r.code == .fpEnabled

/-- A guess task is never restarted (R283). -/
def unrestartable (r : SRec) : Bool := misfit r || r.kind == 2

/-- RESTART (R374). -/
def superRestarts (k e : Nat) : Stage := pick (fun s =>
  match entryCommand s k e with
  | some (r, _, w) =>
    if plainCmd w ∧ bits w 63 56 = 1 then
      (if unrestartable r then [cmdResult k e 1]
       else if contained s r then [restart r.task, cmdResult k e 0] else [cmdResult k e 3])
    else []
  | none => [])

/-- SUPERVISOR_RESTART (R374). -/
def execSupervisorRestart (k e : Nat) (s : State) : Host.Outcome State Fault Refusal := fire [superRestarts k e] s

/-- ABANDON (R374). -/
def superAbandons (k e : Nat) : Stage := pick (fun s =>
  match entryCommand s k e with
  | some (r, _, w) =>
    if plainCmd w ∧ bits w 63 56 = 2 then
      (if misfit r then [cmdResult k e 1]
       else if contained s r then [abandon r.task, cmdResult k e 0] else [cmdResult k e 3])
    else []
  | none => [])

/-- SUPERVISOR_ABANDON (R374). -/
def execSupervisorAbandon (k e : Nat) (s : State) : Host.Outcome State Fault Refusal := fire [superAbandons k e] s

/-- Does word 6 of SETCSR break R33 or have other bits set (R374)? -/
def setcsrBad (w : Dword) : Bool :=
  bits w 7 5 != 0 || bits w 15 13 != 0 || bits w 30 20 != 0 || bits w 63 32 != 0 || decide (5 ≤ bits w 18 16)

/-- SETCSR writes a held thread's FXFLAGS, FXMASK and ROUND, and with bit 31 sets its latch, which ends the hold
(R185, R374). -/
def superSets (k e : Nat) : Stage := pick (fun s =>
  match entryCommand s k e with
  | some (r, v, w) =>
    if plainCmd w ∧ bits w 63 56 = 3 then
      (if !inHold s r.task then [cmdResult k e 1]
       else if setcsrBad v then [cmdResult k e 2]
       else
         [eff [onTaskThr r.task (fun t =>
            let set := fun (a : Arch) => { a with fxflags := v.setWidth 5, round := v.extractLsb' 16 4 }
            { t with arch := set t.arch, start := set t.start, fxmask := v.extractLsb' 8 5 }),
           if v.getLsbD 31 then endHold r.task else .draw 0], cmdResult k e 0])
    else []
  | none => [])

/-- SUPERVISOR_SETCSR (R374). -/
def execSupervisorSetcsr (k e : Nat) (s : State) : Host.Outcome State Fault Refusal := fire [superSets k e] s

/-- A command word of no known form: nothing is done (R374). -/
def superUnknown (k e : Nat) : Stage := pick (fun s =>
  match entryCommand s k e with
  | some (_, _, w) =>
    if plainCmd w ∧ 1 ≤ bits w 63 56 ∧ bits w 63 56 ≤ 3 then [] else [cmdResult k e 1]
  | none => [])

/-- SUPERVISOR_UNKNOWN (R374). -/
def execSupervisorUnknown (k e : Nat) (s : State) : Host.Outcome State Fault Refusal := fire [superUnknown k e] s

/-- What a change of a ring's words asks for: the command of a full word 7, or the freeing of an entry whose word
0 is empty (R373, R374). -/
def ringChecks (k : Nat) : Stage := pick (fun s =>
  match ringBase s k with
  | none => []
  | some base =>
    (kernel s k).posted.flatMap (fun p =>
      match entryCommand s k p.1 with
      | some (_, _, w) =>
        [evNow (if !plainCmd w then .supervisorUnknown k p.1 else match bits w 63 56 with
          | 1 => .supervisorRestart k p.1
          | 2 => .supervisorAbandon k p.1
          | 3 => .supervisorSetcsr k p.1
          | _ => .supervisorUnknown k p.1)]
      | none =>
        if isFull s (base + 64 * p.1) then [if isFull s (base + 64 * p.1 + 56) then skip else eff [answeredAs k p.1 false]]
        else [eff [onKernel k (fun y => { y with posted := tabDel y.posted p.1 })], evNow (.recordPost k)]))

/-- RECORD_POST (R373): the ring is looked at, and the oldest waiting record is posted if its entry is free. -/
def execRecordPost (k : Nat) (s : State) : Host.Outcome State Fault Refusal := fire [ringChecks k, postRecord k] s

/-! ## Records to the host -/

/-- A waiting record goes to the host (R375): the egress of CODE 19; its task, if it is CONTAINED, is abandoned, and
FP hold ends at once. -/
def sendRecord (k : Nat) : Stage := pick (fun s =>
  let x := kernel s k
  let host := x.lrec.super.isNone || superGone s k
  let pick_ : Option (SRec × List SRec) :=
    if host then (match x.recs with
      | r :: rest => some (r, rest)
      | [] => none)
    else if 4096 < x.recs.length then x.recs.getLast?.map (fun r => (r, x.recs.dropLast))
    else none
  match pick_ with
  | none => []
  | some (r0, rest) =>
    let r := freshSlot s r0
    [eff [onKernel k (fun y => { y with recs := rest })],
     kernelEgress k 19 r.body [],
     (if r.code = .fpEnabled then eff [if inHold s r.task then endHold r.task else .draw 0]
      else if contained s r then abandon r.task else skip),
     if host && !rest.isEmpty then evNow (.recordToHost k) else skip])

/-- RECORD_TO_HOST (R375). -/
def execRecordToHost (k : Nat) (s : State) : Host.Outcome State Fault Refusal := fire [sendRecord k] s

end Sys2Proof.Machine
end

