-- ==== Sys2Proof/Machine/Queue.lean ====
section
/-!
DEFINITION. Queue: command messages (R324), the sequence check and the reply (R325, R326), the commands of
a context's queues (R327), and the journal as it is read (R328, R330).
-/

namespace Sys2Proof.Machine

open Sys2Proof

/-! ## Messages (R324) -/

/-- QUEUE of a command. -/
def msgQueue (m : BitVec 512) : Nat := bits m 63 48
/-- CODE of a command. -/
def msgCode (m : BitVec 512) : Nat := bits m 47 40
/-- SEQ of a command. -/
def msgSeq (m : BitVec 512) : Nat := bits m 127 64
/-- The n bytes of ARG from byte `b` of the message on. -/
def msgArg (m : BitVec 512) (b n : Nat) : Nat := (m.toNat / 2 ^ (8 * b)) % 2 ^ (8 * n)
/-- BODY of a command's journal entry: bytes 24 to 55 of the message (R328). -/
def msgBody (m : BitVec 512) : BitVec 256 := m.extractLsb' 192 256
/-- Are the fields of the header that are marked zero zero? -/
def msgZeros (m : BitVec 512) : Bool := bits m 39 0 == 0 && bits m 191 128 == 0 && bits m 511 288 == 0

/-- Reply statuses (R326). -/
def stAccepted : Nat := 0
/-- DUPLICATE. -/
def stDuplicate : Nat := 1
/-- GAP. -/
def stGap : Nat := 2
/-- BADCMD. -/
def stBadcmd : Nat := 3
/-- NOTFOUND. -/
def stNotfound : Nat := 4
/-- TRIMMED. -/
def stTrimmed : Nat := 5
/-- STATE. -/
def stState : Nat := 6

/-- What a command comes to: its status, its RESULT, its effect and what follows the reply. -/
structure Verdict where
  status : Nat := 0
  result : Nat := 0
  effect : List Stage := []
  follow : List (BitVec 512) := []

/-! ## The journal -/

/-- The entries that the journal still holds: the last 2^20 (R328). -/
def heldJournal (s : State) : List JEntry := s.journal.filter (fun e => decide (s.jsn ≤ e.jsn + 2 ^ 20))

/-- The oldest JSN still held. -/
def oldestJsn (s : State) : Nat := if s.jsn ≤ 2 ^ 20 then 1 else s.jsn - 2 ^ 20

/-- An entry in its 64 bytes (R328). -/
def JEntry.bits (e : JEntry) : BitVec 512 :=
  e.body ++ e.result ++ BitVec.ofNat 64 e.seq ++ BitVec.ofNat 64 e.jsn ++ BitVec.ofNat 16 e.queue
    ++ BitVec.ofNat 8 e.code ++ BitVec.ofNat 8 e.status ++ (0 : BitVec 32)

/-- The entry of a command of a queue by its SEQ, since the queue was assigned. -/
def entryFor (s : State) (q since seq : Nat) : Option JEntry :=
  ((heldJournal s).filter (fun e => e.queue == q && e.seq == seq && decide (since ≤ e.jsn)
    && e.command)).getLast?

/-! ## Acceptance (R325, R326) -/

/-- An accepted command: its entry is written, NEXTSEQ advances, its effect begins, and the reply is sent. -/
def accept (q : Nat) (m : BitVec 512) (bump : Eff) (v : Verdict) : Stage := pick (fun s =>
  let e : JEntry := { body := msgBody m, result := BitVec.ofNat 64 v.result, seq := msgSeq m, jsn := s.jsn
                      queue := q, code := msgCode m, status := v.status, command := true }
  [eff [.journal e, bump], mirrorAdd 1 64] ++
  v.effect ++
  [sendReply (.reply q (msgCode m) v.status (msgSeq m) (msgSeq m + 1) s.jsn (BitVec.ofNat 64 v.result) v.follow)])

/-- A command is checked against NEXTSEQ (R325): accepted, a duplicate, or after a gap. -/
def bySeq (q nextseq since : Nat) (m : BitVec 512) (bump : Eff) (v : Verdict) : Stage := pick (fun s =>
  let reply := fun (st jsn : Nat) (r : BitVec 64) => [sendReply (.reply q (msgCode m) st (msgSeq m) nextseq jsn r [])]
  if msgSeq m = nextseq then [accept q m bump v]
  else if nextseq < msgSeq m then reply stGap 0 0
  else match entryFor s q since (msgSeq m) with
    | some e => reply stDuplicate e.jsn e.result
    | none => reply stTrimmed 0 0)

/-! ## Management commands (R396) -/

/-- In which states of the module a management command is answered: READY; in RECOVERY FIRMWARE-LOAD and
READ-SENSORS; in TRAINING READ-SENSORS (R394). -/
def managed (s : State) (code : Nat) : Bool :=
  match s.o.mod.st with
  | .ready => true
  | .recovery => code == 42 || code == 44
  | .training => code == 42
  | _ => false

/-- A management command of a code, whose RESULT the spec does not give: another QUEUE is answered with BADCMD and journals nothing; SEQ is checked
against the management queue's NEXTSEQ (R322, R325, R396). -/
def manage (code : Nat) (m : BitVec 512) (v : State → Verdict) : Stage := pick (fun s =>
  if msgCode m ≠ code ∨ !managed s code then []
  else if msgQueue m ≠ 1023 then [sendReply (.reply (msgQueue m) code stBadcmd (msgSeq m) 0 0 0 [])]
  else
    let w := if !msgZeros m || msgArg m 32 4 != 0 then { status := stBadcmd } else v s
    [bySeq 1023 s.o.mod.mgmtSeq 1 m (onMod (fun x => { x with mgmtSeq := x.mgmtSeq + 1 }))
       { w with result := Config.freeNat s.fresh }, eff [.draw 1]])

/-- A command that is carried out. -/
def done (l : List Stage) : Verdict := { effect := l }
/-- A command with something outside its limits. -/
def badcmd : Verdict := { status := stBadcmd }
/-- A command that the state of the module does not allow. -/
def badState : Verdict := { status := stState }

/-! ## Commands of a context's queues -/

/-- A command of a context's queue (R325): one that names a queue that the context does not hold is answered with
STATE at once; a message to an endpoint that no context owns is dropped (R383). At the management endpoint, context 0, it is no
management command, and gets BADCMD (R326, R396). -/
def command (cid : Nat) (m : BitVec 512) (v : State → Queue → Verdict) : Stage := pick (fun s =>
  if cid = 0 then [manage (msgCode m) m (fun _ => badcmd)]
  else if s.o.mod.st ≠ .ready ∨ (ctx? s cid).isNone then [] else
  let q := msgQueue m
  match (tabGet s.o.queues q).filter (fun x => x.cid == cid) with
  | none => [sendReply (.reply q (msgCode m) stState (msgSeq m) 0 0 0 [])]
  | some x =>
    let bump := onQueue q (fun x => { x with nextseq := x.nextseq + 1 })
    let w := if !msgZeros m then { status := stBadcmd } else if x.st == .closing then { status := stState } else v s x
    [bySeq q x.nextseq x.since m bump w])

/-! ## LAUNCH, STOP -/

/-- Kernels of a queue that the host submitted and that are neither DONE nor KILLED (R327). -/
def hostKernels (s : State) (q : Nat) : Nat :=
  (s.o.kernels.filter (fun k => k.2.queue == q && k.2.host && k.2.pending)).length

/-- The lowest-numbered die of a context's partition (R235). -/
def lowDie (x : Ctx) : Nat := ((upto 0 4).find? (fun d => x.cfg.partDies.getLsbD d)).getD 0

/-- LAUNCH (R327): the record is read and checked by the graph unit of the lowest die. -/
def launchVerdict (cid : Nat) (m : BitVec 512) (s : State) (x : Queue) : Verdict :=
  let a := msgArg m 24 8
  if a % 256 ≠ 0 ∨ msgArg m 32 4 ≠ 0 then { status := stBadcmd } else
  match ctx? s cid with
  | none => { status := stState }
  | some c =>
    let d := lowDie c
    let (code, k) := judgeLaunch s d cid (ctxBytes s cid a 256 .read) (decide (256 ≤ hostKernels s (msgQueue m)))
    let id := nextId s d
    if code = 0 then
      { result := id, effect := [acceptKernel d id k (msgQueue m) (min k.lrec.prio x.cls) (msgSeq m) true] }
    else { result := code * 2 ^ 32 }

/-- HOST_LAUNCH (R327). -/
def execHostLaunch (cid : Nat) (m : BitVec 512) (s : State) : Host.Outcome State Fault Refusal :=
  fire [if msgCode m = 1 then command cid m (launchVerdict cid m) else skip] s

/-- STOP takes effect on a sequence (R296). -/
def stopSeq (key keep seq : Nat) : Stage := pick (fun s =>
  match tabGet s.o.seqs key with
  | none => []
  | some q =>
    if q.st = 3 then [] else
    let k := if q.st = 2 then min q.keep keep else keep
    [eff [onSeq key (fun x => { x with st := 2, keep := k, stopSeq := seq })], seqWriteBack key,
     endSteps key (fun p => decide (k ≤ p)) 4, seqSettle key])

/-- STOP (R327). -/
def stopVerdict (cid : Nat) (m : BitVec 512) (s : State) (_ : Queue) : Verdict :=
  let key := seqKey cid (msgArg m 24 8)
  match (tabGet s.o.seqs key).filter (fun q => q.addr == msgArg m 24 8) with
  | none => { status := stNotfound }
  | some q => { result := q.cp, effect := [stopSeq key (msgArg m 32 4 + 1) (msgSeq m)] }

/-- HOST_STOP (R327). -/
def execHostStop (cid : Nat) (m : BitVec 512) (s : State) : Host.Outcome State Fault Refusal :=
  fire [if msgCode m = 2 then command cid m (stopVerdict cid m) else skip] s

/-! ## SUSPEND, RESUME, KILL -/

/-- A command over one kernel of the queue or all of them (R327): which are affected, and what is done. -/
def overKernels (m : BitVec 512) (s : State) (affected : Kernel → Bool) (act : Nat → Stage) (all : List Stage) : Verdict :=
  let id := msgArg m 24 4
  let mine := s.o.kernels.filter (fun k => k.2.queue == msgQueue m)
  if msgArg m 28 8 ≠ 0 then { status := stBadcmd }
  else if id = 2 ^ 32 - 1 then
    let l := mine.filter (fun k => affected k.2)
    { result := l.length, effect := l.map (fun k => act k.1) ++ all }
  else match mine.find? (fun k => k.1 == id) with
    | none => { status := stNotfound }
    | some k => if affected k.2 then { result := 1, effect := [act id] } else {}

/-- Can SUSPEND reach a kernel (R235)? -/
def suspendable (k : Kernel) : Bool := k.st == .running || k.st == .placing

/-- SUSPEND; of all, the queue is HELD (R323). -/
def suspendVerdict (m : BitVec 512) (s : State) (_ : Queue) : Verdict :=
  overKernels m s suspendable suspendKernel
    [eff [onQueue (msgQueue m) (fun x => { x with st := if x.st = .opened then .held else x.st })]]

/-- HOST_SUSPEND (R327). -/
def execHostSuspend (cid : Nat) (m : BitVec 512) (s : State) : Host.Outcome State Fault Refusal :=
  fire [if msgCode m = 3 then command cid m (suspendVerdict m) else skip] s

/-- RESUME; of all, the queue is OPEN (R323). -/
def resumeVerdict (m : BitVec 512) (s : State) (_ : Queue) : Verdict :=
  overKernels m s (fun k => k.st == .suspended) resumeKernel
    [eff [onQueue (msgQueue m) (fun x => { x with st := if x.st = .held then .opened else x.st })], roomFreed]

/-- HOST_RESUME (R327). -/
def execHostResume (cid : Nat) (m : BitVec 512) (s : State) : Host.Outcome State Fault Refusal :=
  fire [if msgCode m = 4 then command cid m (resumeVerdict m) else skip] s

/-- KILL (R327). -/
def killVerdict (m : BitVec 512) (s : State) (_ : Queue) : Verdict := overKernels m s killable killKernel []

/-- HOST_KILL (R327). -/
def execHostKill (cid : Nat) (m : BitVec 512) (s : State) : Host.Outcome State Fault Refusal :=
  fire [if msgCode m = 5 then command cid m (killVerdict m) else skip] s

/-! ## SET-PRIORITY -/

/-- SET-PRIORITY (R327): kernels that are WAITING, or READY and not placing, and later ones get the class. -/
def priorityVerdict (m : BitVec 512) (_ : State) (x : Queue) : Verdict :=
  let c := msgArg m 24 1
  if 7 < c ∨ msgArg m 25 11 ≠ 0 then { status := stBadcmd } else
  let q := msgQueue m
  { result := x.cls
    effect := [eff [onQueue q (fun y => { y with cls := c }),
      .obj (fun o => { o with kernels := tabMap o.kernels (fun _ k =>
        if k.queue = q ∧ (k.st = .waiting ∨ k.st = .ready) then { k with cls := min k.lrec.prio c } else k) })],
      distribute 0, distribute 1, distribute 2, distribute 3] }

/-- SET_PRIORITY (R327). -/
def execSetPriority (cid : Nat) (m : BitVec 512) (s : State) : Host.Outcome State Fault Refusal :=
  fire [if msgCode m = 6 then command cid m (priorityVerdict m) else skip] s

/-! ## READ-JOURNAL -/

/-- The queues of a context with their NEXTSEQ, as 16 pairs (R330). -/
def seqPairs (l : List (Nat × Nat)) : List (BitVec 512) :=
  (upto 0 4).map (fun i => BitVec.ofNat 512 (ofBytes ((upto (4 * i) 4).flatMap (fun j =>
    let p := l.getD j (0, 0)
    bytesOf 8 p.1 ++ bytesOf 8 p.2))))

/-- The answer to READ-JOURNAL over queues, each with NEXTSEQ and the JSN at its assignment (R330). -/
def journalAnswer (m : BitVec 512) (s : State) (qs : List (Nat × Nat × Nat)) : Verdict :=
  let f := msgArg m 24 8
  let n := msgArg m 32 2
  if msgArg m 34 2 ≠ 0 ∨ n = 0 ∨ 256 < n ∨ msgSeq m ≠ 0 ∨ !msgZeros m then { status := stBadcmd } else
  let l := ((heldJournal s).filter (fun e => decide (f ≤ e.jsn)
    && qs.any (fun q => q.1 == e.queue && decide (q.2.2 ≤ e.jsn)))).take n
  let trimmed := decide (max f 1 < oldestJsn s)
  { status := if trimmed then stTrimmed else stAccepted
    result := if trimmed then oldestJsn s else l.length
    follow := l.map JEntry.bits ++ seqPairs (qs.map (fun q => (q.1, q.2.1))) }

/-- READ-JOURNAL of a context's host, on any of its queues, or at the management endpoint (R325, R330, R396). -/
def readsJournal (cid : Nat) (m : BitVec 512) : Stage := pick (fun s =>
  let q := msgQueue m
  let reply := fun (v : Verdict) (next : Nat) =>
    [sendReply (.reply q 7 v.status (msgSeq m) next 0 (BitVec.ofNat 64 v.result) v.follow)]
  if s.o.mod.st ≠ .ready then []
  else if cid = 0 then
    (if q = 1023 then reply (journalAnswer m s [(1023, s.o.mod.mgmtSeq, 1)]) s.o.mod.mgmtSeq
     else reply { status := stBadcmd } 0)
  else if (ctx? s cid).isNone then []
  else
    let mine := s.o.queues.filter (fun x => x.2.cid == cid)
    match mine.find? (fun x => x.1 == q) with
    | none => reply { status := stState } 0
    | some x => reply (journalAnswer m s (mine.map (fun y => (y.1, y.2.nextseq, y.2.since)))) x.2.nextseq)

/-- READ_JOURNAL (R330). -/
def execReadJournal (cid : Nat) (m : BitVec 512) (s : State) : Host.Outcome State Fault Refusal :=
  fire [if msgCode m = 7 then readsJournal cid m else skip] s

/-- UNKNOWN_CODE_COMMAND (R326): a command of unknown CODE is checked by its SEQ like any other, and accepted with
BADCMD and no effect; at the management endpoint, context 0, the codes of R396 are known. -/
def execUnknownCodeCommand (cid : Nat) (m : BitVec 512) (s : State) : Host.Outcome State Fault Refusal :=
  fire [if (msgCode m = 0 ∨ 7 < msgCode m) ∧ (cid ≠ 0 ∨ msgCode m < 32 ∨ 44 < msgCode m) then command cid m (fun _ _ => { status := stBadcmd }) else skip] s

end Sys2Proof.Machine
end

