-- ==== Sys2Proof/Machine/Context.lean ====
section
/-!
DEFINITION. Context: management commands as messages (R396), the commands that create, change, kill and
destroy a context (R331 to R334, R339), MAP (R350, R351), and time-sharing with the quad switch (R335 to
R338, R340).
-/

namespace Sys2Proof.Machine

open Sys2Proof

/-! ## Limits of a context (R331) -/

/-- Is a range of addresses inside the union of ranges? -/
def inRanges (ws : List (Nat × Nat)) (a n : Nat) : Bool :=
  let step := fun (p : Nat) (_ : Nat × Nat) =>
    ws.foldl (fun q w => if w.1 ≤ q ∧ q < w.1 + w.2 then max q (w.1 + w.2) else q) p
  decide (a + n ≤ ws.foldl step a)

/-- Is a rectangle of quads one of R240? -/
def rectOk (quads : BitVec 64) : Bool :=
  bits quads 63 32 == 0 && decide (1 ≤ bits quads 15 8) && decide (bits quads 31 24 + bits quads 15 8 ≤ 12)
    && decide (1 ≤ bits quads 7 0) && decide (bits quads 23 16 + bits quads 7 0 ≤ 12)

/-- The frames of a save area in bytes (R338). -/
def saveNeed (s : State) (dies : BitVec 4) (quads : BitVec 64) : Nat :=
  196608 * 64 * (defaultTable s dies quads).length + 1114112 * (partQuads dies quads).length

/-- Is every item of a context within its limits (R331)? -/
def limitsOk (s : State) (c : CtxCfg) : Bool :=
  decide (1 ≤ c.cid) && decide (c.cid ≤ 4095) && c.partDies != 0 && rectOk c.partQuads
    && (!c.twin || c.isolated) && decide (c.pinned ≤ 32) && (c.isolated || c.pinned == 0)
    && decide (1 ≤ c.windows.length) && decide (c.windows.length ≤ 64)
    && c.windows.all (fun w => decide (0 < w.2) && decide (w.1 + w.2 ≤ 2 ^ 55))
    && decide (1 ≤ c.queues.length) && decide (c.queues.length ≤ 16)
    && c.queues.all (fun q => decide (q.1 ≤ 1022) && decide (q.2 ≤ 7))
    && decide ((setAddAll [] (c.queues.map (·.1))).length = c.queues.length)
    && decide (c.hosts.length = c.queues.length) && (c.command :: c.hosts).all (fun e => c.keys.any (fun k => k.1 == e))
    && decide (50 ≤ c.quantum) && decide (c.quantum ≤ 1000000)
    && c.saveBase % 65536 == 0 && inRanges c.windows c.saveBase c.saveLen
    && decide (saveNeed s c.partDies c.partQuads ≤ c.saveLen)

/-! ## Partitions side by side (R18, R335) -/

/-- Is a context alive: neither DEAD nor being killed? -/
def Ctx.live (x : Ctx) : Bool := x.st == .resident || x.st == .out

/-- Do two contexts have the same partition? -/
def sameRect (a b : CtxCfg) : Bool := a.partDies == b.partDies && a.partQuads == b.partQuads

/-- Do two partitions share a quad? -/
def overlaps (a b : CtxCfg) : Bool :=
  (partQuads a.partDies a.partQuads).any (partHas b.partDies b.partQuads)

/-- The rotation set of a partition: the live contexts that have it, by ascending CID (R335). -/
def rotationSet (s : State) (c : CtxCfg) : List (Nat × Ctx) :=
  s.o.ctxs.filter (fun x => x.2.live && sameRect x.2.cfg c && !x.2.cfg.isolated)

/-- Can a partition stand beside those of other contexts: it shares quads with the same partition alone, neither of them
isolated, a rotation set holds at most 8, and each stack has the pseudo-channels that the contexts pin for themselves alone
(R17, R18, R335)? -/
def partFree (s : State) (c : CtxCfg) : Bool :=
  let others := s.o.ctxs.filter (fun x => x.1 != c.cid && x.2.live)
  others.all (fun x => !overlaps c x.2.cfg || (sameRect c x.2.cfg && !c.isolated && !x.2.cfg.isolated))
    && decide ((others.filter (fun x => sameRect x.2.cfg c)).length < 8)
    && (c.pinned == 0 || decide (c.pinned + total (others.map (fun x => x.2.cfg.pinned)) ≤ Config.pseudoChannels))

/-- Does a context of a rotation set want a turn (R335)? -/
def hasWork (s : State) (c : Nat) : Bool :=
  s.o.kernels.any (fun k => k.2.ctx == c && (k.2.st == .ready || k.2.st == .placing || k.2.st == .running || k.2.st == .suspended))

/-- The next context of a set after `c`, in ascending CID and around, among those that a test picks. -/
def nextTurn (l : List (Nat × Ctx)) (c : Nat) (p : Nat → Bool) : Option Nat :=
  let ids := (l.map (·.1)).filter p
  (ids.find? (fun x => decide (c < x))).or ids.head?

/-- Is a switch to a context under way (R336)? -/
def switchTo (s : State) (n : Nat) : Bool := s.agenda.any (fun x => x.2 == .ev (.quadSwitch n))

/-- A partition that no context of its rotation set holds passes to the next one, unless a switch is under way: to one with
work, or else to any. -/
def passTurn (c : CtxCfg) : Stage := fun s =>
  let l := rotationSet s c
  if l.isEmpty || l.any (fun x => x.2.st == .resident || switchTo s x.1) then []
  else match (nextTurn l c.cid (hasWork s)).or (nextTurn l c.cid (fun _ => true)) with
    | some n => [.post s.now (.ev (.quadSwitch n))]
    | none => []

/-- The end of a quantum that begins now (R335). -/
def startQuantum (c : Nat) : Stage := fun s =>
  match ctx? s c with
  | some x => [.unpost (fun a => match a with
      | .ev (.quantumEnd y) => y == c
      | _ => false), .post (s.now + 1900 * x.cfg.quantum) (.ev (.quantumEnd c))]
  | none => []

/-- A context goes on as the resident one of its set, with a quantum of its own. -/
def goesOn (c : Nat) (cfg : CtxCfg) : Stage := seqS [
  eff [onCtx c (fun z => { z with switching := false })], startQuantum c,
  (fun s => (partQuads cfg.partDies cfg.partQuads).map (fun q => .post s.now (.ev (.taskDispatch q)))), roomFreed]

/-- The incoming context of a switch is gone: the turn passes to the next of its set, with a new switch charged to it (R337). -/
def turnFrom (n : Nat) (cfg : CtxCfg) : Stage := pick (fun s =>
  let drop : Stage := eff [.unpost (fun a => a == .ev (.quadSwitch n))]
  match (rotationSet s cfg).find? (fun y => y.2.st == .resident && y.1 != n) with
  | some (c, out) =>
    if !out.switching then [drop]
    else match nextTurn (rotationSet s cfg) n (fun y => y != n && hasWork s y) with
      | some y => if y = c then [drop, goesOn c out.cfg] else [drop, startQuantum y, evNow (.quadSwitch y)]
      | none => [drop, goesOn c out.cfg]
  | none => [drop, passTurn cfg])

/-! ## What a context leaves on a quad -/

/-- Regions that the groups of a context hold on a quad: offset and length. -/
def regionsOn (s : State) (c q : Nat) : List (Nat × Nat) :=
  s.o.kernels.flatMap (fun k => if k.2.ctx = c then
    (k.2.groups.filter (fun g => g.2.quad == q && g.2.holds)).map (fun g => (g.2.base, k.2.lrec.scratch)) else [])

/-- Is a location of a quad's scratchpad in one of the regions? -/
def inRegions (l : List (Nat × Nat)) (off : Nat) : Bool := l.any (fun r => decide (r.1 ≤ off) && decide (off < r.1 + r.2))

/-- Is a quad free of other contexts' groups, so that what its cores hold is this context's? -/
def aloneOn (s : State) (c q : Nat) : Bool := (groupsOn s q).all (fun g => g.2.1.ctx == c)

/-- The state that a context leaves on a quad is scrubbed or cleared (R104, R336, R339). -/
def scrubQuad (c : Nat) (regions : List (Nat × Nat)) (alone : Bool) (q : Nat) : Stage := pick (fun s =>
  let mine := (s.o.kernels.filter (fun k => k.2.ctx == c)).map (·.1)
  [eff (regions.flatMap (fun r => wipe (scratchLoc q r.1) r.2)),
   (if alone then eff (wipe (tcmLoc (256 * q) 0) (2 ^ 24))
    else each (fun s => (upto (256 * q) 256).filter (fun x => !occupied s x)) (fun x => eff (wipe (tcmLoc x 0) 65536))),
   eff [onQuad q (fun x => { x with
     full := x.full.filter (fun f => !inRegions regions f)
     race := x.race.filter (fun r => !inRegions regions (8 * r.1))
     chans := x.chans.filter (fun y => !mine.contains y.2.kernel) })]] ++
  (upto (4 * q) 4).map (fun k => seqS [
    clearEntries k (fun _ e => bits e 127 116 == c),
    eff [onCore k (fun x => { x with
      hearth := if alone then [] else x.hearth, sleepcfg := if alone then 0 else x.sleepcfg
      recipes := x.recipes.filter (fun r => !mine.contains r) })]]))

/-! ## Create and change -/

/-- A queue is assigned to a context (R323): OPEN, NEXTSEQ 1. -/
def assignQueue (cid : Nat) (q : Nat × Nat) : Stage := fun s =>
  [.obj (fun o => { o with queues := tabPut o.queues q.1 { cid := cid, cls := q.2, since := s.jsn } })]

/-- CONTEXT-CREATE (R331, R334): RESIDENT, or OUT when its quads are held by another of its rotation set. -/
def createVerdict (c : CtxCfg) (s : State) : Verdict :=
  if !limitsOk s c then badcmd
  else if tabHas s.o.ctxs c.cid || decide (256 ≤ s.o.ctxs.length) || !partFree s c
      || c.queues.any (fun q => tabHas s.o.queues q.1) then badState
  else
    let held := !c.isolated && !(rotationSet s c).isEmpty
    let turn := s.o.ctxs.foldl (fun t x => x.2.turnAt.foldl (fun t y =>
      tabPut t y.1 (max (tabD t y.1 0) ((y.2 * max 1 c.quantum + ctxShare s x.1 - 1) / ctxShare s x.1))) t) []
    let x : Ctx := { cfg := c, st := if held then .out else .resident, l2p := defaultTable s c.partDies c.partQuads, turnAt := turn }
    done ([eff [.obj (fun o => { o with ctxs := tabPut o.ctxs c.cid x })]] ++
      c.queues.map (assignQueue c.cid) ++ [if c.isolated || held then skip else startQuantum c.cid,
       if c.twin then (fun s => [.post (s.now + 1900000) (.ev (.twinHalt c.cid))]) else skip])

/-- CONTEXT_CREATE. -/
def execContextCreate (m : BitVec 512) (c : CtxCfg) (s : State) : Host.Outcome State Fault Refusal :=
  fire [manage 32 m (createVerdict c)] s

/-- A queue is withdrawn (R323): CLOSING, its kernels KILLED. -/
def closeQueue (q : Nat) : Stage := seqS [
  eff [onQueue q (fun x => { x with st := .closing })],
  each (fun s => s.o.kernels.filter (fun k => k.2.queue == q)) (fun k => killKernel k.1), queueSettle q]

/-- Table writes that have not committed are dropped (R333). -/
def dropTableWrites (c : Nat) : Eff :=
  let clear := fun (t : Thread) => { t with chunk := { t.chunk with l2p := [] } }
  .obj (fun o =>
    let mine := fun k => ((tabGet o.kernels k).map (fun x => x.ctx == c)).getD false
    { o with slots := tabMap o.slots (fun _ t => if mine t.kernel then clear t else t)
             tasks := tabMap o.tasks (fun _ t => if mine t.kernel then { t with image := t.image.map clear } else t) })

/-- The keys of a context once a change gives some: those that an endpoint has stay (R331). -/
def keysOnce (old new : List (Nat × Nat)) : List (Nat × Nat) :=
  old ++ new.filter (fun k => !old.any (fun o => o.1 == k.1))

/-- The change takes effect (R333). A change of the partition refills the table, and what the context held on quads that it
leaves is cleared (R104); keys are written once (R331). -/
def changeCtx (c : CtxCfg) (x : Ctx) : List Stage :=
  let moved := !sameRect c x.cfg
  let gone := (partQuads x.cfg.partDies x.cfg.partQuads).filter (fun q => !partHas c.partDies c.partQuads q)
  [eff [onCtx c.cid (fun y => { y with cfg := { c with keys := keysOnce y.cfg.keys c.keys } })],
   (if moved then fun s => [onCtx c.cid (fun y => { y with
      switching := false, l2p := defaultTable s c.partDies c.partQuads, frames := y.frames.filter (fun f => !gone.contains f.quad) }), dropTableWrites c.cid] else skip)] ++
  (if moved && x.st == .resident then gone.map (scrubQuad c.cid [] true) else []) ++
  ((x.cfg.queues.filter (fun q => !c.queues.any (fun r => r.1 == q.1))).map (fun q => closeQueue q.1)) ++
  ((c.queues.filter (fun q => !x.cfg.queues.any (fun r => r.1 == q.1))).map (assignQueue c.cid)) ++
  [eff ((c.queues.filter (fun q => x.cfg.queues.any (fun r => r.1 == q.1 && r.2 != q.2))).map (fun q =>
    onQueue q.1 (fun y => { y with cls := q.2 }))),
   (if moved then pick (fun s => [if switchTo s c.cid then turnFrom c.cid x.cfg else passTurn x.cfg]) else skip), passTurn c,
   (if moved && x.switching then goesOn c.cid c
    else pick (fun s => [if c.isolated || x.st != .resident || s.agenda.any (fun a => a.2 == .ev (.quantumEnd c.cid)) then skip else startQuantum c.cid])),
   roomFreed]

/-- CONTEXT-CHANGE (R333): refused while a group is placed on a quad that it removes, and where it would bring
two RESIDENT contexts into one rotation set. -/
def changeVerdict (c : CtxCfg) (s : State) : Verdict :=
  if !limitsOk s c then badcmd else
  match (ctx? s c.cid).filter Ctx.live with
  | none => badState
  | some x =>
    let placed := s.o.kernels.any (fun k => k.2.ctx == c.cid && k.2.groups.any (fun g => g.2.holds && !partHas c.partDies c.partQuads g.2.quad))
    let meets := x.st == .resident && (rotationSet s c).any (fun y => y.1 != c.cid && y.2.st == .resident)
    let taken := c.queues.any (fun q => match tabGet s.o.queues q.1 with
      | some y => y.cid != c.cid || y.st == .closing
      | none => false)
    if placed || meets || taken || !partFree s c then badState else done (changeCtx c x)

/-- CONTEXT_CHANGE. -/
def execContextChange (m : BitVec 512) (c : CtxCfg) (s : State) : Host.Outcome State Fault Refusal :=
  fire [manage 33 m (changeVerdict c)] s

/-! ## Kill and destroy -/

/-- A context is killed (R334, R337, R339). The order is that of the list there; requests of its threads to other quads do
not land after the scrub. With the last of it freed the context is DEAD, and its quads pass on. -/
def killCtx (c : Nat) : Stage := pick (fun s =>
  match (ctx? s c).filter Ctx.live with
  | none => []
  | some x =>
    let quads := if x.st = .resident then partQuads x.cfg.partDies x.cfg.partQuads else []
    let left := quads.map (fun q => (q, regionsOn s c q, aloneOn s c q))
    [eff [onCtx c (fun y => { y with st := .killing })]] ++
    (s.o.queues.filter (fun q => q.2.cid == c)).map (fun q => eff [onQueue q.1 (fun y => { y with st := .closing })]) ++
    (s.o.kernels.filter (fun k => k.2.ctx == c)).map (fun k => killKernel k.1) ++
    (s.o.billets.filter (fun b => b.2.ctx == c)).map (fun b => dropBillet b.1) ++
    (s.o.seqs.filter (fun q => q.2.cid == c)).map (fun q => unbindSeq q.1) ++
    left.map (fun q => scrubQuad c q.2.1 q.2.2 q.1) ++
    [eff ([.obj (fun o => { o with
        near := o.near.filter (fun r => (kernel s r.2.kernel).ctx != c)
        mxReqs := o.mxReqs.filter (fun r => (kernel s r.2.kernel).ctx != c) }),
      onCtx c (fun y => { y with st := .dead, cfg := { y.cfg with keys := [] }, pages := [], frames := [], rings := []
                                 peer := ⟨[], [], []⟩, switching := false })] ++ wipe (savedLoc c 0 0) (2 ^ 30))] ++
    (s.o.queues.filter (fun q => q.2.cid == c)).map (fun q => queueSettle q.1) ++
    [(if switchTo s c then turnFrom c x.cfg else passTurn x.cfg), roomFreed])

/-- CONTEXT-KILL (R339). -/
def killCtxVerdict (c : Nat) (s : State) : Verdict :=
  if c = 0 ∨ 4095 < c then badcmd
  else if ((ctx? s c).map Ctx.live).getD false then done [killCtx c] else badState

/-- CONTEXT_KILL. -/
def execContextKill (m : BitVec 512) (c : Nat) (s : State) : Host.Outcome State Fault Refusal :=
  fire [manage 34 m (killCtxVerdict c)] s

/-- CONTEXT-DESTROY (R334): a DEAD context is FREE. -/
def destroyVerdict (c : Nat) (s : State) : Verdict :=
  if c = 0 ∨ 4095 < c then badcmd
  else if ((ctx? s c).map (fun x => x.st == .dead)).getD false then
    done [eff [.obj (fun o => { o with ctxs := tabDel o.ctxs c })]]
  else badState

/-- CONTEXT_DESTROY. -/
def execContextDestroy (m : BitVec 512) (c : Nat) (s : State) : Host.Outcome State Fault Refusal :=
  fire [manage 35 m (destroyVerdict c)] s

/-! ## MAP -/

/-- Is a page in line with its size, in one of its realms, and inside WINDOWS (R341, R350)? -/
def pageOk (x : Ctx) (p : PageCfg) : Bool :=
  decide (p.size.toNat ≤ 2) && p.va % pageSize p == 0 && decide (p.va + pageSize p ≤ 2 ^ 55)
    && inRanges x.cfg.windows p.va (pageSize p) && p.pa % pageSize p == 0
    && decide (p.pa + pageSize p ≤ if p.hbm then 96 * 10 ^ 9 else 2 ^ 26) && decide (p.grain.toNat ≤ 10)

/-- Does a page of a context overlap another? -/
def pagesMeet (p q : PageCfg) : Bool := decide (p.va < q.va + pageSize q) && decide (q.va < p.va + pageSize p)

/-- Is a piece of a page RESIDENT (R350): does a core's entry of the tenant contain one? -/
def pageResident (s : State) (c : Nat) (p : PageCfg) : Bool :=
  s.o.cores.any (fun k => k.2.tlb.any (fun e => e.2.getLsbD 0 && bits e.2 127 116 == c
    && decide (bits e.2 54 16 * 65536 < p.va + pageSize p) && decide (p.va < bits e.2 54 16 * 65536 + entrySize e.2)))

/-- Before an attribute change each line with errors is read under the old code (R351). -/
def recode (p : PageCfg) : Stage := each
  (fun s => setAddAll [] ((s.o.flips.filter (fun b => decide (pageLoc p p.va ≤ b / 576 * 64)
    && decide (b / 576 * 64 < pageLoc p p.va + pageSize p))).map (fun b => b / 576)))
  lineRead

/-- MAP (R350, R351): maps an unmapped page, unmaps a page, or changes one's attributes; refused while it is
RESIDENT. -/
def mapVerdict (c : Nat) (p : PageCfg) (s : State) : Verdict :=
  match (ctx? s c).filter Ctx.live with
  | none => if c = 0 ∨ 4095 < c then badcmd else badState
  | some x =>
    let put : Stage := eff [onCtx c (fun y => { y with pages := tabPut y.pages p.va p })]
    match tabGet x.pages p.va with
    | some old =>
      if p.map && !pageOk x p then badcmd
      else if pageResident s c old || (p.map && (p.size != old.size || p.hbm != old.hbm || p.die != old.die || p.pa != old.pa)) then badState
      else if p.map then done [recode old, put]
      else done [eff [onCtx c (fun y => { y with pages := tabDel y.pages p.va })]]
    | none =>
      if !p.map then badState
      else if !pageOk x p then badcmd
      else if x.pages.any (fun q => pagesMeet p q.2) || pageResident s c p then badState
      else done [put]

/-- MAP. -/
def execMap (m : BitVec 512) (c : Nat) (p : PageCfg) (s : State) : Host.Outcome State Fault Refusal :=
  fire [manage 36 m (mapVerdict c p)] s

/-! ## Time-sharing (R335 to R338, R340) -/

/-- The slots that hold threads of a context. -/
def ctxSlots (s : State) (c : Nat) : List (Nat × Thread) :=
  s.o.slots.filter (fun x => decide (x.1 < 2 ^ 18) && (kernel s x.2.kernel).ctx == c)

/-- The end of a quantum (R335): a switch to the next context with work, or a quantum more. -/
def quantumEnds (c : Nat) : Stage := pick (fun s =>
  match ctx? s c with
  | none => []
  | some x =>
    if x.st ≠ .resident ∨ x.switching ∨ x.cfg.isolated then []
    else match nextTurn (rotationSet s x.cfg) c (fun y => y != c && hasWork s y) with
      | none => [startQuantum c]
      | some n =>
        [eff [onCtx c (fun y => { y with switching := true })],
         (fun s => (ctxSlots s c).map (fun y => .post s.now (.ev (.preemptionRequest y.1)))),
         startQuantum n, evNow (.quadSwitch n)])

/-- QUANTUM_END. -/
def execQuantumEnd (c : Nat) (s : State) : Host.Outcome State Fault Refusal :=
  fire [quantumEnds c] s

/-- Is the outgoing context drained (R336): its slots saved, its transactions over, and no remote operation
bound for its quads' anvils? -/
def drained (s : State) (c : Nat) : Bool :=
  (ctxSlots s c).isEmpty && !(s.o.kernels.any (fun k => k.2.ctx == c && k.2.busy))
    && !(s.o.mxReqs.any (fun r => (kernel s r.2.kernel).ctx == c))
    && !(s.o.near.any (fun r => (kernel s r.2.kernel).ctx == c && !r.2.waiting))

/-- The quad frame of a context (R336). -/
def frameOf (s : State) (c q : Nat) : QFrame :=
  let l := regionsOn s c q
  let x := quad s q
  let mine := (s.o.kernels.filter (fun k => k.2.ctx == c)).map (·.1)
  let cores := upto (4 * q) 4
  { quad := q, frame := ((ctx? s c).map (fun x => quadFrame s x q)).getD 0, savedAt := s.commits
    full := x.full.filter (inRegions l), race := x.race.filter (fun r => inRegions l (8 * r.1)), epoch := x.epoch
    chans := x.chans.filter (fun y => mine.contains y.2.kernel)
    hearth := cores.map (fun k => (k, (core s k).hearth))
    tlb := cores.map (fun k => (k, (core s k).tlb.filter (fun e => bits e.2 127 116 == c)))
    sleepcfg := cores.map (fun k => (k, (core s k).sleepcfg))
    recipes := cores.map (fun k => (k, (core s k).recipes.filter (mine.contains ·))) }

/-- The outgoing context's state leaves a quad (R336, step 3). -/
def saveQuad (c q : Nat) : Stage := seqS [
  each (fun s => regionsOn s c q) (fun r => nearRead (scratchLoc q r.1) r.2),
  pick (fun s =>
    let f := frameOf s c q
    [eff [onCtx c (fun y => { y with frames := y.frames.filter (fun g => g.quad != q) ++ [f] })],
     eff (frameWritten s c f.frame 1114112)] ++
    (regionsOn s c q).map (fun r => fun s => moveBytes s (scratchLoc q r.1) (savedLoc c q r.1) r.2) ++
    [scrubQuad c (regionsOn s c q) (aloneOn s c q) q])]

/-- Lines of a scratchpad whose copy in a quad frame is lost, and what else of the frame is lost: the part
behind the scratchpad's, and the TLB entries (R340). A frame that was written to fails as a whole (R338). -/
def frameDamage (s : State) (c : Nat) (f : QFrame) : List Nat × Bool × Bool :=
  let a := f.frame
  let lost := fun va n => frameLost s c va n s.commits
  let held := (upto 0 16384).filter (fun l => inRegions (regionsOn s c f.quad) (64 * l))
  if frameLost s c a 1114112 f.savedAt then
    (if !lost a 1114112 then (held, true, true)
     else (held.filter (fun l => lost (a + 64 * l) 64), lost (a + 2 ^ 20) 32768, lost (a + 2 ^ 20 + 32768) 32768))
  else ([], false, false)

/-- The records of the current epochs of a quad and of a frame, in epoch e (R228). -/
def joinRaces (e : Nat) (x : Quad) (f : QFrame) : Tab Race :=
  (f.race.filter (fun r => r.2.epoch == f.epoch)).foldl (fun t r => tabPut t r.1 { r.2 with epoch := e })
    (tabMap (x.race.filter (fun r => r.2.epoch == x.epoch)) (fun _ r => { r with epoch := e }))

/-- A quad frame is loaded (R336, step 4, R340). -/
def loadFrame (c : Nat) (f : QFrame) : Stage := pick (fun s =>
  let (lines, lost, noTlb) := frameDamage s c f
  let mine := s.o.tasks.filter (fun t => (kernel s t.2.kernel).ctx == c
    && ((group? s t.2.kernel t.2.g).map (fun g => g.quad == f.quad && g.holds)).getD false)
  (regionsOn s c f.quad).map (fun r => seqS [nearRead (savedLoc c f.quad r.1) r.2,
    fun s => moveBytes s (savedLoc c f.quad r.1) (scratchLoc f.quad r.1) r.2]) ++
  [eff [.obj (fun o => { o with poison := lines.foldl (fun t l => tabPut t (lineOf (scratchLoc f.quad (64 * l))) 3) o.poison }),
     onQuad f.quad (fun y => { y with full := setAddAll y.full f.full, race := joinRaces (max y.epoch f.epoch) y f
                                      epoch := max y.epoch f.epoch, ctx := c
                                      chans := f.chans.foldl (fun t r => tabPut t r.1 r.2) y.chans })],
   eff (f.hearth.map (fun h => onCore h.1 (fun y => { y with hearth := if h.2.isEmpty then y.hearth else h.2 }))),
   eff (f.sleepcfg.map (fun h => onCore h.1 (fun y => { y with sleepcfg := h.2 }))),
   eff (f.recipes.map (fun h => onCore h.1 (fun y => { y with recipes := setAddAll y.recipes h.2 }))),
   (if noTlb then skip else eff (f.tlb.map (fun h => onCore h.1 (fun y => { y with tlb := h.2.foldl (fun t e => tabPut t e.1 e.2) y.tlb }))))] ++
  (if lost then mine.map (fun t => imageLost t.1 t.2 f.frame) else []))

/-- The incoming context takes the quads: its frames are loaded and its SAVED slots resume (R336). -/
def loadCtx (c : Nat) (x : Ctx) : Stage := seqS [
  seqS (x.frames.map (loadFrame c)),
  eff [onCtx c (fun y => { y with st := .resident, switching := false, frames := [] })],
  (fun s => (partQuads x.cfg.partDies x.cfg.partQuads).flatMap (fun q =>
    ((offerOrder s q).filterMap (fun t => if t.2.st = .saved then
      t.2.image.map (fun im => .post s.now (.ev (.resumption t.1 im.home))) else none)) ++
    (if (offerOrder s q).isEmpty then [] else [.post s.now (.ev (.taskDispatch q))])) ++
    ((s.o.kernels.filter (fun k => k.2.ctx == c && !k.2.recs.isEmpty)).map (fun k => .post s.now (.ev (.recordPost k.1))))),
  roomFreed]

/-- A quad switch to a context (R336, R337): once the outgoing one has drained, its state is saved and the
incoming one's is loaded; the load proceeds where the outgoing one is gone, and the quantum runs on. An incoming context that
is gone passes the turn on. -/
def switches (n : Nat) : Stage := pick (fun s =>
  match ctx? s n with
  | none => []
  | some x =>
    if x.st ≠ .out then [turnFrom n x.cfg] else
    match (rotationSet s x.cfg).find? (fun y => y.2.st == .resident && y.1 != n) with
    | some (c, out) =>
      if !out.switching then []
      else if !drained s c then [fun s => [.post (s.now + 16) (.ev (.quadSwitch n))]]
      else
        [seqS ((partQuads out.cfg.partDies out.cfg.partQuads).map (saveQuad c)),
         eff [onCtx c (fun y => { y with st := .out, switching := false })], loadCtx n x]
    | none => [loadCtx n x, if s.agenda.any (fun a => a.2 == .ev (.quantumEnd n)) then skip else startQuantum n])

/-- QUAD_SWITCH. -/
def execQuadSwitch (n : Nat) (s : State) : Host.Outcome State Fault Refusal :=
  fire [switches n] s

end Sys2Proof.Machine
end

