-- ==== Sys2Proof/Machine/Fetch.lean ====
section
/-!
DEFINITION. Fetch: what a slot does with its position before a bundle issues (R46, R68 to R70, R79),
a trailer's position (R378), and a module in which one bundle is about to issue.
-/

namespace Sys2Proof.Machine

/-- The name of a text line in a core's instruction cache: the kernel and the line of the PC (R46). -/
def textLine (s : State) (slot : Nat) : Nat :=
  (thr s slot).kernel * 2 ^ 58 + (thr s slot).arch.pc.toNat / 64

/-- Can the slot use a position at all (R64, R68, R70, R77, R143)? -/
def canIssue (t : Thread) : Bool :=
  (t.st == .ready || t.st == .trapped) && !t.stop && t.skip == 0 && t.after == .nothing
    && t.chunk.st != .validating && (decide (t.chunk.tries < 3) || t.chunk.resvd)

/-- What a position that is lost does: the lost turns that the slot owes count down (R70). -/
def bubble (slot : Nat) : List Stage :=
  [fun s => [.turnDone slot] ++
    (if (thr s slot).skip = 0 then [] else [onThr slot (fun t => { t with skip := t.skip - 1 })])]

/-- A trailer follows its leader: the values that the leader took come to it through the load-value
queue, so that it holds what the leader holds (R378). -/
def trail (slot : Nat) : List Stage :=
  [fun s => [.turnDone slot] ++
    match (thr s slot).partner with
    | some p =>
      let l := thr s p
      if occupied s p then
        [onThr slot (fun t => { t with arch := l.arch, start := l.start, pend := l.pend, trapvec := l.trapvec
                                       trappc := l.trappc, trapcode := l.trapcode, trapinfo := l.trapinfo
                                       fxmask := l.fxmask, cur := l.cur, limit := l.limit, turns := l.turns }),
         onThr p (fun t => { t with lvq := [] })]
      else []
    | none => []]

/-- A position of a slot: what happens instead of an issue, or the bundle that issues. A slot that has left the rotation and
come back in the running round leaves its position there (R68). -/
def fetch (s : State) (slot : Nat) : Except (List Stage) (BitVec 64) :=
  let t := thr s slot
  if t.joining then .error [eff [.turnDone slot]]
  else if t.st = .shadow then .error (trail slot)
  else if !occupied s slot || !canIssue t || haltedAt s slot then .error (bubble slot)
  else match t.fault with
    | some tr => .error [eff [.turnDone slot], raiseTrap slot tr t.arch.pc]
    | none =>
      if t.arch.priv = .firmware then .ok (bundleAt s slot)
      else if !inText s slot then
        .error [eff [.turnDone slot], raiseTrap slot (nTrap .perm t.arch.pc.toNat) t.arch.pc]
      else match translate s slot t.arch.pc.toNat .fetch with
        | .trap tr => .error [eff [.turnDone slot], raiseTrap slot tr t.arch.pc]
        | .miss va k => .error [eff [.turnDone slot], sendMiss slot va k]
        | .hit _ _ =>
          if (core s (coreOf slot)).lines.contains (textLine s slot) then .ok (bundleAt s slot)
          else .error [eff [.turnDone slot], evIn (ctxOf s slot) 96 (.icacheFill (coreOf slot) (textLine s slot))]

/-! ## One bundle about to issue -/

/-- A kernel whose text is one bundle at address 0. -/
def oneBundleKernel (b : BitVec 64) : Kernel :=
  { lrec := {}, text := [b], st := .running, ctx := 0 }

/-- A TLB entry that maps the first 64 KiB of context 0 to HBM of die 0, readable and executable
(R342). -/
def textEntry : BitVec 128 := BitVec.ofNat 128 (1 + 2 ^ 104 + 2 ^ 105 + 2 ^ 107)

/-- The state with a thread in slot 0 whose position has come and whose PC is at the bundle b; every core is enabled. -/
def placed (s : State) (b : BitVec 64) : State :=
  { s with
    cur := 0
    agenda := [(s.now, .turn 0)]
    o := { s.o with
      slots := tabPut s.o.slots 0 { kernel := 1, limit := 112, cur := 112, arch := { t := 112 }, start := { t := 112 } }
      kernels := tabPut s.o.kernels 1 (oneBundleKernel b)
      cores := tabPut s.o.cores 0 { tlb := [(0, textEntry)], lines := [2 ^ 58] }
      dies := s.o.dies.map (fun d => { d with harvest := BitVec.allOnes 576 })
      mod := { s.o.mod with st := .ready } } }

end Sys2Proof.Machine
end

