-- ==== Sys2Proof/Machine/Vector.lean ====
section
/-!
DEFINITION. Vector: the vector pipe's words (R163 to R173), special functions (R174 to R178),
conversions (R179 to R182), RNG (R183), and the lathe, which captures such words and issues them again
(R186 to R194).
-/

namespace Sys2Proof.Machine

open Sys2Proof

/-! ## Words that the lathe can capture

What a word is to the pipe depends on a map `g` of its register fields: the identity for a word of the
thread, the stagger of R189 for a word of the lathe. -/

/-- What a word of the pipe writes, its flags, and the turns that the normaliser takes (R43). -/
structure VRes where
  writes : List (Nat × Word)
  flags : BitVec 5 := 0
  slow : Nat := 0

/-- The values that a word of the pipe reads: ROUND, registers and predicates. -/
structure VIn where
  round : BitVec 4
  reg : Nat → Word
  pred : Nat → BitVec 16

/-- A word of the pipe: what it names in the order of R57, and its effect. -/
structure VWord where
  fields : List Field
  eval : VIn → VRes

/-- One result in one register. -/
def oneRes (d : Nat) (x : VOut) : VRes := { writes := [(d, x.out)], flags := x.flags, slow := x.slow }

/-- A word with destination d and sources a and b. -/
def vword3 (d a b : Nat) (f : BitVec 4 → Word → Word → VOut) : VWord :=
  { fields := [outF d, inF a, inF b]
    eval := fun x => oneRes d (f x.round (x.reg a) (x.reg b)) }

/-- A word with destination d and source a. -/
def vword2 (d a : Nat) (f : BitVec 4 → Word → VOut) : VWord :=
  { fields := [outF d, inF a]
    eval := fun x => oneRes d (f x.round (x.reg a)) }

/-- A word that also reads its destination. -/
def vwordAcc (d a b : Nat) (f : BitVec 4 → Word → Word → Word → VOut) : VWord :=
  { fields := [ioF d, inF a, inF b]
    eval := fun x => oneRes d (f x.round (x.reg a) (x.reg b) (x.reg d)) }

/-- A result that only moves bits. -/
def moved (w : Word) : VOut := { out := w }

/-- The capturable words (R188). -/
def vword (g : Nat → Nat) (i : Instr) : Option VWord :=
  let n := fun (f : BitVec 7) => g f.toNat
  match i with
  | .vadd d a b t => some (vword3 (n d) (n a) (n b) (valVadd t.toNat))
  | .vsub d a b t => some (vword3 (n d) (n a) (n b) (valVsub t.toNat))
  | .vmul d a b t => some (vword3 (n d) (n a) (n b) (valVmul t.toNat))
  | .vfma d a b t => some (vwordAcc (n d) (n a) (n b) (valVfma t.toNat))
  | .vmin d a b t => some (vword3 (n d) (n a) (n b) (valMinmax true t.toNat))
  | .vmax d a b t => some (vword3 (n d) (n a) (n b) (valMinmax false t.toNat))
  | .vabs d a t => some (vword2 (n d) (n a) (fun _ x => valVabs t.toNat x))
  | .vneg d a t => some (vword2 (n d) (n a) (fun _ x => valVneg t.toNat x))
  | .vand d a b => some (vword3 (n d) (n a) (n b) (fun _ x y => moved (x &&& y)))
  | .vor d a b => some (vword3 (n d) (n a) (n b) (fun _ x y => moved (x ||| y)))
  | .vxor d a b => some (vword3 (n d) (n a) (n b) (fun _ x y => moved (x ^^^ y)))
  | .vshl d a b t => some (vword3 (n d) (n a) (n b) (fun _ x y => valVshl t.toNat x y))
  | .vshr d a b t => some (vword3 (n d) (n a) (n b) (fun _ x y => valVshr t.toNat x y))
  | .vsel d a p t => some
      { fields := [ioF (n d), inF (n a), inPred p]
        eval := fun x => oneRes (n d) (valVsel t.toNat (x.pred p.toNat) (x.reg (n a)) (x.reg (n d))) }
  | .vshuf d a b t => some (vwordAcc (n d) (n a) (n b) (fun _ x y _ => valVshuf t.toNat x y))
  | .vbcast d a t => some (vword2 (n d) (n a) (fun _ x => valVbcast t.toNat x))
  | .vred d a b t => some (vword2 (n d) (n a) (valVred t.toNat b.toNat))
  | .vdot d a b t => some (vwordAcc (n d) (n a) (n b) (valVdot t.toNat))
  | .vscale d a b t => some (vword3 (n d) (n a) (n b) (valVscale (8 + t.toNat)))
  | .vadds d a b t => some (vword3 (n d) (n a) (n b) (fun _ x y => valVadds t.toNat x y))
  | .cvt d a e f => some (vword2 (n d) (n a) (valCvt e.toNat f.toNat))
  | .cvtsr d a e f => some
      { fields := [outF (n d), inF (n a), inRun (n a + 1) 1]
        eval := fun x => oneRes (n d) (valCvtsr e.toNat f.toNat x.round (x.reg (n a)) (x.reg (n a + 1))) }
  | .pack d a e f => some
      { fields := [ioF (n d), inF (n a)]
        eval := fun x => oneRes (n d) (valPack e.toNat f.toNat x.round (x.reg (n a)) (x.reg (n d))) }
  | .unpack d a e f => some
      { fields := [outF (n d), ioF (n a)]
        eval := fun x =>
             let y := valUnpack e.toNat f.toNat x.round (x.reg (n a))
             { writes := [(n d, y.1.out), (n a, y.2)], flags := y.1.flags, slow := y.1.slow } }
  | _ => none

/-! ## The lathe's capture (R186 to R189) -/

/-- Does a field of a captured word advance (R189)? x0, hearth fields and fields below base do not. -/
def advances (l : Lathe) (v : Nat) : Bool :=
  decide (l.base ≤ v) && v != 0 && decide (v ≤ 111) && l.stag != 0

/-- The register that a field names in iteration i (R189). -/
def advanced (l : Lathe) (i v : Nat) : Nat := if advances l v then v + i * l.stag else v

/-- As `advanced`, with 1,000 added so that an advanced field can be told from another. -/
def flagged (l : Lathe) (i v : Nat) : Nat := if advances l v then 1000 + v + i * l.stag else v

/-- A flagged field without its mark. -/
def plainName (f : Nat) : Nat := if 1000 ≤ f then f - 1000 else f

/-- A captured word as a word of the pipe. -/
def captured (g : Nat → Nat) (w : BitVec 32) : Option VWord :=
  match decodeA w with
  | .ok i => vword g i
  | .error _ => none

/-- The fields of all words in all iterations, each flagged where it advances. Iterations that would
leave the registers need not be listed beyond the first. -/
def latheFields (l : Lathe) (words : List (BitVec 32)) : List Field :=
  (upto 0 (if l.stag = 0 then min l.count 1 else min l.count 113)).flatMap (fun i =>
    words.flatMap (fun w => ((captured (flagged l i) w).map (fun v => v.fields.filter (fun x => !x.pred))).getD []))

/-- The thread registers in the lathe set (R189). -/
def latheSet (l : Lathe) (words : List (BitVec 32)) : List Nat :=
  setAddAll [] (((latheFields l words).map (fun x => plainName x.f)).filter fieldReg)

/-- Does a stream serve all iterations of the lathe at a field (R189)? -/
def latheStream (t : Thread) (count : Nat) (x : Field) : Option Trap :=
  match t.arch.strm x.f with
  | none => none
  | some y =>
    if (x.r && y.write) || (x.w && !y.write) || decide (y.total - y.pos < count) then some (nTrap .stream x.f)
    else none

/-- The checks of R189, in its order; a pending predicate that a word reads counts as a pending
register. -/
def latheChecks (s : State) (slot : Nat) (words : List (BitVec 32)) : Option Trap :=
  let t := thr s slot
  let l := t.arch.lathe
  let fs := latheFields l words
  let bad := some (bTrap s slot .lathe)
  let preds := words.flatMap (fun w => ((captured id w).map (fun v => v.fields.filter (·.pred))).getD [])
  if fs.any (fun x => decide (1000 ≤ x.f) && decide (min 112 t.limit ≤ plainName x.f)) then bad
  else if fs.any (fun x => dropped t (plainName x.f)) then bad
  else if fs.any (fun x => x.w && decide (112 ≤ x.f) && decide (x.f < 1000)) then bad
  else
    (firstSome (fun (x : Field) => hazardW t (plainName x.f)) fs).or <|
    (regTraps s slot preds).or <|
    if fs.any (fun x => decide (1000 ≤ x.f) && (t.arch.strm (plainName x.f)).isSome) then bad
    else firstSome (latheStream t l.count) fs

/-- The n-th word is captured: with a count of 0 the words are dropped; else the set is pending,
predicates and ROUND are copied as the bundle read them, and the first word issues in the next cycle (R55, R186, R190). -/
def latheStart (slot : Nat) (round : BitVec 4) (preds : List (BitVec 16)) : Stage := fun s =>
  let a := (thr s slot).arch
  let l := a.lathe
  if l.st != .capturing || decide (l.words.length < l.n) then []
  else if l.count = 0 then [onArch slot (fun x => { x with lathe := { x.lathe with st := .idle, words := [] } })]
  else
    [onArch slot (fun x => { x with lathe := { x.lathe with
       st := .running, preds := preds, round := round, next := 0, units := [], last := []
       set := setAddAll x.lathe.set (latheSet l l.words) } }),
     .post (s.now + 1) (.ev (.latheWordIssue slot))]

/-- A captured word is stored (R186). -/
def latheTake (slot : Nat) (w : BitVec 32) (round : BitVec 4) (preds : List (BitVec 16)) : Stage := seqS [
  eff [onArch slot (fun x => { x with lathe := { x.lathe with words := x.lathe.words ++ [w] } })],
  latheStart slot round preds]

/-- The A-word of an instruction. -/
def aWord (i : Instr) : BitVec 32 :=
  match encode i with
  | .a w => w
  | _ => 0

/-- A bundle's word that the capturing lathe takes: it is stored and does not execute (R186, R188). -/
def capturePlan (s : State) (i : Instr) (v : VWord) : Plan :=
  let sl := s.cur
  let t := thr s sl
  let l := t.arch.lathe
  let words := l.words ++ [aWord i]
  { ill := !i.wf
    dests := v.fields.flatMap Field.dests
    c2 := firstSome (Field.range t) v.fields
    c3 := if words.length < l.n || l.count == 0 then none else latheChecks s sl words
    stages := [latheTake sl (aWord i) t.arch.round ((upto 0 8).map t.arch.pred)] }

/-! ## Words of the thread -/

/-- The plan of a capturable word. -/
def vecPlan (i : Instr) (s : State) : Plan :=
  let sl := s.cur
  let a := (thr s sl).arch
  match vword id i with
  | none => idle
  | some v =>
    if a.lathe.st = .capturing then capturePlan s i v
    else
      let p := regPlan s sl i.wf v.fields
      let r := v.eval { round := a.round, reg := rd s sl, pred := a.pred }
      ({ p with vpipe := true, lost := p.lost + r.slow } : Plan).does
        (r.writes.map (fun x => wr sl x.1 x.2) ++ [wrFlags sl (thr s sl).fxmask r.flags])

/-- VADD: lane-wise sum (R166). -/
def planVadd (d a b : BitVec 7) (t : BitVec 4) (s : State) : Plan := vecPlan (.vadd d a b t) s
/-- VADD. -/
def execVadd (d a b : BitVec 7) (t : BitVec 4) (s : State) :
    Host.Outcome State Fault Refusal := fireA (planVadd d a b t) s

/-- VSUB: lane-wise difference (R166). -/
def planVsub (d a b : BitVec 7) (t : BitVec 4) (s : State) : Plan := vecPlan (.vsub d a b t) s
/-- VSUB. -/
def execVsub (d a b : BitVec 7) (t : BitVec 4) (s : State) :
    Host.Outcome State Fault Refusal := fireA (planVsub d a b t) s

/-- VMUL: lane-wise product (R166). -/
def planVmul (d a b : BitVec 7) (t : BitVec 4) (s : State) : Plan := vecPlan (.vmul d a b t) s
/-- VMUL. -/
def execVmul (d a b : BitVec 7) (t : BitVec 4) (s : State) :
    Host.Outcome State Fault Refusal := fireA (planVmul d a b t) s

/-- VFMA: lane-wise a × b + d, rounded once (R166). -/
def planVfma (d a b : BitVec 7) (t : BitVec 4) (s : State) : Plan := vecPlan (.vfma d a b t) s
/-- VFMA. -/
def execVfma (d a b : BitVec 7) (t : BitVec 4) (s : State) :
    Host.Outcome State Fault Refusal := fireA (planVfma d a b t) s

/-- VMIN: lane-wise minimum (R167). -/
def planVmin (d a b : BitVec 7) (t : BitVec 4) (s : State) : Plan := vecPlan (.vmin d a b t) s
/-- VMIN. -/
def execVmin (d a b : BitVec 7) (t : BitVec 4) (s : State) :
    Host.Outcome State Fault Refusal := fireA (planVmin d a b t) s

/-- VMAX: lane-wise maximum (R167). -/
def planVmax (d a b : BitVec 7) (t : BitVec 4) (s : State) : Plan := vecPlan (.vmax d a b t) s
/-- VMAX. -/
def execVmax (d a b : BitVec 7) (t : BitVec 4) (s : State) :
    Host.Outcome State Fault Refusal := fireA (planVmax d a b t) s

/-- VABS: lane-wise absolute value (R168). -/
def planVabs (d a : BitVec 7) (t : BitVec 4) (s : State) : Plan := vecPlan (.vabs d a t) s
/-- VABS. -/
def execVabs (d a : BitVec 7) (t : BitVec 4) (s : State) :
    Host.Outcome State Fault Refusal := fireA (planVabs d a t) s

/-- VNEG: lane-wise negation (R168). -/
def planVneg (d a : BitVec 7) (t : BitVec 4) (s : State) : Plan := vecPlan (.vneg d a t) s
/-- VNEG. -/
def execVneg (d a : BitVec 7) (t : BitVec 4) (s : State) :
    Host.Outcome State Fault Refusal := fireA (planVneg d a t) s

/-- VAND: AND of 128 bits (R166). -/
def planVand (d a b : BitVec 7) (s : State) : Plan := vecPlan (.vand d a b) s
/-- VAND. -/
def execVand (d a b : BitVec 7) (s : State) :
    Host.Outcome State Fault Refusal := fireA (planVand d a b) s

/-- VOR: OR of 128 bits (R166). -/
def planVor (d a b : BitVec 7) (s : State) : Plan := vecPlan (.vor d a b) s
/-- VOR. -/
def execVor (d a b : BitVec 7) (s : State) :
    Host.Outcome State Fault Refusal := fireA (planVor d a b) s

/-- VXOR: exclusive OR of 128 bits (R166). -/
def planVxor (d a b : BitVec 7) (s : State) : Plan := vecPlan (.vxor d a b) s
/-- VXOR. -/
def execVxor (d a b : BitVec 7) (s : State) :
    Host.Outcome State Fault Refusal := fireA (planVxor d a b) s

/-- VSHL: lane-wise shift left (R166). -/
def planVshl (d a b : BitVec 7) (t : BitVec 3) (s : State) : Plan := vecPlan (.vshl d a b t) s
/-- VSHL. -/
def execVshl (d a b : BitVec 7) (t : BitVec 3) (s : State) :
    Host.Outcome State Fault Refusal := fireA (planVshl d a b t) s

/-- VSHR: lane-wise shift right (R166). -/
def planVshr (d a b : BitVec 7) (t : BitVec 3) (s : State) : Plan := vecPlan (.vshr d a b t) s
/-- VSHR. -/
def execVshr (d a b : BitVec 7) (t : BitVec 3) (s : State) :
    Host.Outcome State Fault Refusal := fireA (planVshr d a b t) s

/-- VSEL: lane-wise selection by a predicate (R170). -/
def planVsel (d a : BitVec 7) (p : BitVec 3) (t : BitVec 4) (s : State) : Plan := vecPlan (.vsel d a p t) s
/-- VSEL. -/
def execVsel (d a : BitVec 7) (p : BitVec 3) (t : BitVec 4) (s : State) :
    Host.Outcome State Fault Refusal := fireA (planVsel d a p t) s

/-- VSHUF: lanes of a by the indices in b (R170). -/
def planVshuf (d a b : BitVec 7) (t : BitVec 4) (s : State) : Plan := vecPlan (.vshuf d a b t) s
/-- VSHUF. -/
def execVshuf (d a b : BitVec 7) (t : BitVec 4) (s : State) :
    Host.Outcome State Fault Refusal := fireA (planVshuf d a b t) s

/-- VBCAST: lane 0 in every lane (R166). -/
def planVbcast (d a : BitVec 7) (t : BitVec 4) (s : State) : Plan := vecPlan (.vbcast d a t) s
/-- VBCAST. -/
def execVbcast (d a : BitVec 7) (t : BitVec 4) (s : State) :
    Host.Outcome State Fault Refusal := fireA (planVbcast d a t) s

/-- VRED: reduction into lane 0 (R171). -/
def planVred (d a b : BitVec 7) (t : BitVec 4) (s : State) : Plan := vecPlan (.vred d a b t) s
/-- VRED. -/
def execVred (d a b : BitVec 7) (t : BitVec 4) (s : State) :
    Host.Outcome State Fault Refusal := fireA (planVred d a b t) s

/-- VDOT: grouped dot product (R172). -/
def planVdot (d a b : BitVec 7) (t : BitVec 4) (s : State) : Plan := vecPlan (.vdot d a b t) s
/-- VDOT. -/
def execVdot (d a b : BitVec 7) (t : BitVec 4) (s : State) :
    Host.Outcome State Fault Refusal := fireA (planVdot d a b t) s

/-- VSCALE: lane-wise scaling by a power of two (R173). -/
def planVscale (d a b : BitVec 7) (t : BitVec 3) (s : State) : Plan := vecPlan (.vscale d a b t) s
/-- VSCALE. -/
def execVscale (d a b : BitVec 7) (t : BitVec 3) (s : State) :
    Host.Outcome State Fault Refusal := fireA (planVscale d a b t) s

/-- VADDS: lane-wise saturating sum (R166). -/
def planVadds (d a b : BitVec 7) (t : BitVec 3) (s : State) : Plan := vecPlan (.vadds d a b t) s
/-- VADDS. -/
def execVadds (d a b : BitVec 7) (t : BitVec 3) (s : State) :
    Host.Outcome State Fault Refusal := fireA (planVadds d a b t) s

/-- CVT: conversion with one rounding (R179). -/
def planCvt (d a : BitVec 7) (e f : BitVec 5) (s : State) : Plan := vecPlan (.cvt d a e f) s
/-- CVT. -/
def execCvt (d a : BitVec 7) (e f : BitVec 5) (s : State) :
    Host.Outcome State Fault Refusal := fireA (planCvt d a e f) s

/-- CVTSR: conversion with stochastic rounding (R180). -/
def planCvtsr (d a : BitVec 7) (e f : BitVec 5) (s : State) : Plan := vecPlan (.cvtsr d a e f) s
/-- CVTSR. -/
def execCvtsr (d a : BitVec 7) (e f : BitVec 5) (s : State) :
    Host.Outcome State Fault Refusal := fireA (planCvtsr d a e f) s

/-- PACK: narrowed lanes into the top of d (R181). -/
def planPack (d a : BitVec 7) (e f : BitVec 5) (s : State) : Plan := vecPlan (.pack d a e f) s
/-- PACK. -/
def execPack (d a : BitVec 7) (e f : BitVec 5) (s : State) :
    Host.Outcome State Fault Refusal := fireA (planPack d a e f) s

/-- UNPACK: widened elements, and a shifted on (R182). -/
def planUnpack (d a : BitVec 7) (e f : BitVec 5) (s : State) : Plan := vecPlan (.unpack d a e f) s
/-- UNPACK. -/
def execUnpack (d a : BitVec 7) (e f : BitVec 5) (s : State) :
    Host.Outcome State Fault Refusal := fireA (planUnpack d a e f) s

/-- VCMP: lane-wise comparison into predicate bits; the lathe cannot capture it (R169, R188). -/
def planVcmp (k c : BitVec 3) (a b : BitVec 7) (t : BitVec 4) (s : State) : Plan := 
  let x := valVcmp t.toNat c.toNat (thr s s.cur).arch.round (rd s s.cur a.toNat) (rd s s.cur b.toNat)
  let p := predPlan s true k [fr a, fr b] x.1 x.2.1
  { p with vpipe := true, lost := p.lost + x.2.2 }
/-- VCMP. -/
def execVcmp (k c : BitVec 3) (a b : BitVec 7) (t : BitVec 4) (s : State) :
    Host.Outcome State Fault Refusal := fireA (planVcmp k c a b t) s

/-! ## Special functions and RNG: long, written within 12 cy with their flags (R174, R183) -/

/-- The plan of a word of the special-function unit. -/
def sfuPlan (s : State) (d : BitVec 7) (srcs : List (BitVec 7)) (x : VOut) : Plan :=
  let p := regPlan s s.cur (longDest d) (fw d :: srcs.map fr)
  { aPlan s (p.does [pendIn s.cur [d.toNat] none (.value [x.out] none x.flags) 12]) with vpipe := true }

/-- Lane j of an f32 operand. -/
def f32At (s : State) (a : BitVec 7) (j : Nat) : Nat := lane 32 (rd s s.cur a.toNat) j

/-- ROUND of the slot whose bundle issues. -/
def roundNow (s : State) : BitVec 4 := (thr s s.cur).arch.round

/-- RCP: reciprocal estimate (R175). -/
def planRcp (d a : BitVec 7) (s : State) : Plan := sfuPlan s d [a] (sfuLanes (fun j => rcpLane (ftzOf (roundNow s)) (f32At s a j)))
/-- RCP. -/
def execRcp (d a : BitVec 7) (s : State) :
    Host.Outcome State Fault Refusal := fireA (planRcp d a) s

/-- RSQ: reciprocal square root estimate (R176). -/
def planRsq (d a : BitVec 7) (s : State) : Plan := sfuPlan s d [a] (sfuLanes (fun j => rsqLane (ftzOf (roundNow s)) (f32At s a j)))
/-- RSQ. -/
def execRsq (d a : BitVec 7) (s : State) :
    Host.Outcome State Fault Refusal := fireA (planRsq d a) s

/-- RCPNR: Newton step for the reciprocal (R177). -/
def planRcpnr (d a b : BitVec 7) (s : State) : Plan := 
  sfuPlan s d [a, b] (sfuLanes (fun j => newtonLane false (roundNow s) (f32At s a j) (f32At s b j)))
/-- RCPNR. -/
def execRcpnr (d a b : BitVec 7) (s : State) :
    Host.Outcome State Fault Refusal := fireA (planRcpnr d a b) s

/-- RSQNR: Newton step for the reciprocal square root (R177). -/
def planRsqnr (d a b : BitVec 7) (s : State) : Plan := 
  sfuPlan s d [a, b] (sfuLanes (fun j => newtonLane true (roundNow s) (f32At s a j) (f32At s b j)))
/-- RSQNR. -/
def execRsqnr (d a b : BitVec 7) (s : State) :
    Host.Outcome State Fault Refusal := fireA (planRsqnr d a b) s

/-- EXP2, correctly rounded (R178). -/
def planExp2 (d a : BitVec 7) (s : State) : Plan := sfuPlan s d [a] (sfuLanes (fun j => exp2Lane (roundNow s) (f32At s a j)))
/-- EXP2. -/
def execExp2 (d a : BitVec 7) (s : State) :
    Host.Outcome State Fault Refusal := fireA (planExp2 d a) s

/-- LOG2, correctly rounded (R178). -/
def planLog2 (d a : BitVec 7) (s : State) : Plan := sfuPlan s d [a] (sfuLanes (fun j => log2Lane (roundNow s) (f32At s a j)))
/-- LOG2. -/
def execLog2 (d a : BitVec 7) (s : State) :
    Host.Outcome State Fault Refusal := fireA (planLog2 d a) s

/-- RNG: Z-mix of a counter under a key (R183). -/
def planRng (d a b : BitVec 7) (s : State) : Plan := 
  let k := rd s s.cur b.toNat
  sfuPlan s d [a, b] (moved (zmix (k.extractLsb' 0 32) (k.extractLsb' 32 32) (rd s s.cur a.toNat)))
/-- RNG. -/
def execRng (d a b : BitVec 7) (s : State) :
    Host.Outcome State Fault Refusal := fireA (planRng d a b) s

/-! ## Lathe instructions -/

/-- LATHE.OPEN: the lathe captures n words for count iterations (R187). -/
def planLatheOpen (ls : LS) (d a : BitVec 7) (g : BitVec 3) (n : BitVec 4) (s : State) : Plan :=
  let sl := s.cur
  let t := thr s sl
  let count := bits (rd s sl a.toNat) 31 0
  let p := regPlan s sl (t.arch.priv != .handler) [fr a]
  let range := if t.limit ≤ d.toNat then some (nTrap .regrange d.toNat) else none
  (cPlan ls (({ p with c2 := range.or p.c2 } : Plan).ownIf s sl
    (t.arch.lathe.st != .idle || decide (65535 < count)) .lathe)).does
    [eff [onArch sl (fun x => { x with lathe := { x.lathe with
      st := .capturing, n := n.toNat + 1, count := count, stag := g.toNat, base := d.toNat, words := [] } })]]
/-- LATHE.OPEN. -/
def execLatheOpen (ls : LS) (d a : BitVec 7) (g : BitVec 3) (n : BitVec 4) (s : State) :
    Host.Outcome State Fault Refusal := fireC (planLatheOpen ls d a g n) s

/-- LATHE.LWAIT sleeps until the lathe is IDLE (R193); while it captures, LATHE (R188). -/
def planLatheLwait (ls : LS) (s : State) : Plan :=
  let st := (thr s s.cur).arch.lathe.st
  cPlan ls (({ sleep := if st = .idle then none else some .latheIdle } : Plan).ownIf s s.cur (st == .capturing) .lathe)
/-- LATHE.LWAIT. -/
def execLatheLwait (ls : LS) (s : State) : Host.Outcome State Fault Refusal := fireC (planLatheLwait ls) s

/-- LATHE.LABORT returns a running lathe to IDLE (R193); while it captures, LATHE (R188, log 22). -/
def planLatheLabort (ls : LS) (s : State) : Plan :=
  let st := (thr s s.cur).arch.lathe.st
  (cPlan ls (({} : Plan).ownIf s s.cur (st == .capturing) .lathe)).does [abortLathe s.cur]
/-- LATHE.LABORT. -/
def execLatheLabort (ls : LS) (s : State) : Host.Outcome State Fault Refusal := fireC (planLatheLabort ls) s

/-! ## The lathe at work (R190 to R194) -/

/-- Is this slot's lathe the next that the pipe serves in this cycle (R194)? -/
def latheTurn (s : State) (slot : Nat) : Bool :=
  let c := core s (coreOf slot)
  let dist := fun (x : Nat) => (x % 64 + 64 - c.latheLast % 64 + 63) % 64
  c.latheAt != s.now + 1 && s.agenda.all (fun x => match x.2 with
    | .ev (.latheWordIssue y) =>
      !(decide (x.1 ≤ s.now) && coreOf y == coreOf slot && y != slot) || decide (dist slot ≤ dist y)
    | _ => true)

/-- The unit that a stream-bound field of the word at hand takes: one that the iteration has taken
already, or the head of the FIFO (R191). -/
def latheUnit (a : Arch) (f : Nat) : Option Unit16 :=
  match a.lathe.units.find? (fun x => x.1 == f) with
  | some x => some (.data x.2)
  | none => (a.strm f).bind (fun y => y.fifo.head?)

/-- The read streams that a word pops. -/
def lathePops (a : Arch) (v : VWord) : List Nat :=
  setAddAll [] ((v.fields.filter (fun x => x.r && !(a.lathe.units.any (fun u => u.1 == x.f)) &&
    ((a.strm x.f).map (fun y => !y.write)).getD false)).map (·.f))

/-- The first cycle in which the next word of a lathe can issue (R190). -/
def latheDue (now slow : Nat) (l : Lathe) : Nat :=
  match captured (advanced l (l.next / l.n)) (l.words.getD (l.next % l.n) 0) with
  | none => now + 1 + slow
  | some v => (l.last.filter (fun x => v.fields.any (fun f => f.r && f.f == x.1))).foldl
      (fun m x => max m (x.2 + 8)) (now + 1 + slow)

/-- The effect of a lathe word at its issue: pops, appends, and a result on its way (R190, R191). -/
def latheEffect (slot : Nat) (v : VWord) : Stage := fun s =>
  let a := (thr s slot).arch
  let pops := lathePops a v
  let unit := fun f => match latheUnit a f with
    | some (.data w) => some w
    | _ => none
  let reg := fun f => if f = 0 then 0 else if 112 ≤ f then hearthRead s slot (f - 112) else
    if (a.strm f).isSome then (unit f).getD 0 else a.reg f
  let r := v.eval { round := a.lathe.round, reg := reg
                    pred := fun k => if k = 0 then 0xFFFF else a.lathe.preds.getD k 0 }
  let toRegs := r.writes.filter (fun x => fieldReg x.1 && (a.strm x.1).isNone)
  let appends := r.writes.filterMap (fun x => (a.strm x.1).map (fun y => (y, x.2)))
  let move := fun (l : Lathe) =>
    let l' := { l with
      next := l.next + 1
      units := if (l.next + 1) % l.n = 0 then [] else l.units ++ pops.filterMap (fun f => (unit f).map (fun w => (f, w)))
      last := (l.last.filter (fun x => decide (s.now < x.2 + 8))) ++ r.writes.map (fun x => (x.1, s.now))
      flight := l.flight ++ [{ writes := toRegs, flags := r.flags, due := s.now + 7 }] }
    l'
  let l' := move a.lathe
  popStreams slot pops s ++
  [onArch slot (fun x => { x with lathe := move x.lathe }),
   onCore (coreOf slot) (fun c => { c with latheLast := slot % 64, latheAt := s.now + 1 }),
   .post (s.now + 7) (.ev (.latheWordResult slot))] ++
  (if l'.next < l'.n * l'.count then [.post (latheDue s.now r.slow l') (.ev (.latheWordIssue slot))] else []) ++
  appends.flatMap (fun x => appendUnit slot x.1 x.2 s)

/-- The lathe issues its next word (R190, R194). A stream without a unit, or an append that must wait,
holds the word back; a fault found for a stream is raised, and poison contains the slot. -/
def latheIssue (slot : Nat) : Stage := pick (fun s =>
  let t := thr s slot
  let a := t.arch
  let l := a.lathe
  let again : Stage := fun s => [.post (s.now + 1) (.ev (.latheWordIssue slot))]
  if l.st != .running || decide (l.n * l.count ≤ l.next) then []
  else if !latheTurn s slot then
    [fun s => [.post (if (core s (coreOf slot)).latheAt = s.now + 1 then s.now + 1 else s.now) (.ev (.latheWordIssue slot))]]
  else match captured (advanced l (l.next / l.n)) (l.words.getD (l.next % l.n) 0) with
    | none => []
    | some v =>
      let heads := (lathePops a v).map (fun f => latheUnit a f)
      let aps := (v.fields.filterMap (fun x => if x.w then (a.strm x.f).filter (·.write) else none)).map (appendAt s slot)
      let full := firstSome (fun (x : Field) => if x.w && ((a.strm x.f).map (fun y => y.write && y.exhausted)).getD false
        then some (nTrap .stream x.f) else none) v.fields
      let fault := (firstSome (fun h => match h with
          | some (Unit16.fault tr) => some tr
          | _ => none) heads).or ((firstSome (fun r => match r with
          | .error (some tr, _) => some tr
          | _ => none) aps).or full)
      let near := aps.any (fun r => match r with
        | .ok x => !x.global
        | _ => false)
      match fault with
      | some tr => [raiseTrap slot tr a.pc]
      | none =>
        match firstSome (fun h => match h with
          | some (Unit16.poisoned c at_) => some (c, at_)
          | _ => none) heads with
        | some (c, at_) => [contain slot { code := .poison, cls := c, pc := a.pc, info := at_, outside := true }]
        | none =>
          match firstSome (fun r => match r with
            | .error (none, some m) => some m
            | _ => none) aps with
          | some (va, k) => [fun s => [.post s.now (.ev (.tlbMiss slot va k.num)), .post (s.now + 8) (.ev (.latheWordIssue slot))]]
          | none =>
            if heads.contains none || (!aps.isEmpty && t.chunk.st == .validating) then [again]
            else if near && t.chunk.st != .opened then [endChunk slot .nothing, again]
            else [latheEffect slot v, if near then commitChunk slot else skip])

/-- The result of a lathe word is written; after the last, the lathe is IDLE and its set is no longer
pending (R186, R190, R193). -/
def latheWrite (slot : Nat) : Stage := pick (fun s =>
  match (thr s slot).arch.lathe.flight with
  | [] => []
  | r :: rest =>
    r.writes.map (fun x => eff [onArch slot (fun a => a.setReg x.1 x.2)]) ++
    [wrFlags slot (thr s slot).fxmask r.flags,
     eff [onThr slot (fun t => { t with
       late := t.late || (r.flags &&& t.fxmask) != 0
       arch := { t.arch with lathe :=
         let l := t.arch.lathe
         if l.st = .running then
           (if rest.isEmpty ∧ l.n * l.count ≤ l.next then { l with st := .idle, flight := [], set := [], words := [], units := [] }
            else { l with flight := rest })
         else { l with flight := rest, set := if rest.isEmpty then [] else l.set } } })],
     settle slot])

/-- LATHE_CAPTURE: the n-th captured word has passed its checks (R189). -/
def execLatheCapture (slot : Nat) (s : State) : Host.Outcome State Fault Refusal := 
  fire [pick (fun s => [latheStart slot (thr s slot).arch.round ((upto 0 8).map (thr s slot).arch.pred)])] s

/-- LATHE_WORD_ISSUE (R190). -/
def execLatheWordIssue (slot : Nat) (s : State) : Host.Outcome State Fault Refusal := fire [latheIssue slot] s

/-- LATHE_WORD_RESULT (R190). -/
def execLatheWordResult (slot : Nat) (s : State) : Host.Outcome State Fault Refusal := fire [latheWrite slot] s

end Sys2Proof.Machine
end

