-- ==== Sys2Proof/Machine/Pair.lean ====
section
/-!
DEFINITION. Pair: the plan of each word, for the issue of a bundle of two words (R55 to R57). An event
is no word and plans nothing. Then the arbitration of the banks of a scratchpad between the bundles of one cycle (R69,
R139).
-/

namespace Sys2Proof.Machine

open Sys2Proof

/-- The plan of a word. -/
def planOf (i : Instr) (s : State) : Plan :=
  match i with
  | .nop ls => planNop ls s
  | .br ls k off => planBr ls k off s
  | .brn ls k off => planBrn ls k off s
  | .jmp ls off => planJmp ls off s
  | .call ls off => planCall ls off s
  | .jmpr ls a => planJmpr ls a s
  | .callr ls a => planCallr ls a s
  | .exit ls => planExit ls s
  | .yield ls => planYield ls s
  | .trap ls imm => planTrap ls imm s
  | .csrr ls d c => planCsrr ls d c s
  | .csrw ls a c => planCsrw ls a c s
  | .l2pdataWrite ls a => planL2pdataWrite ls a s
  | .eret ls => planEret ls s
  | .ldN sb d b sz off => planLdN sb d b sz off s
  | .ldNLong sb d b sz lit => planLdNLong sb d b sz lit s
  | .stN sb v b sz off => planStN sb v b sz off s
  | .stNLong sb v b sz lit => planStNLong sb v b sz lit s
  | .ldG sb d b sz off => planLdG sb d b sz off s
  | .ldGLong sb d b sz lit => planLdGLong sb d b sz lit s
  | .stG sb v b sz off => planStG sb v b sz off s
  | .stGLong sb v b sz lit => planStGLong sb v b sz lit s
  | .lduG sb d b sz off => planLduG sb d b sz off s
  | .lduGLong sb d b sz lit => planLduGLong sb d b sz lit s
  | .ldtr ls d b sz off => planLdtr ls d b sz off s
  | .plane ls d a b => planPlane ls d a b s
  | .unplane ls d a b => planUnplane ls d a b s
  | .take ls d a => planTake ls d a s
  | .put ls a b => planPut ls a b s
  | .peek ls d a => planPeek ls d a s
  | .feset ls a f => planFeset ls a f s
  | .feq ls d a => planFeq ls d a s
  | .chbind ls a b => planChbind ls a b s
  | .chsend ls a b => planChsend ls a b s
  | .chrecv ls d a => planChrecv ls d a s
  | .chclose ls a => planChclose ls a s
  | .atomN ls d a b p => planAtomN ls d a b p s
  | .atomG ls d a b p => planAtomG ls d a b p s
  | .redG ls a b p => planRedG ls a b p s
  | .casN ls d a b => planCasN ls d a b s
  | .casG ls d a b => planCasG ls d a b s
  | .ordatom ls d n b => planOrdatom ls d n b s
  | .fenceNear ls => planFenceNear ls s
  | .fenceGlobal ls => planFenceGlobal ls s
  | .fenceEngine ls => planFenceEngine ls s
  | .fenceMirror ls => planFenceMirror ls s
  | .fenceSystem ls => planFenceSystem ls s
  | .chunk ls => planChunk ls s
  | .barArrive ls d n => planBarArrive ls d n s
  | .barWait ls a n => planBarWait ls a n s
  | .barSync ls n => planBarSync ls n s
  | .barWaitd ls d a n => planBarWaitd ls d a n s
  | .barInit ls a n => planBarInit ls a n s
  | .evWait ls => planEvWait ls s
  | .evSignal ls a => planEvSignal ls a s
  | .evWaitt ls d a => planEvWaitt ls d a s
  | .msend ls d a b => planMsend ls d a b s
  | .latheOpen ls d a g n => planLatheOpen ls d a g n s
  | .latheLwait ls => planLatheLwait ls s
  | .latheLabort ls => planLatheLabort ls s
  | .nest ls n a b => planNest ls n a b s
  | .next ls d n k => planNext ls d n k s
  | .sbind ls d a => planSbind ls d a s
  | .sunbind ls d => planSunbind ls d s
  | .sstat ls d a => planSstat ls d a s
  | .tspawn ls d a b => planTspawn ls d a b s
  | .tstamp ls a => planTstamp ls a s
  | .gloop sb d a b lit => planGloop sb d a b lit s
  | .gput ls => planGput ls s
  | .gend ls d => planGend ls d s
  | .gquit ls => planGquit ls s
  | .acceptEq ls => planAcceptEq ls s
  | .acceptSeq ls a => planAcceptSeq ls a s
  | .acceptTol ls a => planAcceptTol ls a s
  | .rxtag ls d n => planRxtag ls d n s
  | .rxtagVoid ls d => planRxtagVoid ls d s
  | .rxuntag ls d => planRxuntag ls d s
  | .rxdrop ls d => planRxdrop ls d s
  | .rxkeep ls d => planRxkeep ls d s
  | .rxq ls d a => planRxq ls d a s
  | .wid ls d n => planWid ls d n s
  | .job ls d a => planJob ls d a s
  | .jobw ls a b => planJobw ls a b s
  | .jobq ls d a => planJobq ls d a s
  | .jobResume ls d a => planJobResume ls d a s
  | .mxsend ls d a b => planMxsend ls d a b s
  | .mxsendAdd ls d a b => planMxsendAdd ls d a b s
  | .swapt ls d a b => planSwapt ls d a b s
  | .launch ls d a => planLaunch ls d a s
  | .tlbw ls a b => planTlbw ls a b s
  | .tlbi ls a b => planTlbi ls a b s
  | .tlbr ls d b => planTlbr ls d b s
  | .slicemass ls d a b => planSlicemass ls d a b s
  | .draw ls d a b => planDraw ls d a b s
  | .penal ls d a b => planPenal ls d a b s
  | .tokapp ls d a b => planTokapp ls d a b s
  | .seqcmtCommit ls d a b => planSeqcmtCommit ls d a b s
  | .seqcmtRewind ls d a b => planSeqcmtRewind ls d a b s
  | .gmask ls d a b => planGmask ls d a b s
  | .movi sb d lit => planMovi sb d lit s
  | .moviHi sb d lit => planMoviHi sb d lit s
  | .anop => planAnop s
  | .add d a b t => planAdd d a b t s
  | .sub d a b t => planSub d a b t s
  | .mul d a b t => planMul d a b t s
  | .mulh d a b t => planMulh d a b t s
  | .div d a b t => planDiv d a b t s
  | .rem d a b t => planRem d a b t s
  | .and d a b t => planAnd d a b t s
  | .or d a b t => planOr d a b t s
  | .xor d a b t => planXor d a b t s
  | .shl d a b t => planShl d a b t s
  | .shr d a b t => planShr d a b t s
  | .sar d a b t => planSar d a b t s
  | .rot d a b t => planRot d a b t s
  | .min d a b t => planMin d a b t s
  | .max d a b t => planMax d a b t s
  | .abs d a t => planAbs d a t s
  | .neg d a t => planNeg d a t s
  | .clz d a t => planClz d a t s
  | .popc d a t => planPopc d a t s
  | .brev d a t => planBrev d a t s
  | .bfx d a b t => planBfx d a b t s
  | .bfi d a b t => planBfi d a b t s
  | .mov d a t => planMov d a t s
  | .addi d a imm => planAddi d a imm s
  | .andi d a imm => planAndi d a imm s
  | .ori d a imm => planOri d a imm s
  | .xori d a imm => planXori d a imm s
  | .shli d a imm => planShli d a imm s
  | .shri d a imm => planShri d a imm s
  | .sari d a imm => planSari d a imm s
  | .padd d a b => planPadd d a b s
  | .paddi d a imm => planPaddi d a imm s
  | .pset d a b => planPset d a b s
  | .pget d a => planPget d a s
  | .pdiff d a b => planPdiff d a b s
  | .cmp k c a b t => planCmp k c a b t s
  | .cmpi k c a imm t => planCmpi k c a imm t s
  | .kop k c a b => planKop k c a b s
  | .sel d a b p => planSel d a b p s
  | .kmovToReg d a => planKmovToReg d a s
  | .kmovToPred d a => planKmovToPred d a s
  | .vadd d a b t => planVadd d a b t s
  | .vsub d a b t => planVsub d a b t s
  | .vmul d a b t => planVmul d a b t s
  | .vfma d a b t => planVfma d a b t s
  | .vmin d a b t => planVmin d a b t s
  | .vmax d a b t => planVmax d a b t s
  | .vabs d a t => planVabs d a t s
  | .vneg d a t => planVneg d a t s
  | .vand d a b => planVand d a b s
  | .vor d a b => planVor d a b s
  | .vxor d a b => planVxor d a b s
  | .vshl d a b t => planVshl d a b t s
  | .vshr d a b t => planVshr d a b t s
  | .vcmp k c a b t => planVcmp k c a b t s
  | .vsel d a p t => planVsel d a p t s
  | .vshuf d a b t => planVshuf d a b t s
  | .vbcast d a t => planVbcast d a t s
  | .vred d a b t => planVred d a b t s
  | .vdot d a b t => planVdot d a b t s
  | .vscale d a b t => planVscale d a b t s
  | .vadds d a b t => planVadds d a b t s
  | .rcp d a => planRcp d a s
  | .rsq d a => planRsq d a s
  | .rcpnr d a b => planRcpnr d a b s
  | .rsqnr d a b => planRsqnr d a b s
  | .exp2 d a => planExp2 d a s
  | .log2 d a => planLog2 d a s
  | .cvt d a e f => planCvt d a e f s
  | .cvtsr d a e f => planCvtsr d a e f s
  | .pack d a e f => planPack d a e f s
  | .unpack d a e f => planUnpack d a e f s
  | .rng d a b => planRng d a b s
  | .mma sh n a b q => planMma sh n a b q s
  | .aclr d a => planAclr d a s
  | .arnd d a b t => planArnd d a b t s
  | .amov d a => planAmov d a s
  | .amovSt d a => planAmovSt d a s
  | .amovRaw d a b => planAmovRaw d a b s
  | .aadd d a => planAadd d a s
  | .roundStart _ => idle
  | .waitLimit _ => idle
  | .pendingResultWrite _ _ => idle
  | .icacheFill _ _ => idle
  | .tlbMiss _ _ _ => idle
  | .regfileLower _ => idle
  | .regfileWake _ => idle
  | .trapEntry _ => idle
  | .quarantineDone _ => idle
  | .preemptionRequest _ => idle
  | .preemptionComplete _ => idle
  | .resumption _ _ => idle
  | .chunkValidate _ => idle
  | .chunkCommit _ => idle
  | .chunkDiscard _ => idle
  | .heldChunkReserve _ => idle
  | .remoteNearArrival _ => idle
  | .globalAtomicExecute _ _ => idle
  | .fpEvent _ => idle
  | .latheWordIssue _ => idle
  | .latheWordResult _ => idle
  | .matrixOpStart _ => idle
  | .matrixOpComplete _ _ => idle
  | .remoteMatrixArrival _ => idle
  | .swaptMatch _ => idle
  | .dieBarrierArrival _ => idle
  | .barrierDeadline _ _ _ => idle
  | .graphUnitReceive _ => idle
  | .kernelReady _ => idle
  | .placementStart _ => idle
  | .placementEnd _ => idle
  | .taskDispatch _ => idle
  | .classPreempt _ => idle
  | .kernelComplete _ => idle
  | .floorChange _ => idle
  | .gatedSlotTake _ => idle
  | .ordatomBatchClose _ _ => idle
  | .seqBind _ _ => idle
  | .seqUnbind _ _ => idle
  | .drawMaxReturn _ _ _ => idle
  | .drawRoot _ _ _ => idle
  | .maskDeadline _ _ _ _ => idle
  | .quantumEnd _ => idle
  | .quadSwitch _ => idle
  | .recordPost _ => idle
  | .recordToHost _ => idle
  | .supervisorRestart _ _ => idle
  | .supervisorAbandon _ _ => idle
  | .supervisorSetcsr _ _ => idle
  | .supervisorUnknown _ _ => idle
  | .billetStart _ => idle
  | .engineUnit _ => idle
  | .billetDone _ => idle
  | .sendRingSend _ _ => idle
  | .mirrorBreak => idle
  | .twinHalt _ => idle
  | .moduleReset => idle
  | .firmwareVerify => idle
  | .throttleEscalate => idle
  | .encodingNotInstruction _ => idle
  | .waittTimeout _ => idle
  | .streamUnitFetch _ _ => idle
  | .sleepWake _ => idle
  | .quarantine _ _ _ _ => idle
  | .latheCapture _ => idle
  | .classifyEnd _ _ _ => idle
  | .hostLaunch _ _ => idle
  | .hostStop _ _ => idle
  | .hostSuspend _ _ => idle
  | .hostResume _ _ => idle
  | .hostKill _ _ => idle
  | .setPriority _ _ => idle
  | .readJournal _ _ => idle
  | .contextCreate _ _ => idle
  | .contextChange _ _ => idle
  | .contextKill _ _ => idle
  | .contextDestroy _ _ => idle
  | .map _ _ _ => idle
  | .portConfig _ _ _ => idle
  | .peerWindow _ _ _ => idle
  | .portReset _ _ => idle
  | .powerCap _ _ => idle
  | .quenchLevel _ _ => idle
  | .readSensors _ _ => idle
  | .quote _ _ _ => idle
  | .firmwareLoad _ _ => idle
  | .patrolRead _ => idle
  | .portTrainingDone _ _ => idle
  | .portLinkLoss _ => idle
  | .laneFail _ => idle
  | .peerInboundPacket _ _ _ _ _ => idle
  | .peerAck _ _ _ => idle
  | .inboundSend _ _ _ => idle
  | .mirrorAck _ => idle
  | .twinDigest _ _ _ _ => idle
  | .linksTrained => idle
  | .scrubComplete _ => idle
  | .sensorAlarm _ _ => idle
  | .powerWindow _ => idle
  | .junctionTemperature _ _ => idle
  | .unknownCodeCommand _ _ => idle
  | .mirrorWriteReceive _ _ _ => idle

/-! ## Banks (R69, R139) -/

/-- The banks of a scratchpad that near accesses take: 64, interleaved by words of 8 bytes (R14). -/
def banksOf (l : List (Nat × Nat)) : List Nat :=
  setAddAll [] ((l.filter (fun a => locScratch a.1)).flatMap (fun a =>
    (upto (locOff a.1 / 8) ((locOff a.1 + a.2 - 1) / 8 + 1 - locOff a.1 / 8)).map (· % 64)))

/-- The banks that a slot's bundle takes at its position, if nothing else keeps it from them. -/
def bundleBanks (s : State) (slot : Nat) : List Nat :=
  let s := { s with cur := slot }
  match fetch s slot with
  | .error _ => []
  | .ok b => match decodeBundle b with
    | .ok (c, .ok a) =>
      let pc := planOf c s
      let pa := planOf a s
      let near := pc.near ++ pa.near
      if near.isEmpty || (firstTrap s slot pc pa).isSome || pc.hold || pa.hold || pc.miss.isSome || pa.miss.isSome
        || (pc.point || pa.point) && needsArbiter s slot .nothing then [] else banksOf near
    | _ => []

/-- Is core y before core x in the round robin of a bank, which begins after the core that it served last (R139)? -/
def bankBefore (q : Quad) (bank y x : Nat) : Bool :=
  let last := ((tabGet q.banks bank).map (·.2)).getD 3
  decide ((y + 7 - last % 4) % 4 < (x + 7 - last % 4) % 4)

/-- Does the bundle of a slot, which needs the given banks, lose one of them: it has served another core in this
cycle, or another core of the quad, whose position comes in this cycle too, is before it in the round robin? -/
def losesBank (s : State) (slot : Nat) (banks : List Nat) : Bool :=
  let q := quad s (quadOf slot)
  !banks.isEmpty &&
  (banks.any (fun b => match tabGet q.banks b with
    | some (cy, c) => cy == s.now + 1 && c != coreOf slot % 4
    | none => false) ||
  s.agenda.any (fun x => decide (x.1 ≤ s.now) && match x.2 with
    | .turn y => quadOf y == quadOf slot && coreOf y != coreOf slot &&
        (bundleBanks s y).any (fun b => banks.contains b && bankBefore q b (coreOf y % 4) (coreOf slot % 4))
    | _ => false))

/-- The banks that a bundle takes have served its core in this cycle. -/
def takesBanks (s : State) (slot : Nat) (banks : List Nat) : State :=
  if banks.isEmpty then s else
  Eff.apply s (onQuad (quadOf slot) (fun q => { q with
    banks := banks.foldl (fun t b => tabPut t b (s.now + 1, coreOf slot % 4)) q.banks }))

/-- The bundle of a position issues, once it has the banks that it needs; else the position is a bubble (R69). -/
def arbitrate (s : State) (slot : Nat) (issues : State → Host.Outcome State Fault Refusal) : Host.Outcome State Fault Refusal :=
  let banks := bundleBanks s slot
  if losesBank s slot banks then .next (run (bubble slot) s) else issues (takesBanks s slot banks)

end Sys2Proof.Machine
end

