-- ==== Sys2Proof/Machine/Encoding.lean ====
section
/-!
DEFINITION. Encoding: the issue of a bundle that the maps do not make two instructions (R60).
-/

namespace Sys2Proof.Machine

open Sys2Proof

/-- The trap of a bundle with a word that is no instruction, in the order of R57; none where both words are
instructions. The literal of a lone C-instruction is judged after the C-word itself. -/
def encodingTrap (s : State) (b : BitVec 64) : Option Code :=
  let w := b.extractLsb' 0 32
  match decodeBundle b with
  | .error .literal =>
    (match decodeC w 0 with
     | .ok c => if (planOf c s).ill then some .illegal else some .bundle
     | .error _ => some .illegal)
  | .error _ => some .illegal
  | .ok (c, .error _) => if !(planOf c s).ill && (planOf c s).priv then some .priv else some .illegal
  | .ok (_, .ok _) => none

/-- ENCODING_NOT_INSTRUCTION (R60): the whole bundle raises the trap, and neither word takes effect. -/
def execEncodingNotInstruction (b : BitVec 64) (s : State) : Host.Outcome State Fault Refusal :=
  if occupied s s.cur then
    match encodingTrap s b with
    | some c => fire [eff [.turnDone s.cur], raiseTrap s.cur ⟨c, b⟩ (thr s s.cur).arch.pc] s
    | none => fire [] s
  else .fault .noThread

end Sys2Proof.Machine
end

