-- ==== Sys2Proof/Machine/Link.lean ====
section
/-!
DEFINITION. Link: peer windows, send rings and receive rings (R385 to R387), mirroring (R388, R389), twin
lockstep (R390, R391), the ports (R381, R392) and the die boundaries (R384).
-/

namespace Sys2Proof.Machine

open Sys2Proof

/-! ## Peer windows and rings -/

/-- Is a context one that peers and hosts reach: alive, in a module that is READY? -/
def reachable (s : State) (c : Nat) : Bool := s.o.mod.st == .ready && ((ctx? s c).map Ctx.live).getD false

/-- Is a count one of R386? -/
def ringCount (n : Nat) : Bool := decide (256 ≤ n) && decide (n ≤ 65536) && decide ((upto 8 9).any (fun i => 2 ^ i == n))

/-- Is a ring inside its limits (R386, R387)? Its word is an n64. -/
def ringOk (r : RingCfg) : Bool :=
  ringCount r.count && r.word % 8 == 0 && isAddr r.word && isAddr (r.base + 64 * r.count)

/-- Are the windows and rings of a context inside their limits (R385 to R387)? -/
def peerOk (x : Ctx) (p : PeerCfg) : Bool :=
  decide (p.windows.length ≤ 8) && decide (p.sends.length ≤ 4) && decide (p.recvs.length ≤ 1)
    && p.windows.all (fun w => inRanges x.cfg.windows w.base w.len) && p.sends.all ringOk && p.recvs.all ringOk

/-- PEER-WINDOW (R385, R386). A ring that is set anew starts at index 0. -/
def peerVerdict (c : Nat) (p : PeerCfg) (s : State) : Verdict :=
  match (ctx? s c).filter Ctx.live with
  | none => if c = 0 ∨ 4095 < c then badcmd else badState
  | some x =>
    if !peerOk x p then badcmd
    else
      let kept := fun (i : Nat) => decide (p.sends[i]? = x.peer.sends[i]?)
      done [eff [onCtx c (fun y => { y with
        peer := p, rings := y.rings.filter (fun r => kept r.1)
        recvCount := if p.recvs = y.peer.recvs then y.recvCount else 0 })]]

/-- PEER_WINDOW. -/
def execPeerWindow (m : BitVec 512) (c : Nat) (p : PeerCfg) (s : State) : Host.Outcome State Fault Refusal :=
  fire [manage 38 m (peerVerdict c p)] s

/-- Does a peer's access lie in a window that gives it the right to read, or to write (R385)? -/
def peerMay (x : Ctx) (write : Bool) (peer addr n : Nat) : Bool :=
  x.peer.windows.any (fun w => decide (w.base ≤ addr) && decide (addr + n ≤ w.base + w.len)
    && w.peers.any (fun p => p.1 == peer && (if write then p.2.2 else p.2.1)))

/-- The lines that the link reads of n bytes of a context's memory, with what is found in them (R356). -/
def linkReads (s : State) (c va n : Nat) : List Stage :=
  match ctxPieces s c va n .read with
  | .error _ => []
  | .ok l => if s.o.flips.isEmpty then [] else l.flatMap (fun x => linesRead x.1 x.2)

/-- What the link reads of a context's memory, if every page lets it. What it gets of a POISONED line is not said:
free bytes. -/
def linkBytes (s : State) (c va n : Nat) : Option (List Byte) :=
  match ctxPieces s c va n .read with
  | .error _ => none
  | .ok l => some (if s.o.poison.isEmpty then l.flatMap (fun x => lookBytes s x.1 x.2)
    else l.flatMap (fun x => (upto x.1 x.2).map (fun a =>
      if (poisonAt s a).isSome then Config.freeByte (s.fresh + a) else ((lookBytes s a 1).headD 0))))

/-- The writes that bytes at an address of a context make, if every page allows them. -/
def writesAt (s : State) (c addr : Nat) (data : List Byte) : Option (List (Nat × List Byte)) :=
  match ctxPieces s c addr data.length .write with
  | .error _ => none
  | .ok l => some ((l.foldl (fun (acc : List (Nat × List Byte) × List Byte) p =>
      (acc.1 ++ [(p.1, acc.2.take p.2)], acc.2.drop p.2)) ([], data)).1)

/-- A peer's read of n bytes of a window is answered with the bytes, or with an error (R385). -/
def peerReads (c peer addr n : Nat) : Stage := pick (fun s =>
  match ctx? s c with
  | none => []
  | some x =>
    if !reachable s c || n == 0 || decide (2 ^ 24 < n) then [] else
    if peerMay x false peer addr n && (linkBytes s c addr n).isSome then
      linkReads s c addr n ++ [pick (fun s => [sendReply (.peerData peer ((linkBytes s c addr n).getD [])), eff [.draw 1]])]
    else [sendReply (.peerAnswer peer false)])

/-- The queue and SEQ of an egress that no command brought about: the context's first queue, SEQ 0 (R329). -/
def noCause (s : State) (c : Nat) : Nat × Nat := ((((ctx? s c).map (fun x => x.cfg.queues.map (·.1))).getD []).headD 0, 0)

/-- An inbound packet commits as a chunk of its own, or is answered with an error (R383, R385); one that brings no data
asks to read. -/
def packetArrives (c peer addr read : Nat) (data : List Byte) : Stage := pick (fun s =>
  if data.isEmpty then [peerReads c peer addr read] else
  match ctx? s c with
  | none => []
  | some x =>
    if !reachable s c || decide (8192 < data.length) then [] else
    match (if peerMay x true peer addr data.length then writesAt s c addr data else none) with
    | some l => [seqS (if s.o.flips.isEmpty then [] else l.flatMap (fun w => linesRead w.1 w.2.length)), ownChunk c (noCause s c) l,
        sendReply (.peerAnswer peer true)]
    | none => [sendReply (.peerAnswer peer false)])

/-- PEER_INBOUND_PACKET (R385). -/
def execPeerInboundPacket (c peer addr read : Nat) (data : List (BitVec 8)) (s : State) : Host.Outcome State Fault Refusal :=
  fire [packetArrives c peer addr read data] s

/-- What the link makes of an entry of a send ring (R386): its kind, offset, data and counter; none where it is
skipped. -/
def sendEntry (s : State) (c : Nat) (bs : List Byte) : Option (Nat × Nat × List Byte) :=
  let f := fld bs
  let bad := f 32 32 != 0 || f 1 3 != 0 || (f 0 1 != 1 && f 0 1 != 2) || f 4 4 == 0 || decide (2 ^ 24 < f 4 4)
    || f 8 8 % 64 != 0 || !isAddr (f 8 8) || (f 0 1 == 2 && f 16 8 != 0) || f 24 8 % 8 != 0 || !isAddr (f 24 8)
  if bad then none else (linkBytes s c (f 8 8) (f 4 4)).map (fun d => (f 0 1, f 16 8, d))

/-- One entry of a send ring, whose lines have been read, is sent, or skipped (R386). -/
def sendRead (c ring i : Nat) : Stage := pick (fun s =>
  match (ctx? s c).bind (fun x => x.peer.sends[ring]?) with
  | none => []
  | some r =>
    let st := ((ctx? s c).map (fun x => tabD x.rings ring {})).getD {}
    let bs? := linkBytes s c (r.base + 64 * (i % r.count)) 64
    let onRing := fun (f : RingSt → RingSt) => onCtx c (fun x => { x with rings := tabMod x.rings ring {} f })
    let counter := (bs?.map (fun bs => fld bs 24 8)).getD 0
    [eff [onRing (fun y => { y with sent := (i + 1) % 2 ^ 64 })]] ++
    (match bs?.bind (sendEntry s c) with
     | none => [notice c st.queue st.root, if counter % 8 = 0 then bumpCounter c (st.queue, st.root) counter else skip]
     | some (kind, roff, data) =>
       [(fun s => egressAs c st.queue (Config.freeNat (s.fresh + 1) % 256) st.root (BitVec.ofNat 256 (Config.freeNat s.fresh))
          (fun e => .peer e.jsn r.peer kind roff data) s ++ [.draw 2]),
        eff [onRing (fun y => { y with out := tabPut y.out i counter })]]))

/-- One entry of a send ring is read, with the data that it names, and sent or skipped (R386). -/
def sendOne (c ring i : Nat) : Stage := pick (fun s =>
  match (ctx? s c).bind (fun x => x.peer.sends[ring]?) with
  | none => []
  | some r =>
    let a := r.base + 64 * (i % r.count)
    linkReads s c a 64 ++
    [pick (fun s => match linkBytes s c a 64 with
      | some bs => if (sendEntry s c bs).isSome then linkReads s c (fld bs 8 8) (fld bs 4 4) else []
      | none => []),
     sendRead c ring i])

/-- The producer index of a send ring, as its doorbell stands. -/
def doorbellOf (s : State) (c ring : Nat) : Nat :=
  match (ctx? s c).bind (fun x => x.peer.sends[ring]?) with
  | none => 0
  | some r => match ctxXlat s c r.word .read with
    | .ok l => memNat s.mem l 8
    | .error _ => 0

/-- After a doorbell has committed, the link reads the ring's entries up to its index, in ring order (R386). -/
def ringSends (c ring : Nat) : Stage := pick (fun s =>
  if !reachable s c then [] else
  let st := ((ctx? s c).map (fun x => tabD x.rings ring {})).getD {}
  (upto st.sent ((doorbellOf s c ring + 2 ^ 64 - st.sent) % 2 ^ 64)).map (fun i => sendOne c ring (i % 2 ^ 64)))

/-- SEND_RING_SEND (R386). -/
def execSendRingSend (c ring : Nat) (s : State) : Host.Outcome State Fault Refusal := fire [ringSends c ring] s

/-- The peer has acknowledged an entry's last packet: its counter is incremented (R386). -/
def peerAcks (c ring i : Nat) : Stage := pick (fun s =>
  match (ctx? s c).bind (fun x => (tabGet x.rings ring).bind (fun r => (tabGet r.out i).map (fun n => (r, n)))) with
  | none => []
  | some (r, counter) =>
    [eff [onCtx c (fun x => { x with rings := tabUpd x.rings ring (fun r => { r with out := tabDel r.out i }) })],
     bumpCounter c (r.queue, r.root) counter])

/-- PEER_ACK (R386). -/
def execPeerAck (c ring entry : Nat) (s : State) : Host.Outcome State Fault Refusal := fire [peerAcks c ring entry] s

/-- An inbound SEND lands in the receive ring (R387): its data, then its entry with LEN and the data's offset,
then the count word. A ring that is full refuses it. When a ring is full and where data goes is not said: both
are free. -/
def sendLands (c ring : Nat) (data : List Byte) : Stage := pick (fun s =>
  match (ctx? s c).bind (fun x => x.peer.recvs[ring]?) with
  | none => []
  | some r =>
    if !reachable s c || data.isEmpty || decide (2 ^ 24 < data.length) then [] else
    let i := ((ctx? s c).map (·.recvCount)).getD 0
    let off := Config.freeNat (s.fresh + 1)
    let entry := bytesOf 4 0 ++ bytesOf 4 data.length ++ bytesOf 8 off ++ List.replicate 48 0
    match (if Config.freeBool s.fresh then none else writesAt s c (r.base + off) data),
        writesAt s c (r.base + 64 * (i % r.count)) entry with
    | some l, some e =>
      [eff [.draw 2], ownChunk c (noCause s c) l, ownChunk c (noCause s c) e, bumpCounter c (noCause s c) r.word, eff [onCtx c (fun x => { x with recvCount := x.recvCount + 1 })],
       sendReply (.peerAnswer r.peer true)]
    | _, _ => [eff [.draw 2], sendReply (.peerAnswer r.peer false)])

/-- INBOUND_SEND (R387). -/
def execInboundSend (c ring : Nat) (data : List (BitVec 8)) (s : State) : Host.Outcome State Fault Refusal :=
  fire [sendLands c ring data] s

/-! ## Mirroring (R388, R389) -/

/-- Egress whose journal entry and earlier mirror writes the neighbour has acknowledged leaves (R389). -/
def releaseHeldOut : Stage := fun s =>
  let free := fun (x : Nat × OutMsg) => !mirroring s || decide (x.1 ≤ s.o.mod.mirrorAcked)
  [.obj (fun o => { o with outbox := o.outbox ++ (s.o.mod.outHeld.filter free).map (·.2)
                           mod := { o.mod with outHeld := s.o.mod.outHeld.filter (fun x => !free x) } })]

/-- The neighbour acknowledges `n` more mirror writes (R388, R389). -/
def mirrorAcks (n : Nat) : Stage := pick (fun s =>
  if !mirroring s || !linkUp s PortUse.mirrors then [] else
  [eff [onMod (fun m => { m with mirrorAcked := min m.mirrorSent (m.mirrorAcked + n) })], releaseHeldOut])

/-- MIRROR_ACK (R388). -/
def execMirrorAck (n : Nat) (s : State) : Host.Outcome State Fault Refusal := fire [mirrorAcks n] s

/-- 50 ms in cy. -/
def mirrorPatience : Nat := 95000000
/-- 1 ms in cy. -/
def twinPatience : Nat := 1900000

/-- Has every port of a kind been away for `n` cy? -/
def linkAway (s : State) (p : PortUse → Bool) (n : Nat) : Bool :=
  let l := s.o.ports.toList.filter (fun x => p x.use)
  !l.isEmpty && l.all (fun x => x.st != .up && decide (x.downAt + n ≤ s.now))

/-- The mirror is broken (R389): the host is told, mirror writes are dropped from then on, and nothing waits for
an acknowledgement any more. -/
def mirrorBreaks : Stage := pick (fun s =>
  if mirroring s && !linkUp s PortUse.mirrors
      && (linkAway s PortUse.mirrors mirrorPatience || decide (2 ^ 26 ≤ s.o.mod.mirrorHeld)) then
    [eff [onMod (fun m => { m with mirrorBroken := true, mirrorHeld := 0 })], releaseHeldOut, noticeAll (fun _ => true)]
  else [])

/-- MIRROR_BREAK (R389). -/
def execMirrorBreak (s : State) : Host.Outcome State Fault Refusal := fire [mirrorBreaks] s

/-- A byte of the mirror area that this module holds for its neighbour (R388; where it stands is not said). -/
def mirrorLoc (a : Nat) : Nat := 2 ^ 46 + a

/-- A neighbour's mirror write is applied in the order of its arrival, with the poison mark that it carries, and
acknowledged (R357, R388). -/
def mirrorReceives (a : Nat) (data : List Byte) (mark : Option (BitVec 2)) : Stage := pick (fun s =>
  let loc := mirrorLoc a
  if s.o.mod.st = .ready ∧ linkUp s PortUse.mirrors then
    [(fun s => storeMarked s loc data),
     (match mark with
      | some c =>
        let l := upto (lineOf loc) (lineOf (loc + data.length - 1) + 1 - lineOf loc)
        eff [.obj (fun o => { o with poison := l.foldl (fun t x => tabPut t x c.toNat) o.poison })]
      | none => skip),
     sendReply (.mirrorAck a data.length)] else [])

/-- MIRROR_WRITE_RECEIVE (R388). -/
def execMirrorWriteReceive (a : Nat) (data : List (BitVec 8)) (mark : Option (BitVec 2)) (s : State) :
    Host.Outcome State Fault Refusal :=
  fire [mirrorReceives a data mark] s

/-! ## Twin lockstep (R390, R391) -/

/-- A partner's digest arrives: it stands beside the own one, and a chunk that waits for it asks again; unequal
digests halt the partition. -/
def digestArrives (k key index : Nat) (d : BitVec 64) : Stage := pick (fun s =>
  if !(kernel s k).lrec.twin || !linkUp s PortUse.twins then [] else
  [eff [onMod (fun m => { m with twinSeen := m.twinSeen ++ [(k, key, index, d)] })],
   pick (fun s => [if twinUnequal s k key index then evNow (.twinHalt (kernel s k).ctx) else skip]), kick])

/-- TWIN_DIGEST (R390). -/
def execTwinDigest (k key index : Nat) (d : BitVec 64) (s : State) : Host.Outcome State Fault Refusal :=
  fire [digestArrives k key index d] s

/-- Does a context have a chunk whose digests differ? -/
def diverged (s : State) (c : Nat) : Bool :=
  s.o.mod.twinOwn.any (fun x => (kernel s x.1).ctx == c && (kernel s x.1).pending && twinUnequal s x.1 x.2.1 x.2.2.1)

/-- A twin partition is halted (R391): its TWIN kernels are HALTED, none of its chunks commits, and the host is told, once for
each LAUNCH from which they descend (R329). -/
def twinHalts (c : Nat) : Stage := pick (fun s =>
  match ctx? s c with
  | none => []
  | some x =>
    if x.st = .dead || !x.cfg.twin || x.halted || !(diverged s c || linkAway s PortUse.twins twinPatience) then [] else
    let hit := fun (k : Kernel) => decide (k.ctx = c) && k.lrec.twin && k.pending
    let told := ((s.o.kernels.filter (fun k => hit k.2)).map (fun k => (k.2.queue, k.2.root))).eraseDups
    [eff [onCtx c (fun y => { y with halted := true }),
      .obj (fun o => { o with kernels := tabMap o.kernels (fun _ k => if hit k then { k with st := .halted } else k) })]] ++
    (if told.isEmpty then [noCause s c] else told).map (fun q => notice c q.1 q.2))

/-- TWIN_HALT (R391). -/
def execTwinHalt (c : Nat) (s : State) : Host.Outcome State Fault Refusal := fire [twinHalts c] s

/-! ## Ports (R381, R392) -/

/-- What follows once a dedicated port is away for as long as R389 and R391 allow. -/
def awayTimers (u : PortUse) : Stage := fun s =>
  match u with
  | .general => []
  | .mirror => [.post (s.now + mirrorPatience) (.ev .mirrorBreak)]
  | .twin _ => (s.o.ctxs.filter (fun c => c.2.cfg.twin)).map (fun c => .post (s.now + twinPatience) (.ev (.twinHalt c.1)))

/-- Can a port be dedicated to a use (R381)? -/
def portUseOk (p : Nat) (u : PortUse) : Bool :=
  match u with
  | .general => p == 3 || p == 7 || p == 11 || p == 15
  | .mirror => p == 3 || p == 7
  | .twin _ => p == 11 || p == 15

/-- A port of the module; a number above 15 names port 0. -/
def port (s : State) (p : Nat) : Port := s.o.ports.toList.getD p {}

/-- PORT-CONFIG dedicates or releases a port (R381). A mirror begins with the first mirror port, and ends with the
last: what waited for it goes on. -/
def portConfigVerdict (p : Nat) (u : PortUse) (s : State) : Verdict :=
  if !portUseOk p u then badcmd else
  done [eff [onPort p (fun x => { x with use := u, downAt := if x.st = .up then x.downAt else s.now })],
    (fun s =>
      let on := s.o.ports.toList.any (fun x => PortUse.mirrors x.use)
      [onMod (fun m => if on == m.mirror then m else
        { m with mirror := on, mirrorBroken := false, mirrorHeld := 0, mirrorAcked := m.mirrorSent })]),
    releaseHeldOut, (if (port s p).st = .up then skip else awayTimers u)]

/-- PORT_CONFIG. -/
def execPortConfig (m : BitVec 512) (p : Nat) (u : PortUse) (s : State) : Host.Outcome State Fault Refusal :=
  fire [manage 37 m (portConfigVerdict p u)] s

/-- PORT-RESET retrains a FAILED port (R392). -/
def portResetVerdict (p : Nat) (s : State) : Verdict :=
  if 15 < p then badcmd
  else if (port s p).st = .failed then done [eff [onPort p (fun x => { x with st := .training, fails := 0 })]]
  else badState

/-- PORT_RESET. -/
def execPortReset (m : BitVec 512) (p : Nat) (s : State) : Host.Outcome State Fault Refusal :=
  fire [manage 39 m (portResetVerdict p)] s

/-- Training of a port succeeds or fails; the third failure in a row is FAILED, and the host is told (R392). -/
def portTrained (p : Nat) (ok : Bool) : Stage := pick (fun s =>
  let x := port s p
  if 15 < p ∨ x.st ≠ .training then []
  else if ok then
    [eff ([onPort p (fun y => { y with st := .up, fails := 0 })] ++
      (if PortUse.mirrors x.use then [onMod (fun m => { m with mirrorHeld := 0 })] else []))]
  else if x.fails + 1 < 3 then [eff [onPort p (fun y => { y with fails := y.fails + 1 })]]
  else [eff [onPort p (fun y => { y with st := .failed, fails := 3 })], noticeAll (fun c => c.cfg.partDies.getLsbD (p / 4))])

/-- PORT_TRAINING_DONE (R392). -/
def execPortTrainingDone (p : Nat) (ok : Bool) (s : State) : Host.Outcome State Fault Refusal := fire [portTrained p ok] s

/-- A port loses its link and retrains (R392). -/
def portLost (p : Nat) : Stage := pick (fun s =>
  let x := port s p
  if 15 < p ∨ x.st ≠ .up then []
  else [eff [onPort p (fun y => { y with st := .training, fails := 0, downAt := s.now })], awayTimers x.use])

/-- PORT_LINK_LOSS (R392). -/
def execPortLinkLoss (p : Nat) (s : State) : Host.Outcome State Fault Refusal := fire [portLost p] s

/-! ## Boundaries (R384) -/

/-- A lane of a die boundary fails: a spare takes its place, or the module resets. -/
def laneFails (b : Nat) : Stage := pick (fun s =>
  if 3 < b then [] else
  let n := tabD s.o.mod.lanes b 0 + 1
  [eff [onMod (fun m => { m with lanes := tabPut m.lanes b n })],
   if Config.spareLanes b < n then evNow .moduleReset else skip])

/-- LANE_FAIL (R384). -/
def execLaneFail (b : Nat) (s : State) : Host.Outcome State Fault Refusal := fire [laneFails b] s

end Sys2Proof.Machine
end

