-- ==== Sys2Proof/Machine/Platform.lean ====
section
/-!
DEFINITION. Platform: bring-up (R394, R395), the sensors and the quench (R399, R401), power (R400), and the
management commands of the module itself (R396 to R401).
-/

namespace Sys2Proof.Machine

open Sys2Proof

/-! ## Reset and bring-up -/

/-- Does an entry of the agenda come from outside the module, so that a reset does not take it back? -/
def Act.outside : Act → Bool
  | .ev i => match i with
    | .hostLaunch _ _ | .hostStop _ _ | .hostSuspend _ _ | .hostResume _ _ | .hostKill _ _ | .setPriority _ _
    | .readJournal _ _ | .unknownCodeCommand _ _ | .contextCreate _ _ | .contextChange _ _ | .contextKill _ _
    | .contextDestroy _ _ | .map _ _ _ | .portConfig _ _ _ | .peerWindow _ _ _ | .portReset _ _ | .powerCap _ _
    | .quenchLevel _ _ | .readSensors _ _ | .quote _ _ _ | .firmwareLoad _ _ | .portTrainingDone _ _
    | .portLinkLoss _ | .laneFail _ | .peerInboundPacket _ _ _ _ _ | .peerAck _ _ _ | .inboundSend _ _ _
    | .mirrorAck _ | .twinDigest _ _ _ _ | .linksTrained | .scrubComplete _ | .sensorAlarm _ _ | .powerWindow _
    | .junctionTemperature _ _ | .mirrorWriteReceive _ _ _ => true
    | _ => false
  | _ => false

/-- The bound of bring-up in cy: 20 s (R394). -/
def bootBound : Nat := 38000000000

/-- A module reset (R394): nothing of the module's objects stands, but its firmware image, its fuses, its boot
count, and what has left it; every die control processor runs its ROM. -/
def resets : Stage := pick (fun s =>
  [eff [.obj (fun o => { ({} : Objs) with
      outbox := o.outbox
      mod := { st := .verify, image := o.mod.image, rollback := o.mod.rollback, boots := (o.mod.boots + 1) % 2 ^ 64, zero := s.now } }),
    .unpost (fun a => !a.outside)],
   fun s => [.post (s.now + within s 0 bootBound) (.ev .firmwareVerify), .draw 1]])

/-- MODULE_RESET (R394). -/
def execModuleReset (s : State) : Host.Outcome State Fault Refusal := fire [resets] s

/-- The firmware image is verified (R395): its signature by the ROM, its version against the rollback counter,
which an accepted image raises to its version. -/
def verifies : Stage := fun s =>
  let i := s.o.mod.image
  if s.o.mod.st ≠ .verify then []
  else if Config.verifies i.version.toNat i.digests i.signature && decide (s.o.mod.rollback ≤ i.version.toNat) then
    [onMod (fun m => { m with st := .training, running := i, rollback := max m.rollback i.version.toNat })]
  else [onMod (fun m => { m with st := .recovery })]

/-- FIRMWARE_VERIFY (R395). -/
def execFirmwareVerify (s : State) : Host.Outcome State Fault Refusal := fire [verifies] s

/-- LINKS_TRAINED (R394). -/
def execLinksTrained (s : State) : Host.Outcome State Fault Refusal :=
  fire [fun s => if s.o.mod.st = .training then [onMod (fun m => { m with st := .scrub })] else []] s

/-- Are harvest maps those of a part of this kind (R1, R14): four dies with at least 552 enabled cores, 2,240 together? -/
def mapsOk (maps : List (BitVec 576)) : Bool :=
  let n := maps.map (fun m => ((upto 0 576).filter m.getLsbD).length)
  maps.length == 4 && n.all (fun x => decide (552 ≤ x)) && decide (2240 ≤ total n)

/-- Every memory is scrubbed and the harvest maps are loaded: READY (R394). The journal starts at JSN 1, the ports
train, and the attestation key is made. -/
def scrubs (maps : List (BitVec 576)) : Stage := pick (fun s =>
  if s.o.mod.st ≠ .scrub ∨ !mapsOk maps then [] else
  [eff (wipe 0 (2 ^ 48) ++ [.restart, onMod (fun m => { m with st := .ready, attest := true }),
    .obj (fun o => { o with
      dies := Vector.ofFn (fun i => { harvest := maps.getD i.val 0, power := (o.dies[i]).power, temp := (o.dies[i]).temp })
      ports := o.ports.map (fun p => { p with st := .training, fails := 0, downAt := s.now }) })])])

/-- SCRUB_COMPLETE (R394). -/
def execScrubComplete (maps : List (BitVec 576)) (s : State) : Host.Outcome State Fault Refusal := fire [scrubs maps] s

/-- FIRMWARE-LOAD writes the image, which takes effect at the next reset; in RECOVERY it is followed by a reset (R394, R396). -/
def firmwareVerdict (i : FirmwareImage) (s : State) : Verdict :=
  done [eff [onMod (fun m => { m with image := i })], if s.o.mod.st = .recovery then evNow .moduleReset else skip]

/-- FIRMWARE_LOAD. -/
def execFirmwareLoad (m : BitVec 512) (i : FirmwareImage) (s : State) : Host.Outcome State Fault Refusal :=
  fire [manage 44 m (firmwareVerdict i)] s

/-! ## Sensors and the quench (R399) -/

/-- The quench: every context is DEAD, with its keys erased, and the attestation key is erased. -/
def quench : Stage := seqS [
  eff [onMod (fun m => { m with attest := false })],
  each (fun s => s.o.ctxs.filter (fun c => c.2.live)) (fun c => killCtx c.1)]

/-- An alarm is recorded, and acts by the quench level. -/
def alarms (d : Nat) (source : BitVec 4) : Stage := pick (fun s =>
  if 3 < d ∨ source = 0 ∨ 3 < source.toNat ∨ s.o.mod.st = .reset then [] else
  eff [onMod (fun m => { m with alarms := m.alarms + 1, source := source })] ::
  match s.o.mod.qlevel with
  | 0 => []
  | 1 => [noticeAll (fun _ => true)]
  | 2 => [quench]
  | _ => [quench, evNow .moduleReset])

/-- SENSOR_ALARM (R399). -/
def execSensorAlarm (d : Nat) (source : BitVec 4) (s : State) : Host.Outcome State Fault Refusal := fire [alarms d source] s

/-- QUENCH-LEVEL raises the quench level (R396, R399). -/
def quenchVerdict (l : Nat) (s : State) : Verdict :=
  if 3 < l then badcmd else if l ≤ s.o.mod.qlevel then badState
  else done [eff [onMod (fun m => { m with qlevel := l })]]

/-- QUENCH_LEVEL. -/
def execQuenchLevel (m : BitVec 512) (l : Nat) (s : State) : Host.Outcome State Fault Refusal :=
  fire [manage 41 m (quenchVerdict l)] s

/-! ## Power (R400) -/

/-- POWER-CAP (R400). -/
def capVerdict (w : Nat) (_ : State) : Verdict :=
  if w < 900 ∨ 1700 < w then badcmd else done [eff [onMod (fun m => { m with cap := w })]]

/-- POWER_CAP. -/
def execPowerCap (m : BitVec 512) (w : Nat) (s : State) : Host.Outcome State Fault Refusal :=
  fire [manage 40 m (capVerdict w)] s

/-- The cap in force in mW: at 105 °C as if it were 900 W. -/
def capNow (m : Module) : Nat := 1000 * (if m.hot then min 900 m.cap else m.cap)

/-- Power over the last window. -/
def powerNow (s : State) : Nat := total (s.o.dies.toList.map (·.power))

/-- A window of 1 ms ends (R400): throttling reaches the non-isolated partitions while it exceeds the cap, the
isolated ones after 10 ms, and is lifted from the first window below. -/
def windowEnds (mw : List Nat) : Stage := seqS [
  eff [.obj (fun o => { o with dies := Vector.ofFn (fun i => { o.dies[i] with power := mw.getD i.val 0 }) }),
    onMod (fun m => if m.throttle = .off then m else { m with throttledUs := m.throttledUs + 1000 })],
  fun s =>
    if capNow s.o.mod < powerNow s then
      if s.o.mod.throttle = .off then
        [onMod (fun m => { m with throttle := .shared, throttleFrom := s.now }), .post (s.now + 19000000) (.ev .throttleEscalate)]
      else []
    else [onMod (fun m => { m with throttle := .off })]]

/-- POWER_WINDOW (R400). -/
def execPowerWindow (mw : List Nat) (s : State) : Host.Outcome State Fault Refusal :=
  fire [onlyIf (fun s => s.o.mod.st == .ready) (windowEnds mw)] s

/-- After 10 ms above the cap the throttling reaches isolated partitions, and their hosts are told (R18, R400). -/
def escalates : Stage := pick (fun s =>
  if s.o.mod.throttle = .shared ∧ s.o.mod.throttleFrom + 19000000 ≤ s.now then
    [eff [onMod (fun m => { m with throttle := .all })], noticeAll (fun c => c.cfg.isolated)]
  else [])

/-- THROTTLE_ESCALATE (R400). -/
def execThrottleEscalate (s : State) : Host.Outcome State Fault Refusal := fire [escalates] s

/-- A junction temperature is measured (R400): at 105 °C the cap is 900 W, at 115 °C the module resets. -/
def heats (d mc : Nat) : Stage := seqS [
  eff [onDie d (fun x => { x with temp := mc })],
  fun s => [onMod (fun m => { m with hot := s.o.dies.toList.any (fun x => decide (105000 ≤ x.temp)) })] ++
    (if 115000 ≤ mc ∧ s.o.mod.st ≠ .reset then [.post s.now (.ev .moduleReset)] else [])]

/-- JUNCTION_TEMPERATURE (R400). -/
def execJunctionTemperature (d mc : Nat) (s : State) : Host.Outcome State Fault Refusal :=
  fire [if d ≤ 3 then heats d mc else skip] s

/-! ## READ-SENSORS (R401) -/

/-- The place of a module state in the table of R394. -/
def MSt.place : MSt → Nat
  | .reset => 0 | .verify => 1 | .training => 2 | .scrub => 3 | .ready => 4 | .recovery => 5

/-- The 64 words of the sensors, for the contexts that the descriptor names. -/
def sensorWords (s : State) (cids : List (BitVec 16)) : List Nat :=
  let d := s.o.dies.toList
  d.map (·.power) ++ d.map (·.temp) ++ (upto 0 12).map (fun i => Config.sensor (s.fresh + i)) ++ d.map (·.corrected) ++
  [s.o.mod.throttledUs, s.o.mod.source.toNat * 2 ^ 60 + s.o.mod.alarms % 2 ^ 60, Config.stateWord s.o.mod.st.place] ++
  (upto 0 37).map (fun i => ((ctx? s (cids.getD i 0).toNat).map (·.trace)).getD 0)

/-- 512-bit pieces of 64-bit words, eight each. -/
def pieces8 (n : Nat) (ws : List Nat) : List (BitVec 512) :=
  (upto 0 n).map (fun i => BitVec.ofNat 512 (ofBytes ((upto (8 * i) 8).flatMap (fun j => bytesOf 8 (ws.getD j 0)))))

/-- READ-SENSORS (R401). -/
def sensorsVerdict (cids : List (BitVec 16)) (s : State) : Verdict :=
  if (cids.take 37).any (fun c => c.extractLsb' 12 4 != 0) then badcmd
  else { effect := [eff [.draw 12]], follow := pieces8 8 (sensorWords s cids) }

/-- READ_SENSORS. -/
def execReadSensors (m : BitVec 512) (cids : List (BitVec 16)) (s : State) : Host.Outcome State Fault Refusal :=
  fire [manage 42 m (sensorsVerdict cids)] s

/-! ## Identity and attestation (R397, R398) -/

/-- A value of 32 bytes. -/
def bytes32 (v : BitVec 256) : List Byte := bytesOf 32 v.toNat

/-- SHA-256 over the four die digests (R395). -/
def fwDigest (s : State) : List Byte := bytes32 (Config.sha256 (s.o.mod.running.digests.flatMap bytes32))

/-- SHA-256 over the harvest maps of every die. -/
def harvestDigest (s : State) : List Byte :=
  bytes32 (Config.sha256 (s.o.dies.toList.flatMap (fun d => bytesOf 72 d.harvest.toNat)))

/-- A signature of n bytes. -/
def signed_ (n key : Nat) (l : List Byte) : List Byte := (Config.signature key l ++ List.replicate n 0).take n

/-- The boot certificate of 8,000 bytes (R397). -/
def bootCertificate (s : State) : List Byte :=
  let body := bytesOf 4 0 ++ bytesOf 4 s.o.mod.running.version.toNat ++ bytesOf 8 s.o.mod.boots ++ harvestDigest s ++ fwDigest s
    ++ bytes32 (Config.publicKey (s.o.mod.boots + 1)) ++ bytes32 (Config.publicKey 0)
  body ++ signed_ 7856 0 body

/-- The items of a context but its keys (R331), as numbers. -/
def ctxItems (c : CtxCfg) : List Nat :=
  [c.cid, c.partDies.toNat, c.partQuads.toNat, bit c.isolated, bit c.twin, c.pinned, c.command, c.quantum, c.saveBase, c.saveLen,
   bit c.mirrorSave, bit c.tracePoison, bit c.syncMirror, c.windows.length] ++ c.windows.flatMap (fun w => [w.1, w.2]) ++
  c.queues.flatMap (fun q => [q.1, q.2]) ++ c.hosts

/-- The quote, followed by the boot certificate (R398). -/
def quoteBytes (s : State) (nonce : BitVec 256) (c : Nat) : List Byte :=
  let ctx := match ctx? s c with
    | some x => if c = 0 then 0 else Config.sha256 (Config.itemBytes (ctxItems x.cfg))
    | none => 0
  let body := bytesOf 8 c ++ bytesOf 4 s.o.mod.qlevel ++ bytesOf 4 s.o.mod.running.version.toNat ++ bytesOf 8 s.o.mod.boots
    ++ harvestDigest s ++ fwDigest s ++ bytes32 ctx ++ bytes32 nonce
  body ++ signed_ 17088 (s.o.mod.boots + 1) body ++ bootCertificate s

/-- 512-bit pieces of bytes. -/
def pieces64 (n : Nat) (bs : List Byte) : List (BitVec 512) :=
  (upto 0 n).map (fun i => BitVec.ofNat 512 (ofBytes ((bs.drop (64 * i)).take 64)))

/-- QUOTE (R398): it needs the attestation key, and a context that exists, or 0. -/
def quoteVerdict (nonce : BitVec 256) (c : Nat) (s : State) : Verdict :=
  if 4095 < c then badcmd
  else if !s.o.mod.attest || (c != 0 && !tabHas s.o.ctxs c) then badState
  else { follow := pieces64 395 (quoteBytes s nonce c) }

/-- QUOTE. -/
def execQuote (m : BitVec 512) (nonce : BitVec 256) (c : Nat) (s : State) : Host.Outcome State Fault Refusal :=
  fire [manage 43 m (quoteVerdict nonce c)] s

end Sys2Proof.Machine
end

