-- ==== Sys2Proof/Machine/Dispatch.lean ====
section
/-!
DEFINITION. Dispatch: one arm per row of the table of operations.
-/

namespace Sys2Proof.Machine

open Sys2Proof

def exec (i : Instr) (s : State) : Host.Outcome State Fault Refusal :=
  match i with
  | .nop ls => Sys2Proof.Machine.execNop ls s
  | .br ls k off => Sys2Proof.Machine.execBr ls k off s
  | .brn ls k off => Sys2Proof.Machine.execBrn ls k off s
  | .jmp ls off => Sys2Proof.Machine.execJmp ls off s
  | .call ls off => Sys2Proof.Machine.execCall ls off s
  | .jmpr ls a => Sys2Proof.Machine.execJmpr ls a s
  | .callr ls a => Sys2Proof.Machine.execCallr ls a s
  | .exit ls => Sys2Proof.Machine.execExit ls s
  | .yield ls => Sys2Proof.Machine.execYield ls s
  | .trap ls imm => Sys2Proof.Machine.execTrap ls imm s
  | .csrr ls d c => Sys2Proof.Machine.execCsrr ls d c s
  | .csrw ls a c => Sys2Proof.Machine.execCsrw ls a c s
  | .l2pdataWrite ls a => Sys2Proof.Machine.execL2pdataWrite ls a s
  | .eret ls => Sys2Proof.Machine.execEret ls s
  | .ldN sb d b sz off => Sys2Proof.Machine.execLdN sb d b sz off s
  | .ldNLong sb d b sz lit => Sys2Proof.Machine.execLdNLong sb d b sz lit s
  | .stN sb v b sz off => Sys2Proof.Machine.execStN sb v b sz off s
  | .stNLong sb v b sz lit => Sys2Proof.Machine.execStNLong sb v b sz lit s
  | .ldG sb d b sz off => Sys2Proof.Machine.execLdG sb d b sz off s
  | .ldGLong sb d b sz lit => Sys2Proof.Machine.execLdGLong sb d b sz lit s
  | .stG sb v b sz off => Sys2Proof.Machine.execStG sb v b sz off s
  | .stGLong sb v b sz lit => Sys2Proof.Machine.execStGLong sb v b sz lit s
  | .lduG sb d b sz off => Sys2Proof.Machine.execLduG sb d b sz off s
  | .lduGLong sb d b sz lit => Sys2Proof.Machine.execLduGLong sb d b sz lit s
  | .ldtr ls d b sz off => Sys2Proof.Machine.execLdtr ls d b sz off s
  | .plane ls d a b => Sys2Proof.Machine.execPlane ls d a b s
  | .unplane ls d a b => Sys2Proof.Machine.execUnplane ls d a b s
  | .take ls d a => Sys2Proof.Machine.execTake ls d a s
  | .put ls a b => Sys2Proof.Machine.execPut ls a b s
  | .peek ls d a => Sys2Proof.Machine.execPeek ls d a s
  | .feset ls a f => Sys2Proof.Machine.execFeset ls a f s
  | .feq ls d a => Sys2Proof.Machine.execFeq ls d a s
  | .chbind ls a b => Sys2Proof.Machine.execChbind ls a b s
  | .chsend ls a b => Sys2Proof.Machine.execChsend ls a b s
  | .chrecv ls d a => Sys2Proof.Machine.execChrecv ls d a s
  | .chclose ls a => Sys2Proof.Machine.execChclose ls a s
  | .atomN ls d a b p => Sys2Proof.Machine.execAtomN ls d a b p s
  | .atomG ls d a b p => Sys2Proof.Machine.execAtomG ls d a b p s
  | .redG ls a b p => Sys2Proof.Machine.execRedG ls a b p s
  | .casN ls d a b => Sys2Proof.Machine.execCasN ls d a b s
  | .casG ls d a b => Sys2Proof.Machine.execCasG ls d a b s
  | .ordatom ls d n b => Sys2Proof.Machine.execOrdatom ls d n b s
  | .fenceNear ls => Sys2Proof.Machine.execFenceNear ls s
  | .fenceGlobal ls => Sys2Proof.Machine.execFenceGlobal ls s
  | .fenceEngine ls => Sys2Proof.Machine.execFenceEngine ls s
  | .fenceMirror ls => Sys2Proof.Machine.execFenceMirror ls s
  | .fenceSystem ls => Sys2Proof.Machine.execFenceSystem ls s
  | .chunk ls => Sys2Proof.Machine.execChunk ls s
  | .barArrive ls d n => Sys2Proof.Machine.execBarArrive ls d n s
  | .barWait ls a n => Sys2Proof.Machine.execBarWait ls a n s
  | .barSync ls n => Sys2Proof.Machine.execBarSync ls n s
  | .barWaitd ls d a n => Sys2Proof.Machine.execBarWaitd ls d a n s
  | .barInit ls a n => Sys2Proof.Machine.execBarInit ls a n s
  | .evWait ls => Sys2Proof.Machine.execEvWait ls s
  | .evSignal ls a => Sys2Proof.Machine.execEvSignal ls a s
  | .evWaitt ls d a => Sys2Proof.Machine.execEvWaitt ls d a s
  | .msend ls d a b => Sys2Proof.Machine.execMsend ls d a b s
  | .latheOpen ls d a g n => Sys2Proof.Machine.execLatheOpen ls d a g n s
  | .latheLwait ls => Sys2Proof.Machine.execLatheLwait ls s
  | .latheLabort ls => Sys2Proof.Machine.execLatheLabort ls s
  | .nest ls n a b => Sys2Proof.Machine.execNest ls n a b s
  | .next ls d n k => Sys2Proof.Machine.execNext ls d n k s
  | .sbind ls d a => Sys2Proof.Machine.execSbind ls d a s
  | .sunbind ls d => Sys2Proof.Machine.execSunbind ls d s
  | .sstat ls d a => Sys2Proof.Machine.execSstat ls d a s
  | .tspawn ls d a b => Sys2Proof.Machine.execTspawn ls d a b s
  | .tstamp ls a => Sys2Proof.Machine.execTstamp ls a s
  | .gloop sb d a b lit => Sys2Proof.Machine.execGloop sb d a b lit s
  | .gput ls => Sys2Proof.Machine.execGput ls s
  | .gend ls d => Sys2Proof.Machine.execGend ls d s
  | .gquit ls => Sys2Proof.Machine.execGquit ls s
  | .acceptEq ls => Sys2Proof.Machine.execAcceptEq ls s
  | .acceptSeq ls a => Sys2Proof.Machine.execAcceptSeq ls a s
  | .acceptTol ls a => Sys2Proof.Machine.execAcceptTol ls a s
  | .rxtag ls d n => Sys2Proof.Machine.execRxtag ls d n s
  | .rxtagVoid ls d => Sys2Proof.Machine.execRxtagVoid ls d s
  | .rxuntag ls d => Sys2Proof.Machine.execRxuntag ls d s
  | .rxdrop ls d => Sys2Proof.Machine.execRxdrop ls d s
  | .rxkeep ls d => Sys2Proof.Machine.execRxkeep ls d s
  | .rxq ls d a => Sys2Proof.Machine.execRxq ls d a s
  | .wid ls d n => Sys2Proof.Machine.execWid ls d n s
  | .job ls d a => Sys2Proof.Machine.execJob ls d a s
  | .jobw ls a b => Sys2Proof.Machine.execJobw ls a b s
  | .jobq ls d a => Sys2Proof.Machine.execJobq ls d a s
  | .jobResume ls d a => Sys2Proof.Machine.execJobResume ls d a s
  | .mxsend ls d a b => Sys2Proof.Machine.execMxsend ls d a b s
  | .mxsendAdd ls d a b => Sys2Proof.Machine.execMxsendAdd ls d a b s
  | .swapt ls d a b => Sys2Proof.Machine.execSwapt ls d a b s
  | .launch ls d a => Sys2Proof.Machine.execLaunch ls d a s
  | .tlbw ls a b => Sys2Proof.Machine.execTlbw ls a b s
  | .tlbi ls a b => Sys2Proof.Machine.execTlbi ls a b s
  | .tlbr ls d b => Sys2Proof.Machine.execTlbr ls d b s
  | .slicemass ls d a b => Sys2Proof.Machine.execSlicemass ls d a b s
  | .draw ls d a b => Sys2Proof.Machine.execDraw ls d a b s
  | .penal ls d a b => Sys2Proof.Machine.execPenal ls d a b s
  | .tokapp ls d a b => Sys2Proof.Machine.execTokapp ls d a b s
  | .seqcmtCommit ls d a b => Sys2Proof.Machine.execSeqcmtCommit ls d a b s
  | .seqcmtRewind ls d a b => Sys2Proof.Machine.execSeqcmtRewind ls d a b s
  | .gmask ls d a b => Sys2Proof.Machine.execGmask ls d a b s
  | .movi sb d lit => Sys2Proof.Machine.execMovi sb d lit s
  | .moviHi sb d lit => Sys2Proof.Machine.execMoviHi sb d lit s
  | .anop => Sys2Proof.Machine.execAnop s
  | .add d a b t => Sys2Proof.Machine.execAdd d a b t s
  | .sub d a b t => Sys2Proof.Machine.execSub d a b t s
  | .mul d a b t => Sys2Proof.Machine.execMul d a b t s
  | .mulh d a b t => Sys2Proof.Machine.execMulh d a b t s
  | .div d a b t => Sys2Proof.Machine.execDiv d a b t s
  | .rem d a b t => Sys2Proof.Machine.execRem d a b t s
  | .and d a b t => Sys2Proof.Machine.execAnd d a b t s
  | .or d a b t => Sys2Proof.Machine.execOr d a b t s
  | .xor d a b t => Sys2Proof.Machine.execXor d a b t s
  | .shl d a b t => Sys2Proof.Machine.execShl d a b t s
  | .shr d a b t => Sys2Proof.Machine.execShr d a b t s
  | .sar d a b t => Sys2Proof.Machine.execSar d a b t s
  | .rot d a b t => Sys2Proof.Machine.execRot d a b t s
  | .min d a b t => Sys2Proof.Machine.execMin d a b t s
  | .max d a b t => Sys2Proof.Machine.execMax d a b t s
  | .abs d a t => Sys2Proof.Machine.execAbs d a t s
  | .neg d a t => Sys2Proof.Machine.execNeg d a t s
  | .clz d a t => Sys2Proof.Machine.execClz d a t s
  | .popc d a t => Sys2Proof.Machine.execPopc d a t s
  | .brev d a t => Sys2Proof.Machine.execBrev d a t s
  | .bfx d a b t => Sys2Proof.Machine.execBfx d a b t s
  | .bfi d a b t => Sys2Proof.Machine.execBfi d a b t s
  | .mov d a t => Sys2Proof.Machine.execMov d a t s
  | .addi d a imm => Sys2Proof.Machine.execAddi d a imm s
  | .andi d a imm => Sys2Proof.Machine.execAndi d a imm s
  | .ori d a imm => Sys2Proof.Machine.execOri d a imm s
  | .xori d a imm => Sys2Proof.Machine.execXori d a imm s
  | .shli d a imm => Sys2Proof.Machine.execShli d a imm s
  | .shri d a imm => Sys2Proof.Machine.execShri d a imm s
  | .sari d a imm => Sys2Proof.Machine.execSari d a imm s
  | .padd d a b => Sys2Proof.Machine.execPadd d a b s
  | .paddi d a imm => Sys2Proof.Machine.execPaddi d a imm s
  | .pset d a b => Sys2Proof.Machine.execPset d a b s
  | .pget d a => Sys2Proof.Machine.execPget d a s
  | .pdiff d a b => Sys2Proof.Machine.execPdiff d a b s
  | .cmp k c a b t => Sys2Proof.Machine.execCmp k c a b t s
  | .cmpi k c a imm t => Sys2Proof.Machine.execCmpi k c a imm t s
  | .kop k c a b => Sys2Proof.Machine.execKop k c a b s
  | .sel d a b p => Sys2Proof.Machine.execSel d a b p s
  | .kmovToReg d a => Sys2Proof.Machine.execKmovToReg d a s
  | .kmovToPred d a => Sys2Proof.Machine.execKmovToPred d a s
  | .vadd d a b t => Sys2Proof.Machine.execVadd d a b t s
  | .vsub d a b t => Sys2Proof.Machine.execVsub d a b t s
  | .vmul d a b t => Sys2Proof.Machine.execVmul d a b t s
  | .vfma d a b t => Sys2Proof.Machine.execVfma d a b t s
  | .vmin d a b t => Sys2Proof.Machine.execVmin d a b t s
  | .vmax d a b t => Sys2Proof.Machine.execVmax d a b t s
  | .vabs d a t => Sys2Proof.Machine.execVabs d a t s
  | .vneg d a t => Sys2Proof.Machine.execVneg d a t s
  | .vand d a b => Sys2Proof.Machine.execVand d a b s
  | .vor d a b => Sys2Proof.Machine.execVor d a b s
  | .vxor d a b => Sys2Proof.Machine.execVxor d a b s
  | .vshl d a b t => Sys2Proof.Machine.execVshl d a b t s
  | .vshr d a b t => Sys2Proof.Machine.execVshr d a b t s
  | .vcmp k c a b t => Sys2Proof.Machine.execVcmp k c a b t s
  | .vsel d a p t => Sys2Proof.Machine.execVsel d a p t s
  | .vshuf d a b t => Sys2Proof.Machine.execVshuf d a b t s
  | .vbcast d a t => Sys2Proof.Machine.execVbcast d a t s
  | .vred d a b t => Sys2Proof.Machine.execVred d a b t s
  | .vdot d a b t => Sys2Proof.Machine.execVdot d a b t s
  | .vscale d a b t => Sys2Proof.Machine.execVscale d a b t s
  | .vadds d a b t => Sys2Proof.Machine.execVadds d a b t s
  | .rcp d a => Sys2Proof.Machine.execRcp d a s
  | .rsq d a => Sys2Proof.Machine.execRsq d a s
  | .rcpnr d a b => Sys2Proof.Machine.execRcpnr d a b s
  | .rsqnr d a b => Sys2Proof.Machine.execRsqnr d a b s
  | .exp2 d a => Sys2Proof.Machine.execExp2 d a s
  | .log2 d a => Sys2Proof.Machine.execLog2 d a s
  | .cvt d a e f => Sys2Proof.Machine.execCvt d a e f s
  | .cvtsr d a e f => Sys2Proof.Machine.execCvtsr d a e f s
  | .pack d a e f => Sys2Proof.Machine.execPack d a e f s
  | .unpack d a e f => Sys2Proof.Machine.execUnpack d a e f s
  | .rng d a b => Sys2Proof.Machine.execRng d a b s
  | .mma sh n a b q => Sys2Proof.Machine.execMma sh n a b q s
  | .aclr d a => Sys2Proof.Machine.execAclr d a s
  | .arnd d a b t => Sys2Proof.Machine.execArnd d a b t s
  | .amov d a => Sys2Proof.Machine.execAmov d a s
  | .amovSt d a => Sys2Proof.Machine.execAmovSt d a s
  | .amovRaw d a b => Sys2Proof.Machine.execAmovRaw d a b s
  | .aadd d a => Sys2Proof.Machine.execAadd d a s
  | .roundStart core => Sys2Proof.Machine.execRoundStart core s
  | .waitLimit slot => Sys2Proof.Machine.execWaitLimit slot s
  | .pendingResultWrite task op => Sys2Proof.Machine.execPendingResultWrite task op s
  | .icacheFill core line => Sys2Proof.Machine.execIcacheFill core line s
  | .tlbMiss slot va acc => Sys2Proof.Machine.execTlbMiss slot va acc s
  | .regfileLower core => Sys2Proof.Machine.execRegfileLower core s
  | .regfileWake core => Sys2Proof.Machine.execRegfileWake core s
  | .trapEntry slot => Sys2Proof.Machine.execTrapEntry slot s
  | .quarantineDone slot => Sys2Proof.Machine.execQuarantineDone slot s
  | .preemptionRequest slot => Sys2Proof.Machine.execPreemptionRequest slot s
  | .preemptionComplete slot => Sys2Proof.Machine.execPreemptionComplete slot s
  | .resumption task slot => Sys2Proof.Machine.execResumption task slot s
  | .chunkValidate slot => Sys2Proof.Machine.execChunkValidate slot s
  | .chunkCommit slot => Sys2Proof.Machine.execChunkCommit slot s
  | .chunkDiscard slot => Sys2Proof.Machine.execChunkDiscard slot s
  | .heldChunkReserve slot => Sys2Proof.Machine.execHeldChunkReserve slot s
  | .remoteNearArrival req => Sys2Proof.Machine.execRemoteNearArrival req s
  | .globalAtomicExecute task op => Sys2Proof.Machine.execGlobalAtomicExecute task op s
  | .fpEvent slot => Sys2Proof.Machine.execFpEvent slot s
  | .latheWordIssue slot => Sys2Proof.Machine.execLatheWordIssue slot s
  | .latheWordResult slot => Sys2Proof.Machine.execLatheWordResult slot s
  | .matrixOpStart core => Sys2Proof.Machine.execMatrixOpStart core s
  | .matrixOpComplete core op => Sys2Proof.Machine.execMatrixOpComplete core op s
  | .remoteMatrixArrival req => Sys2Proof.Machine.execRemoteMatrixArrival req s
  | .swaptMatch slot => Sys2Proof.Machine.execSwaptMatch slot s
  | .dieBarrierArrival req => Sys2Proof.Machine.execDieBarrierArrival req s
  | .barrierDeadline kernel home bar => Sys2Proof.Machine.execBarrierDeadline kernel home bar s
  | .graphUnitReceive req => Sys2Proof.Machine.execGraphUnitReceive req s
  | .kernelReady kernel => Sys2Proof.Machine.execKernelReady kernel s
  | .placementStart kernel => Sys2Proof.Machine.execPlacementStart kernel s
  | .placementEnd kernel => Sys2Proof.Machine.execPlacementEnd kernel s
  | .taskDispatch quad => Sys2Proof.Machine.execTaskDispatch quad s
  | .classPreempt quad => Sys2Proof.Machine.execClassPreempt quad s
  | .kernelComplete kernel => Sys2Proof.Machine.execKernelComplete kernel s
  | .floorChange dom => Sys2Proof.Machine.execFloorChange dom s
  | .gatedSlotTake quad => Sys2Proof.Machine.execGatedSlotTake quad s
  | .ordatomBatchClose kernel chan => Sys2Proof.Machine.execOrdatomBatchClose kernel chan s
  | .seqBind cid addr => Sys2Proof.Machine.execSeqBind cid addr s
  | .seqUnbind cid addr => Sys2Proof.Machine.execSeqUnbind cid addr s
  | .drawMaxReturn cid addr pos => Sys2Proof.Machine.execDrawMaxReturn cid addr pos s
  | .drawRoot cid addr pos => Sys2Proof.Machine.execDrawRoot cid addr pos s
  | .maskDeadline cid addr pos attempt => Sys2Proof.Machine.execMaskDeadline cid addr pos attempt s
  | .quantumEnd cid => Sys2Proof.Machine.execQuantumEnd cid s
  | .quadSwitch cid => Sys2Proof.Machine.execQuadSwitch cid s
  | .recordPost kernel => Sys2Proof.Machine.execRecordPost kernel s
  | .recordToHost kernel => Sys2Proof.Machine.execRecordToHost kernel s
  | .supervisorRestart kernel entry => Sys2Proof.Machine.execSupervisorRestart kernel entry s
  | .supervisorAbandon kernel entry => Sys2Proof.Machine.execSupervisorAbandon kernel entry s
  | .supervisorSetcsr kernel entry => Sys2Proof.Machine.execSupervisorSetcsr kernel entry s
  | .supervisorUnknown kernel entry => Sys2Proof.Machine.execSupervisorUnknown kernel entry s
  | .billetStart die => Sys2Proof.Machine.execBilletStart die s
  | .engineUnit billet => Sys2Proof.Machine.execEngineUnit billet s
  | .billetDone billet => Sys2Proof.Machine.execBilletDone billet s
  | .sendRingSend cid ring => Sys2Proof.Machine.execSendRingSend cid ring s
  | .mirrorBreak => Sys2Proof.Machine.execMirrorBreak s
  | .twinHalt cid => Sys2Proof.Machine.execTwinHalt cid s
  | .moduleReset => Sys2Proof.Machine.execModuleReset s
  | .firmwareVerify => Sys2Proof.Machine.execFirmwareVerify s
  | .throttleEscalate => Sys2Proof.Machine.execThrottleEscalate s
  | .encodingNotInstruction bundle => Sys2Proof.Machine.execEncodingNotInstruction bundle s
  | .waittTimeout slot => Sys2Proof.Machine.execWaittTimeout slot s
  | .streamUnitFetch slot reg => Sys2Proof.Machine.execStreamUnitFetch slot reg s
  | .sleepWake slot => Sys2Proof.Machine.execSleepWake slot s
  | .quarantine slot code info cls => Sys2Proof.Machine.execQuarantine slot code info cls s
  | .latheCapture slot => Sys2Proof.Machine.execLatheCapture slot s
  | .classifyEnd kernel busy bytes => Sys2Proof.Machine.execClassifyEnd kernel busy bytes s
  | .hostLaunch cid msg => Sys2Proof.Machine.execHostLaunch cid msg s
  | .hostStop cid msg => Sys2Proof.Machine.execHostStop cid msg s
  | .hostSuspend cid msg => Sys2Proof.Machine.execHostSuspend cid msg s
  | .hostResume cid msg => Sys2Proof.Machine.execHostResume cid msg s
  | .hostKill cid msg => Sys2Proof.Machine.execHostKill cid msg s
  | .setPriority cid msg => Sys2Proof.Machine.execSetPriority cid msg s
  | .readJournal cid msg => Sys2Proof.Machine.execReadJournal cid msg s
  | .contextCreate msg cfg => Sys2Proof.Machine.execContextCreate msg cfg s
  | .contextChange msg cfg => Sys2Proof.Machine.execContextChange msg cfg s
  | .contextKill msg cid => Sys2Proof.Machine.execContextKill msg cid s
  | .contextDestroy msg cid => Sys2Proof.Machine.execContextDestroy msg cid s
  | .map msg cid page => Sys2Proof.Machine.execMap msg cid page s
  | .portConfig msg port use => Sys2Proof.Machine.execPortConfig msg port use s
  | .peerWindow msg cid cfg => Sys2Proof.Machine.execPeerWindow msg cid cfg s
  | .portReset msg port => Sys2Proof.Machine.execPortReset msg port s
  | .powerCap msg watts => Sys2Proof.Machine.execPowerCap msg watts s
  | .quenchLevel msg level => Sys2Proof.Machine.execQuenchLevel msg level s
  | .readSensors msg cids => Sys2Proof.Machine.execReadSensors msg cids s
  | .quote msg nonce cid => Sys2Proof.Machine.execQuote msg nonce cid s
  | .firmwareLoad msg image => Sys2Proof.Machine.execFirmwareLoad msg image s
  | .patrolRead line => Sys2Proof.Machine.execPatrolRead line s
  | .portTrainingDone port ok => Sys2Proof.Machine.execPortTrainingDone port ok s
  | .portLinkLoss port => Sys2Proof.Machine.execPortLinkLoss port s
  | .laneFail boundary => Sys2Proof.Machine.execLaneFail boundary s
  | .peerInboundPacket cid peer addr read data => Sys2Proof.Machine.execPeerInboundPacket cid peer addr read data s
  | .peerAck cid ring entry => Sys2Proof.Machine.execPeerAck cid ring entry s
  | .inboundSend cid ring data => Sys2Proof.Machine.execInboundSend cid ring data s
  | .mirrorAck count => Sys2Proof.Machine.execMirrorAck count s
  | .twinDigest kernel key index digest => Sys2Proof.Machine.execTwinDigest kernel key index digest s
  | .linksTrained => Sys2Proof.Machine.execLinksTrained s
  | .scrubComplete harvest => Sys2Proof.Machine.execScrubComplete harvest s
  | .sensorAlarm die source => Sys2Proof.Machine.execSensorAlarm die source s
  | .powerWindow milliwatts => Sys2Proof.Machine.execPowerWindow milliwatts s
  | .junctionTemperature die milliC => Sys2Proof.Machine.execJunctionTemperature die milliC s
  | .unknownCodeCommand cid msg => Sys2Proof.Machine.execUnknownCodeCommand cid msg s
  | .mirrorWriteReceive addr data mark => Sys2Proof.Machine.execMirrorWriteReceive addr data mark s

end Sys2Proof.Machine
end

