-- ==== Sys2Proof/Machine/Step.lean ====
section
/-!
DEFINITION. Step: the machine takes what its agenda names next: a slot's position in its round, an
event, or an answer of the shipped firmware. Every agent of the module moves this way (R5).
-/

namespace Sys2Proof.Machine

open Sys2Proof

/-- The issue of a bundle (R44, R48, R55 to R57, R60): a word beside a no-operation is that word's
meaning; two words issue together; what is no instruction raises its trap. -/
def issueBundle (b : BitVec 64) (s : State) : Host.Outcome State Fault Refusal :=
  match decodeBundle b with
  | .ok (c, .ok a) =>
    if a = .anop then exec c s
    else if c = .nop ⟨false, false⟩ then exec a s
    else .next (run (issue s s.cur (planOf c s) (planOf a s)) s)
  | _ => exec (.encodingNotInstruction b) s

/-- One step of the machine. -/
def step (s : State) : Host.Outcome State Fault Refusal :=
  match s.agenda with
  | [] => .next { s with now := s.now + 1 }
  | (due, .ev i) :: r => exec i { s with now := max s.now due, agenda := r }
  | (due, .walk q p) :: r => .next (run (walkAnswer q p) { s with now := max s.now due, agenda := r })
  | (due, .offer l i vs) :: r => .next (run [offerCarry l i vs] { s with now := max s.now due, agenda := r })
  | (due, .contain _ tk x) :: r => .next (run [containTask tk x] { s with now := max s.now due, agenda := r })
  | (due, .turn slot) :: _ =>
    let s' := { s with now := max s.now due, cur := slot }
    match fetch s' slot with
    | .error l => .next (run l s')
    | .ok b => arbitrate s' slot (issueBundle b)

/-- The state in which one instruction of the table of operations is about to issue: its bundle is
the text of a kernel whose thread stands in slot 0 of core 0 with its position due (log 2). -/
def State.withFetchWord (s : State) (nbits w : Nat) : State := placed s (tableBundle nbits w)

end Sys2Proof.Machine
end

