-- ==== Sys2Proof/Safety.lean ====
section
/-!
DEFINITION. Safety: what a safe run is, in the terms that statements use. A step of this machine faults only where
a word issues from a slot that holds no thread; a trap is no fault, it is taken. Then the conditions under which a
bundle's words alone decide what its issue does, and the plain changes from which statements build the next state.
-/

namespace Sys2Proof

/-- A run of any length from a state meets neither a fault nor a refusal. -/
def Safe (s : Machine.State) : Prop := ∀ n : Nat, ∃ t : Machine.State, core.run n s = .next t

/-- A state that some number of steps reaches from another. -/
def Reaches (s t : Machine.State) : Prop := ∃ n : Nat, core.run n s = .next t

/-- A property that every step keeps. -/
def Kept (p : Machine.State → Prop) : Prop :=
  ∀ s t : Machine.State, p s → Machine.step s = .next t → p t

namespace Machine

/-- What every step keeps: memory stands in its canonical form, what is scheduled stands in the order of its cycles, no
word was last written by a chunk that has not committed (R145, R146), and the journal's entries carry the numbers 1, 2,
3 and on without a gap, the next entry taking the next one (R328). -/
structure Inv (s : State) : Prop where
  memory : Memory.wf s.mem = true
  due : s.agenda.Pairwise (fun x y => x.1 ≤ y.1)
  words : Tab.rising s.lastWrite = true
  committed : ∀ c ∈ s.lastWrite, c.2 ≤ s.commits
  next : s.jsn = s.journal.length + 1
  numbered : s.journal.map (·.jsn) = upto 1 s.journal.length

/-- The thread whose bundle issues. -/
abbrev me (s : State) : Thread := thr s s.cur

/-- Nothing but the words of the bundle is at work in the slot whose position it is: the slot is in the rotation, no
register is pending, the lathe is idle, no floating-point event waits, the thread has no redundant partner, and the
chunk does not reach a limit with this bundle (R66, R71, R141, R185, R186, R377). -/
structure Clear (s : State) : Prop where
  held : occupied s s.cur = true
  turn : (me s).st = .ready ∨ (me s).st = .trapped
  quiet : (me s).pend = []
  idle : (me s).arch.lathe.st = .idle
  unset : (me s).arch.lathe.set = []
  noEvent : (me s).raised = 0
  alone : (me s).partner = none
  room : (me s).chunk.bundles < 511
  stores : (me s).chunk.nst < 31

/-- A register field that is x0, a hearth register, or a window register in place, with no stream bound to it (R53,
R101, R124). -/
def Plain (s : State) (f : Nat) : Prop :=
  (me s).arch.strm f = none ∧ (f = 0 ∨ 112 ≤ f ∨ (f < (me s).arch.t ∧ f < (me s).limit))

/-- A plain field that may be written: a hearth register only where R105 allows it. -/
def Dest (s : State) (f : Nat) : Prop :=
  Plain s f ∧ (f < 112 ∨ determ s s.cur = false ∨ (me s).arch.priv ≠ .user)

/-- A window register that may be a destination: plain, and neither x0 nor a hearth register. -/
def InWindow (s : State) (f : Nat) : Prop := Plain s f ∧ f ≠ 0 ∧ f < 112

/-! ## The next state, built from plain changes -/

/-- The thread of the current slot changes. -/
def onMe (s : State) (f : Thread → Thread) : State := { s with o := { s.o with slots := tabUpd s.o.slots s.cur f } }

/-- The position is used up. -/
def taken (s : State) : State := { s with agenda := agendaDone s.agenda s.now s.cur }

/-- A register field takes a value: x0 discards it, a hearth register belongs to the core (R53, R104). -/
def put (s : State) (f : Nat) (v : Word) : State :=
  if f = 0 then s
  else if 112 ≤ f then { s with o := { s.o with cores := tabMod s.o.cores (coreOf s.cur) {} (fun c =>
    { c with hearth := tabMod c.hearth (f - 112) {} (hearthWrite s.now v) }) } }
  else onMe s (fun t => { t with arch := t.arch.setReg f v })

/-- A predicate takes a value; k0 discards it (R106). -/
def putPred (s : State) (k : Nat) (v : BitVec 16) : State := onMe s (fun t => { t with arch := t.arch.setPred k v })

/-- Flags are raised; those that FXMASK enables make an event (R41, R185). -/
def putFlags (s : State) (fl : BitVec 5) : State :=
  if fl = 0 then s else onMe s (fun t =>
    { t with arch := { t.arch with fxflags := t.arch.fxflags ||| fl }, raised := t.raised ||| (fl &&& (me s).fxmask) })

/-- The bundle is counted and the PC moves; `lost` positions are lost afterwards (R70, R80, R87, R141). -/
def stepped (npc : Option (BitVec 64)) (lost : Nat) (t : Thread) : Thread :=
  { t with
    arch := { t.arch with pc := npc.getD (t.arch.pc + 8) }
    turns := t.turns + 1, grant := none, fault := none, mark := false, reclaimed := false, waited := 0
    skip := t.skip + lost
    chunk := { t.chunk with bundles := t.chunk.bundles + 1 } }

/-- With the switch marker a slot parks where a register is pending (R72). -/
def marked (s : State) (mark : Bool) : State :=
  if mark && anyPending (me s) then onMe s parked else s

/-- An enabled floating-point event is taken at the bundle's boundary (R185). -/
def boundary (s : State) : State :=
  if (me s).raised = 0 then s else { s with agenda := agendaAdd s.agenda s.now (.ev (.fpEvent s.cur)) }

/-- The end of a bundle in an open chunk: PC, TURNS and the chunk's count, the marker and the boundary. 256 numbers of
the counter of free values are used up. -/
def finished (s : State) (mark : Bool) (npc : Option (BitVec 64) := none) (lost : Nat := 0) : State :=
  let u := boundary (marked (onMe s (stepped npc lost)) mark)
  { u with fresh := u.fresh + 256 }

/-- A long instruction marks its destinations pending; its result arrives within a bound (R71). -/
def pended (s : State) (dests : List Nat) (pred : Option Nat) (op : PendOp) (bound : Nat) : State :=
  { onMe s (fun t => { t with pend := t.pend ++ [{ id := s.fresh, dests := dests, pred := pred, op := op }] }) with
    agenda := agendaAdd s.agenda (s.now + lat s (ctxOf s s.cur) 0 bound) (.ev (.pendingResultWrite (me s).task s.fresh))
    fresh := s.fresh + 1 }

/-- A chunk that has done nothing that waits for its commit: no global access, no spawn, stamp, nest, barrier, loop, table
write or append (R143, R144). -/
structure Blank (c : Chunk) : Prop where
  opened : c.st = .opened
  spawns : c.spawns = []
  stamp : c.tstamp = none
  nests : c.nests = []
  bar : c.bar = none
  loop : c.gloop = none
  table : c.l2p = []
  landed : c.landed = []
  free : c.resvd = false

/-- The chunk of the current slot commits, with nothing buffered, and the next one begins: shadows take the current
values (R106, R110, R141). -/
def renewed (s : State) : State := run [shadowsDone s.cur] s

/-- A slot whose next trap is delivered to its own handler (R65, R77, R78, R230). -/
structure Deliverable (s : State) : Prop where
  clear : Clear s
  blank : Blank (me s).chunk
  outer : nested s s.cur = false

/-- The trap is taken: the bundle has no effect, the chunk ends, and the thread enters its handler (R77). -/
def delivered (s : State) (tr : Trap) (pc : BitVec 64) : State :=
  onMe (renewed (onMe (taken s) (fun t => { t with grant := none, fault := none, after := .trap tr pc })))
    (trapEntered tr pc)

/-- The bundle raises a trap, which is delivered with the bundle's address. -/
def Raises (s : State) (i : Instr) (tr : Trap) : Prop := exec i s = .next (delivered s tr (me s).arch.pc)

/-- The end of a bundle that is a chunk point: the chunk ends after it too (R141, R142). -/
def pointed (s : State) (mark : Bool) (npc : Option (BitVec 64) := none) (lost : Nat := 0) : State :=
  let w := renewed (onMe s (fun t => let u := stepped npc lost t
    { u with chunk := { u.chunk with firm := true }, after := .nothing }))
  let u := boundary (marked (boundary w) mark)
  { u with fresh := u.fresh + 256 }

/-- The bundle of a C-word beside ANOP takes effect as its plan says: the plan's stages, then the end of the bundle. -/
def Acts (s : State) (i : Instr) (p : Plan) : Prop :=
  exec i s = .next (run (effects s.cur p idle) (taken s))

/-- The bundle of an A-word beside NOP takes effect as its plan says. -/
def ActsA (s : State) (i : Instr) (p : Plan) : Prop :=
  exec i s = .next (run (effects s.cur idle p) (taken s))

/-- A chunk point takes effect as its plan says, after the commit of the chunk before it (R141, R142). -/
def PointActs (s : State) (i : Instr) (p : Plan) : Prop :=
  exec i s = .next (run (commitChunk s.cur :: effects s.cur { p with point := true } idle) (taken s))

/-- The bundle has no effect yet: its slot sleeps, after what is done first (R74). -/
def Sleeps (s : State) (i : Instr) (w : Wait) (first : List Stage) : Prop :=
  exec i s = .next (run (first ++ [sleepOn s.cur w, eff [.draw 256]]) (taken s))

/-- An event takes place as a run of the named changes, in their order (R7). -/
def Happens (s : State) (i : Instr) (l : List Stage) : Prop := exec i s = .next (run l s)

/-- An event changes nothing: what it concerns is not as its rule asks. -/
def Nothing (s : State) (i : Instr) : Prop := exec i s = .next s

/-- A slot of which nothing is under way, whose chunk a chunk point ends without the arbiter: it has no global access, and
there is room for the tasks that it creates (R143, R262). -/
structure AtPoint (s : State) : Prop where
  clear : Clear s
  opened : (me s).chunk.st = .opened
  room : roomToCreate s s.cur .nothing = true

/-- Bytes are stored at a location; a line that they cover whole is no longer poisoned (R350, R357). -/
def stored (s : State) (loc : Nat) (bs : List Byte) : State := (storeMarked s loc bs).foldl Eff.apply s

end Machine

end Sys2Proof
end

