-- ==== Sys2Proof/Certificates/Slice0/Obligations.lean ====
section
/-!
DEFINITION. Obligations: the statements for the provers. What a rule says a word computes is written here once more
with plain bit-vector arithmetic, apart from the model's own definitions.
-/

open Sys2Proof Sys2Proof.Machine

namespace Sys2Proof.Says

/-! ## Scalar results (R128) -/

/-- The low 32 bits. -/
def low32 (x : Word) : BitVec 32 := x.setWidth 32

/-- A result of type t written to a register: s32 is sign-extended to 64 bits, n32 zero-extended, and bits 127:64 are
zero. -/
def result (t : BitVec 2) (v32 : BitVec 32) (v64 : BitVec 64) : Word :=
  if t = 0 then (v32.signExtend 64).setWidth 128 else if t = 1 then v32.setWidth 128 else v64.setWidth 128

/-- A result that treats signed and unsigned types alike. -/
def alike (f32 : BitVec 32 → BitVec 32 → BitVec 32) (f64 : BitVec 64 → BitVec 64 → BitVec 64) (t : BitVec 2)
    (x y : Word) : Word := result t (f32 (low32 x) (low32 y)) (f64 (lo64 x) (lo64 y))

/-- A result by the signedness of t: types 0 and 2 are signed, 1 and 3 unsigned. -/
def bySign (s32 n32 : BitVec 32 → BitVec 32 → BitVec 32) (s64 n64 : BitVec 64 → BitVec 64 → BitVec 64) (t : BitVec 2)
    (x y : Word) : Word :=
  if t.getLsbD 0 then alike n32 n64 t x y else alike s32 s64 t x y

def add := alike (· + ·) (· + ·)
def sub := alike (· - ·) (· - ·)
def mul := alike (· * ·) (· * ·)
/-- The exact product shifted right by W. -/
def mulh := bySign (fun x y => ((x.signExtend 64 * y.signExtend 64) >>> 32).setWidth 32)
  (fun x y => ((x.setWidth 64 * y.setWidth 64) >>> 32).setWidth 32)
  (fun x y => ((x.signExtend 128 * y.signExtend 128) >>> 64).setWidth 64)
  (fun x y => ((x.setWidth 128 * y.setWidth 128) >>> 64).setWidth 64)
def div := bySign BitVec.sdiv BitVec.udiv BitVec.sdiv BitVec.udiv
def rem := bySign BitVec.srem BitVec.umod BitVec.srem BitVec.umod
def and := alike (· &&& ·) (· &&& ·)
def or := alike (· ||| ·) (· ||| ·)
def xor := alike (· ^^^ ·) (· ^^^ ·)
def shl := alike (fun x y => x <<< (y.toNat % 32)) (fun x y => x <<< (y.toNat % 64))
def shr := alike (fun x y => x >>> (y.toNat % 32)) (fun x y => x >>> (y.toNat % 64))
def sar := alike (fun x y => x.sshiftRight (y.toNat % 32)) (fun x y => x.sshiftRight (y.toNat % 64))
def rot := alike (fun x y => x.rotateLeft (y.toNat % 32)) (fun x y => x.rotateLeft (y.toNat % 64))
def min := bySign (fun x y => if x.sle y then x else y) (fun x y => if x.ule y then x else y)
  (fun x y => if x.sle y then x else y) (fun x y => if x.ule y then x else y)
def max := bySign (fun x y => if x.sle y then y else x) (fun x y => if x.ule y then y else x)
  (fun x y => if x.sle y then y else x) (fun x y => if x.ule y then y else x)
def abs := bySign (fun x _ => if x.msb then -x else x) (fun x _ => x) (fun x _ => if x.msb then -x else x) (fun x _ => x)
def neg := alike (fun x _ => -x) (fun x _ => -x)
def clz := alike (fun x _ => x.clz) (fun x _ => x.clz)
def popc := alike (fun x _ => x.cpop) (fun x _ => x.cpop)
def brev := alike (fun x _ => x.reverse) (fun x _ => x.reverse)
def mov := alike (fun x _ => x) (fun x _ => x)

/-- The position p of a bit field. -/
def pos {w : Nat} (b : BitVec w) : Nat := b.toNat % 256
/-- The length n of a bit field. -/
def len {w : Nat} (b : BitVec w) : Nat := Nat.min (b.toNat / 256 % 256) w
/-- The field of A; bits at positions W and above read as bit W−1 where `x` extends the sign. -/
def bfx := bySign
  (fun x y => ((x.signExtend 512).extractLsb' (pos y) (len y)).signExtend 32)
  (fun x y => ((x.setWidth 512).extractLsb' (pos y) (len y)).setWidth 32)
  (fun x y => ((x.signExtend 512).extractLsb' (pos y) (len y)).signExtend 64)
  (fun x y => ((x.setWidth 512).extractLsb' (pos y) (len y)).setWidth 64)
/-- D with bits p to p+n−1 replaced by the low n bits of A. -/
def insert {w : Nat} (d x y : BitVec w) : BitVec w :=
  let mask := ((BitVec.allOnes (len y)).setWidth 512 <<< pos y)
  ((d.setWidth 512 &&& ~~~mask) ||| ((x.setWidth (len y)).setWidth 512 <<< pos y)).setWidth w
def bfi (t : BitVec 2) (d x y : Word) : Word :=
  result t (insert (low32 d) (low32 x) (low32 y)) (insert (lo64 d) (lo64 x) (lo64 y))

/-! ## What an A-word with one result does -/

/-- The word writes the value to X[d], and the bundle ends: nothing else changes. -/
def Writes (s : State) (i : Instr) (d : BitVec 7) (v : Word) : Prop :=
  exec i s = .next (finished (put (taken s) d.toNat v) false)

/-- A scalar word of two sources. -/
def Scalar2 (i : BitVec 7 → BitVec 7 → BitVec 7 → BitVec 2 → Instr) (v : BitVec 2 → Word → Word → Word) : Prop :=
  ∀ (s : State) (d a b : BitVec 7) (t : BitVec 2), Clear s → Dest s d.toNat → Plain s a.toNat → Plain s b.toNat →
    Writes s (i d a b t) d (v t (rd s s.cur a.toNat) (rd s s.cur b.toNat))

/-- A scalar word of one source. -/
def Scalar1 (i : BitVec 7 → BitVec 7 → BitVec 2 → Instr) (v : BitVec 2 → Word → Word → Word) : Prop :=
  ∀ (s : State) (d a : BitVec 7) (t : BitVec 2), Clear s → Dest s d.toNat → Plain s a.toNat →
    Writes s (i d a t) d (v t (rd s s.cur a.toNat) 0)

/-- An immediate form. -/
def Immediate (i : BitVec 7 → BitVec 7 → BitVec 11 → Instr) (ok : BitVec 11 → Bool)
    (v : BitVec 64 → BitVec 64 → BitVec 64) : Prop :=
  ∀ (s : State) (d a : BitVec 7) (imm : BitVec 11), Clear s → Dest s d.toNat → Plain s a.toNat → ok imm = true →
    Writes s (i d a imm) d ((v (rd64 s s.cur a.toNat) (imm.signExtend 64)).setWidth 128)

/-- Is the low W bits' value zero? -/
def isZero (t : BitVec 2) (y : Word) : Prop := if t.getLsbD 1 then lo64 y = 0 else low32 y = 0

/-- What KOP puts into its predicate (R134). -/
def kop (c : BitVec 3) (x y : BitVec 16) : BitVec 16 :=
  if c = 0 then x &&& y else if c = 1 then x ||| y else if c = 2 then x ^^^ y else if c = 3 then x &&& ~~~y
  else if c = 4 then ~~~x else if c = 5 then x else if c = 6 then BitVec.allOnes 16 else 0

/-- All sixteen bits of a predicate. -/
def all16 (b : Bool) : BitVec 16 := if b then BitVec.allOnes 16 else 0

/-! ## Memory words -/

/-- R152 of a near load: X[d] takes the bytes at the place, at once where the own TCM or quad holds it, and by a request
on its way, with X[d] pending, where another quad does. -/
def NearLoad (i : Instr) (m : Bool) (d b : BitVec 7) (sz : BitVec 3) (ob : Int) : Prop :=
  ∀ (s : State) (ea : Nat) (p : NearAt), Clear s → Dest s d.toNat → Plain s b.toNat →
    nearOperand s s.cur (rd64 s s.cur b.toNat) ob = .ok (ea, p) →
    let n := sizeBytes sz.toNat
    (ea % n = 0 → raceTrap s s.cur p.loc ea n false = none →
      (p.remote = false → nearPoison s p.loc n = none →
        Acts s i { dests := destOf d.toNat, mark := m, stages := [raceMark s.cur p.loc n false,
          nearRead p.loc n, wr s.cur d.toNat (loadValue sz.toNat (lookBytes s p.loc n))] }) ∧
      (p.remote = true → d.toNat < 112 →
        Acts s i { dests := destOf d.toNat, mark := m, stages := [raceMark s.cur p.loc n false,
          sendNear s.cur p.loc ea (.load sz) [d.toNat] true] })) ∧
    (Deliverable s → ea % n ≠ 0 → (p.remote = true → d.toNat < 112) → Raises s i (nTrap .align ea))

/-- R153 of a near store: a chunk point that stores the low bytes of X[v]; in a speculative iteration only the own TCM
may be stored to (R151). -/
def NearStore (i : Instr) (m : Bool) (v b : BitVec 7) (sz : BitVec 3) (ob : Int) : Prop :=
  ∀ (s : State) (ea : Nat) (p : NearAt), AtPoint s → Plain s v.toNat → Plain s b.toNat →
    nearOperand s s.cur (rd64 s s.cur b.toNat) ob = .ok (ea, p) →
    let n := sizeBytes sz.toNat
    let bs := bytesOf n (rd s s.cur v.toNat).toNat
    (speculative s s.cur = true → locScratch p.loc = false) →
    (ea % n = 0 → raceTrap s s.cur p.loc ea n true = none →
      PointActs s i { mark := m, stages := [raceMark s.cur p.loc n true,
        if p.remote then sendNear s.cur p.loc ea (.store bs) [] false
        else seqS [nearRead p.loc n, fun s => storeMarked s p.loc bs]] }) ∧
    (Deliverable s → ea % n ≠ 0 → Raises s i (nTrap .align ea))

/-- A near address that R137 refuses. -/
def NearRefused (i : Instr) (d b : BitVec 7) (ob : Int) : Prop :=
  ∀ (s : State) (tr : Trap), Deliverable s → Dest s d.toNat → Plain s b.toNat →
    nearOperand s s.cur (rd64 s s.cur b.toNat) ob = .error tr → Raises s i tr

/-- R149, R152 of a global load: X[d] is pending until the owning slice serves it; a tracked load enters the read
signature. -/
def GlobalLoad (tracked : Bool) (i : Instr) (m : Bool) (d b : BitVec 7) (sz : BitVec 3) (ob : Int) : Prop :=
  ∀ (s : State) (ea loc : Nat) (e : BitVec 128), Clear s → Dest s d.toNat → d.toNat < 112 → Plain s b.toNat →
    globalOperand (rd64 s s.cur b.toNat) ob = .ok ea → Machine.translate s s.cur ea .read = .hit loc e →
    let n := sizeBytes sz.toNat
    let r := relOf s s.cur ea
    let sees := tracked && tracks s s.cur r
    (ea % n = 0 → regionLoadTrap ea r = none → regionWait s ea r = none →
      (sees = true → reducedHere (me s).chunk loc n = false) →
      Acts s i { dests := destOf d.toNat, mark := m, stages := [
        if sees then eff [onChunk s.cur (fun c => c.addRead loc n (ea / 65536))] else skip,
        loadIn s.cur d.toNat loc sz (seenBytes s s.cur ea loc n) ea sees] }) ∧
    (Deliverable s → ea % n ≠ 0 → Raises s i (nTrap .align ea))

/-- R146, R153 of a global store: its bytes enter the chunk's buffer and write signature; an iteration's store into its
own append record lands in place (R285). -/
def GlobalStore (i : Instr) (m : Bool) (v b : BitVec 7) (sz : BitVec 3) (ob : Int) : Prop :=
  ∀ (s : State) (ea loc : Nat) (e : BitVec 128), Clear s → guessing s s.cur = false → Plain s v.toNat → Plain s b.toNat →
    globalOperand (rd64 s s.cur b.toNat) ob = .ok ea →
    let r := relOf s s.cur ea
    let n := sizeBytes sz.toNat
    let bs := bytesOf n (rd s s.cur v.toNat).toNat
    Machine.translate s s.cur ea (if r = .mine then .append else .write) = .hit loc e →
    (ea % n = 0 → regionStoreTrap s s.cur ea r = none →
      Acts s i { mark := m, stages := [if r = .mine then appendStore s.cur loc ea bs
        else eff [onChunk s.cur (fun c => c.addStore loc bs (ea / 65536))]] }) ∧
    (Deliverable s → ea % n ≠ 0 → Raises s i (nTrap .align ea))

/-- What a global word meets where its address leaves 55 bits, the TLB refuses it, or the TLB misses (R32, R152, R343). -/
def GlobalRefused (i : Instr) (mayIssue : State → Prop) (d b : BitVec 7) (ob : Int) (n : Nat) (a : State → Nat → Acc) :
    Prop :=
  ∀ (s : State), Clear s → mayIssue s → Dest s d.toNat → d.toNat < 112 → Plain s b.toNat →
    (∀ tr : Trap, Deliverable s → globalOperand (rd64 s s.cur b.toNat) ob = .error tr → Raises s i tr) ∧
    (∀ ea : Nat, globalOperand (rd64 s s.cur b.toNat) ob = .ok ea → ea % n = 0 →
      (∀ tr : Trap, Deliverable s → Machine.translate s s.cur ea (a s ea) = .trap tr → Raises s i tr) ∧
      (Machine.translate s s.cur ea (a s ea) = .miss ea (a s ea) →
        exec i s = .next (run [sendMiss s.cur ea (a s ea)] (taken s))))

/-! ## Vector words -/

/-- A vector word writes X[d] and raises flags; each lane that meets the normaliser costs a position (R43, R164). -/
def Vec (s : State) (i : Instr) (d : BitVec 7) (o : VOut) : Prop :=
  exec i s = .next (finished (putFlags (put (taken s) d.toNat o.out) o.flags) false none o.slow)

/-- What a lane-wise word gives: lane j of X[d] is the j-th result, the flags are those of all lanes, and where the
lanes meet the normaliser, FTZ being 0, one position is lost for each lane with a subnormal operand or result. -/
def Lanewise (s : State) (i : Instr) (d : BitVec 7) (f : Nat) (norm : Bool) (srcs : List Word)
    (g : Nat → Nat × BitVec 5) : Prop :=
  ∃ o : VOut, Vec s i d o ∧ (∀ j < 128 / codeWidth f, lane (codeWidth f) o.out j = (g j).1 % 2 ^ codeWidth f) ∧
    o.flags = orFlags ((upto 0 (128 / codeWidth f)).map (fun j => (g j).2)) ∧
    o.slow = (if norm = true ∧ (me s).arch.round.getLsbD 3 = false then
      ((upto 0 (128 / codeWidth f)).filter (fun j =>
        isSubnormal f (g j).1 || srcs.any (fun x => isSubnormal f (laneElem f x j)))).length else 0)

/-- Two lanes' order by the type's signedness: taper patterns compare as signed integers (R24). -/
def laneLe (f x y : Nat) : Bool :=
  if isInt f && !isSigned f then decide (x % 2 ^ elemBits f ≤ y % 2 ^ elemBits f)
  else decide (signed (elemBits f) x ≤ signed (elemBits f) y)

/-- VMIN and VMAX of one lane (R167). -/
def extremum (f : Nat) (r : BitVec 4) (least : Bool) (x y : Nat) : Nat × BitVec 5 :=
  if isInt f || isTaper f then (if laneLe f x y == least then x else y, 0)
  else roundLane f r (minmaxNum least (decodeNum f x (ftzOf r)) (decodeNum f y (ftzOf r)))

/-- VABS of one lane (R168). -/
def absLane (f x : Nat) : Nat :=
  let w := elemBits f
  if isInt f then (if isSigned f && x.testBit (w - 1) then 2 ^ w - x else x)
  else if isTaper f then (if x.testBit (w - 1) then 2 ^ w - x else x) else x % 2 ^ (w - 1)

/-- VNEG of one lane (R168). -/
def negLane (f x : Nat) : Nat :=
  let w := elemBits f
  if isInt f || isTaper f then 2 ^ w - x else Nat.xor x (2 ^ (w - 1))

/-- A number held between two bounds. -/
def between (low high x : Int) : Int := if x < low then low else if high < x then high else x

/-- The sum of a list. -/
def sum (l : List Int) : Int := l.foldl (· + ·) 0

/-- A long word of the special-function unit: X[d] and its flags arrive within 12 cy, lane by lane (R174). -/
def Sfu (s : State) (i : Instr) (d : BitVec 7) (g : Nat → Nat × BitVec 5) : Prop :=
  ∃ w : Word, (∀ j < 4, lane 32 w j = (g j).1 % 2 ^ 32) ∧
    exec i s = .next (finished (pended (taken s) [d.toNat] none (.value [w] none (orFlags ((upto 0 4).map (fun j => (g j).2)))) 12)
      false)

/-! ## Sequences -/

/-- The register value names a sequence's record that the core has cached: the record is aligned, its page is in the TLB,
and the sequence is bound (R293). -/
structure Cached (s : State) (v : Dword) (key : Nat) (q : Seq) : Prop where
  aligned : bits v 54 0 % 256 = 0
  mapped : ∃ loc e, Machine.translate s s.cur (bits v 54 0) .read = .hit loc e
  named : key = seqKey (ctxOf s s.cur) (bits v 54 0)
  held : (Machine.core s (coreOf s.cur)).sids.contains key = true
  bound : tabGet s.o.seqs key = some q

end Sys2Proof.Says

open Sys2Proof.Says

/-- R128: the twenty short words compute the table's results; the next state differs in X[d] and the bundle's end
alone. -/
def Sys2Proof.Says.ShortScalarWords : Prop :=
  Scalar2 .add Says.add ∧ Scalar2 .sub Says.sub ∧ Scalar2 .mul Says.mul ∧ Scalar2 .mulh Says.mulh ∧
  Scalar2 .and Says.and ∧ Scalar2 .or Says.or ∧ Scalar2 .xor Says.xor ∧ Scalar2 .shl Says.shl ∧
  Scalar2 .shr Says.shr ∧ Scalar2 .sar Says.sar ∧ Scalar2 .rot Says.rot ∧ Scalar2 .min Says.min ∧
  Scalar2 .max Says.max ∧ Scalar2 .bfx Says.bfx ∧ Scalar1 .abs Says.abs ∧ Scalar1 .neg Says.neg ∧
  Scalar1 .clz Says.clz ∧ Scalar1 .popc Says.popc ∧ Scalar1 .brev Says.brev ∧ Scalar1 .mov Says.mov ∧
  (∀ (s : State) (d a b : BitVec 7) (t : BitVec 2), Clear s → Dest s d.toNat → Plain s a.toNat → Plain s b.toNat →
    Writes s (.bfi d a b t) d (bfi t (rd s s.cur d.toNat) (rd s s.cur a.toNat) (rd s s.cur b.toNat)))

/-- R128, R129, R71: DIV and REM mark X[d] pending with the truncated quotient or the remainder; a zero divisor raises
DIV0 with the b field, and nothing becomes pending. -/
def Sys2Proof.Says.DivideWords : Prop :=
  (∀ (s : State) (d a b : BitVec 7) (t : BitVec 2), Clear s → Dest s d.toNat → d.toNat < 112 → Plain s a.toNat →
    Plain s b.toNat → ¬ isZero t (rd s s.cur b.toNat) →
    exec (.div d a b t) s = .next (finished (pended (taken s) [d.toNat] none
      (.value [Says.div t (rd s s.cur a.toNat) (rd s s.cur b.toNat)] none 0) 40) false) ∧
    exec (.rem d a b t) s = .next (finished (pended (taken s) [d.toNat] none
      (.value [Says.rem t (rd s s.cur a.toNat) (rd s s.cur b.toNat)] none 0) 40) false)) ∧
  (∀ (s : State) (d a b : BitVec 7) (t : BitVec 2), Deliverable s → Dest s d.toNat → d.toNat < 112 → Plain s a.toNat →
    Plain s b.toNat → isZero t (rd s s.cur b.toNat) →
    Raises s (.div d a b t) (nTrap .div0 b.toNat) ∧ Raises s (.rem d a b t) (nTrap .div0 b.toNat))

/-- R128: every scalar word computes the table's result in X[d]; DIV and REM are long and trap on a zero divisor. -/
def Obligations.ScalarWordsComputeTheirTable : Prop := Says.ShortScalarWords ∧ Says.DivideWords

/-- R130: the immediate forms. -/
def Sys2Proof.Says.ImmediateForms : Prop :=
  Immediate .addi (fun _ => true) (· + ·) ∧ Immediate .andi (fun _ => true) (· &&& ·) ∧
  Immediate .ori (fun _ => true) (· ||| ·) ∧ Immediate .xori (fun _ => true) (· ^^^ ·) ∧
  Immediate .shli (fun n => decide (n.toNat ≤ 63)) (fun x n => x <<< n.toNat) ∧
  Immediate .shri (fun n => decide (n.toNat ≤ 63)) (fun x n => x >>> n.toNat) ∧
  Immediate .sari (fun n => decide (n.toNat ≤ 63)) (fun x n => x.sshiftRight n.toNat) ∧
  (∀ (s : State) (d a : BitVec 7) (imm : BitVec 11), Deliverable s → 63 < imm.toNat →
    Raises s (.shli d a imm) (bTrap s s.cur .illegal) ∧ Raises s (.shri d a imm) (bTrap s s.cur .illegal) ∧
    Raises s (.sari d a imm) (bTrap s s.cur .illegal))

/-- R127: the literal, sign-extended, or in bits 63:32 over what X[d] holds. -/
def Sys2Proof.Says.MoviWords : Prop :=
  ∀ (s : State) (m : Bool) (d : BitVec 7) (lit : BitVec 32), Clear s → Dest s d.toNat →
    exec (.movi m d lit) s = .next (finished (put (taken s) d.toNat ((lit.signExtend 64).setWidth 128)) m) ∧
    exec (.moviHi m d lit) s =
      .next (finished (put (taken s) d.toNat ((lit ++ low32 (rd s s.cur d.toNat)).setWidth 128)) m)

/-- R130: the immediate forms compute on s64, with ILLEGAL for a shift by more than 63; MOVI loads its literal (R127). -/
def Obligations.ImmediateFormsComputeOnS64 : Prop := Says.ImmediateForms ∧ Says.MoviWords

/-- R131: pointer arithmetic, with TAG where an address leaves its 55 bits or a tag value is none. -/
def Obligations.PointerWordsMoveAddressesAndTags : Prop :=
  (∀ (s : State) (d a b : BitVec 7), Clear s → Dest s d.toNat → Plain s a.toNat → Plain s b.toNat →
    let x := rd64 s s.cur a.toNat
    let y := rd64 s s.cur b.toNat
    let sum : Int := ((x.setWidth 55).toNat : Int) + y.toInt
    (0 ≤ sum → sum < 2 ^ 55 →
      Writes s (.padd d a b) d ((x.extractLsb' 55 9 ++ BitVec.ofInt 55 sum).setWidth 128)) ∧
    ((sum < 0 ∨ 2 ^ 55 ≤ sum) → Deliverable s → Raises s (.padd d a b) ⟨.tag, x⟩) ∧
    ((bits y 8 4 < 20 ∧ (bits y 8 4 = 0 → bits y 3 1 = 0)) →
      Writes s (.pset d a b) d ((y.setWidth 9 ++ x.setWidth 55).setWidth 128)) ∧
    ((20 ≤ bits y 8 4 ∨ (bits y 8 4 = 0 ∧ bits y 3 1 ≠ 0)) → Deliverable s → Raises s (.pset d a b) ⟨.tag, y⟩) ∧
    Writes s (.pget d a) d ((x.extractLsb' 55 9).setWidth 128) ∧
    Writes s (.pdiff d a b) d (((x.setWidth 55).setWidth 64 - (y.setWidth 55).setWidth 64 : BitVec 64).setWidth 128)) ∧
  (∀ (s : State) (d a : BitVec 7) (imm : BitVec 11), Clear s → Dest s d.toNat → Plain s a.toNat →
    let x := rd64 s s.cur a.toNat
    let sum : Int := ((x.setWidth 55).toNat : Int) + imm.toInt
    (0 ≤ sum → sum < 2 ^ 55 →
      Writes s (.paddi d a imm) d ((x.extractLsb' 55 9 ++ BitVec.ofInt 55 sum).setWidth 128)) ∧
    ((sum < 0 ∨ 2 ^ 55 ≤ sum) → Deliverable s → Raises s (.paddi d a imm) ⟨.tag, x⟩))

/-- R132 to R135: comparisons write all sixteen bits of a predicate and raise their flags; KOP, SEL and KMOV. -/
def Obligations.PredicateWordsCompareAndSelect : Prop :=
  ∀ (s : State) (d a b : BitVec 7) (k c p q : BitVec 3), Clear s → Dest s d.toNat → Plain s a.toNat → Plain s b.toNat →
    let x := rd s s.cur a.toNat
    let y := rd s s.cur b.toNat
    let pr := fun (n : BitVec 3) => (me s).arch.pred n.toNat
    (∀ t : BitVec 4,
      let r := compareElem (typeFmt t.toNat) (ftzOf (me s).arch.round) c.toNat (laneElem (typeFmt t.toNat) x 0)
        (laneElem (typeFmt t.toNat) y 0)
      exec (.cmp k c a b t) s = .next (finished (putFlags (putPred (taken s) k.toNat (all16 r.1)) r.2) false)) ∧
    (∀ t : BitVec 3,
      let f := typeFmt t.toNat
      let r := compareElem f false c.toNat (laneElem f x 0) (b.signExtend (codeWidth f)).toNat
      exec (.cmpi k c a b t) s = .next (finished (putPred (taken s) k.toNat (all16 r.1)) false)) ∧
    ((Instr.kop k c p q).wf = true →
      exec (.kop k c p q) s = .next (finished (putPred (taken s) k.toNat (Says.kop c (pr p) (pr q))) false)) ∧
    Writes s (.sel d a b p) d (if (pr p).getLsbD 0 then x else y) ∧
    Writes s (.kmovToReg d p) d ((pr p).setWidth 128) ∧
    exec (.kmovToPred k a) s = .next (finished (putPred (taken s) k.toNat (x.setWidth 16)) false)

/-- R58, R59, R80 to R82: no-operations, branches on lane 0, jumps, and calls with their link in x1; a target that is
no multiple of 8 raises ALIGN (R45). -/
def Obligations.ControlFlowMovesThePc : Prop :=
  ∀ (s : State) (ls : LS), Clear s →
    let pc := (me s).arch.pc
    exec (.nop ls) s = .next (finished (taken s) ls.s) ∧
    exec .anop s = .next (finished (taken s) false) ∧
    (∀ (k : BitVec 3) (off : BitVec 20),
      let one := ((me s).arch.pred k.toNat).getLsbD 0
      let target := pc + 8 * off.signExtend 64
      exec (.br ls k off) s = .next (finished (taken s) ls.s (some (if one then target else pc + 8))) ∧
      exec (.brn ls k off) s = .next (finished (taken s) ls.s (some (if one then pc + 8 else target)))) ∧
    (∀ off : BitVec 24, exec (.jmp ls off) s = .next (finished (taken s) ls.s (some (pc + 8 * off.signExtend 64)))) ∧
    (∀ off : BitVec 24, Plain s 1 → exec (.call ls off) s =
      .next (finished (put (taken s) 1 ((pc + 8).setWidth 128)) ls.s (some (pc + 8 * off.signExtend 64)))) ∧
    (∀ a : BitVec 7, Plain s a.toNat →
      let v := rd64 s s.cur a.toNat
      (v.toNat % 8 = 0 → exec (.jmpr ls a) s = .next (finished (taken s) ls.s (some v))) ∧
      (v.toNat % 8 = 0 → Plain s 1 →
        exec (.callr ls a) s = .next (finished (put (taken s) 1 ((pc + 8).setWidth 128)) ls.s (some v))) ∧
      (v.toNat % 8 ≠ 0 → Deliverable s → Raises s (.jmpr ls a) ⟨.align, v⟩ ∧
        (Plain s 1 → Raises s (.callr ls a) ⟨.align, v⟩)))

/-- R85, R78, R65: TRAP raises SOFT with its immediate and the next bundle's address; ERET returns, and below handler
privilege it raises PRIV. -/
def Sys2Proof.Says.TrapAndEret : Prop :=
  ∀ (s : State) (ls : LS),
    (∀ imm : BitVec 10, Deliverable s →
      exec (.trap ls imm) s = .next (delivered s (nTrap .soft imm.toNat) ((me s).arch.pc + 8))) ∧
    (Clear s → mayEret (me s) = true →
      exec (.eret ls) s = .next (finished (onMe (taken s) eretDone) ls.s (some (me s).trappc))) ∧
    (Deliverable s → mayEret (me s) = false → Raises s (.eret ls) (bTrap s s.cur .priv))

/-- R83, R84: EXIT and YIELD end their chunk, and its commit ends the task or hands the slot on; EXIT is ILLEGAL while a
carry loop is open, and for an iteration that has no carry yet. -/
def Sys2Proof.Says.ExitAndYield : Prop :=
  ∀ (s : State) (ls : LS), Clear s →
    (loopOpen s s.cur = false → ((iterOf s s.cur).isSome = true → (me s).arch.carry.isSome = true) →
      Acts s (.exit ls) { mark := ls.s, ends := true, after := .exit }) ∧
    ((loopOpen s s.cur = true ∨ (iterOf s s.cur).isSome = true ∧ (me s).arch.carry = none) → Deliverable s →
      Raises s (.exit ls) (bTrap s s.cur .illegal)) ∧
    ((me s).arch.priv ≠ .handler → Acts s (.yield ls) { mark := ls.s, ends := true, after := .yield })

/-- TRAP and ERET enter and leave the handler; EXIT and YIELD end their chunk and then the task's turn. -/
def Obligations.TrapEretExitAndYield : Prop := Says.TrapAndEret ∧ Says.ExitAndYield

/-- R86, R87, R243: CSRR reads every CSR of the table; CSRW sets the writable ones, ILLEGAL before PRIV. -/
def Obligations.CsrWordsReadAndWrite : Prop :=
  ∀ (s : State) (ls : LS) (d a : BitVec 7) (c : BitVec 10), Clear s →
    (csrKnown c = true → ¬ (determ s s.cur = true ∧ (c = 0x010 ∨ c = 0x011)) → Dest s d.toNat →
      exec (.csrr ls d c) s = .next (finished (put (taken s) d.toNat ((csrValue s s.cur c.toNat).setWidth 128)) ls.s)) ∧
    (csrKnown c = false → Deliverable s → Dest s d.toNat → Raises s (.csrr ls d c) (bTrap s s.cur .illegal)) ∧
    (determ s s.cur = true → c = 0x010 ∨ c = 0x011 → Deliverable s → Dest s d.toNat →
      Raises s (.csrr ls d c) (bTrap s s.cur .determinism)) ∧
    (csrWritable c = true → Plain s a.toNat →
      let v := rd64 s s.cur a.toNat
      (csrBad c.toNat v = false → (csrHandler c = true → (me s).arch.priv ≠ .user) →
        exec (.csrw ls a c) s = .next (finished (Eff.apply (taken s) (csrSet s.cur c.toNat v)) ls.s)) ∧
      (csrBad c.toNat v = true → Deliverable s → Raises s (.csrw ls a c) (bTrap s s.cur .illegal)) ∧
      (csrBad c.toNat v = false → csrHandler c = true → (me s).arch.priv = .user → Deliverable s →
        Raises s (.csrw ls a c) (bTrap s s.cur .priv))) ∧
    (csrWritable c = false → Plain s a.toNat → Deliverable s → Raises s (.csrw ls a c) (bTrap s s.cur .illegal)) ∧
    (Plain s a.toNat →
      let v := rd64 s s.cur a.toNat
      (l2pOk s s.cur v = true → exec (.l2pdataWrite ls a) s = .next (finished (onMe (taken s) (fun t =>
        { t with chunk := { t.chunk with l2p := t.chunk.l2p ++ [(t.l2pidx, v.toNat % 2 ^ 18)] } })) ls.s)) ∧
      (l2pOk s s.cur v = false → Deliverable s → Raises s (.l2pdataWrite ls a) (bTrap s s.cur .illegal)))

/-- R152, R137, R139, R140: both forms of LD.N. -/
def Obligations.NearLoadsReadTheirBytes : Prop :=
  ∀ (m : Bool) (d b : BitVec 7) (sz : BitVec 3),
    (∀ off : BitVec 7, NearLoad (.ldN m d b sz off) m d b sz (off.toInt * (sizeBytes sz.toNat : Nat))) ∧
    (∀ lit : BitVec 32, NearLoad (.ldNLong m d b sz lit) m d b sz lit.toInt)

/-- R153, R137, R142: both forms of ST.N. -/
def Obligations.NearStoresAreChunkPoints : Prop :=
  ∀ (m : Bool) (v b : BitVec 7) (sz : BitVec 3),
    (∀ off : BitVec 7, NearStore (.stN m v b sz off) m v b sz (off.toInt * (sizeBytes sz.toNat : Nat)) ∧
      NearRefused (.stN m v b sz off) v b (off.toInt * (sizeBytes sz.toNat : Nat)) ∧
      NearRefused (.ldN m v b sz off) v b (off.toInt * (sizeBytes sz.toNat : Nat))) ∧
    (∀ lit : BitVec 32, NearStore (.stNLong m v b sz lit) m v b sz lit.toInt ∧
      NearRefused (.stNLong m v b sz lit) v b lit.toInt ∧ NearRefused (.ldNLong m v b sz lit) v b lit.toInt)

/-- R149, R152: both forms of LD.G and LDU.G. -/
def Obligations.GlobalLoadsPendUntilServed : Prop :=
  ∀ (m : Bool) (d b : BitVec 7) (sz : BitVec 3),
    (∀ off : BitVec 7, GlobalLoad true (.ldG m d b sz off) m d b sz (off.toInt * (sizeBytes sz.toNat : Nat)) ∧
      GlobalLoad false (.lduG m d b sz off) m d b sz (off.toInt * (sizeBytes sz.toNat : Nat)) ∧
      GlobalRefused (.ldG m d b sz off) (fun _ => True) d b (off.toInt * (sizeBytes sz.toNat : Nat))
        (sizeBytes sz.toNat) (fun _ _ => .read)) ∧
    (∀ lit : BitVec 32, GlobalLoad true (.ldGLong m d b sz lit) m d b sz lit.toInt ∧
      GlobalLoad false (.lduGLong m d b sz lit) m d b sz lit.toInt ∧
      GlobalRefused (.lduGLong m d b sz lit) (fun _ => True) d b lit.toInt (sizeBytes sz.toNat) (fun _ _ => .read))

/-- R146, R153, R285: both forms of ST.G, and RED.G (R158); a store to a page of the launch's text is PERM (R46). -/
def Obligations.GlobalStoresAreBuffered : Prop :=
  ∀ (m : Bool) (v b : BitVec 7) (sz : BitVec 3),
    (∀ off : BitVec 7, GlobalStore (.stG m v b sz off) m v b sz (off.toInt * (sizeBytes sz.toNat : Nat)) ∧
      GlobalRefused (.stG m v b sz off) (fun s => guessing s s.cur = false) v b (off.toInt * (sizeBytes sz.toNat : Nat))
        (sizeBytes sz.toNat) (fun s ea => if relOf s s.cur ea = .mine then .append else .write)) ∧
    (∀ lit : BitVec 32, GlobalStore (.stGLong m v b sz lit) m v b sz lit.toInt) ∧
    (∀ (s : State) (ls : LS) (op : BitVec 3) (ea loc : Nat) (e : BitVec 128), Clear s → guessing s s.cur = false →
      Plain s v.toNat → Plain s b.toNat → op.toNat ≤ 5 → globalOperand (rd64 s s.cur v.toNat) 0 = .ok ea →
      Machine.translate s s.cur ea .write = .hit loc e → ea % 8 = 0 → loopRegion s s.cur ea = none → kvRegion s s.cur ea = none →
      Acts s (.redG ls v b op) { mark := ls.s, stages := [
        eff [onChunk s.cur (fun c => c.addRed loc op.toNat (rd64 s s.cur b.toNat) (ea / 65536))]] }) ∧
    (∀ (s : State) (ea : Nat) (e : BitVec 128), tlbFind (Machine.core s (coreOf s.cur)) (ctxOf s s.cur) ea = some e →
      storesText s s.cur e .write = true → Machine.translate s s.cur ea .write = .trap (nTrap .perm ea))

/-- R209, R152: LDTR fills eight registers from eight rows, transposed. -/
def Obligations.LdtrTransposes : Prop :=
  ∀ (s : State) (ls : LS) (d b : BitVec 7) (sz : BitVec 2) (off : BitVec 7) (ea : Nat) (p e : NearAt), Clear s →
    Plain s b.toNat → (∀ i < 8, InWindow s (d.toNat + i)) →
    nearOperand s s.cur (rd64 s s.cur b.toNat) (16 * off.toInt) = .ok (ea, p) → nearAt s s.cur (ea + 127) = some e →
    e.loc = p.loc + 127 → ea % 16 = 0 → raceTrap s s.cur p.loc ea 128 false = none →
    let rows := (upto 0 8).map (fun i => lookBytes s (p.loc + 16 * i) 16)
    (p.remote = false → nearPoison s p.loc 128 = none →
      Acts s (.ldtr ls d b sz off) { dests := upto d.toNat 8, mark := ls.s, stages := (raceMark s.cur p.loc 128 false ::
          nearRead p.loc 128 :: (transposeRows sz.toNat rows).zipIdx.map (fun x => wr s.cur (d.toNat + x.2) x.1)) }) ∧
    (p.remote = true →
      Acts s (.ldtr ls d b sz off) { dests := upto d.toNat 8, mark := ls.s, stages := [
        raceMark s.cur p.loc 128 false, sendNear s.cur p.loc ea (.ldtr sz) (upto d.toNat 8) true] })

/-- R157, R159: near and global atomics and CAS; the old word goes to X[d], and the new one is stored in one step. -/
def Obligations.AtomicsAreOneStep : Prop :=
  ∀ (s : State) (ls : LS) (d a b : BitVec 7) (op : BitVec 3), AtPoint s → speculative s s.cur = false → Dest s d.toNat →
    Plain s a.toNat → Plain s b.toNat → op.toNat ≤ 6 →
    let x := rd64 s s.cur b.toNat
    let c := rd64 s s.cur d.toNat
    (∀ (ea : Nat) (p : NearAt), nearOperand s s.cur (rd64 s s.cur a.toNat) 0 = .ok (ea, p) → ea % 8 = 0 →
      (locScratch p.loc = true → determ s s.cur = false) →
      let w := wordAt s p.loc
      (p.remote = false → nearPoison s p.loc 8 = none →
        PointActs s (.atomN ls d a b op) { dests := destOf d.toNat, mark := ls.s, stages := [
          nearRead p.loc 8, (fun s => putWord s p.loc (atomOp op.toNat w x)), wr s.cur d.toNat (w.setWidth 128)] } ∧
        PointActs s (.casN ls d a b) { dests := destOf d.toNat, mark := ls.s, stages := [
          nearRead p.loc 8, (fun s => putWord s p.loc (if w = c then x else w)), wr s.cur d.toNat (w.setWidth 128)] }) ∧
      (p.remote = true → d.toNat < 112 →
        PointActs s (.atomN ls d a b op) { dests := destOf d.toNat, mark := ls.s, stages := [
          sendNear s.cur p.loc ea (.atom op.toNat x 0) [d.toNat] true] } ∧
        PointActs s (.casN ls d a b) { dests := destOf d.toNat, mark := ls.s, stages := [
          sendNear s.cur p.loc ea (.atom 7 x c) [d.toNat] true] })) ∧
    (∀ (ea loc : Nat) (e : BitVec 128), globalOperand (rd64 s s.cur a.toNat) 0 = .ok ea → ea % 8 = 0 →
      Machine.translate s s.cur ea .atomic = .hit loc e → determ s s.cur = false → d.toNat < 112 →
      PointActs s (.atomG ls d a b op) { dests := destOf d.toNat, mark := ls.s, stages := [
        sendAtom s.cur d.toNat loc op.toNat x 0 (BitVec.ofNat 64 ea)] } ∧
      PointActs s (.casG ls d a b) { dests := destOf d.toNat, mark := ls.s, stages := [
        sendAtom s.cur d.toNat loc 7 x c (BitVec.ofNat 64 ea)] })

/-- R154, R155, R140: full/empty words. In the right state the word and its tag change in one step; in the wrong state a
slot of the own quad sleeps in the word's queue; a word of another quad is reached by a request. -/
def Obligations.FullEmptyWordsActOrSleep : Prop :=
  ∀ (s : State) (ls : LS) (d a b : BitVec 7) (f : BitVec 1) (ea : Nat) (p : NearAt), AtPoint s →
    speculative s s.cur = false → (me s).grant = none → Dest s d.toNat → Plain s a.toNat → Plain s b.toNat →
    wordOperand s s.cur (rd64 s s.cur a.toNat) = .ok (ea, p) → ea % 8 = 0 →
    let w := wordAt s p.loc
    let v := rd64 s s.cur b.toNat
    let q := fun (kind : Nat) (x : Dword) =>
      [joinQueue { loc := p.loc, kind := kind, slot := s.cur, req := none, value := x, chan := none }]
    (p.remote = false → nearPoison s p.loc 8 = none →
      (isFull s p.loc = true →
        PointActs s (.take ls d a) { dests := destOf d.toNat, mark := ls.s, stages := [
          nearRead p.loc 8, eff [setFull p.loc false], drain p.loc, wr s.cur d.toNat (w.setWidth 128)] } ∧
        PointActs s (.peek ls d a) { dests := destOf d.toNat, mark := ls.s, stages := [
          nearRead p.loc 8, wr s.cur d.toNat (w.setWidth 128)] } ∧
        PointActs s (.feq ls d a) { dests := destOf d.toNat, mark := ls.s, stages := [wr s.cur d.toNat 1] } ∧
        Sleeps s (.put ls a b) (.word p.loc) (q 1 v)) ∧
      (isFull s p.loc = false →
        PointActs s (.put ls a b) { mark := ls.s, stages := [
          nearRead p.loc 8, (fun s => putWord s p.loc v ++ [setFull p.loc true]), drain p.loc, skip] } ∧
        PointActs s (.feq ls d a) { dests := destOf d.toNat, mark := ls.s, stages := [wr s.cur d.toNat 0] } ∧
        Sleeps s (.take ls d a) (.word p.loc) (q 0 0) ∧ Sleeps s (.peek ls d a) (.word p.loc) (q 2 0)) ∧
      PointActs s (.feset ls a f) { mark := ls.s, stages := [
        eff [setFull p.loc (f.getLsbD 0)], drain p.loc, skip] }) ∧
    (p.remote = true →
      PointActs s (.put ls a b) { mark := ls.s, stages := [sendNear s.cur p.loc ea (.fe 1 v) [] false] } ∧
      PointActs s (.feset ls a f) { mark := ls.s, stages := [sendNear s.cur p.loc ea (.fe 3 (f.setWidth 64)) [] false] } ∧
      (d.toNat < 112 →
        PointActs s (.take ls d a) { dests := destOf d.toNat, mark := ls.s, stages := [
          sendNear s.cur p.loc ea (.fe 0 0) [d.toNat] true] } ∧
        PointActs s (.peek ls d a) { dests := destOf d.toNat, mark := ls.s, stages := [
          sendNear s.cur p.loc ea (.fe 2 0) [d.toNat] true] } ∧
        PointActs s (.feq ls d a) { dests := destOf d.toNat, mark := ls.s, stages := [
          sendNear s.cur p.loc ea (.fe 4 0) [d.toNat] true] }))

/-- R223 to R226: the channel words at a ring of the own quad. A send fills the slot at WP, a receive empties the slot
at RP, both move their pointer on; a full or empty slot puts the thread to sleep; a thread that is not bound so raises
CHANNEL. -/
def Obligations.ChannelWordsSendInOrder : Prop :=
  ∀ (s : State) (ls : LS) (d a b : BitVec 7) (ea : Nat) (p : NearAt), AtPoint s → speculative s s.cur = false →
    (me s).grant = none → Dest s d.toNat → Plain s a.toNat → Plain s b.toNat →
    wordOperand s s.cur (rd64 s s.cur a.toNat) = .ok (ea, p) → ea % 8 = 0 → p.remote = false →
    let v := rd s s.cur b.toNat
    let w0 : Waiter := { loc := p.loc, kind := 0, slot := s.cur, req := none, value := 0, chan := none }
    (∀ (st : List Stage) (x : Word), chbindTrap s s.cur v ea = none →
      chanStep s p.loc 0 (me s).task (me s).kernel v w0 = .done st x →
      PointActs s (.chbind ls a b) { mark := ls.s, stages := st ++ [skip] }) ∧
    (∀ (st : List Stage) (x : Word),
      chanStep s p.loc 3 (me s).task (me s).kernel 0 { w0 with kind := 3 } = .done st x →
      PointActs s (.chclose ls a) { mark := ls.s, stages := st ++ [skip] }) ∧
    (∀ e : Chan, tabGet (quad s (locQuad p.loc)).chans p.loc = some e →
      let at_ := p.loc + 8 * e.wp
      (e.writer = some (me s).task → e.wclose = false → e.rclose = false →
        (isFull s at_ = false → PointActs s (.chsend ls a b) { mark := ls.s, stages := [
          nearRead at_ 8, (fun s => putWord s at_ (lo64 v) ++
            [setFull at_ true, onChan p.loc (fun x => { x with wp := (x.wp + 1) % x.n })]), drain at_, eff [follow p.loc], skip] }) ∧
        (isFull s at_ = true → Sleeps s (.chsend ls a b) (.word at_)
          [joinQueue { loc := at_, kind := 3, slot := s.cur, req := none, value := lo64 v, chan := some p.loc }])) ∧
      (e.writer ≠ some (me s).task → Deliverable s → Raises s (.chsend ls a b) (nTrap .channel ea)) ∧
      let at_ := p.loc + 8 * e.rp
      (e.reader = some (me s).task → e.rclose = false →
        (isFull s at_ = true → nearPoison s at_ 8 = none → PointActs s (.chrecv ls d a) { dests := destOf d.toNat, mark := ls.s, stages := [
          nearRead at_ 8, eff [setFull at_ false, onChan p.loc (fun x => { x with rp := (x.rp + 1) % x.n })], drain at_,
          eff [follow p.loc], wr s.cur d.toNat ((wordAt s at_).setWidth 128 + wd (2 ^ 64))] }) ∧
        (isFull s at_ = false → e.wclose = true → PointActs s (.chrecv ls d a)
          { dests := destOf d.toNat, mark := ls.s, stages := [wr s.cur d.toNat (wd (2 ^ 65))] }) ∧
        (isFull s at_ = false → e.wclose = false → Sleeps s (.chrecv ls d a) (.word at_)
          [joinQueue { loc := at_, kind := 4, slot := s.cur, req := none, value := 0, chan := some p.loc }])))

/-- R160, R161, R216 to R222: a fence, CHUNK or a barrier word ends the chunk after its bundle; a barrier's effect goes
with the chunk and falls at its commit; BAR.WAIT sleeps while its phase lasts; what is not declared is ILLEGAL. -/
def Obligations.FencesAndBarriersEndTheirChunk : Prop :=
  ∀ (s : State) (ls : LS) (d a : BitVec 7) (n : BitVec 5), Clear s →
    Acts s (.fenceNear ls) { mark := ls.s, ends := true, after := .fence 0 } ∧
    Acts s (.fenceGlobal ls) { mark := ls.s, ends := true, after := .fence 1 } ∧
    Acts s (.fenceEngine ls) { mark := ls.s, ends := true, after := .fence 2 } ∧
    Acts s (.fenceMirror ls) { mark := ls.s, ends := true, after := .fence 3 } ∧
    Acts s (.fenceSystem ls) { mark := ls.s, ends := true, after := .fence 4 } ∧
    Acts s (.chunk ls) { mark := ls.s, ends := true } ∧
    (speculative s s.cur = false → Dest s d.toNat → Plain s a.toNat →
      let b := barAt s s.cur n.toNat
      let home := barHome s s.cur n.toNat
      let v := (rd64 s s.cur a.toNat).toNat
      let tok := rd s s.cur a.toNat
      (barDeclared s s.cur n.toNat = true →
        (b.p ≠ 0 →
          Acts s (.barArrive ls d n) { dests := destOf d.toNat, mark := ls.s, ends := true, stages := [
            withBar s.cur n.toNat (.arrive d.toNat)] } ∧
          Acts s (.barSync ls n) { mark := ls.s, ends := true, stages := [withBar s.cur n.toNat .sync] } ∧
          (determ s s.cur = false →
            Acts s (.barWaitd ls d a n) { dests := destOf d.toNat, mark := ls.s, ends := true, stages := [
              withBar s.cur n.toNat (.waitd d.toNat v)] })) ∧
        (1 ≤ v → v ≤ (if n.toNat < 16 then 256 else 36864) →
          Acts s (.barInit ls a n) { mark := ls.s, ends := true, stages := [withBar s.cur n.toNat (.init v)] }) ∧
        ((me s).grant = none → tok.getLsbD 16 = true ∨ b.phase ≠ bits tok 15 0 →
          Acts s (.barWait ls a n) { mark := ls.s, ends := true }) ∧
        ((me s).grant = none → tok.getLsbD 16 = false → b.phase = bits tok 15 0 →
          Sleeps s (.barWait ls a n) (.barrier home n.toNat b.phase) [eff [onBar (me s).kernel home n.toNat
            (fun b => { b with waiters := b.waiters ++ [⟨(me s).task, .wait⟩] })]])) ∧
      (barDeclared s s.cur n.toNat = false → Deliverable s →
        Raises s (.barSync ls n) (bTrap s s.cur .illegal) ∧ Raises s (.barInit ls a n) (bTrap s s.cur .illegal)))

/-- R88 to R92: the event latch, its signals, and mailboxes. -/
def Sys2Proof.Says.LatchWords : Prop :=
  ∀ (s : State) (ls : LS) (d a b : BitVec 7), AtPoint s → Dest s d.toNat → Plain s a.toNat → Plain s b.toNat →
    ((me s).latch = true → exec (.evWait ls) s = .next (finished (onMe (taken s) (fun t => { t with latch := false })) ls.s)) ∧
    ((me s).latch = false → Sleeps s (.evWait ls) .latch []) ∧
    (determ s s.cur = false → (me s).grant = none →
      let n := bits (rd s s.cur a.toNat) 31 0
      ((me s).latch = true → exec (.evWaitt ls d a) s =
        .next (finished (put (onMe (taken s) (fun t => { t with latch := false })) d.toNat 1) ls.s)) ∧
      ((me s).latch = false → n = 0 → exec (.evWaitt ls d a) s =
        .next (finished (put (onMe (taken s) (fun t => { t with latch := false })) d.toNat 0) ls.s)) ∧
      ((me s).latch = false → n ≠ 0 → Sleeps s (.evWaitt ls d a) (.latchUntil (s.now + n)) [fun s =>
        [.post (s.now + n) (.ev (.waittTimeout s.cur))]])) ∧
    (guessing s s.cur = false → (speculative s s.cur = true → isLead s s.cur = true) →
      let v := rd64 s s.cur a.toNat
      let target := bits v 17 0
      (addrOutside s s.cur target = false →
        PointActs s (.evSignal ls a) { mark := ls.s, irrev := true, stages := [
          sendNear s.cur (scratchLoc (target / 256) 0) target (.signal target) [] false] }) ∧
      (addrOutside s s.cur target = true → Deliverable s → Raises s (.evSignal ls a) ⟨.perm, v⟩) ∧
      (∀ p : NearAt, d.toNat < 112 → nearAt s s.cur (bits v 31 0) = some p → locScratch p.loc = true → bits v 31 0 % 16 = 0 →
        (v.getLsbD 63 = true → addrOutside s s.cur (bits v 49 32) = false) →
        PointActs s (.msend ls d a b) { dests := destOf d.toNat, mark := ls.s, irrev := true, stages := [
          sendNear s.cur p.loc (bits v 31 0) (.msend (rd s s.cur b.toNat)
            (if v.getLsbD 63 then some (bits v 49 32) else none)) [d.toNat] true] }))

/-- R251 to R253: NEST's counter opens with its chunk's commit; NEXT of a slot that keeps no claim takes
ceil(remaining / 2P) iterations of an open counter and pends the indices of the first (i0, i1, i2, as many as the depth)
and their number; of a closed counter, or one with nothing remaining, it pends zeros. -/
def Sys2Proof.Says.NestWords : Prop :=
  ∀ (s : State) (ls : LS) (d a b : BitVec 7) (n : BitVec 2) (k : BitVec 3), Clear s → Plain s a.toNat → Plain s b.toNat →
    (let v := rd64 s s.cur a.toNat
     let p := (rd64 s s.cur b.toNat).toNat
     bits v 20 0 ≠ 0 → (bits v 62 42 ≠ 0 → bits v 41 21 ≠ 0) → v.getLsbD 63 = false → 1 ≤ p → p ≤ 256 →
      let r : NestReq := ⟨n.toNat, bits v 20 0, bits v 41 21, bits v 62 42, p⟩
      Acts s (.nest ls n a b) { mark := ls.s, stages := [
        eff [onChunk s.cur (fun c => { c with nests := c.nests ++ [r] })]] }) ∧
    (speculative s s.cur = false → (me s).claims = [] → (me s).used = 0 → (∀ i < 4, InWindow s (d.toNat + i)) →
      let g := (taskOf s s.cur).g
      let x := ((group? s (me s).kernel g).map (fun y => tabD y.nests n.toNat {})).getD {}
      let any : Bool := x.opened && x.remaining != 0
      let u := if any then x.next else 0
      let m := if any then (x.remaining + 2 * x.p - 1) / (2 * x.p) else 0
      let es : Nat × Nat × Nat := if x.opened then (x.e0, x.e1, x.e2) else (0, 0, 0)
      let c : Claim := ⟨n.toNat, u, m, es.1, es.2.1, es.2.2⟩
      let vs := if es.2.1 = 0 then [u % es.1, m] else if es.2.2 = 0 then [u % es.1, u / es.1 % es.2.1, m]
        else [u % es.1, u / es.1 % es.2.1, u / (es.1 * es.2.1), m]
      let ds := upto d.toNat vs.length
      Acts s (.next ls d n k) { dests := ds ++ (if k = 0 then [] else [128 + k.toNat]), mark := ls.s, stages := [
        if m = 0 then skip else eff [onThr s.cur (fun t => { t with claims := t.claims ++ [c], used := t.used + 1 }),
          onGroup (me s).kernel g (fun y => { y with nests := tabMod y.nests n.toNat {} (fun z =>
            { z with next := z.next + m, remaining := z.remaining - m }) })],
        pendIn s.cur ds (if k = 0 then none else some k.toNat)
          (.value (vs.map wd) (some (all16 (m != 0))) 0) 96] })

/-- The latch words wait and signal, and nest counters hand out runs. -/
def Obligations.LatchAndNestWords : Prop := Says.LatchWords ∧ Says.NestWords

/-- R107, R109 to R119: the words that tag, drop, keep and describe the window's registers. -/
def Obligations.WindowWordsTagDropAndKeep : Prop :=
  ∀ (s : State) (ls : LS) (d a : BitVec 7) (n : BitVec 5), Clear s →
    let t := me s
    let hi := d.toNat + 1
    let ws := recipeOf s s.cur n.toNat
    let last := d.toNat % 8 = 7 ∧ d.toNat < t.limit
    (InWindow s d.toNat →
      Acts s (.rxtagVoid ls d) { dests := destOf d.toNat, mark := ls.s, stages := [eff [onArch s.cur (fun a => a.setTag d.toNat .void)]] } ∧
      Acts s (.rxuntag ls d) { dests := destOf d.toNat, mark := ls.s, stages := [eff [onArch s.cur (fun a => a.setTag d.toNat .none)]] }) ∧
    (InWindow s d.toNat → n.toNat < (recOf s s.cur).recipes → (∀ r ∈ recipeRegs ws, dropped t r = false ∧ t.arch.strm r = none) →
      Acts s (.rxtag ls d n) { dests := [d.toNat], mark := ls.s, lost := (recipeOps ws).length, stages := [
        eff [onArch s.cur (fun a => (a.setReg d.toNat (recipeValue s s.cur ws)).setTag d.toNat (.recipe n.toNat))]] }) ∧
    (InWindow s d.toNat → (recOf s s.cur).recipes ≤ n.toNat → Deliverable s →
      Raises s (.rxtag ls d n) (bTrap s s.cur .illegal)) ∧
    (last → t.arch.t ≤ hi → Acts s (.rxdrop ls d) { mark := ls.s }) ∧
    (last → hi < t.arch.t → (∀ r, hi ≤ r → r < t.arch.t → t.arch.tag r ≠ .none ∧ t.arch.strm r = none) →
      Acts s (.rxdrop ls d) { mark := ls.s, stages := [eff [onThr s.cur (fun t =>
        { t with cur := hi, heldRegs := t.heldRegs + (t.arch.t - hi), arch := { t.arch with t := hi } })]] }) ∧
    (last → ∀ r, hi ≤ r → r < t.arch.t → t.arch.tag r = .none →
      (∀ q, hi ≤ q → q < r → t.arch.tag q ≠ .none ∧ t.arch.strm q = none) → Deliverable s →
      Raises s (.rxdrop ls d) (nTrap .recipeDepth r)) ∧
    (last → hi ≤ t.arch.t → Acts s (.rxkeep ls d) { mark := ls.s }) ∧
    (last → t.arch.t < hi → (∀ r, t.arch.t ≤ r → r < hi → t.arch.tag r = .void) →
      (hi ≤ t.cur + entriesFree s (coreOf s.cur) →
        Acts s (.rxkeep ls d) { mark := ls.s, stages := [eff [onThr s.cur (fun u =>
          { u with cur := hi, arch := { remat s s.cur t.arch.t hi u.arch with t := hi } })]] }) ∧
      (t.cur + entriesFree s (coreOf s.cur) < hi → Sleeps s (.rxkeep ls d) (.window hi) [])) ∧
    (Dest s d.toNat → a = 0 ∨ a.toNat < t.limit ∨ 112 ≤ a.toNat → exec (.rxq ls d a) s = .next (finished (put (taken s) d.toNat
      (wd (t.limit * 2 ^ 24 + t.arch.t * 2 ^ 16 + bit (t.arch.strm a.toNat).isSome * 2 ^ 9
        + bit (dropped t a.toNat) * 2 ^ 8 + (t.arch.tag a.toNat).num))) ls.s))

/-- R120 to R126: SBIND binds x(d) to the stream of a descriptor and begins its prefetch, SUNBIND frees it, SSTAT
reports it. -/
def Obligations.StreamWordsBindAndReport : Prop :=
  ∀ (s : State) (ls : LS) (d a : BitVec 7), Clear s → Plain s a.toNat →
    (∀ loc : Nat, let ea := bits (rd s s.cur a.toNat) 31 0
      InWindow s d.toNat → bits (rd s s.cur a.toNat) 54 32 = 0 → nearOwn s s.cur ea 48 = some loc → ea % 16 = 0 →
      nearPoison s loc 48 = none →
      let x := streamOf d.toNat (lookBytes s loc 48)
      (bindTrap s s.cur d.toNat (lookBytes s loc 48) = none →
        Acts s (.sbind ls d a) { mark := ls.s, stages := [
          nearRead loc 48, eff [onArch s.cur (fun a => { a with streams := a.streams ++ [x] })],
          if x.write then skip else evIn (ctxOf s s.cur) (if x.global then 640 else 12) (.streamUnitFetch s.cur d.toNat)] }) ∧
      (∀ tr : Trap, bindTrap s s.cur d.toNat (lookBytes s loc 48) = some tr → Deliverable s → Raises s (.sbind ls d a) tr)) ∧
    (d.toNat < (me s).limit → bits (rd s s.cur a.toNat) 54 32 ≠ 0 → Deliverable s →
      Raises s (.sbind ls d a) ⟨.nearRange, rd64 s s.cur a.toNat⟩) ∧
    (d = 0 ∨ d.toNat < (me s).limit ∨ 112 ≤ d.toNat → Acts s (.sunbind ls d) { mark := ls.s, stages := [
      eff [onArch s.cur (fun a => { a with streams := a.streams.filter (fun x => x.reg != d.toNat) })]] }) ∧
    (Dest s d.toNat → exec (.sstat ls d a) s = .next (finished (put (taken s) d.toNat 0) ls.s)) ∧
    (∀ x : Strm, Dest s d.toNat → ∀ r : BitVec 7, r.toNat < (me s).limit → (me s).arch.strm r.toNat = some x →
      exec (.sstat ls d r) s = .next (finished (put (taken s) d.toNat (wd (2 ^ 63 + bit x.write * 2 ^ 62
        + bit (decide (x.total ≤ x.pos)) * 2 ^ 61 + (x.fifo.length % 16) * 2 ^ 32 + x.pos % 2 ^ 32))) ls.s))

/-- R187, R188, R193: LATHE.OPEN begins the capture of n + 1 words for the count in X[a]; a count above 65,535 raises
LATHE; LWAIT passes an idle lathe and LABORT leaves it idle, and where it is running the first sleeps and the second
stops it. -/
def Obligations.LatheWordsOpenWaitAndAbort : Prop :=
  ∀ (s : State) (ls : LS) (d a : BitVec 7) (g : BitVec 3) (n : BitVec 4), Plain s a.toNat →
    let count := bits (rd s s.cur a.toNat) 31 0
    (Clear s → (me s).arch.priv ≠ .handler → d.toNat < (me s).limit →
      (count ≤ 65535 → Acts s (.latheOpen ls d a g n) { mark := ls.s, stages := [
        eff [onArch s.cur (fun x => { x with lathe := { x.lathe with
          st := .capturing, n := n.toNat + 1, count := count, stag := g.toNat, base := d.toNat, words := [] } })]] }) ∧
      (65535 < count → Deliverable s → Raises s (.latheOpen ls d a g n) (bTrap s s.cur .lathe))) ∧
    (Clear s → Acts s (.latheLwait ls) { mark := ls.s } ∧
      exec (.latheLabort ls) s = .next (finished (taken s) ls.s)) ∧
    (occupied s s.cur = true → (me s).partner = none → (me s).arch.lathe.st = .running →
      Sleeps s (.latheLwait ls) .latheIdle [] ∧
      Acts s (.latheLabort ls) { mark := ls.s, stages := [abortLathe s.cur] } ∧
      (me (run [abortLathe s.cur] s)).arch.lathe.st = .idle)

/-- R264, R265, R272: TSPAWN and TSTAMP go with their chunk, ILLEGAL where a rule of theirs is broken; ORDATOM's request
waits for its channel's batch. -/
def Sys2Proof.Says.SpawnWords : Prop :=
  ∀ (s : State) (ls : LS) (d a b : BitVec 7), Clear s → Plain s a.toNat → Plain s b.toNat →
    (Dest s d.toNat → guessing s s.cur = false →
      let v := rd s s.cur a.toNat
      let held := (me s).chunk.spawns.length
      let fits := bits v 127 96 = 0 ∧ bits v 95 64 % 8 = 0 ∧ bits v 95 64 < (recOf s s.cur).textlen ∧
        (taskOf s s.cur).ts ≤ bits v 63 0 ∧ held < 8
      (fits → Acts s (.tspawn ls d a b) { dests := destOf d.toNat, mark := ls.s, stages := [
        eff [onChunk s.cur (fun c => { c with spawns := c.spawns ++ [⟨bits v 95 64, bits v 63 0, rd s s.cur b.toNat⟩] })],
        wr s.cur d.toNat (wd held)] }) ∧
      (¬ fits → Deliverable s → Raises s (.tspawn ls d a b) (bTrap s s.cur .illegal))) ∧
    (speculative s s.cur = false →
      let v := (rd64 s s.cur a.toNat).toNat
      ((taskOf s s.cur).ts ≤ v → Acts s (.tstamp ls a) { mark := ls.s, stages := [
        eff [onChunk s.cur (fun c => { c with tstamp := some v })]] }) ∧
      (v < (taskOf s s.cur).ts → Deliverable s → Raises s (.tstamp ls a) (bTrap s s.cur .illegal))) ∧
    (∀ n : BitVec 4, AtPoint s → speculative s s.cur = false → Dest s d.toNat → d.toNat < 112 →
      n.toNat < (recOf s s.cur).ordch → (recOf s s.cur).gang = true → (recOf s s.cur).qbar ≠ 0 →
      let t := taskOf s s.cur
      PointActs s (.ordatom ls d n b) { dests := destOf d.toNat, mark := ls.s, stages := [
        fun u => [onThr s.cur (fun t => { t with pend := t.pend ++ [{ id := u.fresh, dests := [d.toNat] }] }),
          onKernel (me s).kernel (fun x => { x with ord := tabMod x.ord n.toNat [] (fun l => l ++
            [{ task := (thr u s.cur).task, pend := u.fresh, w := t.w, ts := t.keyTs, cn := t.cn, interval := t.b0,
               addend := rd64 s s.cur b.toNat }]) }), .draw 1]] })

/-- R277 to R288: GLOOP goes with its chunk and pends the loop's timestamp; an iteration records its produced carry once;
a guess task offers start carries; GEND collects an ended loop's final carry, and sleeps before. -/
def Sys2Proof.Says.LoopWords : Prop :=
  ∀ (s : State) (ls : LS) (d a b : BitVec 7), Clear s → Plain s a.toNat →
    (∀ (sb : Bool) (lit : BitVec 32) (l : Nat),
      let v := rd s s.cur a.toNat
      let nc := bits lit 31 29
      let nreg := bits v 34 32
      let atab := bits v 127 96
      let regions := if nreg = 0 then [] else regionsOf nreg (lookBytes s l (16 * nreg))
      let body := bits v 95 64
      let textlen := (recOf s s.cur).textlen
      let ts := (taskOf s s.cur).ts
      Dest s d.toNat → d.toNat < 112 → speculative s s.cur = false → loopOpen s s.cur = false →
      bits lit 25 21 = 0 → 8 * bits lit 20 0 < textlen → (bits lit 28 26 = 0 → bits lit 20 0 = 0) →
      bits v 63 35 = 0 → nreg ≤ 4 → body % 8 = 0 → body < textlen → ts + 2 ^ 33 < 2 ^ 64 →
      (nreg ≠ 0 → nearOwn s s.cur atab (16 * nreg) = some l ∧ atab % 16 = 0 ∧ nearPoison s l (16 * nreg) = none) →
      regionsBad regions = false →
      (∀ i ≤ nc, InWindow s (b.toNat + i)) →
      Acts s (.gloop sb d a b lit) { dests := destOf d.toNat, mark := sb, stages := [
        nearRead ((nearOwn s s.cur atab (16 * nreg)).getD 0) (16 * nreg), eff [onChunk s.cur (fun c => { c with gloop := some { d := d.toNat, b := b.toNat, nc := nc, wid := bits lit 28 26, goff := bits lit 20 0, body := body, n := bits v 31 0, regions := regions } })],
        pendIn s.cur [d.toNat] none (.value [wd (ts + 1)] none 0) 200] }) ∧
    (∀ (o : Nat) (lp : Loop), loopAt s s.cur = some (o, lp) → (∀ i ≤ lp.req.nc, InWindow s (lp.req.b + i)) →
      let vs := carried s s.cur lp.req
      let takes := fun (c : Cmp) => [eff [onArch s.cur (fun x => { x with carry := some (vs, c) })]]
      ((iterOf s s.cur).isSome = true → (me s).arch.carry = none → (me s).arch.priv ≠ .handler →
        Acts s (.acceptEq ls) { mark := ls.s, stages := takes .eq } ∧
        Acts s (.gquit ls) { mark := ls.s, stages := takes .quit } ∧
        (determ s s.cur = false →
          Acts s (.acceptTol ls a) { mark := ls.s, stages := takes (.tol ((rd s s.cur a.toNat).setWidth 32)) }) ∧
        (determ s s.cur = true → Deliverable s → Raises s (.acceptTol ls a) (bTrap s s.cur .determinism))) ∧
      ((me s).arch.carry.isSome = true → Deliverable s → Raises s (.acceptEq ls) (bTrap s s.cur .illegal) ∧
        Raises s (.gquit ls) (bTrap s s.cur .illegal)) ∧
      (∀ l i : Nat, (taskOf s s.cur).kind = .guess l i → lp.gputs + 1 ≠ lp.req.wid →
        Acts s (.gput ls) { mark := ls.s, stages := [gputStage o i vs] })) ∧
    (∀ lp : Loop, tabGet s.o.loops (me s).task = some lp → Dest s d.toNat → speculative s s.cur = false →
      let regs := upto lp.req.b (lp.req.nc + 1)
      (∀ i ≤ lp.req.nc, InWindow s (lp.req.b + i)) →
      ((lp.st = .done ∨ lp.st = .failed) →
        Acts s (.gend ls d) { dests := destOf d.toNat ++ regs, mark := ls.s, stages :=
          (regs.zip lp.final).map (fun x => wr s.cur x.1 x.2) ++
          [wr s.cur d.toNat (wd (lp.c % 2 ^ 32 + bit (lp.st == .failed) * 2 ^ 63)),
           eff [.obj (fun o => { o with loops := tabDel o.loops (me s).task })],
           evNow (.floorChange (me s).kernel), kick] }) ∧
      (lp.st ≠ .done → lp.st ≠ .failed → Sleeps s (.gend ls d) .loopEnd []))

/-- Spawns and stamps go with their chunk; the words of a carry loop open it, offer guesses and collect its carry. -/
def Obligations.SpawnAndLoopWords : Prop := Says.SpawnWords ∧ Says.LoopWords

/-- R163, R165 to R168, R173: lane-wise arithmetic. Integer lanes wrap modulo 2^w; floating and taper lanes are decoded,
computed exactly and rounded once by ROUND; VADDS saturates. -/
def Obligations.VectorArithmeticIsLanewise : Prop :=
  ∀ (s : State) (d a b : BitVec 7), Clear s → pipeBusy s s.cur = false → Dest s d.toNat → Plain s a.toNat →
    Plain s b.toNat →
    let x := rd s s.cur a.toNat
    let y := rd s s.cur b.toNat
    let z := rd s s.cur d.toNat
    let r := (me s).arch.round
    (∀ t : BitVec 4,
      let f := typeFmt t.toNat
      let w := codeWidth f
      let on := fun (int : Nat → Nat) (num : Nat → Machine.Num × BitVec 5) (j : Nat) =>
        if isInt f then (int j, 0) else roundLane f r (num j)
      let u := fun (v : Word) (j : Nat) => lane w v j
      let v := fun (v : Word) (j : Nat) => decodeNum f (laneElem f v j) (ftzOf r)
      Lanewise s (.vadd d a b t) d f true [x, y] (on (fun j => u x j + u y j) (fun j => addNum (modeOf r) (v x j) (v y j))) ∧
      Lanewise s (.vsub d a b t) d f true [x, y] (on (fun j => u x j + (2 ^ w - u y j))
        (fun j => addNum (modeOf r) (v x j) (v y j).negate)) ∧
      Lanewise s (.vmul d a b t) d f true [x, y] (on (fun j => u x j * u y j) (fun j => mulNum (v x j) (v y j))) ∧
      Lanewise s (.vfma d a b t) d f true [x, y, z] (on (fun j => u x j * u y j + u z j)
        (fun j => fmaNum (modeOf r) (v x j) (v y j) (v z j))) ∧
      Lanewise s (.vmin d a b t) d f true [x, y] (fun j => extremum f r true (laneElem f x j) (laneElem f y j)) ∧
      Lanewise s (.vmax d a b t) d f true [x, y] (fun j => extremum f r false (laneElem f x j) (laneElem f y j)) ∧
      Lanewise s (.vabs d a t) d f false [] (fun j => (absLane f (laneElem f x j), 0)) ∧
      Lanewise s (.vneg d a t) d f false [] (fun j => (negLane f (laneElem f x j) % 2 ^ elemBits f, 0))) ∧
    (∀ t : BitVec 3,
      let f := typeFmt t.toNat
      let w := codeWidth f
      let n := fun (v : Word) (j : Nat) => if isSigned f then signed w (lane w v j) else (lane w v j : Int)
      let top : Int := if isSigned f then 2 ^ (w - 1) - 1 else 2 ^ w - 1
      let low : Int := if isSigned f then -(2 ^ (w - 1)) else 0
      Lanewise s (.vshl d a b t) d f false [] (fun j => (lane w x j <<< (lane w y j % w), 0)) ∧
      Lanewise s (.vshr d a b t) d f false [] (fun j => (wrap w (n x j >>> (lane w y j % w)), 0)) ∧
      Lanewise s (.vadds d a b t) d f false [] (fun j => (wrap w (between low top (n x j + n y j)), 0)) ∧
      (let f := typeFmt (8 + t.toNat)
       let w := codeWidth f
       Lanewise s (.vscale d a b t) d f true [x] (fun j =>
        match decodeNum f (laneElem f x j) (ftzOf r) with
        | .fin sg m e => if m = 0 then encodeNum f 0 false (.fin sg 0 0)
          else encodeNum f (modeOf r) (ftzOf r) (.fin sg m (e + between (-(2 ^ 15)) (2 ^ 15) (signed w (lane w y j))))
        | v => (laneElem f x j, if v.signalling then fNV else 0)))) ∧
    Vec s (.vand d a b) d { out := x &&& y } ∧ Vec s (.vor d a b) d { out := x ||| y } ∧
    Vec s (.vxor d a b) d { out := x ^^^ y }

/-- R169 to R172: comparison into a predicate, selection, shuffle, broadcast, reduction and the grouped dot product. -/
def Obligations.VectorWordsSelectAndReduce : Prop :=
  ∀ (s : State) (d a b : BitVec 7) (k c : BitVec 3) (t : BitVec 4), Clear s → pipeBusy s s.cur = false →
    Dest s d.toNat → Plain s a.toNat → Plain s b.toNat →
    let x := rd s s.cur a.toNat
    let y := rd s s.cur b.toNat
    let z := rd s s.cur d.toNat
    let r := (me s).arch.round
    let f := typeFmt t.toNat
    let w := codeWidth f
    let lanes := 128 / w
    let el := fun (v : Word) (j : Nat) => laneElem f v j
    let num := fun (v : Word) (j : Nat) => decodeNum f (el v j) (ftzOf r)
    (∃ p : BitVec 16, (∀ j < 16, p.getLsbD j = (decide (j < lanes) && (compareElem f (ftzOf r) c.toNat (el x j) (el y j)).1)) ∧
      exec (.vcmp k c a b t) s = .next (finished (putFlags (putPred (taken s) k.toNat p)
        (orFlags ((upto 0 lanes).map (fun j => (compareElem f (ftzOf r) c.toNat (el x j) (el y j)).2)))) false none
        (if r.getLsbD 3 then 0 else
          ((upto 0 lanes).filter (fun j => isSubnormal f (el x j) || isSubnormal f (el y j))).length))) ∧
    Lanewise s (.vsel d a k t) d f false [] (fun j => (if ((me s).arch.pred k.toNat).getLsbD j then el x j else el z j, 0)) ∧
    Lanewise s (.vshuf d a b t) d f false [] (fun j =>
      (if (lane w y j).testBit (w - 1) then 0 else el x (lane w y j % lanes), 0)) ∧
    Lanewise s (.vbcast d a t) d f false [] (fun _ => (el x 0, 0)) ∧
    (isInt f = true →
      let n := fun (v : Word) (j : Nat) => if isSigned f then signed w (lane w v j) else (lane w v j : Int)
      Vec s (.vred d a 0 t) d { out := wd (wrap w (sum ((upto 0 lanes).map (n x)))) } ∧
      ((Instr.vdot d a b t).wf = true → ∃ v : Word, Vec s (.vdot d a b t) d { out := v } ∧ ∀ g < 4,
        lane 32 v g = wrap 32 (lane 32 z g + sum ((upto (32 / w * g) (32 / w)).map (fun j => n x j * n y j))))) ∧
    (isInt f = false →
      (let e := roundLane f r (redSum r ((upto 0 lanes).map (num x)))
       ∃ slow : Nat, (r.getLsbD 3 = true → slow = 0) ∧ Vec s (.vred d a 0 t) d ⟨wd (e.1 % 2 ^ w), e.2, slow⟩) ∧
      ((Instr.vdot d a b t).wf = true →
        let e := fun (g : Nat) => roundLane 11 r (dotGroup r ((upto (32 / w * g) (32 / w)).map (fun j => (num x j, num y j)))
          (decodeNum 11 (lane 32 z g) (ftzOf r)))
        ∃ (v : Word) (slow : Nat), (r.getLsbD 3 = true → slow = 0) ∧
          Vec s (.vdot d a b t) d ⟨v, orFlags ((upto 0 4).map (fun g => (e g).2)), slow⟩ ∧
          ∀ g < 4, lane 32 v g = (e g).1 % 2 ^ 32)) ∧
    (∀ least : Bool,
      let e := ((upto 1 (lanes - 1)).map (el x)).foldl (fun acc v =>
        ((extremum f r least acc.1 v).1, acc.2 ||| (extremum f r least acc.1 v).2)) (el x 0, 0)
      ∃ slow : Nat, (r.getLsbD 3 = true → slow = 0) ∧ Vec s (.vred d a (if least then 1 else 2) t) d ⟨wd (e.1 % 2 ^ w), e.2, slow⟩)

/-- R179 to R182: CVT, CVTSR, PACK and UNPACK. Each element is decoded, and rounded once into the destination's format,
by ROUND or by its random word. -/
def Obligations.ConversionsRoundOnce : Prop :=
  ∀ (s : State) (d a : BitVec 7) (e f : BitVec 5), Clear s → pipeBusy s s.cur = false → Dest s d.toNat → Plain s a.toNat →
    let x := rd s s.cur a.toNat
    let r := (me s).arch.round
    let dw := codeWidth e.toNat
    let sw := codeWidth f.toNat
    let conv := fun (j : Nat) =>
      encodeNum e.toNat (modeOf r) (ftzOf r) (decodeNum f.toNat (laneElem f.toNat x j) (ftzOf r)) (isInt f.toNat)
    let flags := fun (n : Nat) => orFlags ((upto 0 n).map (fun j => (conv j).2))
    let fits := fun (slow n : Nat) => slow ≤ n ∧ (r.getLsbD 3 = true → slow = 0)
    ((Instr.cvt d a e f).wf = true →
      let n := 128 / Nat.max dw sw
      ∃ (v : Word) (slow : Nat), fits slow n ∧ Vec s (.cvt d a e f) d ⟨v, flags n, slow⟩ ∧
        v.toNat < 2 ^ (dw * n) ∧ ∀ j < n, lane dw v j = (conv j).1 % 2 ^ dw) ∧
    ((Instr.cvtsr d a e f).wf = true → InWindow s (a.toNat + 1) →
      let n := 128 / Nat.max dw sw
      let draw := fun (j : Nat) => encodeDraw e.toNat (lane 32 (rd s s.cur (a.toNat + 1)) j) (ftzOf r)
        (decodeNum f.toNat (laneElem f.toNat x j) (ftzOf r))
      ∃ (v : Word) (slow : Nat), fits slow n ∧ Vec s (.cvtsr d a e f) d ⟨v, orFlags ((upto 0 n).map (fun j => (draw j).2)), slow⟩ ∧
        v.toNat < 2 ^ (dw * n) ∧ ∀ j < n, lane dw v j = (draw j).1 % 2 ^ dw) ∧
    ((Instr.pack d a e f).wf = true →
      let n := 128 / sw
      ∃ (v : Word) (slow : Nat), fits slow n ∧ v.toNat < 2 ^ (dw * n) ∧ (∀ j < n, lane dw v j = (conv j).1 % 2 ^ dw) ∧
        Vec s (.pack d a e f) d ⟨rd s s.cur d.toNat >>> (n * dw) ||| v <<< (128 - n * dw), flags n, slow⟩) ∧
    ((Instr.unpack d a e f).wf = true → Dest s a.toNat →
      let n := 128 / dw
      ∃ (v : Word) (slow : Nat), fits slow n ∧ (∀ j < n, lane dw v j = (conv j).1 % 2 ^ dw) ∧
        exec (.unpack d a e f) s = .next (finished (putFlags (put (put (taken s) d.toNat v) a.toNat (x >>> (n * sw))) (flags n))
          false none slow))

/-- R174 to R178, R183: the special-function unit and RNG are long; their f32 lanes and flags arrive within 12 cy. -/
def Obligations.SpecialFunctionsAreLong : Prop :=
  ∀ (s : State) (d a b : BitVec 7), Clear s → pipeBusy s s.cur = false → Dest s d.toNat → d.toNat < 112 →
    Plain s a.toNat → Plain s b.toNat →
    let x := rd s s.cur a.toNat
    let y := rd s s.cur b.toNat
    let r := (me s).arch.round
    Sfu s (.rcp d a) d (fun j => rcpLane (ftzOf r) (lane 32 x j)) ∧
    Sfu s (.rsq d a) d (fun j => rsqLane (ftzOf r) (lane 32 x j)) ∧
    Sfu s (.rcpnr d a b) d (fun j => newtonLane false r (lane 32 x j) (lane 32 y j)) ∧
    Sfu s (.rsqnr d a b) d (fun j => newtonLane true r (lane 32 x j) (lane 32 y j)) ∧
    Sfu s (.exp2 d a) d (fun j => exp2Lane r (lane 32 x j)) ∧
    Sfu s (.log2 d a) d (fun j => log2Lane r (lane 32 x j)) ∧
    exec (.rng d a b) s = .next (finished (pended (taken s) [d.toNat] none
      (.value [zmix (y.extractLsb' 0 32) (y.extractLsb' 32 32) x] none 0) 12) false)

/-- R195 to R199, R202, R204 to R208: with room in the queue and the anvils claimed, a matrix word enters its core's
queue, and a register destination is pending from then; an anvil at or above the launch's count raises ANVIL; a full
queue takes the position only. -/
def Obligations.MatrixWordsEnterTheQueue : Prop :=
  ∀ (s : State) (d a : BitVec 7) (x y : BitVec 3), Clear s → Plain s a.toNat →
    let claimed := fun (n : BitVec 3) => n.toNat < (recOf s s.cur).anvils
    let enters := fun (i : Instr) (ds : List Nat) (k : MxKind) =>
      ActsA s i { dests := ds, stages := [enqueueOwn s.cur k ds] }
    let v := rd64 s s.cur a.toNat
    let c := rd s s.cur a.toNat
    (mqOver s s.cur 1 = false → claimed x →
      (-2048 ≤ v.toInt → v.toInt ≤ 2047 → enters (.aclr x a) [] (.aclr x.toNat v.toInt)) ∧
      (v.toInt < -2048 ∨ 2047 < v.toInt → Deliverable s → Raises s (.aclr x a) ⟨.anvil, v⟩) ∧
      (claimed y → enters (.amov x y) [] (.copy x.toNat y.toNat) ∧ enters (.aadd x y) [] (.aadd x.toNat y.toNat)) ∧
      (Dest s d.toNat → d ≠ 0 → d.toNat < 112 →
        enters (.amovSt d x) [d.toNat] (.status d.toNat x.toNat) ∧
        (bits c 63 9 = 0 → enters (.amovRaw d x a) [d.toNat] (.raw d.toNat x.toNat c)) ∧
        (∀ t : BitVec 3, t.toNat ≤ 5 → arndOk c = true → enters (.arnd d x a t) [d.toNat] (.arnd d.toNat x.toNat t.toNat c))) ∧
      (∀ (sh : BitVec 5) (b : BitVec 7) (q : BitVec 3), Plain s b.toNat → sh.toNat % 8 ≤ 5 →
        let pb := rd64 s s.cur b.toNat
        let blog := ptrBlog v
        let sc := if blog = 0 then 0 else (rd64 s s.cur (a.toNat + 1)).toNat
        let f := ptrFmt v
        let m := (shapeMN sh).1
        let n := (shapeMN sh).2
        let k := 16 * 2 ^ (sh.toNat % 8)
        (blog ≠ 0 → InWindow s a.toNat ∧ InWindow s (a.toNat + 1)) →
        mmaTrap s s.cur (bTrap s s.cur .illegal) m n k v pb sc = none →
        let op : MxKind := .mma m n k x.toNat (ptrAddr v) (ptrAddr pb) f (blog, sc) (planeCount f q.toNat)
          (mmaWords s s.cur m n k (ptrAddr v) (ptrAddr pb) f (blog, sc))
        ActsA s (.mma sh x a b q) { stages := [enqueueOwn s.cur op []] })) ∧
    (¬ claimed x → Deliverable s →
      Raises s (.aclr x a) (nTrap .anvil x.toNat) ∧ Raises s (.amov x y) (nTrap .anvil x.toNat) ∧
      Raises s (.aadd x y) (nTrap .anvil x.toNat) ∧
      (Dest s d.toNat → d.toNat < 112 → Raises s (.amovSt d x) (nTrap .anvil x.toNat))) ∧
    (mqOver s s.cur 1 = true → claimed x → claimed y →
      exec (.amov x y) s = .next { taken s with fresh := s.fresh + 256 })

/-- R197, R198, R31: PLANE and UNPLANE are chunk points that pend X[d]; their bytes are written when it is. -/
def Obligations.PlaneWordsPendTheirTransposition : Prop :=
  ∀ (s : State) (ls : LS) (d a b : BitVec 7) (un : Bool), AtPoint s → Dest s d.toNat → d.toNat < 112 → Plain s a.toNat →
    Plain s b.toNat →
    let x := rd s s.cur d.toNat
    let dst := rd64 s s.cur a.toNat
    let src := rd64 s s.cur b.toNat
    let blog := if un then 0 else ptrBlog src
    let sc := if blog = 0 then 0 else (rd64 s s.cur (b.toNat + 1)).toNat
    let k := bits x 15 0
    let n := bits x 31 16
    let lens := planeLens un k n dst src
    let sb := scaleBytes blog (k * n)
    let word := if un then Instr.unplane ls d a b else .plane ls d a b
    (blog ≠ 0 → InWindow s b.toNat ∧ InWindow s (b.toNat + 1)) →
    (∀ tr : Trap, (planeShape (bTrap s s.cur .illegal) x (if un then src else dst)).or (planeTags un dst src) = some tr →
      Deliverable s → Raises s word tr) ∧
    (∀ l m : Nat, planeShape (bTrap s s.cur .illegal) x (if un then src else dst) = none → planeTags un dst src = none →
      nearPtr s s.cur (ptrAddr dst) lens.2 = .ok m → nearPtr s s.cur (ptrAddr src) lens.1 = .ok l →
      (sb ≠ 0 → ∃ z, nearPtr s s.cur sc sb = .ok z) → ptrAddr (if un then src else dst) % 16 = 0 →
      elemAlign (if un then dst else src) = none → (speculative s s.cur = true → locScratch m = false) →
      raceTrap s s.cur l (ptrAddr src) lens.1 false = none → raceTrap s s.cur m (ptrAddr dst) lens.2 true = none →
      (sb ≠ 0 → raceTrap s s.cur (locOf (nearPtr s s.cur sc sb)) sc sb false = none) →
      PointActs s word { dests := destOf d.toNat, mark := ls.s, stages := [
        raceMark s.cur l lens.1 false,
        if sb = 0 then skip else raceMark s.cur (locOf (nearPtr s s.cur sc sb)) sb false, raceMark s.cur m lens.2 true,
        pendIn s.cur [d.toNat] none (.plane un k n dst src sc (me s).arch.round (wordsNow s l lens.1 ++
          (if sb = 0 then [] else wordsNow s (locOf (nearPtr s s.cur sc sb)) sb))) 64] })

/-- R210 to R213: SWAPT offers its region to the partner slot; MXSEND and MXSEND.ADD send a checked command to another
core, and X[d] is pending for its outcome; a capability that does not fit raises CAPABILITY. -/
def Obligations.ExchangesAndCommandsSetOut : Prop :=
  ∀ (s : State) (ls : LS) (d a b : BitVec 7), AtPoint s → Dest s d.toNat → d.toNat < 112 → Plain s a.toNat →
    Plain s b.toNat →
    (speculative s s.cur = false →
      let ea := bits (rd64 s s.cur a.toNat) 31 0
      let len := (rd64 s s.cur b.toNat).toNat
      (16 ≤ len ∧ len ≤ 4096 ∧ len % 16 = 0 → (nearOwn s s.cur ea len).isSome = true → ea % 16 = 0 →
        (groupOn (kernelOf s s.cur) (quadOf (partnerSlot s.cur))).isSome = true →
        PointActs s (.swapt ls d a b) { dests := destOf d.toNat, mark := ls.s, stages := [
          (fun u => [onThr s.cur (fun t => { t with pend := t.pend ++
            [{ id := u.fresh, dests := [d.toNat], op := .swapt ea len }] }), .draw 1]), swapPost s.cur] }) ∧
      (¬ (16 ≤ len ∧ len ≤ 4096 ∧ len % 16 = 0) → Deliverable s → Raises s (.swapt ls d a b) (bTrap s s.cur .illegal))) ∧
    (guessing s s.cur = false → (speculative s s.cur = true → isLead s s.cur = true) →
      let cap := rd64 s s.cur a.toNat
      let pay := rd s s.cur b.toNat
      let target := bits pay 17 0
      addrQuad target ≤ 143 →
      (determ s s.cur = false →
        (∀ (i : Instr) (an : List Nat), commandOf (pay.extractLsb' 32 32) = some (i, an) →
          (capBad s s.cur cap target 38 an = false → bits pay 21 18 = 0 →
            commandTrap i (pay.extractLsb' 64 32) (pay.extractLsb' 96 32) = none →
            PointActs s (.mxsend ls d a b) { dests := destOf d.toNat, mark := ls.s, irrev := true, stages := [
              sendMx s.cur d.toNat { task := 0, pend := 0, target := target, kernel := (me s).kernel, word := pay.extractLsb' 32 32, afmt := bits pay 31 27, bfmt := bits pay 26 22, aaddr := pay.extractLsb' 64 32, baddr := pay.extractLsb' 96 32, add := none },
              (fun u => [.post (u.now + lat u (ctxOf u s.cur) 1 (if dieOf s.cur = dieOf target then 180 else 420)) (.ev (.remoteMatrixArrival u.fresh)), .draw 2])] }) ∧
          (capBad s s.cur cap target 38 an = true → Deliverable s → Raises s (.mxsend ls d a b) ⟨.capability, cap⟩))) ∧
      (let l := bits pay 20 18
       let r := bits pay 23 21
       capBad s s.cur cap target 39 [r] = false → bits pay 127 24 = 0 → l < (recOf s s.cur).anvils →
       mqOver s s.cur 1 = false →
       PointActs s (.mxsendAdd ls d a b) { dests := destOf d.toNat, mark := ls.s, irrev := true, stages := [
          sendMx s.cur d.toNat { task := 0, pend := 0, target := target, kernel := (me s).kernel, word := 0, afmt := 0, bfmt := 0, aaddr := 0, baddr := 0, add := some (r, {}) },
          (fun u => enqueueOwn s.cur (.sendAdd l u.fresh) [] u)] }))

/-- R232, R233, R238, R365 to R367: WID reads the work identifier; LAUNCH, JOB and JOB.RESUME submit to the die's graph unit
as irrevocable chunk points, JOBQ asks it, and JOBW passes a counter that has its value, or sleeps on it. -/
def Obligations.WorkAndJobWordsSubmitAndWait : Prop :=
  ∀ (s : State) (ls : LS) (d a b : BitVec 7), Clear s → Dest s d.toNat → Plain s a.toNat → Plain s b.toNat →
    let t := taskOf s s.cur
    let r := recOf s s.cur
    let v := rd64 s s.cur a.toNat
    let p := bits v 54 0
    (∀ n : BitVec 7,
      let reads := fun (x : Nat) => exec (.wid ls d n) s =
        .next (finished (put (taken s) d.toNat ((BitVec.ofNat 64 x).setWidth 128)) ls.s)
      (n.toNat < 6 → n.toNat < r.widths.length → reads (widField r t.w n.toNat)) ∧
      (n = 6 → reads t.w) ∧ (n = 7 → reads t.g) ∧ (n = 8 → reads t.t) ∧
      (8 < n.toNat ∨ (n.toNat < 6 ∧ r.widths.length ≤ n.toNat) → Deliverable s →
        Raises s (.wid ls d n) (bTrap s s.cur .illegal))) ∧
    (d.toNat < 112 → AtPoint s → guessing s s.cur = false → (speculative s s.cur = true → isLead s s.cur = true) →
      let submits := fun (i : Instr) (st : Stage) => PointActs s i
        { dests := destOf d.toNat, mark := ls.s, irrev := true, stages := [st] }
      (p % 256 = 0 → ∀ (loc : Nat) (e : BitVec 128), Machine.translate s s.cur p .read = .hit loc e →
        submits (.launch ls d a) (submit s.cur d.toNat 0 p (some [(loc, 256)]))) ∧
      (p % 256 = 0 → ∀ tr : Trap, Machine.translate s s.cur p .read = .trap tr → Deliverable s → Raises s (.launch ls d a) tr) ∧
      (p % 128 = 0 → submits (.job ls d a) (fun u =>
        submit s.cur d.toNat 1 p (ctxPieces u (ctxOf u s.cur) p 128 .read).toOption u)) ∧
      submits (.jobResume ls d a) (submit s.cur d.toNat 2 p (some [])) ∧
      (p % 256 ≠ 0 → Deliverable s → Raises s (.launch ls d a) ⟨.align, v⟩) ∧
      (p % 128 ≠ 0 → Deliverable s → Raises s (.job ls d a) ⟨.align, v⟩)) ∧
    (d.toNat < 112 →
      (determ s s.cur = false → Acts s (.jobq ls d a)
        { dests := destOf d.toNat, mark := ls.s, stages := [submit s.cur d.toNat 3 p (some [])] }) ∧
      (determ s s.cur = true → Deliverable s → Raises s (.jobq ls d a) (bTrap s s.cur .determinism))) ∧
    (∀ (loc : Nat) (e : BitVec 128), p % 8 = 0 → Machine.translate s s.cur p .read = .hit loc e →
      globalPoison s loc 8 = none → (me s).grant = none →
      let have_ := ofBytes (overlay (ownBytes (me s).chunk loc 8) (lookBytes s loc 8))
      let n := (rd64 s s.cur b.toNat).toNat
      (n ≤ have_ → exec (.jobw ls a b) s = .next (finished (taken s) ls.s)) ∧
      (have_ < n → Sleeps s (.jobw ls a b) (.counter loc n) []))

/-- R60, R346 to R348: the TLB words act at firmware privilege on a translation service core, and are PRIV elsewhere. -/
def Obligations.TlbWordsNeedFirmware : Prop :=
  ∀ (s : State) (ls : LS) (d a b : BitVec 7), Clear s → Dest s d.toNat → Plain s a.toNat → Plain s b.toNat →
    let e := rd s s.cur a.toNat
    let c := rd64 s s.cur b.toNat
    let q := serviceQuad s.cur
    let service := 2 ^ 18 ≤ s.cur ∧ s.cur < 2 ^ 19 ∧ (me s).arch.priv = .firmware
    let m := tabGet (quad s q).misses (bits c 21 16)
    let writes := fun (answers : Bool) => [writeEntry (quadCore q (bits c 1 0)) (bits c 13 8) e answers]
    (service →
      (tlbwBad (quad s q) e c = false →
        (bits c 25 24 = 0 → Acts s (.tlbw ls a b) { mark := ls.s, stages := writes false }) ∧
        (∀ x : PMiss, m = some x →
          (bits c 25 24 = 1 → Acts s (.tlbw ls a b) { mark := ls.s, stages := writes true ++ [answerCore q (bits c 21 16) (bits c 1 0) x] }) ∧
          (bits c 25 24 = 2 → Acts s (.tlbw ls a b) { mark := ls.s, stages := [answerFault q (bits c 21 16) x .page] }) ∧
          (bits c 25 24 = 3 → Acts s (.tlbw ls a b) { mark := ls.s, stages := [answerFault q (bits c 21 16) x .perm] }))) ∧
      (tlbwBad (quad s q) e c = true → Deliverable s → Raises s (.tlbw ls a b) (bTrap s s.cur .illegal)) ∧
      (bits c 63 28 = 0 → bits c 15 6 = 0 → bits c 3 0 ≠ 0 →
        let clears := fun (hit : BitVec 128 → Bool) =>
          let l := ((upto 0 4).filter (fun i => c.getLsbD i)).map (fun i => clearEntries (quadCore q i) (fun _ e => hit e))
          Acts s (.tlbi ls a b) { mark := ls.s, stages := l }
        (bits c 5 4 = 0 → clears (fun x => entryHas x (bits c 27 16) (bits e 54 0))) ∧
        (bits c 5 4 = 1 → clears (fun x => bits x 127 116 == bits c 27 16)) ∧
        (bits c 5 4 = 2 → clears (fun _ => true))) ∧
      (c.getLsbD 31 = false → bits c 63 14 = 0 → bits c 7 2 = 0 →
        exec (.tlbr ls d b) s = .next (finished (put (taken s) d.toNat
          (tabD (Machine.core s (quadCore q (bits c 1 0))).tlb (bits c 13 8) 0)) ls.s)) ∧
      (c.getLsbD 31 = true → bits c 63 32 = 0 → bits c 30 22 = 0 → bits c 15 0 = 0 →
        exec (.tlbr ls d b) s = .next (finished (put (taken s) d.toNat ((m.map PMiss.word).getD 0)) ls.s))) ∧
    (¬ service → Deliverable s → Raises s (.tlbw ls a b) (bTrap s s.cur .priv) ∧
      Raises s (.tlbi ls a b) (bTrap s s.cur .priv) ∧ Raises s (.tlbr ls d b) (bTrap s s.cur .priv))

/-- R293, R300 to R311, R281: the words of a cached sequence. A reference at an ended position gives kind 4, one where no
version stands or will gives kind 7, and an iteration waits for a version to come; the rest act on the version. -/
def Obligations.SequenceWordsReferToVersions : Prop :=
  ∀ (s : State) (ls : LS) (d a b : BitVec 7) (key : Nat) (q : Seq), AtPoint s → Dest s d.toNat → d.toNat < 112 →
    Plain s a.toNat → Plain s b.toNat → Cached s (rd64 s s.cur a.toNat) key q →
    let x := rd s s.cur b.toNat
    let pos := bits x 31 0
    let ended := q.st = 3 ∨ q.keep ≤ pos ∨ (hasVer q pos = true ∧ verFinal s q pos = true)
    let comes := q.cp ≤ pos ∧ (iterOf s s.cur).isSome = true
    let v := verAt s q pos
    let mark := markRef s.cur key pos (genOf q pos)
    let acts := fun (i : Instr) (l : List Stage) => Acts s i { dests := destOf d.toNat, mark := ls.s, stages := l }
    let points := fun (i : Instr) (l : List Stage) => PointActs s i { dests := destOf d.toNat, mark := ls.s, stages := l }
    let tells := fun (n bound : Nat) => known s.cur d.toNat n bound
    let slice := sliceArg x
    let clean := verPoison s q pos = none
    (bits x 127 32 = 0 → (determ s s.cur = true → q.maskreq = true → q.dlcy = 0) →
      (ended → acts (.draw ls d a b) [tells (4 * 2 ^ 32 + 0xFFFFFFFF) 2280]) ∧
      (¬ ended → hasVer q pos = false → ¬ comes → acts (.draw ls d a b) [tells (7 * 2 ^ 32 + 0xFFFFFFFF) 2280]) ∧
      (¬ ended → hasVer q pos = false → comes → Sleeps s (.draw ls d a b) (.version key pos false) []) ∧
      (¬ ended → hasVer q pos = true → clean →
        (v.fqn ≠ 0 → acts (.draw ls d a b) [mark, tells (2 ^ 32 + v.fq.headD 0) 2280]) ∧
        (v.fqn = 0 → (∀ k t : Nat, (tabGet q.steps pos).bind (·.result) = some (k, t) →
          acts (.draw ls d a b) [mark, tells (k * 2 ^ 32 + t) 2280])) ∧
        (v.fqn = 0 → (tabGet q.steps pos).bind (·.result) = none →
          acts (.draw ls d a b) [mark, awaitDraw s.cur d.toNat key pos (genOf q pos)]))) ∧
    (∀ loc : Nat, slice.count ≠ 0 → slice.count % 4 = 0 → slice.count ≤ 262144 →
      nearOwn s s.cur slice.naddr (4 * slice.count) = some loc → slice.naddr % 16 = 0 →
      nearPoison s loc (4 * slice.count) = none →
      ((determ s s.cur = true → q.maskreq = true → q.dlcy = 0) →
        (ended → acts (.slicemass ls d a b) [tells (4 * 2 ^ 32) 40]) ∧
        (¬ ended → hasVer q pos = true → clean → v.fqn = 0 → q.vocab < slice.first + slice.count →
          acts (.slicemass ls d a b) [mark, tells (5 * 2 ^ 32) 40]) ∧
        (¬ ended → hasVer q pos = true → clean → v.fqn = 0 → slice.first + slice.count ≤ q.vocab → tabGet q.masks pos = none →
          acts (.slicemass ls d a b) [mark, nearRead loc (4 * slice.count), fun u => seqS [pendAwait s.cur [d.toNat],
            contribute key pos { first := slice.first, count := slice.count, loc := loc, task := (thr u s.cur).task, pend := u.fresh, logits := (words32 (lookBytes u loc (4 * slice.count))).map (BitVec.ofNat 32) },
            eff [.draw 512]] u])) ∧
      ((speculative s s.cur = true → locScratch loc = false) →
        (q.st = 3 → points (.penal ls d a b) [tells (4 * 2 ^ 32) 60]) ∧
        (q.st ≠ 3 → hasVer q pos = true → ringPoison s q (pos - q.hist) (pos - (pos - q.hist)) = none → points (.penal ls d a b) [mark, pendIn s.cur [d.toNat] none
          (.penal slice.naddr slice.first slice.count q.pfreq q.ppres (history s q pos)) (4 * q.hist + 60)]))) ∧
    (speculative s s.cur = false → bits x 63 32 = 0 → bits x 127 119 = 0 → bits x 118 64 % 64 = 0 →
      (q.st = 3 → acts (.gmask ls d a b) [tells (4 * 2 ^ 32) 420]) ∧
      (q.st ≠ 3 → hasVer q pos = true → (tabGet q.steps pos).bind (·.result) = none →
        acts (.gmask ls d a b) [eff [onSeq key (fun q => { q with masks := tabPut q.masks pos (bits x 118 64) })],
          fullCheck key pos, tells 0 420])) ∧
    (bits x 127 64 = 0 →
      (ended → points (.tokapp ls d a b) [tells (4 * 2 ^ 32 + 0xFFFFFFFF) 60]) ∧
      (¬ ended → hasVer q pos = true → clean → pos ≤ q.cp + 62 →
        let forced := v.fqn ≠ 0
        let t := if forced then v.fq.headD 0 else bits x 63 32
        let r := (if forced then v.advance else v).decode q t
        (forced ∨ bits x 63 32 < q.vocab → points (.tokapp ls d a b) [mark, appendToken s.cur key pos t (q.lastGen + 1) r.1,
          tells (t + bit (decide forced) * 2 ^ 32 + bit r.2.1 * 2 ^ 35 + bit r.2.2 * 2 ^ 36 + r.1.q.getD 14 0 * 2 ^ 48) 60]) ∧
        (¬ forced → q.vocab ≤ bits x 63 32 → points (.tokapp ls d a b) [mark, tells (7 * 2 ^ 32 + 0xFFFFFFFF) 60]))) ∧
    (speculative s s.cur = false → bits x 127 32 = 0 →
      let behalf := onBehalf s.cur key
      let gives := fun (k : Nat) => cmtResult s.cur d.toNat key k
      (q.st = 3 → points (.seqcmtCommit ls d a b) [gives 4] ∧ points (.seqcmtRewind ls d a b) [gives 4]) ∧
      (q.st ≠ 3 →
        (q.cp ≤ pos → pos ≤ q.tip → pos ≤ q.keep →
          points (.seqcmtCommit ls d a b) [behalf, seqAdvance key pos, gives 0]) ∧
        (¬ (q.cp ≤ pos ∧ pos ≤ q.tip ∧ pos ≤ q.keep) → points (.seqcmtCommit ls d a b) [gives 7]) ∧
        (q.cp ≤ pos → pos ≤ q.tip → points (.seqcmtRewind ls d a b) [behalf, seqCut key pos (pos + 1),
          eff [onSeq key (fun q => { q with tip := pos, cp := Nat.min q.cp pos })], planSeqcmtRewind.versionAtCp key,
          seqWriteBack key, seqSettle key, gives 0]))) ∧
    (∀ (o : Nat) (lp : Loop), loopAt s s.cur = some (o, lp) → (∀ i ≤ lp.req.nc, InWindow s (lp.req.b + i)) →
      (iterOf s s.cur).isSome = true → (me s).arch.carry = none → (me s).arch.priv ≠ .handler →
      Acts s (.acceptSeq ls a) { mark := ls.s, stages := [eff [onArch s.cur (fun x =>
        { x with carry := some (carried s s.cur lp.req, .seq key) })]] })

/-- R46, R68, R74 to R76, R91, R155: a round gives each slot of the rotation a position, a cycle each, and the next round
follows after max(8, n) cycles; the register file is lowered and wakes; a sleeping slot whose condition holds rejoins the
rotation, and a wait that passes its limit traps. -/
def Obligations.RoundsTurnsAndWakeUps : Prop :=
  ∀ (s : State) (c sl line : Nat),
    let x := Machine.core s c
    let l := allSlots s c
    let t := thr s sl
    (x.live = true → x.lowered = 0 → l ≠ [] →
      (∀ y ∈ l, inRotation y.2 = true ∧ y.2.wait = none ∧ y.2.notBefore ≤ s.now) →
      (∀ q ∈ s.o.quads, ∀ w ∈ q.2.waiters, w.extra = false) → offerOrder s (c / 4) = [] →
      let mine := onCore c (fun y => { y with rounds := y.rounds + 1, roundAt := s.now, live := true })
      Happens s (.roundStart c) [eff ([mine] ++ l.zipIdx.flatMap (fun y =>
          [onThr y.1.1 (fun t => { t with joining := false, notBefore := s.now + y.2 + 8 }), .post (s.now + y.2) (.turn y.1.1)]) ++
        [.post (s.now + Nat.max 8 l.length) (.ev (.roundStart c))])]) ∧
    (∀ p ∈ (turnTimes s.now l).zip l, p.1.1 = p.2.1 ∧ s.now ≤ p.1.2 ∧ p.2.2.notBefore ≤ p.1.2) ∧
    (turnTimes s.now l).Pairwise (fun p q => p.2 < q.2) ∧
    (x.live = false → Nothing s (.roundStart c)) ∧
    Happens s (.icacheFill c line) [eff [onCore c (fun y => { y with lines := setAdd y.lines line })]] ∧
    (∀ n : Nat, x.idleFrom = some n → n + 64 ≤ s.now → x.lowered = 0 → x.sleepcfg ≠ 0 →
      (∀ y ∈ l, active y.2 = false) →
      Happens s (.regfileLower c) [eff [onCore c (fun y => { y with lowered := 1, depth := y.sleepcfg })]]) ∧
    Happens s (.regfileWake c) [eff [onCore c (fun y => { y with lowered := 0, idleFrom := none })]] ∧
    (t.st = .sleeping → waitHolds s sl t = true →
      ((t.wait ≠ some .fpHold ∧ ∀ n : Nat, t.wait ≠ some (.window n)) →
        Happens s (.sleepWake sl) [eff [rejoin sl], fpCheck sl]) ∧
      (t.wait = some .fpHold →
        Happens s (.sleepWake sl) [eff [onThr sl (fun t => { woken t with latch := t.kept, kept := false })]]) ∧
      (∀ n : Nat, t.wait = some (.window n) →
        (t.cur < t.arch.t → Happens s (.sleepWake sl) [eff [onThr sl (regrown s sl), .draw 128], settle sl]) ∧
        (t.arch.t ≤ t.cur →
          Happens s (.sleepWake sl) [eff [onThr sl (fun t => woken { t with cur := Nat.max t.cur n })]]))) ∧
    (t.st ≠ .sleeping ∨ waitHolds s sl t = false → Nothing s (.sleepWake sl)) ∧
    (∀ dl : Nat, occupied s sl = true → t.outer = none → t.wait = some (.latchUntil dl) → t.st = .sleeping → t.latch = false →
      dl ≤ s.now →
      Happens s (.waittTimeout sl) [eff [onThr sl (fun t => { t with grant := some 0 })], eff [rejoin sl], fpCheck sl]) ∧
    (∀ loc : Nat, t.wait = some (.word loc) → t.st = .sleeping → t.grant = none → t.waitlim ≠ 0 →
      t.waitlim.toNat < t.waitCount →
      Happens s (.waitLimit sl) [eff [dropWaiter (locQuad loc) (fun w => w.slot == sl && w.req.isNone), rejoin sl],
        raiseTrap sl (nTrap .waitLimit (ownAddress s sl loc)) t.arch.pc])

/-- R77, R185, R370: an ended chunk with no pending register enters its trap; a containment decided outside issue reaches
its slot, and the end of the scrub frees it; an enabled floating-point event ends the chunk; and a bundle that is no
instruction raises its trap as a whole. -/
def Obligations.TrapsAndContainmentsArrive : Prop :=
  ∀ (s : State) (sl : Nat),
    let t := thr s sl
    (∀ (tr : Trap) (pc : BitVec 64), t.after = .trap tr pc → anyPending t = false → t.chunk.st ≠ .validating →
      Happens s (.trapEntry sl) [eff ([onThr sl (trapEntered tr pc)] ++ (if t.raised = 0 then [] else [.post s.now (.ev (.fpEvent sl))]))]) ∧
    (∀ (code : BitVec 8) (info : BitVec 64) (cls : BitVec 2) (c : Code), outsideCode code.toNat = some c →
      occupied s sl = true → t.st ≠ .quarantined →
      Happens s (.quarantine sl code info cls)
        [contain sl { code := c, outside := true, cls := cls.toNat, pc := t.arch.pc, info := info }]) ∧
    (occupied s sl = true → t.st = .quarantined →
      Happens s (.quarantineDone sl) [eff [.obj (fun o => { o with slots := tabDel o.slots sl })], offer (quadOf sl)]) ∧
    (occupied s sl = true → t.raised ≠ 0 → (t.st = .ready ∨ t.st = .trapped ∨ t.st = .parked) → t.after = .nothing →
      t.chunk.st ≠ .validating → Happens s (.fpEvent sl) [endChunk sl .fpHold]) ∧
    (∀ (b : BitVec 64) (c : Code), encodingTrap s b = some c → Deliverable s →
      Raises s (.encodingNotInstruction b) ⟨c, b⟩)

/-- R144 to R148, R268, R269: an ended chunk with global accesses goes to the slices once its loads are served; released,
with no word that it read changed since, it commits; with one changed, it is discarded and runs again, and after three
times as a held chunk whose words are reserved in one step. -/
def Obligations.ChunksValidateCommitAndRetry : Prop :=
  ∀ (s : State) (sl : Nat), occupied s sl = true →
    let t := thr s sl
    let c := t.chunk
    (c.st = .validating → c.sent = false →
      (loadsOut t = true → Happens s (.chunkValidate sl) [eff [.post (s.now + 4) (.ev (.chunkValidate sl))]]) ∧
      (loadsOut t = false →
        let d := Config.digest (digestItems s sl)
        let key := keyNum (taskOf s sl)
        let sends := [eff [onThr sl (fun x => { x with chunk := { x.chunk with sent := true }, digest := [d] })], pairDigests sl]
        let comes := [evIn (ctxOf s sl) (commitBound s sl) (.chunkCommit sl)]
        ((recOf s sl).twin = false → Happens s (.chunkValidate sl) (sends ++ comes)) ∧
        ((recOf s sl).twin = true → Happens s (.chunkValidate sl) (sends ++
          [eff [onMod (fun m => { m with twinOwn := m.twinOwn ++ [(t.kernel, key, c.index, d)] })],
            sendReply (.digest t.kernel key c.index d),
            fun u => if twinUnequal u t.kernel key c.index then [.post u.now (.ev (.twinHalt (ctxOf s sl)))] else []] ++ comes)))) ∧
    (c.st = .validating → c.sent = true → c.blocked = false →
      (released s sl = false ∨ haltedAt s sl = true →
        Happens s (.chunkCommit sl) [eff ([onChunk sl (fun x => { x with blocked := true })] ++
          (if offerOrder s (quadOf sl) = [] then [] else [.post s.now (.ev (.classPreempt (quadOf sl)))]))]) ∧
      (released s sl = true → haltedAt s sl = false →
        (∀ (y : Epoch) (w : Nat), epochClash s sl = some (y, w) →
          Happens s (.chunkCommit sl) [determContain sl (some y) (vaOf s (ctxOf s sl) w)]) ∧
        (epochClash s sl = none →
          (c.firm = false → c.stale = true ∨ conflicts s c = true →
            Happens s (.chunkCommit sl) [eff [.post s.now (.ev (.chunkDiscard sl))]]) ∧
          (c.firm = true ∨ (c.stale = false ∧ conflicts s c = false) →
            (epochOver s sl = true → Happens s (.chunkCommit sl)
              [determContain sl none (2 ^ 63 + vaOf s (ctxOf s sl) ((c.reads ++ c.writes ++ c.reds).headD 0))]) ∧
            (epochOver s sl = false → unequal s sl = false →
              Happens s (.chunkCommit sl) [recordEpoch sl, commitChunk sl,
                if t.partner.isSome ∧ c.atPoint = true then eff [onChunk sl (fun c => { c with equal := true })] else skip,
                awaitMirror sl, afterCommit sl, if c.resvd then kick else skip]) ∧
            (epochOver s sl = false → unequal s sl = true →
              (c.unequal = 0 → Happens s (.chunkCommit sl) [discardChunk sl,
                eff [onChunk sl (fun x => { x with tries := c.tries, held := c.held, unequal := 1 })]]) ∧
              (c.unequal ≠ 0 → Happens s (.chunkCommit sl) [contain sl
                { code := .mismatch, outside := true, pc := t.start.pc, info := t.start.pc, w5 := t.digest.headD 0 }])))))) ∧
    (c.st = .validating →
      (c.firm = true → Nothing s (.chunkDiscard sl)) ∧
      (c.firm = false →
        (conflicts s c = false → Happens s (.chunkDiscard sl) [discardChunk sl,
          eff [onChunk sl (fun x => { x with tries := c.tries, held := c.held })]]) ∧
        (conflicts s c = true → c.tries < 2 → Happens s (.chunkDiscard sl) [discardChunk sl]) ∧
        (conflicts s c = true → 2 ≤ c.tries → Happens s (.chunkDiscard sl) [discardChunk sl,
          eff [onChunk sl (fun c => { c with resvd := false }), .post s.now (.ev (.heldChunkReserve sl))]]))) ∧
    (3 ≤ c.tries → c.st ≠ .validating →
      ((∀ w ∈ c.held, tabGet s.o.resv w = none ∨ tabGet s.o.resv w = some sl) →
        Happens s (.heldChunkReserve sl) [eff [.obj (fun o => { o with resv := c.held.foldl (fun t w => tabPut t w sl) o.resv }),
          onChunk sl (fun c => { c with resvd := true })]]) ∧
      (∀ (w : Nat) (x : Nat), w ∈ c.held → tabGet s.o.resv w = some x → x ≠ sl →
        Happens s (.heldChunkReserve sl) [eff [.post (s.now + 16) (.ev (.heldChunkReserve sl))]]))

/-- R93 to R95, R338, R340: a pre-emption stops the slot's issue; once what is outstanding has settled its image is
written and the slot is FREE; and a resumed task has what was withdrawn issued again. -/
def Obligations.PreemptionSavesAndResumes : Prop :=
  ∀ (s : State) (sl : Nat),
    let t := thr s sl
    (occupied s sl = true →
      (t.st ≠ .quarantined → t.stop = false → t.st ≠ .shadow →
        Happens s (.preemptionRequest sl) [stopFor sl .preempted, eff [.unpost (isLatheIssue sl)],
          fun u => [.post (u.now + 1) (.ev (.preemptionComplete sl))]]) ∧
      (t.st = .shadow → t.stop = false → ∀ p : Nat, t.partner = some p →
        Happens s (.preemptionRequest sl) [eff [.post s.now (.ev (.preemptionRequest p))]]) ∧
      (t.st = .quarantined ∨ t.stop = true → Nothing s (.preemptionRequest sl)) ∧
      (t.stop = true →
        let first := [withdraw t.task, if gated s sl then giveUp sl else skip]
        (settled (run first s) sl = true →
          Happens s (.preemptionComplete sl) (first ++ [withdrawDraws sl, saveTask sl,
            if t.leave = .yields then takeSlot t.kernel t.task sl t.partner else skip, offer (quadOf sl)])) ∧
        (settled (run first s) sl = false →
          Happens s (.preemptionComplete sl) (first ++ [fun u => [.post (u.now + 8) (.ev (.preemptionComplete sl))]])))) ∧
    (∀ (tk : Nat) (x : Task), task? s tk = some x →
      (x.slot = some sl → t.stop = true → x.image = none → t.st ≠ .quarantined →
        Happens s (.resumption tk sl) [reissue sl]) ∧
      (∀ im : Thread, x.image = some im → occupied s sl = false → (x.st = .saved ∨ x.st = .waiting) → x.slot ≠ some sl →
        let lost := frameLost s (kernel s x.kernel).ctx x.frame 196608 x.savedAt
        (lost = true → (coresFor s x = none ∨ coresFor s x = some (coreOf sl, none)) →
          Happens s (.resumption tk sl) [imageLost tk x x.frame]) ∧
        (lost = false → coresFor s x = none → Nothing s (.resumption tk sl)) ∧
        (lost = false → coresFor s x = some (coreOf sl, none) →
          Happens s (.resumption tk sl) [resumeTask tk sl none])))

/-- R71, R124, R147, R157, R344: a pending result is written and its record goes; a load reads what its line holds when the
slice serves it, under the chunk's own stores; a global atomic changes its word in one step and sends the old value back; a
stream's next unit enters its FIFO; and a miss joins its page's entry of the pending table, or takes a free one. -/
def Obligations.ResultsArriveAndUnitsFetch : Prop :=
  (∀ (s : State) (sl task id d : Nat) (v : Word) (p : Pend) (x : Task), task? s task = some x → x.slot = some sl →
    occupied s sl = true → pendOf s task id = some p → p.dests = [d] →
    let t := thr s sl
    let gone := eff [onTaskThr task (fun t => { t with pend := t.pend.filter (fun q => q.id != id) })]
    (∀ (fl : BitVec 5), p.op = .value [v] none fl →
      Happens s (.pendingResultWrite task id) [writeResults task p [v], addFlags task p.committed fl, gone, settle sl]) ∧
    (p.op = .value [v] none 0 → 0 < d → d < 112 → t.arch.strm d = none → p.committed = false → t.st = .ready →
      t.after = .nothing → t.raised = 0 →
      exec (.pendingResultWrite task id) s = .next { s with o := { s.o with slots := tabUpd s.o.slots sl (fun t =>
        { t with arch := t.arch.setReg d v, pend := t.pend.filter (fun q => q.id != id) }) } }) ∧
    (∀ (loc : Nat) (sz : BitVec 3) (own : List (Option Byte)) (va : BitVec 64) (tracked : Bool), p.op = .load loc sz own va tracked →
      s.o.flips = [] → s.o.poison = [] →
      let w := loadValue sz.toNat (overlay own (memRead s.mem loc (sizeBytes sz.toNat)))
      Happens s (.pendingResultWrite task id)
        [writeResults task p [w], eff [onTaskThr task (leaderTakes [w])], gone, settle sl]) ∧
    (∀ (loc : Nat) (op : Nat) (a b : Dword) (va : BitVec 64), p.op = .atom loc op a b va → s.o.flips = [] → s.o.poison = [] →
      tabGet s.o.resv (loc / 8) = none → (∀ f ∈ gates s sl, t.chunk.ts ≤ f) →
      (∀ q ∈ t.pend.takeWhile (fun q => q.id != id), atomOut q = false) →
      let w := memWord s.mem loc
      let new := if op = 7 then (if w = b then a else w) else atomOp op w a
      Happens s (.globalAtomicExecute task id)
        [fun u => [.store loc (bytesOf 8 new.toNat), .commit [loc / 8]] ++
            answer task id [w.setWidth 128] (lat u (kernel s x.kernel).ctx 0 (loadBound sl loc)) u ++ [.draw 1],
          mirrorFor task [(loc, 8)], countMoved x.kernel 8, wakeCounters, kick])) ∧
  (∀ (s : State) (sl r : Nat) (y : Strm), (thr s sl).arch.strm r = some y → y.write = false →
    let n := y.pos + y.fifo.length
    let push := fun (v : Unit16) => eff [onArch sl (fun a => a.onStrm r (fun z => { z with fifo := z.fifo ++ [v] }))]
    (y.fifo.length < 8 → n < y.total → y.fifo.any Unit16.isFault = false →
      (∀ v : Unit16, y.global = false → streamUnit s sl y (y.addr n) = .ok v →
        Happens s (.streamUnitFetch sl r) [nearRead (((nearAt s sl (y.addr n).toNat).map (·.loc)).getD 0) 16, push v,
          if n + 1 < y.total ∧ y.fifo.length + 1 < 8 ∧ v.isFault = false then evIn (ctxOf s sl) 12 (.streamUnitFetch sl r) else skip]) ∧
      (∀ v : Unit16, y.global = true → s.o.flips = [] → streamUnit s sl y (y.addr n) = .ok v →
        Happens s (.streamUnitFetch sl r) [push v, countMoved (thr s sl).kernel 16,
          if n + 1 < y.total ∧ y.fifo.length + 1 < 8 ∧ v.isFault = false then evIn (ctxOf s sl) 640 (.streamUnitFetch sl r) else skip]) ∧
      (streamUnit s sl y (y.addr n) = .error none →
        Happens s (.streamUnitFetch sl r) [eff [.post (s.now + 8) (.ev (.streamUnitFetch sl r))]])) ∧
    (8 ≤ y.fifo.length ∨ y.total ≤ n ∨ y.fifo.any Unit16.isFault = true → Nothing s (.streamUnitFetch sl r))) ∧
  (∀ (s : State) (sl va acc : Nat), occupied s sl = true →
    let q := quadOf sl
    let tid := ctxOf s sl
    (∀ (i : Nat) (m : PMiss), pendingEntry (quad s q) tid va = some (i, m) →
      Happens s (.tlbMiss sl va acc) [eff [onQuad q (fun x => { x with misses := tabUpd x.misses i (fun m =>
        { m with cores := setAdd m.cores (coreOf sl % 4), acc := setAdd m.acc acc }) })]]) ∧
    (pendingEntry (quad s q) tid va = none →
      (∀ i : Nat, tabFree (quad s q).misses 0 64 = some i →
        Happens s (.tlbMiss sl va acc) [fun u =>
          [onQuad q (fun x => { x with misses := tabPut x.misses i ⟨BitVec.ofNat 64 va, tid, [coreOf sl % 4], [acc]⟩ }),
            .post (u.now + lat u tid 0 1500) (.walk q i), .draw 1],
          signalSlot (tscSlot q)]) ∧
      (tabFree (quad s q).misses 0 64 = none → Nothing s (.tlbMiss sl va acc))))

/-- R140, R155, R210, R218, R219, R272, R273: a request takes effect at its quad in one step and its answer sets out, or
waits in its word's queue; an arrival takes effect at a die barrier; a deadline closes a phase; a batch of an ordered
channel hands out its values; and two SWAPTs that meet exchange their regions. -/
def Obligations.RequestsReachQuadsAndBarriers : Prop :=
  (∀ (s : State) (req : Nat) (r : NearReq), tabGet s.o.near req = some r →
    let waits := eff [.obj (fun o => { o with near := tabUpd o.near req (fun r => { r with waiting := true }) })]
    (r.waiting = true → Nothing s (.remoteNearArrival req)) ∧
    (r.waiting = false →
      (∀ (kind : Nat) (v : Word), r.op = .chan kind v → Happens s (.remoteNearArrival req) [chanArrives req r kind v]) ∧
      (∀ (l : List Stage) (vs : List Word), nearStep s r.loc r.op = some (l, vs) →
        (r.op.reads ≠ 0 → nearPoison s r.loc r.op.reads = none) →
        ((∀ sz, r.op ≠ .ldtr sz) → (∀ kind v, r.op ≠ .chan kind v) →
          Happens s (.remoteNearArrival req) (l ++ [replyNear req (vs.headD 0) none])) ∧
        (∀ sz, r.op = .ldtr sz →
          let gone : Eff := .obj (fun o => { o with near := tabDel o.near req })
          (r.pend = none → Happens s (.remoteNearArrival req) (l ++ [eff [gone, .draw 2]])) ∧
          (∀ p : Nat, r.pend = some p →
            Happens s (.remoteNearArrival req) (l ++ [fun u => gone :: answer r.task p vs (wayBack u r) u ++ [.draw 2]])))) ∧
      (∀ (kind : Nat) (v : Dword), r.op = .fe kind v → nearStep s r.loc r.op = none →
        let w : Waiter := { loc := r.loc, kind := kind, slot := r.slot, req := some req, value := v, chan := none }
        Happens s (.remoteNearArrival req) [joinQueue w, waits]) ∧
      (∀ c : Nat, r.op.reads ≠ 0 → (∀ kind v, r.op ≠ .chan kind v) → nearPoison s r.loc r.op.reads = some c →
        (nearStep s r.loc r.op).isSome = true →
        Happens s (.remoteNearArrival req) [replyBad req c]))) ∧
  (∀ (s : State) (req : Nat) (r : BarSend), tabGet s.o.barSends req = some r →
    (∀ x ∈ s.agenda, x.1 ≤ s.now → ∀ (q : Nat) (y : BarSend), x.2 = .ev (.dieBarrierArrival q) →
      tabGet s.o.barSends q = some y → ¬ (y.kernel = r.kernel ∧ y.die = r.die ∧ y.bar = r.bar ∧ y.slot < r.slot)) →
    Happens s (.dieBarrierArrival req) [eff [.obj (fun o => { o with barSends := tabDel o.barSends req })],
      barEffect r.kernel r.die r.bar r.task r.kind]) ∧
  (∀ (s : State) (k home n x : Nat),
    let b := barOf s k home n
    b.dl = some x →
    (x + s.o.mod.zero ≤ s.now → b.c < b.p →
      Happens s (.barrierDeadline k home n) [barComplete k home n false (b.p - b.c)]) ∧
    (s.now < x + s.o.mod.zero ∨ b.p ≤ b.c → Nothing s (.barrierDeadline k home n))) ∧
  (∀ (s : State) (k c loc : Nat) (r : OrdReq),
    let x := kernel s k
    let n := tabD x.ordDone c 0
    let v := memWord s.mem loc
    (batchOver s k n = false → Nothing s (.ordatomBatchClose k c)) ∧
    (ctxXlat s x.ctx (x.lrec.ordptr + 8 * c) .write = .ok loc → s.o.flips = [] → tabHas s.o.kernels k = true → batchOver s k n = true → tabD x.ord c [] = [r] → r.interval ≤ n →
      Happens s (.ordatomBatchClose k c) [
        eff [onKernel k (fun y => { y with ordDone := tabPut y.ordDone c (n + 1), ord := tabMod y.ord c [] (fun l => l.filter (fun r => decide (n < r.interval))) })],
        fun u => storeMarked u loc (bytesOf 8 (v + r.addend).toNat) ++ [.commit [loc / 8]], mirrorOut [(loc, 8)], wakeCounters,
        fun u => answer r.task r.pend [v.setWidth 128] (lat u x.ctx 0 300) u ++ [.draw 1],
        fun u => [.draw 1] ++ if batchOver u k (n + 1) then [.post u.now (.ev (.ordatomBatchClose k c))] else []])) ∧
  (∀ (s : State) (sl : Nat) (p r : Pend) (ea n eb m : Nat), swapMeets s sl = true →
    let q := partnerSlot sl
    swapOf (thr s sl) = some (p, ea, n) → swapOf (thr s q) = some (r, eb, m) →
    let tell := fun (v : Nat) => [deliver (thr s sl).task p.id (wd v) 0, deliver (thr s q).task r.id (wd v) 0]
    (n ≠ m → Happens s (.swaptMatch sl) (tell 0)) ∧
    (∀ la lb : Nat, n = m → nearOwn s sl ea n = some la → nearOwn s q eb n = some lb → nearPoison s la n = none →
      nearPoison s lb n = none →
      Happens s (.swaptMatch sl) ([nearRead la n, nearRead lb n, fun u => storeMarked u la (lookBytes s lb n), fun u => storeMarked u lb (lookBytes s la n)] ++ tell n)))

/-- R186, R190, R193: with its last word captured a lathe starts, or is idle where the count is 0; a word issues each cycle
that the pipe serves it; and its result is written, after the last of which the lathe is IDLE. -/
def Obligations.LatheRunsItsWords : Prop :=
  ∀ (s : State) (sl : Nat),
    let a := (thr s sl).arch
    let l := a.lathe
    (l.st = .capturing → l.n ≤ l.words.length →
      (l.count = 0 → Happens s (.latheCapture sl)
        [eff [onArch sl (fun x => { x with lathe := { x.lathe with st := .idle, words := [] } })]]) ∧
      (l.count ≠ 0 → Happens s (.latheCapture sl) [eff [onArch sl (fun x => { x with lathe := { x.lathe with
          st := .running, preds := (upto 0 8).map a.pred, round := a.round, next := 0, units := [], last := [], set := setAddAll x.lathe.set (latheSet l l.words) } }),
        .post (s.now + 1) (.ev (.latheWordIssue sl))]])) ∧
    (l.st = .capturing → l.words.length < l.n → Nothing s (.latheCapture sl)) ∧
    (l.st = .running → l.next < l.n * l.count →
      (latheTurn s sl = true → ∀ v : VWord, captured (advanced l (l.next / l.n)) (l.words.getD (l.next % l.n) 0) = some v →
        (∀ x ∈ v.fields, a.strm x.f = none) → Happens s (.latheWordIssue sl) [latheEffect sl v]) ∧
      (latheTurn s sl = false → Happens s (.latheWordIssue sl)
        [eff [.post (if (Machine.core s (coreOf sl)).latheAt = s.now + 1 then s.now + 1 else s.now) (.ev (.latheWordIssue sl))]])) ∧
    (l.st ≠ .running ∨ l.n * l.count ≤ l.next → Nothing s (.latheWordIssue sl)) ∧
    (∀ (r : LatheRes) (w : Nat × Word), l.flight = [r] → r.writes = [w] → l.st = .running → l.n * l.count ≤ l.next →
      Happens s (.latheWordResult sl) [
        eff [onArch sl (fun a => a.setReg w.1 w.2)], wrFlags sl (thr s sl).fxmask r.flags,
        eff [onThr sl (fun t => { t with late := t.late || (r.flags &&& t.fxmask) != 0, arch := { t.arch with lathe :=
          { t.arch.lathe with st := .idle, flight := [], set := [], words := [], units := [] } } })], settle sl]) ∧
    (∀ (r : LatheRes) (rest : List LatheRes), l.flight = r :: rest → l.st ≠ .running →
      Happens s (.latheWordResult sl) (r.writes.map (fun w => eff [onArch sl (fun a => a.setReg w.1 w.2)]) ++
        [wrFlags sl (thr s sl).fxmask r.flags,
        eff [onThr sl (fun t => { t with late := t.late || (r.flags &&& t.fxmask) != 0, arch := { t.arch with lathe :=
          { t.arch.lathe with flight := rest, set := if rest = [] then [] else t.arch.lathe.set } } })], settle sl]))

/-- R195, R196, R201, R212, R213: the first waiting operation of a matrix queue starts when no operation under way uses its
anvils; on its completion it acts on its anvil and its place is free; an operation from another core is refused, or queued and
answered. -/
def Obligations.MatrixQueueRunsItsOperations : Prop :=
  ∀ (s : State) (c : Nat),
    (∀ op : MxOp, (Machine.core s c).mq.find? (fun m => !m.started) = some op →
      let k := ((task? s op.task).map (·.kernel)).getD 0
      (mayStart s c op = true → Happens s (.matrixOpStart c) [opRace op, fun u =>
        [onCore c (fun x => { x with mq := x.mq.map (fun m => if m.id = op.id then { m with started := true } else m) }),
          .post (u.now + lat u (kernel u k).ctx 0 (op.kind.bound + if op.copies then 24 else 0)) (.ev (.matrixOpComplete c op.id)),
          .post u.now (.ev (.matrixOpStart c)), .draw 1],
        if (kernel s k).measuring then eff [onKernel k (fun x => { x with matrix := x.matrix + op.kind.busy })] else skip]) ∧
      (mayStart s c op = false → Nothing s (.matrixOpStart c))) ∧
    (∀ (id sl : Nat) (op : MxOp) (t : Task), (Machine.core s c).mq.find? (fun m => m.id == id && m.started) = some op →
      task? s op.task = some t → t.slot = some sl → op.remote = none →
      let gone := eff [onCore c (fun x => { x with mq := x.mq.filter (fun m => m.id != id) })]
      let again := eff [.post s.now (.ev (.matrixOpStart c))]
      let acts := fun (a : Nat) (f : Anvil → Anvil) =>
        Happens s (.matrixOpComplete c id) [gone, eff [writeAnvil sl op.committed a f], again]
      let gives := fun (v : Word) (fl : BitVec 5) =>
        Happens s (.matrixOpComplete c id) [gone, deliver op.task op.pend v fl, again]
      (∀ (a : Nat) (b : Int), op.kind = .aclr a b → acts a (fun _ => Anvil.cleared b)) ∧
      (∀ d a : Nat, op.kind = .copy d a → acts d (fun _ => anvilOf (thr s sl) a)) ∧
      (∀ d a : Nat, op.kind = .aadd d a → acts d (fun x => x.addAnvil (anvilOf (thr s sl) a))) ∧
      (∀ (m n k x a b f : Nat) (sc : Nat × Nat) (p : Nat) (old : List (Nat × Dword)),
        op.kind = .mma m n k x a b f sc p old → s.o.poison = [] → s.o.flips = [] →
        Happens s (.matrixOpComplete c id) [gone,
          fun u => [writeAnvil sl op.committed x (mmaApply u sl m n k a b f sc p old)], again]) ∧
      (∀ (d a mode : Nat) (ctl : Word), op.kind = .arnd d a mode ctl →
        gives (arndValue (anvilOf (thr s sl) a) mode ctl).1 (arndValue (anvilOf (thr s sl) a) mode ctl).2) ∧
      (∀ d a : Nat, op.kind = .status d a → gives (anvilOf (thr s sl) a).status 0) ∧
      (∀ (d a : Nat) (ctl : Word), op.kind = .raw d a ctl →
        gives (((anvilOf (thr s sl) a).at (bits ctl 7 0)).raw (ctl.getLsbD 8)) 0)) ∧
    (∀ (req : Nat) (r : MxReq), tabGet s.o.mxReqs req = some r →
      let gone := eff [.obj (fun o => { o with mxReqs := tabDel o.mxReqs req })]
      (mxTarget s r = none → Happens s (.remoteMatrixArrival req) [gone, deliver r.task r.pend 1 0]) ∧
      (∀ (tk : Nat) (t : Thread) (x : Task), mxTarget s r = some tk → taskThr? s tk = some t → task? s tk = some x →
        (∀ v : Nat, commandAt s r t = .error v → Happens s (.remoteMatrixArrival req) [gone, deliver r.task r.pend (wd v) 0]) ∧
        (∀ k : MxKind, commandAt s r t = .ok k → x.slot = none →
          Happens s (.remoteMatrixArrival req) [eff [onTask tk (fun x => { x with heldReqs := x.heldReqs ++ [req] }),
            .obj (fun o => { o with mxReqs := tabUpd o.mxReqs req (fun y => { y with held := true }) })]]) ∧
        (∀ (k : MxKind) (sl : Nat), commandAt s r t = .ok k → x.slot = some sl →
          let op : MxOp := { id := req, task := tk, kind := k, pend := r.pend, remote := some r.task }
          (queueFull s (coreOf r.target) = true →
            Happens s (.remoteMatrixArrival req) [eff [.post (s.now + 1) (.ev (.remoteMatrixArrival req))]]) ∧
          (queueFull s (coreOf r.target) = false →
            Happens s (.remoteMatrixArrival req) [gone, enqueue (coreOf r.target) op,
              if r.add = none ∧ r.held = false then deliver r.task r.pend 0 0 else skip]))))

/-- R231, R235, R238, R365, R367: a graph unit accepts a launch record or a billet under a fresh id, or refuses it with its
code; a kernel whose predecessors are over is READY and is offered to the distributor; it completes when its last group has
ended, which increments its counter and frees its successors. -/
def Obligations.GraphUnitsAcceptAndComplete : Prop :=
  (∀ (s : State) (req : Nat) (r : SubReq), tabGet s.o.subs req = some r →
    let gone := eff [.obj (fun o => { o with subs := tabDel o.subs req })]
    let reply := fun (v : Word) (u : State) => answer r.task r.pend [v] (lat u r.ctx 0 60) u ++ [.draw 1]
    let id := nextId s r.die
    let saying := fun (l : List Stage) => Happens s (.graphUnitReceive req) (gone :: l)
    (r.kind = 0 →
      let j := judgeLaunch s r.die r.ctx r.bytes false
      (j.1 = 0 → saying [acceptKernel r.die id j.2 r.queue (Nat.min j.2.lrec.prio r.cls) r.root false,
        eff [rememberNode r.task id], reply (subResult id 0 r.determ)]) ∧
      (j.1 ≠ 0 → saying [reply (subResult 0 j.1 r.determ)])) ∧
    (r.kind = 1 →
      (r.bytes = none → saying [reply (subResult 0 6 r.determ)]) ∧
      (∀ bs : List Byte, r.bytes = some bs →
        (billetFieldBad bs = true → saying [reply (subResult 0 1 r.determ)]) ∧
        (billetFieldBad bs = false → 1024 ≤ nodesOn s r.die → saying [reply (subResult 0 7 r.determ)]) ∧
        (billetFieldBad bs = false → nodesOn s r.die < 1024 → saying [acceptBillet r.die id (parseBillet bs) r,
          eff [rememberNode r.task id], reply (subResult id 0 r.determ)]))) ∧
    (r.kind = 2 →
      (oldestFaulted s r.ctx r.die r.addr = none → saying [reply 1]) ∧
      (∀ b : Nat, oldestFaulted s r.ctx r.die r.addr = some b → saying [
        eff [onBillet b (fun x => { x with st := .ready, readyAt := s.fresh }), .draw 1], evNow (.billetStart r.die), reply 0])) ∧
    (3 ≤ r.kind → saying [reply (jobWord s r.ctx r.die r.addr)])) ∧
  (∀ (s : State) (k busy bytes : Nat),
    let x := kernel s k
    (x.st = .waiting → x.preds = [] → Happens s (.kernelReady k)
      [eff [onKernel k (fun y => { y with st := .ready, readyAt := s.fresh }), .draw 1], distribute x.die]) ∧
    (x.st ≠ .waiting ∨ x.preds ≠ [] → Nothing s (.kernelReady k)) ∧
    (x.st = .running → x.left = 0 → Happens s (.kernelComplete k)
      [eff [onKernel k (fun y => { y with st := .done, dbars := [] })], kernelFreed k, bumpCounter x.ctx (x.queue, x.root) x.lrec.counter,
        nodeDone k, kernelEgress k 17 (BitVec.ofNat 256 k) [], evNow (.recordPost k), queueSettle x.queue, roomFreed]) ∧
    (x.measuring = true → let cy := x.matrix - busy; let moved := x.moved - bytes
      0 < cy ∨ 0 < moved → Happens s (.classifyEnd k busy bytes) [eff [onKernel k (fun x => { x with
        measuring := false
        intens := if moved ≤ 4 * cy then .compute else if 16 * cy < moved then .memory else .neutral }), .draw 1]]) ∧
    (x.lrec.determ = true → (∀ l ∈ s.o.loops, l.2.kernel ≠ k) → ∀ f : Nat, floorOf s (domainTasks s k) = some f →
      (x.floor < f → Happens s (.floorChange k) [eff [onKernel k (fun x => { x with floor := f, epoch := [] })], kick]) ∧
      (f ≤ x.floor → Happens s (.floorChange k) [kick])))

/-- R244 to R250, R262, R270: the distributor serves the first kernel of its order in one transaction, which places groups
and makes their tasks, or places none; a quad's free slots go to its waiting tasks in their order, to a higher class by
pre-emption, or by taking a gated slot. -/
def Obligations.GroupsArePlacedAndTasksDispatched : Prop :=
  ∀ (s : State) (k q : Nat),
    let x := kernel s k
    (nextKernel s x.die = some k → Happens s (.placementStart k) [
      served x,
      eff [onKernel k (fun x => { x with busy := true, st := if x.st = .ready then .placing else x.st, l2p := ((ctx? s x.ctx).map (·.l2p)).getD [] })],
      postIn x.ctx 3800 (.ev (.placementEnd k))]) ∧
    (nextKernel s x.die ≠ some k → Nothing s (.placementStart k)) ∧
    (x.busy = true → x.st = .placing → x.suspending = false →
      let l := placement s k ((tableQuads x.l2p).map (quadRoom s))
      let measured := !x.lrec.place && !((ctx? s x.ctx).map (fun c => c.cfg.isolated)).getD true
      (l = [] → Happens s (.placementEnd k) [
        eff [onKernel k (fun y => { y with busy := false, tried := true, st := .ready, measuring := y.measuring })],
        eff [onKernel k (fun y => { y with suspending := false })], distribute x.die]) ∧
      (l ≠ [] → Happens s (.placementEnd k) ([
        eff [onKernel k (fun y => { y with busy := false, tried := false, st := .running, measuring := y.measuring || measured })]] ++
        l.map (placeOne k) ++ [eff [.post s.now (.ev (.floorChange k)), .post s.now (.ev (.recordPost k))],
        eff [onKernel k (fun y => { y with suspending := false })],
        if x.lrec.gang = true then dispatchFrom (fun s => kernelTasks s k) (l.length * x.lrec.threads) else skip,
        distribute x.die]))) ∧
    (x.busy = true → x.st = .placing → x.suspending = true →
      let l := placement s k ((tableQuads x.l2p).map (quadRoom s))
      let measured := !x.lrec.place && !((ctx? s x.ctx).map (fun c => c.cfg.isolated)).getD true
      l ≠ [] → Happens s (.placementEnd k) ([
        eff [onKernel k (fun y => { y with busy := false, tried := false, st := .running, measuring := y.measuring || measured })]] ++
        l.map (placeOne k) ++ [eff [.post s.now (.ev (.floorChange k)), .post s.now (.ev (.recordPost k))],
        eff [onKernel k (fun y => { y with suspending := false, st := .suspended
                                           groups := tabMap y.groups (fun _ g => if g.st = .placed then { g with st := .suspended } else g) })],
        distribute x.die])) ∧
    (∀ (t : Nat × Task) (c sl : Nat), offerOrder s q ≠ [] → (offerOrder s q).head? = some t → coresFor s t.2 = some (c, none) →
      freeSlotOf s c = some sl → (∀ y ∈ s.o.slots, ∀ n : Nat, y.2.wait ≠ some (.window n)) →
      Happens s (.taskDispatch q) [dispatch t.1 t.2 sl none, dispatchN q 255, kick, askRoom q,
        distribute 0, distribute 1, distribute 2, distribute 3]) ∧
    (∀ (t : Nat × Task) (v : Nat), (offerOrder s q).find? (fun x => (classVictim s x.2).isSome) = some t →
      coresFull s (quadCores s q) = true →
      classVictim s t.2 = some v → Happens s (.classPreempt q) [eff [.post s.now (.ev (.preemptionRequest v))]]) ∧
    (coresFull s (quadCores s q) = false ∨ (∀ t ∈ offerOrder s q, classVictim s t.2 = none) →
      Happens s (.classPreempt q) [eff [.post s.now (.ev (.gatedSlotTake q))]]) ∧
    (∀ (t : Nat × Task) (v : Nat), (offerOrder s q).head? = some t → slotsFull s t.2 = true → gatedVictim s t.2 = some v →
      Happens s (.gatedSlotTake q) [giveUp v, stopFor v .gated, evNow (.preemptionComplete v)])

/-- R335 to R337: at the end of a quantum the next context with work is switched to, or the same one begins another; a
switch waits until the outgoing context has drained, saves its state and loads the incoming one. -/
def Obligations.QuadsAreTimeShared : Prop :=
  ∀ (s : State) (c n : Nat) (x out : Ctx), ctx? s c = some out → ctx? s n = some x →
    (out.st = .resident → out.switching = false → out.cfg.isolated = false →
      let next := nextTurn (rotationSet s out.cfg) c (fun y => y != c && hasWork s y)
      (next = none → Happens s (.quantumEnd c) [startQuantum c]) ∧
      (next = some n → Happens s (.quantumEnd c) [
        eff [onCtx c (fun y => { y with switching := true })],
        fun u => (ctxSlots u c).map (fun y => .post u.now (.ev (.preemptionRequest y.1))), startQuantum n,
        evNow (.quadSwitch n)])) ∧
    (out.st ≠ .resident ∨ out.switching = true ∨ out.cfg.isolated = true → Nothing s (.quantumEnd c)) ∧
    ((rotationSet s x.cfg).find? (fun y => y.2.st == .resident && y.1 != n) = some (c, out) →
      (out.switching = false → x.st = .out → Nothing s (.quadSwitch n)) ∧
      (out.switching = true → x.st = .out → drained s c = false →
        Happens s (.quadSwitch n) [eff [.post (s.now + 16) (.ev (.quadSwitch n))]]) ∧
      (out.switching = true → x.st = .out → drained s c = true → Happens s (.quadSwitch n) [
        seqS ((partQuads out.cfg.partDies out.cfg.partQuads).map (saveQuad c)),
        eff [onCtx c (fun y => { y with st := .out, switching := false })], loadCtx n x])) ∧
    ((rotationSet s x.cfg).find? (fun y => y.2.st == .resident && y.1 != n) = none →
      (x.st = .out → (∀ y ∈ s.agenda, y.2 ≠ .ev (.quantumEnd n)) → Happens s (.quadSwitch n) [loadCtx n x, startQuantum n]) ∧
      (x.st = .out → (∃ y ∈ s.agenda, y.2 = .ev (.quantumEnd n)) → Happens s (.quadSwitch n) [loadCtx n x])) ∧
    (x.st ≠ .out → Happens s (.quadSwitch n) [turnFrom n x.cfg])

/-- R293, R302 to R305: a sequence is bound from its record, or the bundles that wait for it trap; an ENDED one unbinds once
nothing refers to it; a complete step's maximum goes back to its contributors, the root draws its token once the masses are
in, and an attempt whose mask is late ends with DEFERRED. -/
def Obligations.SequencesBindAndDraw : Prop :=
  ∀ (s : State) (cid addr p : Nat),
    let key := seqKey cid addr
    (∀ (sl : Nat) (ws : List Nat), bindWaiters s key = sl :: ws →
      let cache := eff ((sl :: ws).map (fun w => cacheSid (coreOf w) key))
      let k := kernel s (thr s sl).kernel
      let traps := fun (tr : Trap) =>
        Happens s (.seqBind cid addr) [eff ((sl :: ws).map (fun w => onThr w (fun t => { t with fault := some tr })))]
      (tabHas s.o.seqs key = true → Happens s (.seqBind cid addr) [cache]) ∧
      (tabHas s.o.seqs key = false →
        (∀ c : Code, ctxXlat s cid addr .read = .error c → traps (nTrap c addr)) ∧
        (∀ loc : Nat, ctxXlat s cid addr .read = .ok loc → (s.o.seqs.filter (fun x => locDie x.2.loc == locDie loc)).length < 4096 →
          s.o.flips = [] → s.o.poison = [] →
          let bs := memRead s.mem loc 256
          let q := seqOf cid addr loc bs
          (recordBad q bs = true → traps (nTrap .seq addr)) ∧
          (recordBad q bs = false → Happens s (.seqBind cid addr)
            [bindRecord key { q with root := k.root, queue := k.queue } false, cache])))) ∧
    (bindWaiters s key = [] → Nothing s (.seqBind cid addr)) ∧
    (∀ q : Seq, tabGet s.o.seqs key = some q →
      (q.st ≠ 3 → Nothing s (.seqUnbind cid addr)) ∧
      (q.st = 3 → seqInUse s key q = true →
        Happens s (.seqUnbind cid addr) [eff [.post (s.now + 1000) (.ev (.seqUnbind cid addr))]]) ∧
      (q.st = 3 → seqInUse s key q = false → Happens s (.seqUnbind cid addr) [unbindSeq key]) ∧
      (∀ x : DrawStep, tabGet q.steps p = some x →
        let v := verAt s q p
        let slices := tabMap x.slices (fun _ c => c.chosen s)
        let m := slices.foldl (fun m c => (c.2.logits.zipIdx).foldl (fun m l =>
          if allowed s q p v (c.2.first + l.2) l.1 then maxLogit m l.1 else m) m) none
        let ws := fun c => sliceWeights s q p v m c
        let known := verPoison s q p = none ∧ ∀ c ∈ x.slices, maskPoison s q p c.2.first c.2.count = none
        let gives := fun (k t : Nat) => Happens s (.drawRoot cid addr p) [stepResult key p k t]
        let all := x.slices.flatMap (fun c => (c.2.weights.zipIdx).map (fun w => (c.1 + w.2, w.1)))
        let mass := total (all.map (·.2))
        (stepFull q p x = true → known → Happens s (.drawMaxReturn cid addr p) (
          [eff [onStep key p (fun x => { x with m := some m, slices := tabMap slices (fun _ c => { c with weights := ws c }) })]] ++
          slices.map (fun c => answerMass cid c.2 (ws c.2)) ++ x.dropped.map (fun c => answerMass cid c (ws (c.chosen s))) ++
          [fun u => [.post (u.now + lat u cid 0 1000) (.ev (.drawRoot cid addr p)), .draw q.vocab]])) ∧
        (stepFull q p x = false → Nothing s (.drawMaxReturn cid addr p)) ∧
        (x.m ≠ none → x.result = none → x.slices.length = q.nslices →
          (tiles q.vocab 0 x.slices = false → gives 5 0xFFFFFFFF) ∧
          (tiles q.vocab 0 x.slices = true → mass = 0 → gives 3 0xFFFFFFFF) ∧
          (tiles q.vocab 0 x.slices = true → mass ≠ 0 → gives 0 (pickToken (drawBits q p * mass / 2 ^ 64) 0 all))) ∧
        (x.result = none → tabHas q.masks p = false → Happens s (.maskDeadline cid addr p x.attempt)
          [endWaiting x 2, eff [onStep key p (fun x => { gen := x.gen, attempt := x.attempt + 1 })]])))

/-- R283, R372 to R375: the oldest waiting record is posted to its kernel's ring; RESTART and ABANDON act on a CONTAINED
task, SETCSR on one in FP hold, and every command's result stands in word 7; a kernel without a living supervisor has its
records sent to the host. -/
def Obligations.SupervisorsReadRecordsAndCommand : Prop :=
  ∀ (s : State) (k e : Nat),
    let x := kernel s k
    (∀ (r : SRec) (rest : List SRec), x.recs = r :: rest →
      (x.lrec.super = none ∨ superGone s k = true → ringBase s k = none ∨ x.posted = [] →
        Happens s (.recordPost k) [eff [.post s.now (.ev (.recordToHost k))]]) ∧
      (∀ base : Nat, x.lrec.super ≠ none → superGone s k = false → ringBase s k = some base → x.posted = [] →
        let n := x.ringAt % 32
        let loc := base + 64 * n
        let w := freshSlot s r
        isFull s loc = false → ∀ (t : Nat × Task), superTask s k = some t → Happens s (.recordPost k) [
          fun u => storeMarked u (loc + 8) (((w.words.drop 1) ++ [0]).flatMap (fun (v : Dword) => bytesOf 8 v.toNat)) ++
            [setFull (loc + 56) false] ++ putWord u loc w.word0 ++ [setFull loc true,
              onKernel k (fun y => { y with recs := rest, posted := tabPut y.posted n w, ringAt := (n + 1) % 32 })],
          drain (loc + 56), drain loc, eff [onTaskThr t.1 (fun y => { y with latch := true })], evNow (.recordPost k)]) ∧
      (x.lrec.super = none ∨ superGone s k = true →
        let w := freshSlot s r
        Happens s (.recordToHost k) [eff [onKernel k (fun y => { y with recs := rest })], kernelEgress k 19 w.body [],
          if w.code = .fpEnabled then (if inHold s w.task = true then eff [endHold w.task] else skip)
          else if contained s w = true then abandon w.task else skip,
          if rest = [] then skip else evNow (.recordToHost k)])) ∧
    (x.recs = [] → Nothing s (.recordToHost k)) ∧
    (entryCommand s k e = none → Nothing s (.supervisorRestart k e) ∧ Nothing s (.supervisorAbandon k e) ∧
      Nothing s (.supervisorSetcsr k e) ∧ Nothing s (.supervisorUnknown k e)) ∧
    (∀ (r : SRec) (v w : Dword), entryCommand s k e = some (r, v, w) →
      let cmd := bits w 63 56
      (bits w 55 0 = 0 → cmd = 1 →
        (misfit r = true ∨ r.kind = 2 → Happens s (.supervisorRestart k e) [cmdResult k e 1]) ∧
        (misfit r = false → r.kind ≠ 2 → contained s r = true → Happens s (.supervisorRestart k e) [restart r.task, cmdResult k e 0]) ∧
        (misfit r = false → r.kind ≠ 2 → contained s r = false → Happens s (.supervisorRestart k e) [cmdResult k e 3])) ∧
      (bits w 55 0 = 0 → cmd = 2 →
        (misfit r = true → Happens s (.supervisorAbandon k e) [cmdResult k e 1]) ∧
        (misfit r = false → contained s r = true → Happens s (.supervisorAbandon k e) [abandon r.task, cmdResult k e 0]) ∧
        (misfit r = false → contained s r = false → Happens s (.supervisorAbandon k e) [cmdResult k e 3])) ∧
      (bits w 55 0 = 0 → cmd = 3 →
        (inHold s r.task = false → Happens s (.supervisorSetcsr k e) [cmdResult k e 1]) ∧
        (inHold s r.task = true → setcsrBad v = true → Happens s (.supervisorSetcsr k e) [cmdResult k e 2]) ∧
        (inHold s r.task = true → setcsrBad v = false →
          let set := fun (a : Arch) => { a with fxflags := v.setWidth 5, round := v.extractLsb' 16 4 }
          let csrs := onTaskThr r.task (fun t => { t with arch := set t.arch, start := set t.start, fxmask := v.extractLsb' 8 5 })
          (v.getLsbD 31 = true → Happens s (.supervisorSetcsr k e) [eff [csrs, endHold r.task], cmdResult k e 0]) ∧
          (v.getLsbD 31 = false → Happens s (.supervisorSetcsr k e) [eff [csrs], cmdResult k e 0]))) ∧
      (bits w 55 0 ≠ 0 ∨ cmd = 0 ∨ 3 < cmd → Happens s (.supervisorUnknown k e) [cmdResult k e 1]))

/-- R360, R363, R364: billets whose predecessors are over take free engines; a unit reads and writes as one chunk of its
own; a billet that is DONE increments its counter and frees its successors and its engine. -/
def Obligations.EnginesRunTheirBillets : Prop :=
  (∀ (s : State) (d n : Nat) (b : Billet), s.o.billets = [(n, b)] → b.die = d → b.st = .waiting → b.preds = [] →
    d < 4 → (die s d).engines < 64 → Happens s (.billetStart d) [
      eff [onBillet n (fun x => { x with st := .ready, readyAt := s.fresh }), .draw 1],
      eff [onBillet n (fun x => { x with st := .running }), onDie d (fun x => { x with engines := x.engines + 1 })],
      evIn b.ctx 64 (.engineUnit n)]) ∧
  (∀ (s : State) (n : Nat) (b : Billet), tabGet s.o.billets n = some b →
    (b.st = .running → engineStalled s b = true →
      Happens s (.engineUnit n) [eff [.post (s.now + 100) (.ev (.engineUnit n))]]) ∧
    (b.st = .running → engineStalled s b = false →
      (∀ (c : Code) (a : Int), b.unitWork s b.unit = .error (c, a) → Happens s (.engineUnit n) [billetFaults n b c a]) ∧
      (∀ work : List (Option Nat × Nat × List Byte), b.unitWork s b.unit = .ok work → s.o.flips = [] → s.o.poison = [] →
        Happens s (.engineUnit n) [ownChunk b.ctx (b.queue, b.root) (joinRuns (work.map (·.2))),
          eff [onBillet n (fun x => { x with unit := x.unit + 1 })],
          if b.units ≤ b.unit + 1 then evNow (.billetDone n) else evIn b.ctx 64 (.engineUnit n)])) ∧
    (b.st ≠ .running → Nothing s (.engineUnit n) ∧ Nothing s (.billetDone n)) ∧
    (b.st = .running → b.units ≤ b.unit → Happens s (.billetDone n) [
      eff [onBillet n (fun x => { x with st := .done }), onDie b.die (fun d => { d with engines := d.engines - 1 })],
      bumpCounter b.ctx (b.queue, b.root) b.counter, nodeDone n, evNow (.billetStart b.die)]))

/-- R381, R384 to R392: the link sends the entries of a ring up to its doorbell; what arrives from a peer commits as a chunk
of its own and is answered; acknowledgements move the mirror on; twins that differ, or whose link is away, are halted;
ports train, fail and lose their links; and a die boundary takes its spare lanes. -/
def Obligations.LinksCarryAndAnswer : Prop :=
  (∀ (s : State) (c ring : Nat) (x : Ctx), reachable s c = true → ctx? s c = some x →
    let sent := (tabD x.rings ring {}).sent
    Happens s (.sendRingSend c ring) ((upto sent ((doorbellOf s c ring + 2 ^ 64 - sent) % 2 ^ 64)).map (fun i =>
      sendOne c ring (i % 2 ^ 64)))) ∧
  (∀ (s : State) (c peer addr read : Nat) (data : List Byte) (x : Ctx), ctx? s c = some x → reachable s c = true → data ≠ [] →
    data.length ≤ 8192 →
    (∀ l : List (Nat × List Byte), peerMay x true peer addr data.length = true → writesAt s c addr data = some l → s.o.flips = [] →
      Happens s (.peerInboundPacket c peer addr read data) [ownChunk c (noCause s c) l, sendReply (.peerAnswer peer true)]) ∧
    (peerMay x true peer addr data.length = false ∨ writesAt s c addr data = none →
      Happens s (.peerInboundPacket c peer addr read data) [sendReply (.peerAnswer peer false)])) ∧
  (∀ (s : State) (c peer addr n : Nat) (x : Ctx), ctx? s c = some x → reachable s c = true → 0 < n → n ≤ 2 ^ 24 →
    (∀ bs : List Byte, peerMay x false peer addr n = true → linkBytes s c addr n = some bs → s.o.flips = [] →
      Happens s (.peerInboundPacket c peer addr n []) [sendReply (.peerData peer bs), eff [.draw 1]]) ∧
    (peerMay x false peer addr n = false ∨ linkBytes s c addr n = none →
      Happens s (.peerInboundPacket c peer addr n []) [sendReply (.peerAnswer peer false)])) ∧
  (∀ (s : State) (c ring i counter : Nat) (x : Ctx) (r : RingSt), ctx? s c = some x → tabGet x.rings ring = some r →
    tabGet r.out i = some counter → Happens s (.peerAck c ring i) [
      eff [onCtx c (fun x => { x with rings := tabUpd x.rings ring (fun r => { r with out := tabDel r.out i }) })],
      bumpCounter c (r.queue, r.root) counter]) ∧
  (∀ (s : State) (c ring : Nat) (data : List Byte) (x : Ctx) (r : RingCfg), ctx? s c = some x → x.peer.recvs[ring]? = some r →
    reachable s c = true → data ≠ [] → data.length ≤ 2 ^ 24 →
    let off := Config.freeNat (s.fresh + 1)
    let entry := bytesOf 4 0 ++ bytesOf 4 data.length ++ bytesOf 8 off ++ List.replicate 48 0
    let put := writesAt s c (r.base + 64 * (x.recvCount % r.count)) entry
    (∀ l e : List (Nat × List Byte), Config.freeBool s.fresh = false → writesAt s c (r.base + off) data = some l → put = some e →
      Happens s (.inboundSend c ring data) [eff [.draw 2], ownChunk c (noCause s c) l, ownChunk c (noCause s c) e,
        bumpCounter c (noCause s c) r.word,
        eff [onCtx c (fun x => { x with recvCount := x.recvCount + 1 })], sendReply (.peerAnswer r.peer true)]) ∧
    (Config.freeBool s.fresh = true ∨ writesAt s c (r.base + off) data = none ∨ put = none →
      Happens s (.inboundSend c ring data) [eff [.draw 2], sendReply (.peerAnswer r.peer false)])) ∧
  (∀ (s : State) (n a : Nat) (data : List Byte), linkUp s PortUse.mirrors = true →
    (mirroring s = true → Happens s (.mirrorAck n)
      [eff [onMod (fun m => { m with mirrorAcked := Nat.min m.mirrorSent (m.mirrorAcked + n) })], releaseHeldOut]) ∧
    (s.o.mod.st = .ready →
      let loc := mirrorLoc a
      let l := upto (lineOf loc) (lineOf (loc + data.length - 1) + 1 - lineOf loc)
      Happens s (.mirrorWriteReceive a data none) [fun s => storeMarked s loc data, sendReply (.mirrorAck a data.length)] ∧
      ∀ c : BitVec 2, Happens s (.mirrorWriteReceive a data (some c)) [fun s => storeMarked s loc data,
        eff [.obj (fun o => { o with poison := l.foldl (fun t x => tabPut t x c.toNat) o.poison })],
        sendReply (.mirrorAck a data.length)]) ∧ Nothing s .mirrorBreak) ∧
  (∀ s : State, mirroring s = true → linkUp s PortUse.mirrors = false →
    (linkAway s PortUse.mirrors 95000000 = true ∨ 2 ^ 26 ≤ s.o.mod.mirrorHeld) → Happens s .mirrorBreak
      [eff [onMod (fun m => { m with mirrorBroken := true, mirrorHeld := 0 })], releaseHeldOut, noticeAll (fun _ => true)]) ∧
  (∀ (s : State) (k key i : Nat) (d : BitVec 64), (kernel s k).lrec.twin = true → linkUp s PortUse.twins = true →
    Happens s (.twinDigest k key i d) [eff [onMod (fun m => { m with twinSeen := m.twinSeen ++ [(k, key, i, d)] })],
      fun u => if twinUnequal u k key i = true then [.post u.now (.ev (.twinHalt (kernel u k).ctx))] else [], kick]) ∧
  (∀ (s : State) (c : Nat) (x : Ctx), ctx? s c = some x → x.st ≠ .dead → x.cfg.twin = true → x.halted = false →
    (diverged s c = true ∨ linkAway s PortUse.twins 1900000 = true →
      let told := ((s.o.kernels.filter (fun k => k.2.ctx == c && k.2.lrec.twin && k.2.pending)).map (fun k => (k.2.queue, k.2.root))).eraseDups
      Happens s (.twinHalt c) ([
      eff [onCtx c (fun y => { y with halted := true }), .obj (fun o => { o with kernels := tabMap o.kernels (fun _ k =>
        if k.ctx = c ∧ k.lrec.twin ∧ k.pending then { k with st := .halted } else k) })]] ++
      (if told = [] then [noCause s c] else told).map (fun q => notice c q.1 q.2))) ∧
    (diverged s c = false → linkAway s PortUse.twins 1900000 = false → Nothing s (.twinHalt c))) ∧
  (∀ (s : State) (p : Nat), p < 16 →
    let x := port s p
    (x.st = .training →
      (PortUse.mirrors x.use = false →
        Happens s (.portTrainingDone p true) [eff [onPort p (fun y => { y with st := .up, fails := 0 })]]) ∧
      (x.fails + 1 < 3 → Happens s (.portTrainingDone p false) [eff [onPort p (fun y => { y with fails := y.fails + 1 })]]) ∧
      (3 ≤ x.fails + 1 → Happens s (.portTrainingDone p false) [eff [onPort p (fun y => { y with st := .failed, fails := 3 })],
        noticeAll (fun c => c.cfg.partDies.getLsbD (p / 4))])) ∧
    (x.st = .up → Happens s (.portLinkLoss p)
      [eff [onPort p (fun y => { y with st := .training, fails := 0, downAt := s.now })], awayTimers x.use])) ∧
  (∀ (s : State) (b : Nat), b < 4 →
    let n := tabD s.o.mod.lanes b 0 + 1
    let count := onMod (fun m => { m with lanes := tabPut m.lanes b n })
    (n ≤ Config.spareLanes b → Happens s (.laneFail b) [eff [count]]) ∧
    (Config.spareLanes b < n → Happens s (.laneFail b) [eff [count], eff [.post s.now (.ev .moduleReset)]]))

/-- R356, R394, R395, R399, R400: a reset leaves only the firmware image, its fuses and the boot count; the image is
verified, the links train, every memory is scrubbed, and the module is READY; alarms act by the quench level; power above
the cap throttles, and heat lowers the cap and resets the module; and the patrol reads its line. -/
def Obligations.TheModuleComesUpAndIsGuarded : Prop :=
  ∀ (s : State) (d : Nat),
    let m := s.o.mod
    Happens s .moduleReset [eff [.obj (fun o => { ({} : Objs) with outbox := o.outbox, mod := { st := .verify, image := m.image, rollback := m.rollback, boots := (m.boots + 1) % 2 ^ 64, zero := s.now } }),
      .unpost (fun a => !a.outside)],
      fun u => [.post (u.now + within u 0 38000000000) (.ev .firmwareVerify), .draw 1]] ∧
    (m.st = .verify →
      let good := Config.verifies m.image.version.toNat m.image.digests m.image.signature = true ∧ m.rollback ≤ m.image.version.toNat
      (good → Happens s .firmwareVerify [eff [onMod (fun m => { m with st := .training, running := s.o.mod.image, rollback := Nat.max m.rollback s.o.mod.image.version.toNat })]]) ∧
      (¬ good → Happens s .firmwareVerify [eff [onMod (fun m => { m with st := .recovery })]])) ∧
    (m.st = .training → Happens s .linksTrained [eff [onMod (fun m => { m with st := .scrub })]]) ∧
    (m.st = .scrub → ∀ maps : List (BitVec 576), mapsOk maps = true → Happens s (.scrubComplete maps)
      [eff (wipe 0 (2 ^ 48) ++ [.restart, onMod (fun m => { m with st := .ready, attest := true }),
        .obj (fun o => { o with
          dies := Vector.ofFn (fun i => { harvest := maps.getD i.val 0, power := (o.dies[i]).power, temp := (o.dies[i]).temp })
          ports := o.ports.map (fun p => { p with st := .training, fails := 0, downAt := s.now }) })])]) ∧
    (∀ maps : List (BitVec 576), m.st ≠ .scrub ∨ mapsOk maps = false → Nothing s (.scrubComplete maps)) ∧
    (∀ source : BitVec 4, d < 4 → source ≠ 0 → source.toNat ≤ 3 → m.st ≠ .reset →
      let told := eff [onMod (fun m => { m with alarms := m.alarms + 1, source := source })]
      (m.qlevel = 0 → Happens s (.sensorAlarm d source) [told]) ∧
      (m.qlevel = 1 → Happens s (.sensorAlarm d source) [told, noticeAll (fun _ => true)]) ∧
      (m.qlevel = 2 → Happens s (.sensorAlarm d source) [told, quench]) ∧
      (3 ≤ m.qlevel → Happens s (.sensorAlarm d source) [told, quench, eff [.post s.now (.ev .moduleReset)]])) ∧
    (∀ mw : List Nat, m.st = .ready →
      let u := run [eff [.obj (fun o => { o with dies := Vector.ofFn (fun i => { o.dies[i] with power := mw.getD i.val 0 }) }),
        onMod (fun m => if m.throttle = .off then m else { m with throttledUs := m.throttledUs + 1000 })]] s
      (capNow m < powerNow u → m.throttle = .off → exec (.powerWindow mw) s = .next (run [
        eff [onMod (fun m => { m with throttle := .shared, throttleFrom := s.now }), .post (s.now + 19000000) (.ev .throttleEscalate)]] u)) ∧
      (capNow m < powerNow u → m.throttle ≠ .off → exec (.powerWindow mw) s = .next u) ∧
      (powerNow u ≤ capNow m → exec (.powerWindow mw) s = .next (run [eff [onMod (fun m => { m with throttle := .off })]] u))) ∧
    (m.throttle = .shared → m.throttleFrom + 19000000 ≤ s.now → Happens s .throttleEscalate
      [eff [onMod (fun m => { m with throttle := .all })], noticeAll (fun c => c.cfg.isolated)]) ∧
    (∀ mc : Nat, d < 4 →
      let hot := onMod (fun m => { m with hot := decide (105000 ≤ mc) || ((upto 0 4).any (fun i => i != d && decide (105000 ≤ (die s i).temp))) })
      (mc < 115000 ∨ m.st = .reset → Happens s (.junctionTemperature d mc) [eff [onDie d (fun x => { x with temp := mc }), hot]]) ∧
      (115000 ≤ mc → m.st ≠ .reset → Happens s (.junctionTemperature d mc)
        [eff [onDie d (fun x => { x with temp := mc }), hot, .post s.now (.ev .moduleReset)]])) ∧
    (∀ line : Nat, locGlobal (line * 64) = true → Happens s (.patrolRead line) [lineRead line])

/-- What a command of a context's own queue comes to: with SEQ equal to NEXTSEQ it is accepted and NEXTSEQ advances; a SEQ
above it is a GAP; one below it is answered from the journal (R324 to R326). -/
def Sys2Proof.Says.Accepted (cid : Nat) (i : BitVec 512 → Instr) (code : Nat → Prop) (v : BitVec 512 → State → Queue → Verdict) : Prop :=
  ∀ (s : State) (m : BitVec 512) (x : Queue) (c : Ctx), code (msgCode m) → s.o.mod.st = .ready → ctx? s cid = some c →
    let q := msgQueue m
    tabGet s.o.queues q = some x → x.cid = cid →
    let bump := onQueue q (fun x => { x with nextseq := x.nextseq + 1 })
    let saying := fun (st jsn : Nat) (r : BitVec 64) =>
      Happens s (i m) [sendReply (.reply q (msgCode m) st (msgSeq m) x.nextseq jsn r [])]
    (msgSeq m = x.nextseq →
      (msgZeros m = true → x.st ≠ .closing → Happens s (i m) [accept q m bump (v m s x)]) ∧
      (msgZeros m = false → Happens s (i m) [accept q m bump { status := 3 }]) ∧
      (msgZeros m = true → x.st = .closing → Happens s (i m) [accept q m bump { status := 6 }])) ∧
    (x.nextseq < msgSeq m → saying 2 0 0) ∧
    (msgSeq m < x.nextseq →
      (∀ e : JEntry, entryFor s q x.since (msgSeq m) = some e → saying 1 e.jsn e.result) ∧
      (entryFor s q x.since (msgSeq m) = none → saying 5 0 0))

/-- R323 to R327, R330: the commands of a context's queues, and what each gives: LAUNCH, STOP, SUSPEND, RESUME, KILL and
SET-PRIORITY; a code that no command has is accepted with BADCMD and no effect; READ-JOURNAL answers from what the journal
holds. -/
def Obligations.HostCommandsAreCheckedAndCarriedOut : Prop :=
  (∀ cid : Nat, cid ≠ 0 →
    Says.Accepted cid (.hostLaunch cid) (· = 1) (launchVerdict cid) ∧
    Says.Accepted cid (.hostStop cid) (· = 2) (stopVerdict cid) ∧
    Says.Accepted cid (.hostSuspend cid) (· = 3) suspendVerdict ∧
    Says.Accepted cid (.hostResume cid) (· = 4) resumeVerdict ∧
    Says.Accepted cid (.hostKill cid) (· = 5) killVerdict ∧
    Says.Accepted cid (.setPriority cid) (· = 6) priorityVerdict ∧
    Says.Accepted cid (.unknownCodeCommand cid) (fun c => c = 0 ∨ 7 < c) (fun _ _ _ => { status := 3 })) ∧
  (∀ (s : State) (cid : Nat) (m : BitVec 512) (x : Queue),
    let a := msgArg m 24 8
    let id := msgArg m 24 4
    let mine := s.o.kernels.filter (fun k => k.2.queue == msgQueue m)
    (∀ c : Ctx, ctx? s cid = some c → a % 256 = 0 → msgArg m 32 4 = 0 →
      let j := judgeLaunch s (lowDie c) cid (ctxBytes s cid a 256 .read) (decide (256 ≤ hostKernels s (msgQueue m)))
      let k := nextId s (lowDie c)
      (j.1 = 0 → launchVerdict cid m s x = { result := k, effect :=
        [acceptKernel (lowDie c) k j.2 (msgQueue m) (Nat.min j.2.lrec.prio x.cls) (msgSeq m) true] }) ∧
      (j.1 ≠ 0 → launchVerdict cid m s x = { result := j.1 * 2 ^ 32 })) ∧
    (∀ q : Seq, tabGet s.o.seqs (seqKey cid a) = some q → q.addr = a →
      stopVerdict cid m s x = { result := q.cp, effect := [stopSeq (seqKey cid a) (msgArg m 32 4 + 1) (msgSeq m)] }) ∧
    (msgArg m 28 8 = 0 → id ≠ 2 ^ 32 - 1 → ∀ k : Nat × Kernel, mine.find? (fun k => k.1 == id) = some k →
      (suspendable k.2 = true → suspendVerdict m s x = { result := 1, effect := [suspendKernel id] }) ∧
      (k.2.st = .suspended → resumeVerdict m s x = { result := 1, effect := [resumeKernel id] }) ∧
      (killable k.2 = true → killVerdict m s x = { result := 1, effect := [killKernel id] }) ∧
      (killable k.2 = false → killVerdict m s x = {})) ∧
    (msgArg m 24 1 ≤ 7 → msgArg m 25 11 = 0 → (priorityVerdict m s x).result = x.cls) ∧
    (s.o.mod.st = .ready → msgCode m = 7 → cid ≠ 0 → ∀ c : Ctx, ctx? s cid = some c →
      let own := s.o.queues.filter (fun x => x.2.cid == cid)
      let saying := fun (v : Verdict) (next : Nat) => Happens s (.readJournal cid m)
        [sendReply (.reply (msgQueue m) 7 v.status (msgSeq m) next 0 (BitVec.ofNat 64 v.result) v.follow)]
      (own.find? (fun x => x.1 == msgQueue m) = none → saying { status := 6 } 0) ∧
      (∀ y : Nat × Queue, own.find? (fun x => x.1 == msgQueue m) = some y →
        saying (journalAnswer m s (own.map (fun y => (y.1, y.2.nextseq, y.2.since)))) y.2.nextseq)))

/-- What a management command with the next SEQ comes to: its verdict's status, under a RESULT that the spec does not give,
and its effect (R325, R396). -/
def Sys2Proof.Says.Managed (i : BitVec 512 → Instr) (code : Nat) (v : State → Verdict) : Prop :=
  ∀ (s : State) (m : BitVec 512), msgCode m = code → managed s code = true → msgQueue m = 1023 →
    msgSeq m = s.o.mod.mgmtSeq → msgZeros m = true → msgArg m 32 4 = 0 →
    Happens s (i m) [accept 1023 m (onMod (fun x => { x with mgmtSeq := x.mgmtSeq + 1 }))
      { v s with result := Config.freeNat s.fresh }, eff [.draw 1]]

/-- R331 to R334, R339, R350, R381, R385, R392, R396 to R401: the management commands and their verdicts: what is outside
its limits is BADCMD, what the state does not allow is STATE, and the rest is carried out. -/
def Obligations.ManagementCommandsAreCarriedOut : Prop :=
  (∀ (cfg : CtxCfg) (cid port watts level : Nat) (page : PageCfg) (u : PortUse) (peer : PeerCfg) (cids : List (BitVec 16))
    (nonce : BitVec 256) (image : FirmwareImage),
    Says.Managed (fun m => .contextCreate m cfg) 32 (createVerdict cfg) ∧
    Says.Managed (fun m => .contextChange m cfg) 33 (changeVerdict cfg) ∧
    Says.Managed (fun m => .contextKill m cid) 34 (killCtxVerdict cid) ∧
    Says.Managed (fun m => .contextDestroy m cid) 35 (destroyVerdict cid) ∧
    Says.Managed (fun m => .map m cid page) 36 (mapVerdict cid page) ∧
    Says.Managed (fun m => .portConfig m port u) 37 (portConfigVerdict port u) ∧
    Says.Managed (fun m => .peerWindow m cid peer) 38 (peerVerdict cid peer) ∧
    Says.Managed (fun m => .portReset m port) 39 (portResetVerdict port) ∧
    Says.Managed (fun m => .powerCap m watts) 40 (capVerdict watts) ∧
    Says.Managed (fun m => .quenchLevel m level) 41 (quenchVerdict level) ∧
    Says.Managed (fun m => .readSensors m cids) 42 (sensorsVerdict cids) ∧
    Says.Managed (fun m => .quote m nonce cid) 43 (quoteVerdict nonce cid) ∧
    Says.Managed (fun m => .firmwareLoad m image) 44 (firmwareVerdict image)) ∧
  (∀ (s : State) (cfg : CtxCfg) (cid port watts level : Nat) (page : PageCfg) (cids : List (BitVec 16)) (image : FirmwareImage),
    (limitsOk s cfg = false → createVerdict cfg s = { status := 3 } ∧ changeVerdict cfg s = { status := 3 }) ∧
    (limitsOk s cfg = true → tabHas s.o.ctxs cfg.cid = true → createVerdict cfg s = { status := 6 }) ∧
    (1 ≤ cid → cid ≤ 4095 →
      (∀ x : Ctx, ctx? s cid = some x →
        (x.st = .resident ∨ x.st = .out → killCtxVerdict cid s = { effect := [killCtx cid] }) ∧
        (x.st = .dead → destroyVerdict cid s =
          { effect := [eff [.obj (fun o => { o with ctxs := tabDel o.ctxs cid })]] }) ∧
        (x.st ≠ .dead → destroyVerdict cid s = { status := 6 }) ∧
        (x.st = .resident → tabGet x.pages page.va = none → page.map = true → pageOk x page = true →
          (∀ q ∈ x.pages, pagesMeet page q.2 = false) → pageResident s cid page = false →
          mapVerdict cid page s = { effect := [eff [onCtx cid (fun y => { y with pages := tabPut y.pages page.va page })]] })) ∧
      (ctx? s cid = none → killCtxVerdict cid s = { status := 6 } ∧ destroyVerdict cid s = { status := 6 })) ∧
    (port < 16 → (s.o.ports.toList.getD port {}).st = .failed →
      portResetVerdict port s = { effect := [eff [onPort port (fun x => { x with st := .training, fails := 0 })]] }) ∧
    (900 ≤ watts → watts ≤ 1700 → capVerdict watts s = { effect := [eff [onMod (fun m => { m with cap := watts })]] }) ∧
    (watts < 900 ∨ 1700 < watts → capVerdict watts s = { status := 3 }) ∧
    (level ≤ 3 → s.o.mod.qlevel < level →
      quenchVerdict level s = { effect := [eff [onMod (fun m => { m with qlevel := level })]] }) ∧
    ((cids.take 37).all (fun c => c.extractLsb' 12 4 == 0) = true →
      sensorsVerdict cids s = { effect := [eff [.draw 12]], follow := pieces8 8 (sensorWords s cids) }) ∧
    (s.o.mod.st = .recovery → firmwareVerdict image s =
      { effect := [eff [onMod (fun m => { m with image := image })], evNow .moduleReset] }))

/-! ## The whole machine -/

namespace Sys2Proof.Says

/-- Nothing but one register differs, and what the end of a bundle changes: the PC, TURNS, the chunk's count and the
slot's own marks. Memory, the other registers, the predicates, the CSRs, the tags, streams, lathe and anvils, every
other slot and every other object are as they were; a hearth register is its core's (R104). -/
structure OnlyRegister (s t : State) (d : Nat) : Prop where
  slot : t.cur = s.cur
  memory : ∀ a, memGet t.mem a = memGet s.mem a
  regs : ∀ r, r < 112 → r ≠ d → (me t).arch.reg r = (me s).arch.reg r
  preds : (me t).arch.preds = (me s).arch.preds
  rest : (me t).arch = { (me s).arch with pc := (me t).arch.pc, regs := (me t).arch.regs }
  csrs : (me t).fxmask = (me s).fxmask ∧ (me t).waitlim = (me s).waitlim ∧ (me t).trapvec = (me s).trapvec ∧
    (me t).trappc = (me s).trappc ∧ (me t).trapcode = (me s).trapcode ∧ (me t).trapinfo = (me s).trapinfo ∧
    (me t).l2pidx = (me s).l2pidx ∧ (me t).latch = (me s).latch
  others : ∀ x, x ≠ s.cur → tabGet t.o.slots x = tabGet s.o.slots x
  objects : t.o = { s.o with slots := t.o.slots, cores := t.o.cores }
  cores : d < 112 → t.o.cores = s.o.cores
  hearths : ∀ c h, ¬ (c = coreOf s.cur ∧ h = d - 112) →
    tabGet (Machine.core t c).hearth h = tabGet (Machine.core s c).hearth h
  journal : t.journal = s.journal ∧ t.commits = s.commits ∧ t.lastWrite = s.lastWrite ∧ t.now = s.now

/-- The destination and the sources of a word that computes one register from others. -/
def registerWord : Instr → Option (BitVec 7 × List (BitVec 7))
  | .add d a b _ | .sub d a b _ | .mul d a b _ | .mulh d a b _ | .and d a b _ | .or d a b _ | .xor d a b _
  | .shl d a b _ | .shr d a b _ | .sar d a b _ | .rot d a b _ | .min d a b _ | .max d a b _ | .bfx d a b _
  | .bfi d a b _ | .pdiff d a b | .sel d a b _ => some (d, [a, b])
  | .abs d a _ | .neg d a _ | .clz d a _ | .popc d a _ | .brev d a _ | .mov d a _ | .addi d a _ | .andi d a _
  | .ori d a _ | .xori d a _ | .shli d a _ | .shri d a _ | .sari d a _ | .pget d a => some (d, [a])
  | .kmovToReg d _ => some (d, [])
  | .vand d a b | .vor d a b | .vxor d a b => some (d, [a, b])
  | _ => none

/-- A buffered update as memory takes it (R146, R158). -/
def update (m : List Host.Cell) : BufOp → List Host.Cell
  | .st loc bs => memWrite m loc bs
  | .red loc op v => memWrite m loc (bytesOf 8 (atomOp op (BitVec.ofNat 64 (memNat m loc 8)) v).toNat)

/-- What an arrival makes of a barrier that counts (R219): the counts, and whether a phase completes. -/
structure Arrival (b b' : Bar) : Prop where
  participants : b'.p = b.p
  late : 0 < b.late → b'.late = b.late - 1 ∧ b'.c = b.c ∧ b'.phase = b.phase
  counted : b.late = 0 → b.c + 1 < b.p → b'.late = 0 ∧ b'.c = b.c + 1 ∧ b'.phase = b.phase
  completed : b.late = 0 → b.p ≤ b.c + 1 →
    b'.late = 0 ∧ b'.c = 0 ∧ b'.phase = (b.phase + 1) % 2 ^ 16 ∧ b'.dl = none ∧ b'.waiters = []

end Sys2Proof.Says

/-- R394, R399, R400, R328, R392: after reset the module is in RESET with the release of the reset to come, which takes
it to VERIFY; the quench level is 2, the power cap 1,700 W, the next journal entry has JSN 1, every port is DOWN, and no
slot, kernel, task, context or queue is in use. That memory reads zero is the model's choice (log 1), that every
register of a slot without a thread reads zero too (log 3). The invariant holds. -/
def Obligations.ResetIsAsStated : Prop :=
  let s := State.reset
  s.o.mod.st = .reset ∧ s.o.mod.qlevel = 2 ∧ s.o.mod.cap = 1700 ∧ s.jsn = 1 ∧ s.journal = [] ∧
  (∀ p < 16, (s.o.ports.getD p {}).st = .down) ∧ s.o.slots = [] ∧ s.o.kernels = [] ∧ s.o.tasks = [] ∧
  s.o.ctxs = [] ∧ s.o.queues = [] ∧ (∃ t, step s = .next t ∧ t.o.mod.st = .verify) ∧
  (∀ a, memGet s.mem a = 0) ∧ (∀ slot f, rd s slot f = 0) ∧ Machine.Inv s

/-- Every step keeps the invariant, and no step turns the clock back. -/
def Obligations.EveryStepKeepsTheInvariant : Prop :=
  Kept Machine.Inv ∧ ∀ s t, step s = .next t → s.now ≤ t.now

/-- R47 to R51, R58, R59: what `encode` gives an instruction decodes to it, with every operand at every value. -/
def Obligations.DecodingInvertsEncoding : Prop :=
  ∀ i : Instr, i.wf = true → encode i ≠ .none → decodeWords (encode i) = .ok i

/-- R47 to R51, R58 to R60: a word that is an instruction is what `encode` gives that instruction, so that no word has two
meanings and no bit of a word goes unread. -/
def Obligations.EveryWordHasOneMeaning : Prop :=
  (∀ (w lit : BitVec 32) (i : Instr), decodeC w lit = .ok i → encode i = .c w ∨ encode i = .long w lit) ∧
  (∀ (w : BitVec 32) (i : Instr), decodeA w = .ok i → encode i = .a w)

/-- Words that the spec writes out, and what they stand for (R44, R80, R85, R86, R128, R132, R134, R148, R152, R223,
R272). -/
def Obligations.WordsOfTheSpecDecode : Prop :=
  decodeC 0x015FFFFD 0 = .ok (.br ⟨false, false⟩ 2 (-3)) ∧
  decodeC 0x06000007 0 = .ok (.trap ⟨false, false⟩ 7) ∧
  decodeC 0x070A0022 0 = .ok (.csrr ⟨false, false⟩ 5 0x022) ∧
  decodeC 0x8C0A2700 0x1000 = .ok (.ldGLong false 5 9 6 0x1000) ∧
  decodeC 0x140A1030 0 = .ok (.atomG ⟨false, false⟩ 5 4 6 0) ∧
  decodeC 0x1200_1039 0 = .ok (.chsend ⟨false, false⟩ 4 7) ∧
  decodeC 0x1A0C1C0B 0 = .ok (.barWaitd ⟨false, false⟩ 6 7 1) ∧
  decodeC 0x170A0830 0 = .ok (.ordatom ⟨false, false⟩ 5 2 6) ∧
  decodeC 0x2A0A2000 0 = .ok (.launch ⟨false, false⟩ 5 8) ∧
  decodeC 0x2D0C2050 0 = .ok (.draw ⟨false, false⟩ 6 8 10) ∧
  decodeA 0x04241844 = .ok (.sub 9 3 4 0) ∧
  decodeA 0x3014000F = .ok (.addi 5 0 15) ∧
  decodeA 0x50882866 = .ok (.cmp 2 2 5 6 6) ∧
  decodeA 0x54401030 = .ok (.kop 1 0 2 3) ∧
  decodeA 0xB0182B56 = .ok (.cvt 6 5 13 11) ∧
  decodeA 0xC0201840 = .ok (.mma 2 0 6 8 0)

/-- R44 to R48, R55, R60, R68, R69, R79, R139: a slot whose position has come issues the eight bytes at its PC, once its core
has the banks that the bundle's near accesses need, which then have served it in this cycle; it loses the position where it
loses a bank. A word beside a no-operation is executed, two words issue together, what is no instruction raises its trap; a
position that issues nothing, an event, an answer of the shipped firmware, an offer of a carry, a containment that waited
for a commit, and an empty agenda move the machine too. -/
def Obligations.AStepRunsWhatItsBytesDecodeTo : Prop :=
  (∀ (s : State) (due slot : Nat) (r : List (Nat × Act)), s.agenda = (due, .turn slot) :: r →
    let u := { s with now := Nat.max s.now due, cur := slot }
    (∀ l, fetch u slot = .error l → step s = .next (run l u)) ∧
    let banks := bundleBanks u slot
    (∀ b, fetch u slot = .ok b → losesBank u slot banks = true → step s = .next (run (bubble slot) u)) ∧
    (∀ b, fetch u slot = .ok b → losesBank u slot banks = false →
      let v := if banks = [] then u else { u with o := { u.o with quads := tabMod u.o.quads (quadOf slot) {} (fun q =>
        { q with banks := banks.foldl (fun t b => tabPut t b (u.now + 1, coreOf slot % 4)) q.banks }) } }
      (∀ c, decodeBundle b = .ok (c, .ok .anop) → step s = exec c v) ∧
      (∀ a, decodeBundle b = .ok (.nop ⟨false, false⟩, .ok a) → a ≠ .anop → step s = exec a v) ∧
      (∀ c a, decodeBundle b = .ok (c, .ok a) → c ≠ .nop ⟨false, false⟩ → a ≠ .anop →
        step s = .next (run (issue v slot (planOf c v) (planOf a v)) v)) ∧
      (∀ c e, decodeBundle b = .ok (c, .error e) → step s = exec (.encodingNotInstruction b) v) ∧
      (∀ e, decodeBundle b = .error e → step s = exec (.encodingNotInstruction b) v))) ∧
  (∀ (s : State) (slot : Nat) (l : List Nat), (∀ b ∈ l, ∀ x : Nat × Nat, tabGet (quad s (quadOf slot)).banks b = some x →
    x.1 ≠ s.now + 1 ∨ x.2 = coreOf slot % 4) →
    (∀ x ∈ s.agenda, ∀ y, x.2 = .turn y → s.now < x.1 ∨ quadOf y ≠ quadOf slot ∨ coreOf y = coreOf slot) → losesBank s slot l = false) ∧
  (∀ (s : State) (slot : Nat) (loc : Nat) (e : BitVec 128), occupied s slot = true → canIssue (thr s slot) = true →
    (thr s slot).joining = false → haltedAt s slot = false → (thr s slot).fault = none → (thr s slot).arch.priv ≠ .firmware → inText s slot = true →
    Machine.translate s slot (thr s slot).arch.pc.toNat .fetch = .hit loc e →
    (Machine.core s (coreOf slot)).lines.contains (textLine s slot) = true → fetch s slot = .ok (bundleAt s slot)) ∧
  (∀ (s : State) (due : Nat) (i : Instr) (r : List (Nat × Act)), s.agenda = (due, .ev i) :: r →
    step s = exec i { s with now := Nat.max s.now due, agenda := r }) ∧
  (∀ (s : State) (due : Nat) (r : List (Nat × Act)), let u := { s with now := Nat.max s.now due, agenda := r }
    (∀ q p, s.agenda = (due, .walk q p) :: r → step s = .next (run (walkAnswer q p) u)) ∧
    (∀ l i vs, s.agenda = (due, .offer l i vs) :: r → step s = .next (run [offerCarry l i vs] u)) ∧
    (∀ k tk x, s.agenda = (due, .contain k tk x) :: r → step s = .next (run [containTask tk x] u))) ∧
  (∀ s : State, s.agenda = [] → step s = .next { s with now := s.now + 1 })

/-- R55, R128, R168, R182: words that compute a register leave everything else as it was; a near store leaves every byte
outside its own; a global store changes no byte before its chunk commits. -/
def Obligations.WordsLeaveTheRestUnchanged : Prop :=
  (∀ (s t : State) (i : Instr) (d : BitVec 7) (l : List (BitVec 7)), registerWord i = some (d, l) → i.wf = true → Clear s →
    Dest s d.toNat → (∀ f ∈ l, Plain s f.toNat) → exec i s = .next t → OnlyRegister s t d.toNat) ∧
  (∀ (s t : State) (m : Bool) (v b : BitVec 7) (sz : BitVec 3) (off : BitVec 7) (ea : Nat) (p : NearAt),
    AtPoint s → Blank (me s).chunk → Plain s v.toNat → Plain s b.toNat →
    nearOperand s s.cur (rd64 s s.cur b.toNat) (off.toInt * (sizeBytes sz.toNat : Nat)) = .ok (ea, p) →
    p.remote = false → speculative s s.cur = false → s.o.poison = [] → s.o.flips = [] →
    let n := sizeBytes sz.toNat
    ea % n = 0 → raceTrap s s.cur p.loc ea n true = none → exec (.stN m v b sz off) s = .next t →
    memRead t.mem p.loc n = bytesOf n (rd s s.cur v.toNat).toNat ∧
    (∀ a, a < p.loc ∨ p.loc + n ≤ a → memGet t.mem a = memGet s.mem a) ∧
    (me t).arch.regs = (me s).arch.regs ∧ (me t).arch.preds = (me s).arch.preds ∧
    (∀ x, x ≠ s.cur → tabGet t.o.slots x = tabGet s.o.slots x)) ∧
  (∀ (s t : State) (m : Bool) (v b : BitVec 7) (sz : BitVec 3) (off : BitVec 7) (ea loc : Nat) (e : BitVec 128),
    Clear s → guessing s s.cur = false → Plain s v.toNat → Plain s b.toNat →
    globalOperand (rd64 s s.cur b.toNat) (off.toInt * (sizeBytes sz.toNat : Nat)) = .ok ea →
    relOf s s.cur ea ≠ .mine → Machine.translate s s.cur ea .write = .hit loc e → ea % sizeBytes sz.toNat = 0 →
    regionStoreTrap s s.cur ea (relOf s s.cur ea) = none → exec (.stG m v b sz off) s = .next t →
    t.mem = s.mem ∧ (me t).arch.regs = (me s).arch.regs ∧ (me t).arch.preds = (me s).arch.preds ∧
    (∀ x, x ≠ s.cur → tabGet t.o.slots x = tabGet s.o.slots x))

/-- R57, R65, R77, R78, R230: the first trap of a bundle, delivered to a slot with nothing under way, writes TRAPPC,
TRAPCODE and TRAPINFO and moves the PC to TRAPVEC at handler privilege, state TRAPPED; the window, the predicates and
memory keep their values. A trap in TRAPPED, or of a kernel without a handler, is not delivered: the slot is contained,
with the nested mark in its record. -/
def Obligations.TrapsEnterTheHandlerOrContain : Prop :=
  ∀ (s : State) (c a : Plan) (tr : Trap), firstTrap s s.cur c a = some tr →
    let pc := (me s).arch.pc
    let back := if tr.code = .soft then pc + 8 else pc
    let u := run (issue s s.cur c a) s
    (Deliverable s → (me s).arch.priv = .user → (me s).back ≠ .shadow → u = delivered s tr back ∧
      (me u).trappc = back ∧ (me u).trapcode = BitVec.ofNat 64 tr.code.num ∧ (me u).trapinfo = tr.info ∧
      (me u).arch.pc = (me s).trapvec ∧ (me u).arch.priv = .handler ∧ (me u).st = .trapped ∧
      (me u).arch.regs = (me s).arch.regs ∧ (me u).arch.preds = (me s).arch.preds ∧ u.mem = s.mem) ∧
    (nested s s.cur = true → u = run [contain s.cur
      { code := tr.code, first := firstOf (me s), nested := true, pc := back, info := tr.info }] (taken s))

/-- R146, R158: at the commit of a chunk with global accesses its stores and REDs reach memory in the order of its
program, all at one point of the commit order; the words it wrote or reduced are then known as last written there. -/
def Obligations.CommitsApplyTheirBufferInOrder : Prop :=
  ∀ (s : State) (slot : Nat), (thr s slot).chunk.st ≠ .opened → s.o.flips = [] →
    let c := (thr s slot).chunk
    let t := runStage s (commitMem slot)
    t.mem = c.buf.foldl Says.update s.mem ∧ t.commits = s.commits + 1 ∧
    (∀ w, tabGet t.lastWrite w = if w ∈ setAddAll c.writes c.reds then some (s.commits + 1) else tabGet s.lastWrite w) ∧
    (c.bar = none → (runStage s (commitChunk slot)).mem = t.mem)

/-- R217 to R219, R222: what arrivals and INIT do to a barrier's P, C, PHASE, LATE and DL, and the token that ARRIVE writes:
the phase, or with the LATE bit the phase that its deadline closed. -/
def Obligations.BarriersCountByPhase : Prop :=
  ∀ (s : State) (k home n task : Nat), tabHas s.o.kernels k = true → (n < 16 → (group? s k home).isSome = true) →
    let b := barOf s k home n
    let after := fun kind => barOf (runStage s (barEffect k home n task kind)) k home n
    (∀ v, b.p = 0 → (after (.init v)).p = v ∧ (after (.init v)).c = 0 ∧ (after (.init v)).late = 0) ∧
    (∀ v, b.p ≠ 0 → (after (.init v)).p = v ∧ (after (.init v)).late = 0 ∧
      (b.c < v → (after (.init v)).c = b.c ∧ (after (.init v)).phase = b.phase) ∧
      (v ≤ b.c → (after (.init v)).c = 0 ∧ (after (.init v)).phase = (b.phase + 1) % 2 ^ 16)) ∧
    (b.p ≠ 0 → (∀ d, Arrival b (after (.arrive d))) ∧ Arrival b (after .sync) ∧
    (∀ d x, Arrival b (after (.waitd d x)) ∧ (0 < b.late ∨ b.c + 1 < b.p → (after (.waitd d x)).dl =
      some (match b.dl with
        | some y => Nat.min x y
        | none => x)))) ∧
    (∀ (d sl : Nat) (x : Task), b.waiters = [] → task? s task = some x → x.slot = some sl → occupied s sl = true →
      d ≠ 0 → d < 112 → (thr s sl).arch.strm d = none →
      (thr (runStage s (barEffect k home n task (.arrive d))) sl).arch.reg d =
        wd (if 0 < b.late then (b.phase + 2 ^ 16 - 1) % 2 ^ 16 + 2 ^ 16 else b.phase))

/-- R55 to R57: both words read before either writes, and one destination in both raises BUNDLE, here of CSRR beside ADD;
of the traps that two words' plans name, the first by the classes of R57 is raised. -/
def Obligations.TwoWordsIssueTogether : Prop :=
  (∀ (s : State) (b : BitVec 64) (ls : LS) (d e x y : BitVec 7) (c : BitVec 10) (t : BitVec 2),
    decodeBundle b = .ok (.csrr ls d c, .ok (.add e x y t)) → csrKnown c = true → c ≠ 0x010 → c ≠ 0x011 →
    Plain s x.toNat → Plain s y.toNat → Dest s d.toNat → Dest s e.toNat →
    (Clear s → d ≠ e ∨ d = 0 → issueBundle b s = .next (finished (put (put (taken s) d.toNat
      ((csrValue s s.cur c.toNat).setWidth 128)) e.toNat (Says.add t (rd s s.cur x.toNat) (rd s s.cur y.toNat))) ls.s)) ∧
    (Deliverable s → d = e → d ≠ 0 →
      issueBundle b s = .next (delivered s (bTrap s s.cur .bundle) (me s).arch.pc))) ∧
  (∀ (s : State) (slot : Nat) (c a : Plan),
    (c.ill = true → firstTrap s slot c a = some (bTrap s slot .illegal)) ∧
    (c.ill = false → c.priv = true → firstTrap s slot c a = some (bTrap s slot .priv)) ∧
    (c.ill = false → c.priv = false → a.ill = true → firstTrap s slot c a = some (bTrap s slot .illegal)) ∧
    (c.ill = false → c.priv = false → a.ill = false → clash c a = true →
      firstTrap s slot c a = some (bTrap s slot .bundle)) ∧
    (c.ill = false → clash c a = false → c.priv = false →
      (a.ill = false → a.priv = true → firstTrap s slot c a = some (bTrap s slot .priv)) ∧
      (a.ill = false → a.priv = false → c.hold = false → firstTrap s slot c a = c.c2.or (a.c2.or (c.c3.or
        (if c.miss.isSome || a.hold then none else a.c3)))) ∧
      (a.ill = false → a.priv = false → c.hold = true → firstTrap s slot c a = c.c2.or a.c2)))
end

