-- ==== Sys2Proof/Laws/Tab.lean ====
section
/-!
SUPPORT. Laws/Tab: reading a table or a memory after a change, and the canonical form of memory.
-/

namespace Sys2Proof.Machine

variable {α : Type}

/-! ## Reading after a change -/

@[simp] theorem tabGet_nil (i : Nat) : tabGet ([] : Tab α) i = none := rfl

theorem tabGet_put (t : Tab α) (i j : Nat) (x : α) :
    tabGet (tabPut t i x) j = if j = i then some x else tabGet t j := by
  induction t with
  | nil =>
    by_cases h : j = i
    · simp [tabPut, tabGet, h]
    · simp [tabPut, tabGet, h]
  | cons c r ih =>
    obtain ⟨k, v⟩ := c
    unfold tabPut
    by_cases h1 : i < k
    · by_cases h : j = i <;> simp [h1, tabGet, h]
    · by_cases h2 : i = k
      · subst h2
        by_cases h : j = i <;> simp [tabGet, h]
      · simp only [h1, h2, if_false, tabGet, ih]
        by_cases h : j = k
        · subst h; simp [Ne.symm h2]
        · simp [h]

@[simp] theorem tabGet_put_self (t : Tab α) (i : Nat) (x : α) : tabGet (tabPut t i x) i = some x := by
  simp [tabGet_put]

theorem tabGet_put_ne (t : Tab α) {i j : Nat} (x : α) (h : j ≠ i) : tabGet (tabPut t i x) j = tabGet t j := by
  simp [tabGet_put, h]

theorem tabGet_del (t : Tab α) (i j : Nat) : tabGet (tabDel t i) j = if j = i then none else tabGet t j := by
  induction t with
  | nil => simp [tabDel]
  | cons c r ih =>
    obtain ⟨k, v⟩ := c
    unfold tabDel
    by_cases h : i = k
    · subst h
      by_cases hj : j = i
      · subst hj; simpa using ih
      · simp [ih, hj, tabGet]
    · by_cases hj : j = k
      · subst hj; simp [h, tabGet, Ne.symm h]
      · by_cases hi : j = i
        · subst hi; simp [h, tabGet, ih]
        · simp [h, tabGet, ih, hj, hi]

@[simp] theorem tabGet_del_self (t : Tab α) (i : Nat) : tabGet (tabDel t i) i = none := by simp [tabGet_del]

theorem tabGet_upd (t : Tab α) (i j : Nat) (f : α → α) :
    tabGet (tabUpd t i f) j = if j = i then (tabGet t i).map f else tabGet t j := by
  unfold tabUpd
  cases h : tabGet t i with
  | none =>
    by_cases hj : j = i
    · subst hj; simp [h]
    · simp [hj]
  | some v =>
    by_cases hj : j = i
    · subst hj; simp
    · simp [tabGet_put, hj]

@[simp] theorem tabGet_upd_self (t : Tab α) (i : Nat) (f : α → α) : tabGet (tabUpd t i f) i = (tabGet t i).map f := by
  simp [tabGet_upd]

theorem tabGet_upd_ne (t : Tab α) {i j : Nat} (f : α → α) (h : j ≠ i) : tabGet (tabUpd t i f) j = tabGet t j := by
  simp [tabGet_upd, h]

@[simp] theorem tabHas_upd (t : Tab α) (i j : Nat) (f : α → α) : tabHas (tabUpd t i f) j = tabHas t j := by
  unfold tabHas
  rw [tabGet_upd]
  split
  · next h => subst h; simp
  · rfl

theorem tabD_upd_self (t : Tab α) (i : Nat) (d : α) (f : α → α) (h : tabHas t i = true) :
    tabD (tabUpd t i f) i d = f (tabD t i d) := by
  unfold tabHas at h
  unfold tabD
  rw [tabGet_upd_self]
  cases hg : tabGet t i with
  | none => simp [hg] at h
  | some v => simp

theorem tabD_upd_ne (t : Tab α) {i j : Nat} (d : α) (f : α → α) (h : j ≠ i) : tabD (tabUpd t i f) j d = tabD t j d := by
  simp [tabD, tabGet_upd_ne t f h]

/-- Two changes of one entry are one change. -/
theorem tabPut_put (t : Tab α) (i : Nat) (x y : α) : tabPut (tabPut t i x) i y = tabPut t i y := by
  induction t with
  | nil => simp [tabPut]
  | cons c r ih =>
    obtain ⟨k, v⟩ := c
    unfold tabPut
    by_cases h1 : i < k
    · simp [h1, tabPut]
    · by_cases h2 : i = k
      · subst h2; simp [tabPut]
      · simp [h1, h2, tabPut, ih]

theorem tabUpd_upd (t : Tab α) (i : Nat) (f g : α → α) : tabUpd (tabUpd t i f) i g = tabUpd t i (fun x => g (f x)) := by
  cases h : tabGet t i with
  | none => simp [tabUpd, h]
  | some v => simp [tabUpd, h, tabPut_put]

/-! ## Rising keys -/

theorem rising_tail {k : Nat} {v : α} {r : Tab α} (h : Tab.rising ((k, v) :: r) = true) : Tab.rising r = true := by
  cases r with
  | nil => rfl
  | cons c r => obtain ⟨k', v'⟩ := c; simp only [Tab.rising, Bool.and_eq_true] at h; exact h.2

/-- A table rises where its tail does and its first key is below every other. -/
theorem rising_iff (k : Nat) (v : α) (r : Tab α) :
    Tab.rising ((k, v) :: r) = true ↔ Tab.rising r = true ∧ ∀ c ∈ r, k < c.1 := by
  induction r generalizing k v with
  | nil => simp [Tab.rising]
  | cons c r ih =>
    obtain ⟨k', v'⟩ := c
    simp only [Tab.rising, Bool.and_eq_true, decide_eq_true_eq]
    constructor
    · rintro ⟨h, hr⟩
      refine ⟨hr, ?_⟩
      intro c hc
      rcases List.mem_cons.mp hc with rfl | hc
      · exact h
      · exact Nat.lt_trans h (((ih k' v').mp hr).2 c hc)
    · rintro ⟨hr, hall⟩
      exact ⟨hall (k', v') (by simp), hr⟩

theorem mem_tabPut (t : Tab α) (i : Nat) (x : α) (c : Nat × α) (h : c ∈ tabPut t i x) : c = (i, x) ∨ c ∈ t := by
  induction t with
  | nil => simp [tabPut] at h; exact .inl h
  | cons d r ih =>
    obtain ⟨k, v⟩ := d
    unfold tabPut at h
    split at h
    · rcases List.mem_cons.mp h with h | h
      · exact .inl h
      · exact .inr h
    · split at h
      · rcases List.mem_cons.mp h with h | h
        · exact .inl h
        · exact .inr (List.mem_cons_of_mem _ h)
      · rcases List.mem_cons.mp h with h | h
        · exact .inr (by rw [h]; simp)
        · rcases ih h with h | h
          · exact .inl h
          · exact .inr (List.mem_cons_of_mem _ h)

theorem rising_put (t : Tab α) (i : Nat) (x : α) (h : Tab.rising t = true) : Tab.rising (tabPut t i x) = true := by
  induction t with
  | nil => rfl
  | cons d r ih =>
    obtain ⟨k, v⟩ := d
    obtain ⟨hr, hall⟩ := (rising_iff k v r).mp h
    unfold tabPut
    split
    · next hlt => exact (rising_iff i x _).mpr ⟨h, fun c hc => by
        rcases List.mem_cons.mp hc with rfl | hc
        · exact hlt
        · exact Nat.lt_trans hlt (hall c hc)⟩
    · split
      · next he => subst he; exact (rising_iff i x r).mpr ⟨hr, hall⟩
      · next h1 h2 => exact (rising_iff k v _).mpr ⟨ih hr, fun c hc => by
          rcases mem_tabPut r i x c hc with rfl | hc
          · simp only; omega
          · exact hall c hc⟩

theorem mem_tabDel (t : Tab α) (i : Nat) (c : Nat × α) (h : c ∈ tabDel t i) : c ∈ t := by
  induction t with
  | nil => simp [tabDel] at h
  | cons d r ih =>
    obtain ⟨k, v⟩ := d
    unfold tabDel at h
    split at h
    · exact List.mem_cons_of_mem _ (ih h)
    · rcases List.mem_cons.mp h with rfl | h
      · simp
      · exact List.mem_cons_of_mem _ (ih h)

theorem rising_del (t : Tab α) (i : Nat) (h : Tab.rising t = true) : Tab.rising (tabDel t i) = true := by
  induction t with
  | nil => rfl
  | cons d r ih =>
    obtain ⟨k, v⟩ := d
    obtain ⟨hr, hall⟩ := (rising_iff k v r).mp h
    unfold tabDel
    split
    · exact ih hr
    · exact (rising_iff k v _).mpr ⟨ih hr, fun c hc => hall c (mem_tabDel r i c hc)⟩

theorem rising_filter (t : Tab α) (p : Nat × α → Bool) (h : Tab.rising t = true) : Tab.rising (t.filter p) = true := by
  induction t with
  | nil => rfl
  | cons d r ih =>
    obtain ⟨k, v⟩ := d
    obtain ⟨hr, hall⟩ := (rising_iff k v r).mp h
    by_cases hp : p (k, v) = true
    · rw [List.filter_cons_of_pos hp]
      exact (rising_iff k v _).mpr ⟨ih hr, fun c hc => hall c (List.mem_filter.mp hc).1⟩
    · rw [List.filter_cons_of_neg hp]; exact ih hr

end Sys2Proof.Machine
end

