-- ==== Sys2Proof/Laws/Memory.lean ====
section
/-!
SUPPORT. Laws/Memory: a read after a write, what a write leaves alone, and that every operation on memory keeps its
canonical form.
-/

namespace Sys2Proof.Machine

theorem memGet_put (m : List Host.Cell) (a b : Nat) (v : Byte) :
    memGet (memPut m a v) b = if b = a then v else memGet m b := by
  unfold memGet memPut tabD
  split
  · next h =>
    rw [tabGet_del]
    split
    · simp [h]
    · rfl
  · rw [tabGet_put]
    split <;> simp

theorem memGet_write (m : List Host.Cell) (a b : Nat) (bs : List Byte) :
    memGet (memWrite m a bs) b = if a ≤ b ∧ b < a + bs.length then bs.getD (b - a) 0 else memGet m b := by
  induction bs generalizing m a with
  | nil =>
    have : ¬ (a ≤ b ∧ b < a + ([] : List Byte).length) := by simp
    simp only [memWrite, if_neg this]
  | cons x r ih =>
    simp only [memWrite, ih, memGet_put, List.length_cons]
    by_cases h : a + 1 ≤ b ∧ b < a + 1 + r.length
    · have h' : a ≤ b ∧ b < a + (r.length + 1) := by omega
      rw [if_pos h, if_pos h']
      obtain ⟨k, rfl⟩ : ∃ k, b = a + 1 + k := ⟨b - (a + 1), by omega⟩
      have h1 : a + 1 + k - (a + 1) = k := by omega
      have h2 : a + 1 + k - a = k + 1 := by omega
      rw [h1, h2]; rfl
    · rw [if_neg h]
      by_cases he : b = a
      · subst he
        rw [if_pos rfl, if_pos (by omega)]; simp
      · rw [if_neg he, if_neg (by omega)]

/-- A write leaves every byte outside its range alone. -/
theorem memGet_write_outside (m : List Host.Cell) (a b : Nat) (bs : List Byte) (h : b < a ∨ a + bs.length ≤ b) :
    memGet (memWrite m a bs) b = memGet m b := by
  rw [memGet_write, if_neg (by omega)]

/-- A read of a range gives what was written there. -/
theorem memRead_write (m : List Host.Cell) (a : Nat) (bs : List Byte) : memRead (memWrite m a bs) a bs.length = bs := by
  suffices h : ∀ (n k : Nat), k + n = bs.length → memRead (memWrite m a bs) (a + k) n = bs.drop k by
    simpa using h bs.length 0 (by omega)
  intro n
  induction n with
  | zero => intro k hk; rw [List.drop_eq_nil_of_le (by omega)]; rfl
  | succ n ih =>
    intro k hk
    have hlt : k < bs.length := by omega
    rw [List.drop_eq_getElem_cons hlt]
    simp only [memRead, memGet_write]
    rw [if_pos (by omega), show a + k + 1 = a + (k + 1) by omega, ih (k + 1) (by omega)]
    have hk : a + k - a = k := by omega
    rw [hk, List.getD_eq_getElem _ _ hlt]

theorem bytesOf_length (n v : Nat) : (bytesOf n v).length = n := by
  induction n generalizing v with
  | zero => rfl
  | succ n ih => simp [bytesOf, ih]

theorem ofBytes_bytesOf (n v : Nat) : ofBytes (bytesOf n v) = v % 256 ^ n := by
  induction n generalizing v with
  | zero => simp [bytesOf, ofBytes, Nat.mod_one]
  | succ n ih =>
    simp only [bytesOf, ofBytes, ih, BitVec.toNat_ofNat]
    rw [show (256 : Nat) ^ (n + 1) = 256 * 256 ^ n by ring, Nat.mod_mul]

/-- A word that was written is read back (R4). -/
theorem memNat_write (m : List Host.Cell) (a n v : Nat) : memNat (memWrite m a (bytesOf n v)) a n = v % 256 ^ n := by
  unfold memNat
  have h := memRead_write m a (bytesOf n v)
  rw [bytesOf_length] at h
  rw [h, ofBytes_bytesOf]

theorem memGet_scrub (m : List Host.Cell) (a n b : Nat) :
    memGet (memScrub m a n) b = if a ≤ b ∧ b < a + n then Memory.default else memGet m b := by
  unfold memGet memScrub tabD
  induction m with
  | nil => simp
  | cons c r ih =>
    obtain ⟨k, v⟩ := c
    by_cases hin : a ≤ k ∧ k < a + n
    · rw [List.filter_cons_of_neg (by simp [hin.1, hin.2]), ih]
      by_cases hb : b = k
      · subst hb; simp [hin]
      · simp [tabGet, hb]
    · rw [List.filter_cons_of_pos (by
        have : k < a ∨ a + n ≤ k := by omega
        simpa using this)]
      by_cases hb : b = k
      · subst hb; simp [tabGet, hin]
      · simp only [tabGet, if_neg hb, ih]

/-! ## The canonical form -/

theorem wf_iff (m : List Host.Cell) :
    Memory.wf m = true ↔ Tab.rising m = true ∧ ∀ c ∈ m, c.2 ≠ Memory.default := by
  simp [Memory.wf]

theorem wf_put (m : List Host.Cell) (a : Nat) (b : Byte) (h : Memory.wf m = true) : Memory.wf (memPut m a b) = true := by
  obtain ⟨hr, hd⟩ := (wf_iff m).mp h
  unfold memPut
  split
  · exact (wf_iff _).mpr ⟨rising_del m a hr, fun c hc => hd c (mem_tabDel m a c hc)⟩
  · next hb => exact (wf_iff _).mpr ⟨rising_put m a b hr, fun c hc => by
      rcases mem_tabPut m a b c hc with rfl | hc
      · exact hb
      · exact hd c hc⟩

theorem wf_write (m : List Host.Cell) (a : Nat) (bs : List Byte) (h : Memory.wf m = true) :
    Memory.wf (memWrite m a bs) = true := by
  induction bs generalizing m a with
  | nil => exact h
  | cons x r ih => exact ih _ _ (wf_put m a x h)

theorem wf_scrub (m : List Host.Cell) (a n : Nat) (h : Memory.wf m = true) : Memory.wf (memScrub m a n) = true := by
  obtain ⟨hr, hd⟩ := (wf_iff m).mp h
  exact (wf_iff _).mpr ⟨rising_filter m _ hr, fun c hc => hd c (List.mem_filter.mp hc).1⟩

end Sys2Proof.Machine
end

