-- ==== Sys2Proof/Laws/State.lean ====
section
/-!
SUPPORT. Laws/State: each kind of change and each field of the state: what the change makes of the field. Then
the changes of one object of a table.
-/

namespace Sys2Proof.Machine

/-! ## `obj` -/

@[simp] theorem apply_obj_now (s : State) (f : Objs → Objs) : (Eff.apply s (.obj f)).now = s.now := rfl
@[simp] theorem apply_obj_fresh (s : State) (f : Objs → Objs) : (Eff.apply s (.obj f)).fresh = s.fresh := rfl
@[simp] theorem apply_obj_cur (s : State) (f : Objs → Objs) : (Eff.apply s (.obj f)).cur = s.cur := rfl
@[simp] theorem apply_obj_agenda (s : State) (f : Objs → Objs) : (Eff.apply s (.obj f)).agenda = s.agenda := rfl
@[simp] theorem apply_obj_mem (s : State) (f : Objs → Objs) : (Eff.apply s (.obj f)).mem = s.mem := rfl
@[simp] theorem apply_obj_commits (s : State) (f : Objs → Objs) : (Eff.apply s (.obj f)).commits = s.commits := rfl
@[simp] theorem apply_obj_lastWrite (s : State) (f : Objs → Objs) : (Eff.apply s (.obj f)).lastWrite = s.lastWrite := rfl
@[simp] theorem apply_obj_journal (s : State) (f : Objs → Objs) : (Eff.apply s (.obj f)).journal = s.journal := rfl
@[simp] theorem apply_obj_jsn (s : State) (f : Objs → Objs) : (Eff.apply s (.obj f)).jsn = s.jsn := rfl
@[simp] theorem apply_obj_o (s : State) (f : Objs → Objs) : (Eff.apply s (.obj f)).o = f s.o := rfl

/-! ## `store` -/

@[simp] theorem apply_store_now (s : State) (loc : Nat) (bs : List Byte) : (Eff.apply s (.store loc bs)).now = s.now := rfl
@[simp] theorem apply_store_fresh (s : State) (loc : Nat) (bs : List Byte) : (Eff.apply s (.store loc bs)).fresh = s.fresh := rfl
@[simp] theorem apply_store_cur (s : State) (loc : Nat) (bs : List Byte) : (Eff.apply s (.store loc bs)).cur = s.cur := rfl
@[simp] theorem apply_store_agenda (s : State) (loc : Nat) (bs : List Byte) : (Eff.apply s (.store loc bs)).agenda = s.agenda := rfl
@[simp] theorem apply_store_mem (s : State) (loc : Nat) (bs : List Byte) : (Eff.apply s (.store loc bs)).mem = memWrite s.mem loc bs := rfl
@[simp] theorem apply_store_commits (s : State) (loc : Nat) (bs : List Byte) : (Eff.apply s (.store loc bs)).commits = s.commits := rfl
@[simp] theorem apply_store_lastWrite (s : State) (loc : Nat) (bs : List Byte) : (Eff.apply s (.store loc bs)).lastWrite = s.lastWrite := rfl
@[simp] theorem apply_store_journal (s : State) (loc : Nat) (bs : List Byte) : (Eff.apply s (.store loc bs)).journal = s.journal := rfl
@[simp] theorem apply_store_jsn (s : State) (loc : Nat) (bs : List Byte) : (Eff.apply s (.store loc bs)).jsn = s.jsn := rfl
@[simp] theorem apply_store_o (s : State) (loc : Nat) (bs : List Byte) : (Eff.apply s (.store loc bs)).o = s.o := rfl

/-! ## `scrub` -/

@[simp] theorem apply_scrub_now (s : State) (loc n : Nat) : (Eff.apply s (.scrub loc n)).now = s.now := rfl
@[simp] theorem apply_scrub_fresh (s : State) (loc n : Nat) : (Eff.apply s (.scrub loc n)).fresh = s.fresh := rfl
@[simp] theorem apply_scrub_cur (s : State) (loc n : Nat) : (Eff.apply s (.scrub loc n)).cur = s.cur := rfl
@[simp] theorem apply_scrub_agenda (s : State) (loc n : Nat) : (Eff.apply s (.scrub loc n)).agenda = s.agenda := rfl
@[simp] theorem apply_scrub_mem (s : State) (loc n : Nat) : (Eff.apply s (.scrub loc n)).mem = memScrub s.mem loc n := rfl
@[simp] theorem apply_scrub_commits (s : State) (loc n : Nat) : (Eff.apply s (.scrub loc n)).commits = s.commits := rfl
@[simp] theorem apply_scrub_lastWrite (s : State) (loc n : Nat) : (Eff.apply s (.scrub loc n)).lastWrite = s.lastWrite := rfl
@[simp] theorem apply_scrub_journal (s : State) (loc n : Nat) : (Eff.apply s (.scrub loc n)).journal = s.journal := rfl
@[simp] theorem apply_scrub_jsn (s : State) (loc n : Nat) : (Eff.apply s (.scrub loc n)).jsn = s.jsn := rfl
@[simp] theorem apply_scrub_o (s : State) (loc n : Nat) : (Eff.apply s (.scrub loc n)).o = s.o := rfl

/-! ## `commit` -/

@[simp] theorem apply_commit_now (s : State) (ws : List Nat) : (Eff.apply s (.commit ws)).now = s.now := rfl
@[simp] theorem apply_commit_fresh (s : State) (ws : List Nat) : (Eff.apply s (.commit ws)).fresh = s.fresh := rfl
@[simp] theorem apply_commit_cur (s : State) (ws : List Nat) : (Eff.apply s (.commit ws)).cur = s.cur := rfl
@[simp] theorem apply_commit_agenda (s : State) (ws : List Nat) : (Eff.apply s (.commit ws)).agenda = s.agenda := rfl
@[simp] theorem apply_commit_mem (s : State) (ws : List Nat) : (Eff.apply s (.commit ws)).mem = s.mem := rfl
@[simp] theorem apply_commit_commits (s : State) (ws : List Nat) : (Eff.apply s (.commit ws)).commits = s.commits + 1 := rfl
@[simp] theorem apply_commit_lastWrite (s : State) (ws : List Nat) : (Eff.apply s (.commit ws)).lastWrite = ws.foldl (fun t w => tabPut t w (s.commits + 1)) s.lastWrite := rfl
@[simp] theorem apply_commit_journal (s : State) (ws : List Nat) : (Eff.apply s (.commit ws)).journal = s.journal := rfl
@[simp] theorem apply_commit_jsn (s : State) (ws : List Nat) : (Eff.apply s (.commit ws)).jsn = s.jsn := rfl
@[simp] theorem apply_commit_o (s : State) (ws : List Nat) : (Eff.apply s (.commit ws)).o = s.o := rfl

/-! ## `journal` -/

@[simp] theorem apply_journal_now (s : State) (e : JEntry) : (Eff.apply s (.journal e)).now = s.now := rfl
@[simp] theorem apply_journal_fresh (s : State) (e : JEntry) : (Eff.apply s (.journal e)).fresh = s.fresh := rfl
@[simp] theorem apply_journal_cur (s : State) (e : JEntry) : (Eff.apply s (.journal e)).cur = s.cur := rfl
@[simp] theorem apply_journal_agenda (s : State) (e : JEntry) : (Eff.apply s (.journal e)).agenda = s.agenda := rfl
@[simp] theorem apply_journal_mem (s : State) (e : JEntry) : (Eff.apply s (.journal e)).mem = s.mem := rfl
@[simp] theorem apply_journal_commits (s : State) (e : JEntry) : (Eff.apply s (.journal e)).commits = s.commits := rfl
@[simp] theorem apply_journal_lastWrite (s : State) (e : JEntry) : (Eff.apply s (.journal e)).lastWrite = s.lastWrite := rfl
@[simp] theorem apply_journal_journal (s : State) (e : JEntry) : (Eff.apply s (.journal e)).journal = s.journal ++ [{ e with jsn := s.jsn }] := rfl
@[simp] theorem apply_journal_jsn (s : State) (e : JEntry) : (Eff.apply s (.journal e)).jsn = s.jsn + 1 := rfl
@[simp] theorem apply_journal_o (s : State) (e : JEntry) : (Eff.apply s (.journal e)).o = s.o := rfl

/-! ## `post` -/

@[simp] theorem apply_post_now (s : State) (due : Nat) (a : Act) : (Eff.apply s (.post due a)).now = s.now := rfl
@[simp] theorem apply_post_fresh (s : State) (due : Nat) (a : Act) : (Eff.apply s (.post due a)).fresh = s.fresh := rfl
@[simp] theorem apply_post_cur (s : State) (due : Nat) (a : Act) : (Eff.apply s (.post due a)).cur = s.cur := rfl
@[simp] theorem apply_post_agenda (s : State) (due : Nat) (a : Act) : (Eff.apply s (.post due a)).agenda = agendaAdd s.agenda due a := rfl
@[simp] theorem apply_post_mem (s : State) (due : Nat) (a : Act) : (Eff.apply s (.post due a)).mem = s.mem := rfl
@[simp] theorem apply_post_commits (s : State) (due : Nat) (a : Act) : (Eff.apply s (.post due a)).commits = s.commits := rfl
@[simp] theorem apply_post_lastWrite (s : State) (due : Nat) (a : Act) : (Eff.apply s (.post due a)).lastWrite = s.lastWrite := rfl
@[simp] theorem apply_post_journal (s : State) (due : Nat) (a : Act) : (Eff.apply s (.post due a)).journal = s.journal := rfl
@[simp] theorem apply_post_jsn (s : State) (due : Nat) (a : Act) : (Eff.apply s (.post due a)).jsn = s.jsn := rfl
@[simp] theorem apply_post_o (s : State) (due : Nat) (a : Act) : (Eff.apply s (.post due a)).o = s.o := rfl

/-! ## `unpost` -/

@[simp] theorem apply_unpost_now (s : State) (p : Act → Bool) : (Eff.apply s (.unpost p)).now = s.now := rfl
@[simp] theorem apply_unpost_fresh (s : State) (p : Act → Bool) : (Eff.apply s (.unpost p)).fresh = s.fresh := rfl
@[simp] theorem apply_unpost_cur (s : State) (p : Act → Bool) : (Eff.apply s (.unpost p)).cur = s.cur := rfl
@[simp] theorem apply_unpost_agenda (s : State) (p : Act → Bool) : (Eff.apply s (.unpost p)).agenda = s.agenda.filter (fun x => !p x.2) := rfl
@[simp] theorem apply_unpost_mem (s : State) (p : Act → Bool) : (Eff.apply s (.unpost p)).mem = s.mem := rfl
@[simp] theorem apply_unpost_commits (s : State) (p : Act → Bool) : (Eff.apply s (.unpost p)).commits = s.commits := rfl
@[simp] theorem apply_unpost_lastWrite (s : State) (p : Act → Bool) : (Eff.apply s (.unpost p)).lastWrite = s.lastWrite := rfl
@[simp] theorem apply_unpost_journal (s : State) (p : Act → Bool) : (Eff.apply s (.unpost p)).journal = s.journal := rfl
@[simp] theorem apply_unpost_jsn (s : State) (p : Act → Bool) : (Eff.apply s (.unpost p)).jsn = s.jsn := rfl
@[simp] theorem apply_unpost_o (s : State) (p : Act → Bool) : (Eff.apply s (.unpost p)).o = s.o := rfl

/-! ## `turnDone` -/

@[simp] theorem apply_turnDone_now (s : State) (x : Nat) : (Eff.apply s (.turnDone x)).now = s.now := rfl
@[simp] theorem apply_turnDone_fresh (s : State) (x : Nat) : (Eff.apply s (.turnDone x)).fresh = s.fresh := rfl
@[simp] theorem apply_turnDone_cur (s : State) (x : Nat) : (Eff.apply s (.turnDone x)).cur = s.cur := rfl
@[simp] theorem apply_turnDone_agenda (s : State) (x : Nat) : (Eff.apply s (.turnDone x)).agenda = agendaDone s.agenda s.now x := rfl
@[simp] theorem apply_turnDone_mem (s : State) (x : Nat) : (Eff.apply s (.turnDone x)).mem = s.mem := rfl
@[simp] theorem apply_turnDone_commits (s : State) (x : Nat) : (Eff.apply s (.turnDone x)).commits = s.commits := rfl
@[simp] theorem apply_turnDone_lastWrite (s : State) (x : Nat) : (Eff.apply s (.turnDone x)).lastWrite = s.lastWrite := rfl
@[simp] theorem apply_turnDone_journal (s : State) (x : Nat) : (Eff.apply s (.turnDone x)).journal = s.journal := rfl
@[simp] theorem apply_turnDone_jsn (s : State) (x : Nat) : (Eff.apply s (.turnDone x)).jsn = s.jsn := rfl
@[simp] theorem apply_turnDone_o (s : State) (x : Nat) : (Eff.apply s (.turnDone x)).o = s.o := rfl

/-! ## `draw` -/

@[simp] theorem apply_draw_now (s : State) (n : Nat) : (Eff.apply s (.draw n)).now = s.now := rfl
@[simp] theorem apply_draw_fresh (s : State) (n : Nat) : (Eff.apply s (.draw n)).fresh = s.fresh + n := rfl
@[simp] theorem apply_draw_cur (s : State) (n : Nat) : (Eff.apply s (.draw n)).cur = s.cur := rfl
@[simp] theorem apply_draw_agenda (s : State) (n : Nat) : (Eff.apply s (.draw n)).agenda = s.agenda := rfl
@[simp] theorem apply_draw_mem (s : State) (n : Nat) : (Eff.apply s (.draw n)).mem = s.mem := rfl
@[simp] theorem apply_draw_commits (s : State) (n : Nat) : (Eff.apply s (.draw n)).commits = s.commits := rfl
@[simp] theorem apply_draw_lastWrite (s : State) (n : Nat) : (Eff.apply s (.draw n)).lastWrite = s.lastWrite := rfl
@[simp] theorem apply_draw_journal (s : State) (n : Nat) : (Eff.apply s (.draw n)).journal = s.journal := rfl
@[simp] theorem apply_draw_jsn (s : State) (n : Nat) : (Eff.apply s (.draw n)).jsn = s.jsn := rfl
@[simp] theorem apply_draw_o (s : State) (n : Nat) : (Eff.apply s (.draw n)).o = s.o := rfl

/-! ## `focus` -/

@[simp] theorem apply_focus_now (s : State) (x : Nat) : (Eff.apply s (.focus x)).now = s.now := rfl
@[simp] theorem apply_focus_fresh (s : State) (x : Nat) : (Eff.apply s (.focus x)).fresh = s.fresh := rfl
@[simp] theorem apply_focus_cur (s : State) (x : Nat) : (Eff.apply s (.focus x)).cur = x := rfl
@[simp] theorem apply_focus_agenda (s : State) (x : Nat) : (Eff.apply s (.focus x)).agenda = s.agenda := rfl
@[simp] theorem apply_focus_mem (s : State) (x : Nat) : (Eff.apply s (.focus x)).mem = s.mem := rfl
@[simp] theorem apply_focus_commits (s : State) (x : Nat) : (Eff.apply s (.focus x)).commits = s.commits := rfl
@[simp] theorem apply_focus_lastWrite (s : State) (x : Nat) : (Eff.apply s (.focus x)).lastWrite = s.lastWrite := rfl
@[simp] theorem apply_focus_journal (s : State) (x : Nat) : (Eff.apply s (.focus x)).journal = s.journal := rfl
@[simp] theorem apply_focus_jsn (s : State) (x : Nat) : (Eff.apply s (.focus x)).jsn = s.jsn := rfl
@[simp] theorem apply_focus_o (s : State) (x : Nat) : (Eff.apply s (.focus x)).o = s.o := rfl

/-! ## `restart` -/

@[simp] theorem apply_restart_now (s : State) : (Eff.apply s (.restart)).now = s.now := rfl
@[simp] theorem apply_restart_fresh (s : State) : (Eff.apply s (.restart)).fresh = s.fresh := rfl
@[simp] theorem apply_restart_cur (s : State) : (Eff.apply s (.restart)).cur = s.cur := rfl
@[simp] theorem apply_restart_agenda (s : State) : (Eff.apply s (.restart)).agenda = s.agenda := rfl
@[simp] theorem apply_restart_mem (s : State) : (Eff.apply s (.restart)).mem = s.mem := rfl
@[simp] theorem apply_restart_commits (s : State) : (Eff.apply s (.restart)).commits = 0 := rfl
@[simp] theorem apply_restart_lastWrite (s : State) : (Eff.apply s (.restart)).lastWrite = [] := rfl
@[simp] theorem apply_restart_journal (s : State) : (Eff.apply s (.restart)).journal = [] := rfl
@[simp] theorem apply_restart_jsn (s : State) : (Eff.apply s (.restart)).jsn = 1 := rfl
@[simp] theorem apply_restart_o (s : State) : (Eff.apply s (.restart)).o = s.o := rfl

/-! ## `onThr` -/

@[simp] theorem apply_onThr_slots (s : State) (slot : Nat) (f : Thread → Thread) : (Eff.apply s (onThr slot f)).o.slots = tabUpd s.o.slots slot f := rfl
@[simp] theorem apply_onThr_cores (s : State) (slot : Nat) (f : Thread → Thread) : (Eff.apply s (onThr slot f)).o.cores = s.o.cores := rfl
@[simp] theorem apply_onThr_quads (s : State) (slot : Nat) (f : Thread → Thread) : (Eff.apply s (onThr slot f)).o.quads = s.o.quads := rfl
@[simp] theorem apply_onThr_dies (s : State) (slot : Nat) (f : Thread → Thread) : (Eff.apply s (onThr slot f)).o.dies = s.o.dies := rfl
@[simp] theorem apply_onThr_kernels (s : State) (slot : Nat) (f : Thread → Thread) : (Eff.apply s (onThr slot f)).o.kernels = s.o.kernels := rfl
@[simp] theorem apply_onThr_tasks (s : State) (slot : Nat) (f : Thread → Thread) : (Eff.apply s (onThr slot f)).o.tasks = s.o.tasks := rfl
@[simp] theorem apply_onThr_loops (s : State) (slot : Nat) (f : Thread → Thread) : (Eff.apply s (onThr slot f)).o.loops = s.o.loops := rfl
@[simp] theorem apply_onThr_seqs (s : State) (slot : Nat) (f : Thread → Thread) : (Eff.apply s (onThr slot f)).o.seqs = s.o.seqs := rfl
@[simp] theorem apply_onThr_billets (s : State) (slot : Nat) (f : Thread → Thread) : (Eff.apply s (onThr slot f)).o.billets = s.o.billets := rfl
@[simp] theorem apply_onThr_near (s : State) (slot : Nat) (f : Thread → Thread) : (Eff.apply s (onThr slot f)).o.near = s.o.near := rfl
@[simp] theorem apply_onThr_mxReqs (s : State) (slot : Nat) (f : Thread → Thread) : (Eff.apply s (onThr slot f)).o.mxReqs = s.o.mxReqs := rfl
@[simp] theorem apply_onThr_barSends (s : State) (slot : Nat) (f : Thread → Thread) : (Eff.apply s (onThr slot f)).o.barSends = s.o.barSends := rfl
@[simp] theorem apply_onThr_subs (s : State) (slot : Nat) (f : Thread → Thread) : (Eff.apply s (onThr slot f)).o.subs = s.o.subs := rfl
@[simp] theorem apply_onThr_ctxs (s : State) (slot : Nat) (f : Thread → Thread) : (Eff.apply s (onThr slot f)).o.ctxs = s.o.ctxs := rfl
@[simp] theorem apply_onThr_queues (s : State) (slot : Nat) (f : Thread → Thread) : (Eff.apply s (onThr slot f)).o.queues = s.o.queues := rfl
@[simp] theorem apply_onThr_ports (s : State) (slot : Nat) (f : Thread → Thread) : (Eff.apply s (onThr slot f)).o.ports = s.o.ports := rfl
@[simp] theorem apply_onThr_outbox (s : State) (slot : Nat) (f : Thread → Thread) : (Eff.apply s (onThr slot f)).o.outbox = s.o.outbox := rfl
@[simp] theorem apply_onThr_poison (s : State) (slot : Nat) (f : Thread → Thread) : (Eff.apply s (onThr slot f)).o.poison = s.o.poison := rfl
@[simp] theorem apply_onThr_flips (s : State) (slot : Nat) (f : Thread → Thread) : (Eff.apply s (onThr slot f)).o.flips = s.o.flips := rfl
@[simp] theorem apply_onThr_resv (s : State) (slot : Nat) (f : Thread → Thread) : (Eff.apply s (onThr slot f)).o.resv = s.o.resv := rfl
@[simp] theorem apply_onThr_mod (s : State) (slot : Nat) (f : Thread → Thread) : (Eff.apply s (onThr slot f)).o.mod = s.o.mod := rfl
@[simp] theorem apply_onThr_now (s : State) (slot : Nat) (f : Thread → Thread) : (Eff.apply s (onThr slot f)).now = s.now := rfl
@[simp] theorem apply_onThr_fresh (s : State) (slot : Nat) (f : Thread → Thread) : (Eff.apply s (onThr slot f)).fresh = s.fresh := rfl
@[simp] theorem apply_onThr_cur (s : State) (slot : Nat) (f : Thread → Thread) : (Eff.apply s (onThr slot f)).cur = s.cur := rfl
@[simp] theorem apply_onThr_agenda (s : State) (slot : Nat) (f : Thread → Thread) : (Eff.apply s (onThr slot f)).agenda = s.agenda := rfl
@[simp] theorem apply_onThr_mem (s : State) (slot : Nat) (f : Thread → Thread) : (Eff.apply s (onThr slot f)).mem = s.mem := rfl
@[simp] theorem apply_onThr_commits (s : State) (slot : Nat) (f : Thread → Thread) : (Eff.apply s (onThr slot f)).commits = s.commits := rfl
@[simp] theorem apply_onThr_lastWrite (s : State) (slot : Nat) (f : Thread → Thread) : (Eff.apply s (onThr slot f)).lastWrite = s.lastWrite := rfl
@[simp] theorem apply_onThr_journal (s : State) (slot : Nat) (f : Thread → Thread) : (Eff.apply s (onThr slot f)).journal = s.journal := rfl
@[simp] theorem apply_onThr_jsn (s : State) (slot : Nat) (f : Thread → Thread) : (Eff.apply s (onThr slot f)).jsn = s.jsn := rfl

/-! ## `onCore` -/

@[simp] theorem apply_onCore_slots (s : State) (c : Nat) (f : Core → Core) : (Eff.apply s (onCore c f)).o.slots = s.o.slots := rfl
@[simp] theorem apply_onCore_cores (s : State) (c : Nat) (f : Core → Core) : (Eff.apply s (onCore c f)).o.cores = tabMod s.o.cores c {} f := rfl
@[simp] theorem apply_onCore_quads (s : State) (c : Nat) (f : Core → Core) : (Eff.apply s (onCore c f)).o.quads = s.o.quads := rfl
@[simp] theorem apply_onCore_dies (s : State) (c : Nat) (f : Core → Core) : (Eff.apply s (onCore c f)).o.dies = s.o.dies := rfl
@[simp] theorem apply_onCore_kernels (s : State) (c : Nat) (f : Core → Core) : (Eff.apply s (onCore c f)).o.kernels = s.o.kernels := rfl
@[simp] theorem apply_onCore_tasks (s : State) (c : Nat) (f : Core → Core) : (Eff.apply s (onCore c f)).o.tasks = s.o.tasks := rfl
@[simp] theorem apply_onCore_loops (s : State) (c : Nat) (f : Core → Core) : (Eff.apply s (onCore c f)).o.loops = s.o.loops := rfl
@[simp] theorem apply_onCore_seqs (s : State) (c : Nat) (f : Core → Core) : (Eff.apply s (onCore c f)).o.seqs = s.o.seqs := rfl
@[simp] theorem apply_onCore_billets (s : State) (c : Nat) (f : Core → Core) : (Eff.apply s (onCore c f)).o.billets = s.o.billets := rfl
@[simp] theorem apply_onCore_near (s : State) (c : Nat) (f : Core → Core) : (Eff.apply s (onCore c f)).o.near = s.o.near := rfl
@[simp] theorem apply_onCore_mxReqs (s : State) (c : Nat) (f : Core → Core) : (Eff.apply s (onCore c f)).o.mxReqs = s.o.mxReqs := rfl
@[simp] theorem apply_onCore_barSends (s : State) (c : Nat) (f : Core → Core) : (Eff.apply s (onCore c f)).o.barSends = s.o.barSends := rfl
@[simp] theorem apply_onCore_subs (s : State) (c : Nat) (f : Core → Core) : (Eff.apply s (onCore c f)).o.subs = s.o.subs := rfl
@[simp] theorem apply_onCore_ctxs (s : State) (c : Nat) (f : Core → Core) : (Eff.apply s (onCore c f)).o.ctxs = s.o.ctxs := rfl
@[simp] theorem apply_onCore_queues (s : State) (c : Nat) (f : Core → Core) : (Eff.apply s (onCore c f)).o.queues = s.o.queues := rfl
@[simp] theorem apply_onCore_ports (s : State) (c : Nat) (f : Core → Core) : (Eff.apply s (onCore c f)).o.ports = s.o.ports := rfl
@[simp] theorem apply_onCore_outbox (s : State) (c : Nat) (f : Core → Core) : (Eff.apply s (onCore c f)).o.outbox = s.o.outbox := rfl
@[simp] theorem apply_onCore_poison (s : State) (c : Nat) (f : Core → Core) : (Eff.apply s (onCore c f)).o.poison = s.o.poison := rfl
@[simp] theorem apply_onCore_flips (s : State) (c : Nat) (f : Core → Core) : (Eff.apply s (onCore c f)).o.flips = s.o.flips := rfl
@[simp] theorem apply_onCore_resv (s : State) (c : Nat) (f : Core → Core) : (Eff.apply s (onCore c f)).o.resv = s.o.resv := rfl
@[simp] theorem apply_onCore_mod (s : State) (c : Nat) (f : Core → Core) : (Eff.apply s (onCore c f)).o.mod = s.o.mod := rfl
@[simp] theorem apply_onCore_now (s : State) (c : Nat) (f : Core → Core) : (Eff.apply s (onCore c f)).now = s.now := rfl
@[simp] theorem apply_onCore_fresh (s : State) (c : Nat) (f : Core → Core) : (Eff.apply s (onCore c f)).fresh = s.fresh := rfl
@[simp] theorem apply_onCore_cur (s : State) (c : Nat) (f : Core → Core) : (Eff.apply s (onCore c f)).cur = s.cur := rfl
@[simp] theorem apply_onCore_agenda (s : State) (c : Nat) (f : Core → Core) : (Eff.apply s (onCore c f)).agenda = s.agenda := rfl
@[simp] theorem apply_onCore_mem (s : State) (c : Nat) (f : Core → Core) : (Eff.apply s (onCore c f)).mem = s.mem := rfl
@[simp] theorem apply_onCore_commits (s : State) (c : Nat) (f : Core → Core) : (Eff.apply s (onCore c f)).commits = s.commits := rfl
@[simp] theorem apply_onCore_lastWrite (s : State) (c : Nat) (f : Core → Core) : (Eff.apply s (onCore c f)).lastWrite = s.lastWrite := rfl
@[simp] theorem apply_onCore_journal (s : State) (c : Nat) (f : Core → Core) : (Eff.apply s (onCore c f)).journal = s.journal := rfl
@[simp] theorem apply_onCore_jsn (s : State) (c : Nat) (f : Core → Core) : (Eff.apply s (onCore c f)).jsn = s.jsn := rfl

/-! ## `onQuad` -/

@[simp] theorem apply_onQuad_slots (s : State) (q : Nat) (f : Quad → Quad) : (Eff.apply s (onQuad q f)).o.slots = s.o.slots := rfl
@[simp] theorem apply_onQuad_cores (s : State) (q : Nat) (f : Quad → Quad) : (Eff.apply s (onQuad q f)).o.cores = s.o.cores := rfl
@[simp] theorem apply_onQuad_quads (s : State) (q : Nat) (f : Quad → Quad) : (Eff.apply s (onQuad q f)).o.quads = tabMod s.o.quads q {} f := rfl
@[simp] theorem apply_onQuad_dies (s : State) (q : Nat) (f : Quad → Quad) : (Eff.apply s (onQuad q f)).o.dies = s.o.dies := rfl
@[simp] theorem apply_onQuad_kernels (s : State) (q : Nat) (f : Quad → Quad) : (Eff.apply s (onQuad q f)).o.kernels = s.o.kernels := rfl
@[simp] theorem apply_onQuad_tasks (s : State) (q : Nat) (f : Quad → Quad) : (Eff.apply s (onQuad q f)).o.tasks = s.o.tasks := rfl
@[simp] theorem apply_onQuad_loops (s : State) (q : Nat) (f : Quad → Quad) : (Eff.apply s (onQuad q f)).o.loops = s.o.loops := rfl
@[simp] theorem apply_onQuad_seqs (s : State) (q : Nat) (f : Quad → Quad) : (Eff.apply s (onQuad q f)).o.seqs = s.o.seqs := rfl
@[simp] theorem apply_onQuad_billets (s : State) (q : Nat) (f : Quad → Quad) : (Eff.apply s (onQuad q f)).o.billets = s.o.billets := rfl
@[simp] theorem apply_onQuad_near (s : State) (q : Nat) (f : Quad → Quad) : (Eff.apply s (onQuad q f)).o.near = s.o.near := rfl
@[simp] theorem apply_onQuad_mxReqs (s : State) (q : Nat) (f : Quad → Quad) : (Eff.apply s (onQuad q f)).o.mxReqs = s.o.mxReqs := rfl
@[simp] theorem apply_onQuad_barSends (s : State) (q : Nat) (f : Quad → Quad) : (Eff.apply s (onQuad q f)).o.barSends = s.o.barSends := rfl
@[simp] theorem apply_onQuad_subs (s : State) (q : Nat) (f : Quad → Quad) : (Eff.apply s (onQuad q f)).o.subs = s.o.subs := rfl
@[simp] theorem apply_onQuad_ctxs (s : State) (q : Nat) (f : Quad → Quad) : (Eff.apply s (onQuad q f)).o.ctxs = s.o.ctxs := rfl
@[simp] theorem apply_onQuad_queues (s : State) (q : Nat) (f : Quad → Quad) : (Eff.apply s (onQuad q f)).o.queues = s.o.queues := rfl
@[simp] theorem apply_onQuad_ports (s : State) (q : Nat) (f : Quad → Quad) : (Eff.apply s (onQuad q f)).o.ports = s.o.ports := rfl
@[simp] theorem apply_onQuad_outbox (s : State) (q : Nat) (f : Quad → Quad) : (Eff.apply s (onQuad q f)).o.outbox = s.o.outbox := rfl
@[simp] theorem apply_onQuad_poison (s : State) (q : Nat) (f : Quad → Quad) : (Eff.apply s (onQuad q f)).o.poison = s.o.poison := rfl
@[simp] theorem apply_onQuad_flips (s : State) (q : Nat) (f : Quad → Quad) : (Eff.apply s (onQuad q f)).o.flips = s.o.flips := rfl
@[simp] theorem apply_onQuad_resv (s : State) (q : Nat) (f : Quad → Quad) : (Eff.apply s (onQuad q f)).o.resv = s.o.resv := rfl
@[simp] theorem apply_onQuad_mod (s : State) (q : Nat) (f : Quad → Quad) : (Eff.apply s (onQuad q f)).o.mod = s.o.mod := rfl
@[simp] theorem apply_onQuad_now (s : State) (q : Nat) (f : Quad → Quad) : (Eff.apply s (onQuad q f)).now = s.now := rfl
@[simp] theorem apply_onQuad_fresh (s : State) (q : Nat) (f : Quad → Quad) : (Eff.apply s (onQuad q f)).fresh = s.fresh := rfl
@[simp] theorem apply_onQuad_cur (s : State) (q : Nat) (f : Quad → Quad) : (Eff.apply s (onQuad q f)).cur = s.cur := rfl
@[simp] theorem apply_onQuad_agenda (s : State) (q : Nat) (f : Quad → Quad) : (Eff.apply s (onQuad q f)).agenda = s.agenda := rfl
@[simp] theorem apply_onQuad_mem (s : State) (q : Nat) (f : Quad → Quad) : (Eff.apply s (onQuad q f)).mem = s.mem := rfl
@[simp] theorem apply_onQuad_commits (s : State) (q : Nat) (f : Quad → Quad) : (Eff.apply s (onQuad q f)).commits = s.commits := rfl
@[simp] theorem apply_onQuad_lastWrite (s : State) (q : Nat) (f : Quad → Quad) : (Eff.apply s (onQuad q f)).lastWrite = s.lastWrite := rfl
@[simp] theorem apply_onQuad_journal (s : State) (q : Nat) (f : Quad → Quad) : (Eff.apply s (onQuad q f)).journal = s.journal := rfl
@[simp] theorem apply_onQuad_jsn (s : State) (q : Nat) (f : Quad → Quad) : (Eff.apply s (onQuad q f)).jsn = s.jsn := rfl

/-! ## `onKernel` -/

@[simp] theorem apply_onKernel_slots (s : State) (k : Nat) (f : Kernel → Kernel) : (Eff.apply s (onKernel k f)).o.slots = s.o.slots := rfl
@[simp] theorem apply_onKernel_cores (s : State) (k : Nat) (f : Kernel → Kernel) : (Eff.apply s (onKernel k f)).o.cores = s.o.cores := rfl
@[simp] theorem apply_onKernel_quads (s : State) (k : Nat) (f : Kernel → Kernel) : (Eff.apply s (onKernel k f)).o.quads = s.o.quads := rfl
@[simp] theorem apply_onKernel_dies (s : State) (k : Nat) (f : Kernel → Kernel) : (Eff.apply s (onKernel k f)).o.dies = s.o.dies := rfl
@[simp] theorem apply_onKernel_kernels (s : State) (k : Nat) (f : Kernel → Kernel) : (Eff.apply s (onKernel k f)).o.kernels = tabUpd s.o.kernels k f := rfl
@[simp] theorem apply_onKernel_tasks (s : State) (k : Nat) (f : Kernel → Kernel) : (Eff.apply s (onKernel k f)).o.tasks = s.o.tasks := rfl
@[simp] theorem apply_onKernel_loops (s : State) (k : Nat) (f : Kernel → Kernel) : (Eff.apply s (onKernel k f)).o.loops = s.o.loops := rfl
@[simp] theorem apply_onKernel_seqs (s : State) (k : Nat) (f : Kernel → Kernel) : (Eff.apply s (onKernel k f)).o.seqs = s.o.seqs := rfl
@[simp] theorem apply_onKernel_billets (s : State) (k : Nat) (f : Kernel → Kernel) : (Eff.apply s (onKernel k f)).o.billets = s.o.billets := rfl
@[simp] theorem apply_onKernel_near (s : State) (k : Nat) (f : Kernel → Kernel) : (Eff.apply s (onKernel k f)).o.near = s.o.near := rfl
@[simp] theorem apply_onKernel_mxReqs (s : State) (k : Nat) (f : Kernel → Kernel) : (Eff.apply s (onKernel k f)).o.mxReqs = s.o.mxReqs := rfl
@[simp] theorem apply_onKernel_barSends (s : State) (k : Nat) (f : Kernel → Kernel) : (Eff.apply s (onKernel k f)).o.barSends = s.o.barSends := rfl
@[simp] theorem apply_onKernel_subs (s : State) (k : Nat) (f : Kernel → Kernel) : (Eff.apply s (onKernel k f)).o.subs = s.o.subs := rfl
@[simp] theorem apply_onKernel_ctxs (s : State) (k : Nat) (f : Kernel → Kernel) : (Eff.apply s (onKernel k f)).o.ctxs = s.o.ctxs := rfl
@[simp] theorem apply_onKernel_queues (s : State) (k : Nat) (f : Kernel → Kernel) : (Eff.apply s (onKernel k f)).o.queues = s.o.queues := rfl
@[simp] theorem apply_onKernel_ports (s : State) (k : Nat) (f : Kernel → Kernel) : (Eff.apply s (onKernel k f)).o.ports = s.o.ports := rfl
@[simp] theorem apply_onKernel_outbox (s : State) (k : Nat) (f : Kernel → Kernel) : (Eff.apply s (onKernel k f)).o.outbox = s.o.outbox := rfl
@[simp] theorem apply_onKernel_poison (s : State) (k : Nat) (f : Kernel → Kernel) : (Eff.apply s (onKernel k f)).o.poison = s.o.poison := rfl
@[simp] theorem apply_onKernel_flips (s : State) (k : Nat) (f : Kernel → Kernel) : (Eff.apply s (onKernel k f)).o.flips = s.o.flips := rfl
@[simp] theorem apply_onKernel_resv (s : State) (k : Nat) (f : Kernel → Kernel) : (Eff.apply s (onKernel k f)).o.resv = s.o.resv := rfl
@[simp] theorem apply_onKernel_mod (s : State) (k : Nat) (f : Kernel → Kernel) : (Eff.apply s (onKernel k f)).o.mod = s.o.mod := rfl
@[simp] theorem apply_onKernel_now (s : State) (k : Nat) (f : Kernel → Kernel) : (Eff.apply s (onKernel k f)).now = s.now := rfl
@[simp] theorem apply_onKernel_fresh (s : State) (k : Nat) (f : Kernel → Kernel) : (Eff.apply s (onKernel k f)).fresh = s.fresh := rfl
@[simp] theorem apply_onKernel_cur (s : State) (k : Nat) (f : Kernel → Kernel) : (Eff.apply s (onKernel k f)).cur = s.cur := rfl
@[simp] theorem apply_onKernel_agenda (s : State) (k : Nat) (f : Kernel → Kernel) : (Eff.apply s (onKernel k f)).agenda = s.agenda := rfl
@[simp] theorem apply_onKernel_mem (s : State) (k : Nat) (f : Kernel → Kernel) : (Eff.apply s (onKernel k f)).mem = s.mem := rfl
@[simp] theorem apply_onKernel_commits (s : State) (k : Nat) (f : Kernel → Kernel) : (Eff.apply s (onKernel k f)).commits = s.commits := rfl
@[simp] theorem apply_onKernel_lastWrite (s : State) (k : Nat) (f : Kernel → Kernel) : (Eff.apply s (onKernel k f)).lastWrite = s.lastWrite := rfl
@[simp] theorem apply_onKernel_journal (s : State) (k : Nat) (f : Kernel → Kernel) : (Eff.apply s (onKernel k f)).journal = s.journal := rfl
@[simp] theorem apply_onKernel_jsn (s : State) (k : Nat) (f : Kernel → Kernel) : (Eff.apply s (onKernel k f)).jsn = s.jsn := rfl

/-! ## `onTask` -/

@[simp] theorem apply_onTask_slots (s : State) (t : Nat) (f : Task → Task) : (Eff.apply s (onTask t f)).o.slots = s.o.slots := rfl
@[simp] theorem apply_onTask_cores (s : State) (t : Nat) (f : Task → Task) : (Eff.apply s (onTask t f)).o.cores = s.o.cores := rfl
@[simp] theorem apply_onTask_quads (s : State) (t : Nat) (f : Task → Task) : (Eff.apply s (onTask t f)).o.quads = s.o.quads := rfl
@[simp] theorem apply_onTask_dies (s : State) (t : Nat) (f : Task → Task) : (Eff.apply s (onTask t f)).o.dies = s.o.dies := rfl
@[simp] theorem apply_onTask_kernels (s : State) (t : Nat) (f : Task → Task) : (Eff.apply s (onTask t f)).o.kernels = s.o.kernels := rfl
@[simp] theorem apply_onTask_tasks (s : State) (t : Nat) (f : Task → Task) : (Eff.apply s (onTask t f)).o.tasks = tabUpd s.o.tasks t f := rfl
@[simp] theorem apply_onTask_loops (s : State) (t : Nat) (f : Task → Task) : (Eff.apply s (onTask t f)).o.loops = s.o.loops := rfl
@[simp] theorem apply_onTask_seqs (s : State) (t : Nat) (f : Task → Task) : (Eff.apply s (onTask t f)).o.seqs = s.o.seqs := rfl
@[simp] theorem apply_onTask_billets (s : State) (t : Nat) (f : Task → Task) : (Eff.apply s (onTask t f)).o.billets = s.o.billets := rfl
@[simp] theorem apply_onTask_near (s : State) (t : Nat) (f : Task → Task) : (Eff.apply s (onTask t f)).o.near = s.o.near := rfl
@[simp] theorem apply_onTask_mxReqs (s : State) (t : Nat) (f : Task → Task) : (Eff.apply s (onTask t f)).o.mxReqs = s.o.mxReqs := rfl
@[simp] theorem apply_onTask_barSends (s : State) (t : Nat) (f : Task → Task) : (Eff.apply s (onTask t f)).o.barSends = s.o.barSends := rfl
@[simp] theorem apply_onTask_subs (s : State) (t : Nat) (f : Task → Task) : (Eff.apply s (onTask t f)).o.subs = s.o.subs := rfl
@[simp] theorem apply_onTask_ctxs (s : State) (t : Nat) (f : Task → Task) : (Eff.apply s (onTask t f)).o.ctxs = s.o.ctxs := rfl
@[simp] theorem apply_onTask_queues (s : State) (t : Nat) (f : Task → Task) : (Eff.apply s (onTask t f)).o.queues = s.o.queues := rfl
@[simp] theorem apply_onTask_ports (s : State) (t : Nat) (f : Task → Task) : (Eff.apply s (onTask t f)).o.ports = s.o.ports := rfl
@[simp] theorem apply_onTask_outbox (s : State) (t : Nat) (f : Task → Task) : (Eff.apply s (onTask t f)).o.outbox = s.o.outbox := rfl
@[simp] theorem apply_onTask_poison (s : State) (t : Nat) (f : Task → Task) : (Eff.apply s (onTask t f)).o.poison = s.o.poison := rfl
@[simp] theorem apply_onTask_flips (s : State) (t : Nat) (f : Task → Task) : (Eff.apply s (onTask t f)).o.flips = s.o.flips := rfl
@[simp] theorem apply_onTask_resv (s : State) (t : Nat) (f : Task → Task) : (Eff.apply s (onTask t f)).o.resv = s.o.resv := rfl
@[simp] theorem apply_onTask_mod (s : State) (t : Nat) (f : Task → Task) : (Eff.apply s (onTask t f)).o.mod = s.o.mod := rfl
@[simp] theorem apply_onTask_now (s : State) (t : Nat) (f : Task → Task) : (Eff.apply s (onTask t f)).now = s.now := rfl
@[simp] theorem apply_onTask_fresh (s : State) (t : Nat) (f : Task → Task) : (Eff.apply s (onTask t f)).fresh = s.fresh := rfl
@[simp] theorem apply_onTask_cur (s : State) (t : Nat) (f : Task → Task) : (Eff.apply s (onTask t f)).cur = s.cur := rfl
@[simp] theorem apply_onTask_agenda (s : State) (t : Nat) (f : Task → Task) : (Eff.apply s (onTask t f)).agenda = s.agenda := rfl
@[simp] theorem apply_onTask_mem (s : State) (t : Nat) (f : Task → Task) : (Eff.apply s (onTask t f)).mem = s.mem := rfl
@[simp] theorem apply_onTask_commits (s : State) (t : Nat) (f : Task → Task) : (Eff.apply s (onTask t f)).commits = s.commits := rfl
@[simp] theorem apply_onTask_lastWrite (s : State) (t : Nat) (f : Task → Task) : (Eff.apply s (onTask t f)).lastWrite = s.lastWrite := rfl
@[simp] theorem apply_onTask_journal (s : State) (t : Nat) (f : Task → Task) : (Eff.apply s (onTask t f)).journal = s.journal := rfl
@[simp] theorem apply_onTask_jsn (s : State) (t : Nat) (f : Task → Task) : (Eff.apply s (onTask t f)).jsn = s.jsn := rfl

/-! ## `onLoop` -/

@[simp] theorem apply_onLoop_slots (s : State) (l : Nat) (f : Loop → Loop) : (Eff.apply s (onLoop l f)).o.slots = s.o.slots := rfl
@[simp] theorem apply_onLoop_cores (s : State) (l : Nat) (f : Loop → Loop) : (Eff.apply s (onLoop l f)).o.cores = s.o.cores := rfl
@[simp] theorem apply_onLoop_quads (s : State) (l : Nat) (f : Loop → Loop) : (Eff.apply s (onLoop l f)).o.quads = s.o.quads := rfl
@[simp] theorem apply_onLoop_dies (s : State) (l : Nat) (f : Loop → Loop) : (Eff.apply s (onLoop l f)).o.dies = s.o.dies := rfl
@[simp] theorem apply_onLoop_kernels (s : State) (l : Nat) (f : Loop → Loop) : (Eff.apply s (onLoop l f)).o.kernels = s.o.kernels := rfl
@[simp] theorem apply_onLoop_tasks (s : State) (l : Nat) (f : Loop → Loop) : (Eff.apply s (onLoop l f)).o.tasks = s.o.tasks := rfl
@[simp] theorem apply_onLoop_loops (s : State) (l : Nat) (f : Loop → Loop) : (Eff.apply s (onLoop l f)).o.loops = tabUpd s.o.loops l f := rfl
@[simp] theorem apply_onLoop_seqs (s : State) (l : Nat) (f : Loop → Loop) : (Eff.apply s (onLoop l f)).o.seqs = s.o.seqs := rfl
@[simp] theorem apply_onLoop_billets (s : State) (l : Nat) (f : Loop → Loop) : (Eff.apply s (onLoop l f)).o.billets = s.o.billets := rfl
@[simp] theorem apply_onLoop_near (s : State) (l : Nat) (f : Loop → Loop) : (Eff.apply s (onLoop l f)).o.near = s.o.near := rfl
@[simp] theorem apply_onLoop_mxReqs (s : State) (l : Nat) (f : Loop → Loop) : (Eff.apply s (onLoop l f)).o.mxReqs = s.o.mxReqs := rfl
@[simp] theorem apply_onLoop_barSends (s : State) (l : Nat) (f : Loop → Loop) : (Eff.apply s (onLoop l f)).o.barSends = s.o.barSends := rfl
@[simp] theorem apply_onLoop_subs (s : State) (l : Nat) (f : Loop → Loop) : (Eff.apply s (onLoop l f)).o.subs = s.o.subs := rfl
@[simp] theorem apply_onLoop_ctxs (s : State) (l : Nat) (f : Loop → Loop) : (Eff.apply s (onLoop l f)).o.ctxs = s.o.ctxs := rfl
@[simp] theorem apply_onLoop_queues (s : State) (l : Nat) (f : Loop → Loop) : (Eff.apply s (onLoop l f)).o.queues = s.o.queues := rfl
@[simp] theorem apply_onLoop_ports (s : State) (l : Nat) (f : Loop → Loop) : (Eff.apply s (onLoop l f)).o.ports = s.o.ports := rfl
@[simp] theorem apply_onLoop_outbox (s : State) (l : Nat) (f : Loop → Loop) : (Eff.apply s (onLoop l f)).o.outbox = s.o.outbox := rfl
@[simp] theorem apply_onLoop_poison (s : State) (l : Nat) (f : Loop → Loop) : (Eff.apply s (onLoop l f)).o.poison = s.o.poison := rfl
@[simp] theorem apply_onLoop_flips (s : State) (l : Nat) (f : Loop → Loop) : (Eff.apply s (onLoop l f)).o.flips = s.o.flips := rfl
@[simp] theorem apply_onLoop_resv (s : State) (l : Nat) (f : Loop → Loop) : (Eff.apply s (onLoop l f)).o.resv = s.o.resv := rfl
@[simp] theorem apply_onLoop_mod (s : State) (l : Nat) (f : Loop → Loop) : (Eff.apply s (onLoop l f)).o.mod = s.o.mod := rfl
@[simp] theorem apply_onLoop_now (s : State) (l : Nat) (f : Loop → Loop) : (Eff.apply s (onLoop l f)).now = s.now := rfl
@[simp] theorem apply_onLoop_fresh (s : State) (l : Nat) (f : Loop → Loop) : (Eff.apply s (onLoop l f)).fresh = s.fresh := rfl
@[simp] theorem apply_onLoop_cur (s : State) (l : Nat) (f : Loop → Loop) : (Eff.apply s (onLoop l f)).cur = s.cur := rfl
@[simp] theorem apply_onLoop_agenda (s : State) (l : Nat) (f : Loop → Loop) : (Eff.apply s (onLoop l f)).agenda = s.agenda := rfl
@[simp] theorem apply_onLoop_mem (s : State) (l : Nat) (f : Loop → Loop) : (Eff.apply s (onLoop l f)).mem = s.mem := rfl
@[simp] theorem apply_onLoop_commits (s : State) (l : Nat) (f : Loop → Loop) : (Eff.apply s (onLoop l f)).commits = s.commits := rfl
@[simp] theorem apply_onLoop_lastWrite (s : State) (l : Nat) (f : Loop → Loop) : (Eff.apply s (onLoop l f)).lastWrite = s.lastWrite := rfl
@[simp] theorem apply_onLoop_journal (s : State) (l : Nat) (f : Loop → Loop) : (Eff.apply s (onLoop l f)).journal = s.journal := rfl
@[simp] theorem apply_onLoop_jsn (s : State) (l : Nat) (f : Loop → Loop) : (Eff.apply s (onLoop l f)).jsn = s.jsn := rfl

/-! ## `onSeq` -/

@[simp] theorem apply_onSeq_slots (s : State) (k : Nat) (f : Seq → Seq) : (Eff.apply s (onSeq k f)).o.slots = s.o.slots := rfl
@[simp] theorem apply_onSeq_cores (s : State) (k : Nat) (f : Seq → Seq) : (Eff.apply s (onSeq k f)).o.cores = s.o.cores := rfl
@[simp] theorem apply_onSeq_quads (s : State) (k : Nat) (f : Seq → Seq) : (Eff.apply s (onSeq k f)).o.quads = s.o.quads := rfl
@[simp] theorem apply_onSeq_dies (s : State) (k : Nat) (f : Seq → Seq) : (Eff.apply s (onSeq k f)).o.dies = s.o.dies := rfl
@[simp] theorem apply_onSeq_kernels (s : State) (k : Nat) (f : Seq → Seq) : (Eff.apply s (onSeq k f)).o.kernels = s.o.kernels := rfl
@[simp] theorem apply_onSeq_tasks (s : State) (k : Nat) (f : Seq → Seq) : (Eff.apply s (onSeq k f)).o.tasks = s.o.tasks := rfl
@[simp] theorem apply_onSeq_loops (s : State) (k : Nat) (f : Seq → Seq) : (Eff.apply s (onSeq k f)).o.loops = s.o.loops := rfl
@[simp] theorem apply_onSeq_seqs (s : State) (k : Nat) (f : Seq → Seq) : (Eff.apply s (onSeq k f)).o.seqs = tabUpd s.o.seqs k f := rfl
@[simp] theorem apply_onSeq_billets (s : State) (k : Nat) (f : Seq → Seq) : (Eff.apply s (onSeq k f)).o.billets = s.o.billets := rfl
@[simp] theorem apply_onSeq_near (s : State) (k : Nat) (f : Seq → Seq) : (Eff.apply s (onSeq k f)).o.near = s.o.near := rfl
@[simp] theorem apply_onSeq_mxReqs (s : State) (k : Nat) (f : Seq → Seq) : (Eff.apply s (onSeq k f)).o.mxReqs = s.o.mxReqs := rfl
@[simp] theorem apply_onSeq_barSends (s : State) (k : Nat) (f : Seq → Seq) : (Eff.apply s (onSeq k f)).o.barSends = s.o.barSends := rfl
@[simp] theorem apply_onSeq_subs (s : State) (k : Nat) (f : Seq → Seq) : (Eff.apply s (onSeq k f)).o.subs = s.o.subs := rfl
@[simp] theorem apply_onSeq_ctxs (s : State) (k : Nat) (f : Seq → Seq) : (Eff.apply s (onSeq k f)).o.ctxs = s.o.ctxs := rfl
@[simp] theorem apply_onSeq_queues (s : State) (k : Nat) (f : Seq → Seq) : (Eff.apply s (onSeq k f)).o.queues = s.o.queues := rfl
@[simp] theorem apply_onSeq_ports (s : State) (k : Nat) (f : Seq → Seq) : (Eff.apply s (onSeq k f)).o.ports = s.o.ports := rfl
@[simp] theorem apply_onSeq_outbox (s : State) (k : Nat) (f : Seq → Seq) : (Eff.apply s (onSeq k f)).o.outbox = s.o.outbox := rfl
@[simp] theorem apply_onSeq_poison (s : State) (k : Nat) (f : Seq → Seq) : (Eff.apply s (onSeq k f)).o.poison = s.o.poison := rfl
@[simp] theorem apply_onSeq_flips (s : State) (k : Nat) (f : Seq → Seq) : (Eff.apply s (onSeq k f)).o.flips = s.o.flips := rfl
@[simp] theorem apply_onSeq_resv (s : State) (k : Nat) (f : Seq → Seq) : (Eff.apply s (onSeq k f)).o.resv = s.o.resv := rfl
@[simp] theorem apply_onSeq_mod (s : State) (k : Nat) (f : Seq → Seq) : (Eff.apply s (onSeq k f)).o.mod = s.o.mod := rfl
@[simp] theorem apply_onSeq_now (s : State) (k : Nat) (f : Seq → Seq) : (Eff.apply s (onSeq k f)).now = s.now := rfl
@[simp] theorem apply_onSeq_fresh (s : State) (k : Nat) (f : Seq → Seq) : (Eff.apply s (onSeq k f)).fresh = s.fresh := rfl
@[simp] theorem apply_onSeq_cur (s : State) (k : Nat) (f : Seq → Seq) : (Eff.apply s (onSeq k f)).cur = s.cur := rfl
@[simp] theorem apply_onSeq_agenda (s : State) (k : Nat) (f : Seq → Seq) : (Eff.apply s (onSeq k f)).agenda = s.agenda := rfl
@[simp] theorem apply_onSeq_mem (s : State) (k : Nat) (f : Seq → Seq) : (Eff.apply s (onSeq k f)).mem = s.mem := rfl
@[simp] theorem apply_onSeq_commits (s : State) (k : Nat) (f : Seq → Seq) : (Eff.apply s (onSeq k f)).commits = s.commits := rfl
@[simp] theorem apply_onSeq_lastWrite (s : State) (k : Nat) (f : Seq → Seq) : (Eff.apply s (onSeq k f)).lastWrite = s.lastWrite := rfl
@[simp] theorem apply_onSeq_journal (s : State) (k : Nat) (f : Seq → Seq) : (Eff.apply s (onSeq k f)).journal = s.journal := rfl
@[simp] theorem apply_onSeq_jsn (s : State) (k : Nat) (f : Seq → Seq) : (Eff.apply s (onSeq k f)).jsn = s.jsn := rfl

/-! ## `onCtx` -/

@[simp] theorem apply_onCtx_slots (s : State) (c : Nat) (f : Ctx → Ctx) : (Eff.apply s (onCtx c f)).o.slots = s.o.slots := rfl
@[simp] theorem apply_onCtx_cores (s : State) (c : Nat) (f : Ctx → Ctx) : (Eff.apply s (onCtx c f)).o.cores = s.o.cores := rfl
@[simp] theorem apply_onCtx_quads (s : State) (c : Nat) (f : Ctx → Ctx) : (Eff.apply s (onCtx c f)).o.quads = s.o.quads := rfl
@[simp] theorem apply_onCtx_dies (s : State) (c : Nat) (f : Ctx → Ctx) : (Eff.apply s (onCtx c f)).o.dies = s.o.dies := rfl
@[simp] theorem apply_onCtx_kernels (s : State) (c : Nat) (f : Ctx → Ctx) : (Eff.apply s (onCtx c f)).o.kernels = s.o.kernels := rfl
@[simp] theorem apply_onCtx_tasks (s : State) (c : Nat) (f : Ctx → Ctx) : (Eff.apply s (onCtx c f)).o.tasks = s.o.tasks := rfl
@[simp] theorem apply_onCtx_loops (s : State) (c : Nat) (f : Ctx → Ctx) : (Eff.apply s (onCtx c f)).o.loops = s.o.loops := rfl
@[simp] theorem apply_onCtx_seqs (s : State) (c : Nat) (f : Ctx → Ctx) : (Eff.apply s (onCtx c f)).o.seqs = s.o.seqs := rfl
@[simp] theorem apply_onCtx_billets (s : State) (c : Nat) (f : Ctx → Ctx) : (Eff.apply s (onCtx c f)).o.billets = s.o.billets := rfl
@[simp] theorem apply_onCtx_near (s : State) (c : Nat) (f : Ctx → Ctx) : (Eff.apply s (onCtx c f)).o.near = s.o.near := rfl
@[simp] theorem apply_onCtx_mxReqs (s : State) (c : Nat) (f : Ctx → Ctx) : (Eff.apply s (onCtx c f)).o.mxReqs = s.o.mxReqs := rfl
@[simp] theorem apply_onCtx_barSends (s : State) (c : Nat) (f : Ctx → Ctx) : (Eff.apply s (onCtx c f)).o.barSends = s.o.barSends := rfl
@[simp] theorem apply_onCtx_subs (s : State) (c : Nat) (f : Ctx → Ctx) : (Eff.apply s (onCtx c f)).o.subs = s.o.subs := rfl
@[simp] theorem apply_onCtx_ctxs (s : State) (c : Nat) (f : Ctx → Ctx) : (Eff.apply s (onCtx c f)).o.ctxs = tabUpd s.o.ctxs c f := rfl
@[simp] theorem apply_onCtx_queues (s : State) (c : Nat) (f : Ctx → Ctx) : (Eff.apply s (onCtx c f)).o.queues = s.o.queues := rfl
@[simp] theorem apply_onCtx_ports (s : State) (c : Nat) (f : Ctx → Ctx) : (Eff.apply s (onCtx c f)).o.ports = s.o.ports := rfl
@[simp] theorem apply_onCtx_outbox (s : State) (c : Nat) (f : Ctx → Ctx) : (Eff.apply s (onCtx c f)).o.outbox = s.o.outbox := rfl
@[simp] theorem apply_onCtx_poison (s : State) (c : Nat) (f : Ctx → Ctx) : (Eff.apply s (onCtx c f)).o.poison = s.o.poison := rfl
@[simp] theorem apply_onCtx_flips (s : State) (c : Nat) (f : Ctx → Ctx) : (Eff.apply s (onCtx c f)).o.flips = s.o.flips := rfl
@[simp] theorem apply_onCtx_resv (s : State) (c : Nat) (f : Ctx → Ctx) : (Eff.apply s (onCtx c f)).o.resv = s.o.resv := rfl
@[simp] theorem apply_onCtx_mod (s : State) (c : Nat) (f : Ctx → Ctx) : (Eff.apply s (onCtx c f)).o.mod = s.o.mod := rfl
@[simp] theorem apply_onCtx_now (s : State) (c : Nat) (f : Ctx → Ctx) : (Eff.apply s (onCtx c f)).now = s.now := rfl
@[simp] theorem apply_onCtx_fresh (s : State) (c : Nat) (f : Ctx → Ctx) : (Eff.apply s (onCtx c f)).fresh = s.fresh := rfl
@[simp] theorem apply_onCtx_cur (s : State) (c : Nat) (f : Ctx → Ctx) : (Eff.apply s (onCtx c f)).cur = s.cur := rfl
@[simp] theorem apply_onCtx_agenda (s : State) (c : Nat) (f : Ctx → Ctx) : (Eff.apply s (onCtx c f)).agenda = s.agenda := rfl
@[simp] theorem apply_onCtx_mem (s : State) (c : Nat) (f : Ctx → Ctx) : (Eff.apply s (onCtx c f)).mem = s.mem := rfl
@[simp] theorem apply_onCtx_commits (s : State) (c : Nat) (f : Ctx → Ctx) : (Eff.apply s (onCtx c f)).commits = s.commits := rfl
@[simp] theorem apply_onCtx_lastWrite (s : State) (c : Nat) (f : Ctx → Ctx) : (Eff.apply s (onCtx c f)).lastWrite = s.lastWrite := rfl
@[simp] theorem apply_onCtx_journal (s : State) (c : Nat) (f : Ctx → Ctx) : (Eff.apply s (onCtx c f)).journal = s.journal := rfl
@[simp] theorem apply_onCtx_jsn (s : State) (c : Nat) (f : Ctx → Ctx) : (Eff.apply s (onCtx c f)).jsn = s.jsn := rfl

/-! ## `onQueue` -/

@[simp] theorem apply_onQueue_slots (s : State) (q : Nat) (f : Queue → Queue) : (Eff.apply s (onQueue q f)).o.slots = s.o.slots := rfl
@[simp] theorem apply_onQueue_cores (s : State) (q : Nat) (f : Queue → Queue) : (Eff.apply s (onQueue q f)).o.cores = s.o.cores := rfl
@[simp] theorem apply_onQueue_quads (s : State) (q : Nat) (f : Queue → Queue) : (Eff.apply s (onQueue q f)).o.quads = s.o.quads := rfl
@[simp] theorem apply_onQueue_dies (s : State) (q : Nat) (f : Queue → Queue) : (Eff.apply s (onQueue q f)).o.dies = s.o.dies := rfl
@[simp] theorem apply_onQueue_kernels (s : State) (q : Nat) (f : Queue → Queue) : (Eff.apply s (onQueue q f)).o.kernels = s.o.kernels := rfl
@[simp] theorem apply_onQueue_tasks (s : State) (q : Nat) (f : Queue → Queue) : (Eff.apply s (onQueue q f)).o.tasks = s.o.tasks := rfl
@[simp] theorem apply_onQueue_loops (s : State) (q : Nat) (f : Queue → Queue) : (Eff.apply s (onQueue q f)).o.loops = s.o.loops := rfl
@[simp] theorem apply_onQueue_seqs (s : State) (q : Nat) (f : Queue → Queue) : (Eff.apply s (onQueue q f)).o.seqs = s.o.seqs := rfl
@[simp] theorem apply_onQueue_billets (s : State) (q : Nat) (f : Queue → Queue) : (Eff.apply s (onQueue q f)).o.billets = s.o.billets := rfl
@[simp] theorem apply_onQueue_near (s : State) (q : Nat) (f : Queue → Queue) : (Eff.apply s (onQueue q f)).o.near = s.o.near := rfl
@[simp] theorem apply_onQueue_mxReqs (s : State) (q : Nat) (f : Queue → Queue) : (Eff.apply s (onQueue q f)).o.mxReqs = s.o.mxReqs := rfl
@[simp] theorem apply_onQueue_barSends (s : State) (q : Nat) (f : Queue → Queue) : (Eff.apply s (onQueue q f)).o.barSends = s.o.barSends := rfl
@[simp] theorem apply_onQueue_subs (s : State) (q : Nat) (f : Queue → Queue) : (Eff.apply s (onQueue q f)).o.subs = s.o.subs := rfl
@[simp] theorem apply_onQueue_ctxs (s : State) (q : Nat) (f : Queue → Queue) : (Eff.apply s (onQueue q f)).o.ctxs = s.o.ctxs := rfl
@[simp] theorem apply_onQueue_queues (s : State) (q : Nat) (f : Queue → Queue) : (Eff.apply s (onQueue q f)).o.queues = tabUpd s.o.queues q f := rfl
@[simp] theorem apply_onQueue_ports (s : State) (q : Nat) (f : Queue → Queue) : (Eff.apply s (onQueue q f)).o.ports = s.o.ports := rfl
@[simp] theorem apply_onQueue_outbox (s : State) (q : Nat) (f : Queue → Queue) : (Eff.apply s (onQueue q f)).o.outbox = s.o.outbox := rfl
@[simp] theorem apply_onQueue_poison (s : State) (q : Nat) (f : Queue → Queue) : (Eff.apply s (onQueue q f)).o.poison = s.o.poison := rfl
@[simp] theorem apply_onQueue_flips (s : State) (q : Nat) (f : Queue → Queue) : (Eff.apply s (onQueue q f)).o.flips = s.o.flips := rfl
@[simp] theorem apply_onQueue_resv (s : State) (q : Nat) (f : Queue → Queue) : (Eff.apply s (onQueue q f)).o.resv = s.o.resv := rfl
@[simp] theorem apply_onQueue_mod (s : State) (q : Nat) (f : Queue → Queue) : (Eff.apply s (onQueue q f)).o.mod = s.o.mod := rfl
@[simp] theorem apply_onQueue_now (s : State) (q : Nat) (f : Queue → Queue) : (Eff.apply s (onQueue q f)).now = s.now := rfl
@[simp] theorem apply_onQueue_fresh (s : State) (q : Nat) (f : Queue → Queue) : (Eff.apply s (onQueue q f)).fresh = s.fresh := rfl
@[simp] theorem apply_onQueue_cur (s : State) (q : Nat) (f : Queue → Queue) : (Eff.apply s (onQueue q f)).cur = s.cur := rfl
@[simp] theorem apply_onQueue_agenda (s : State) (q : Nat) (f : Queue → Queue) : (Eff.apply s (onQueue q f)).agenda = s.agenda := rfl
@[simp] theorem apply_onQueue_mem (s : State) (q : Nat) (f : Queue → Queue) : (Eff.apply s (onQueue q f)).mem = s.mem := rfl
@[simp] theorem apply_onQueue_commits (s : State) (q : Nat) (f : Queue → Queue) : (Eff.apply s (onQueue q f)).commits = s.commits := rfl
@[simp] theorem apply_onQueue_lastWrite (s : State) (q : Nat) (f : Queue → Queue) : (Eff.apply s (onQueue q f)).lastWrite = s.lastWrite := rfl
@[simp] theorem apply_onQueue_journal (s : State) (q : Nat) (f : Queue → Queue) : (Eff.apply s (onQueue q f)).journal = s.journal := rfl
@[simp] theorem apply_onQueue_jsn (s : State) (q : Nat) (f : Queue → Queue) : (Eff.apply s (onQueue q f)).jsn = s.jsn := rfl

/-! ## `onBillet` -/

@[simp] theorem apply_onBillet_slots (s : State) (b : Nat) (f : Billet → Billet) : (Eff.apply s (onBillet b f)).o.slots = s.o.slots := rfl
@[simp] theorem apply_onBillet_cores (s : State) (b : Nat) (f : Billet → Billet) : (Eff.apply s (onBillet b f)).o.cores = s.o.cores := rfl
@[simp] theorem apply_onBillet_quads (s : State) (b : Nat) (f : Billet → Billet) : (Eff.apply s (onBillet b f)).o.quads = s.o.quads := rfl
@[simp] theorem apply_onBillet_dies (s : State) (b : Nat) (f : Billet → Billet) : (Eff.apply s (onBillet b f)).o.dies = s.o.dies := rfl
@[simp] theorem apply_onBillet_kernels (s : State) (b : Nat) (f : Billet → Billet) : (Eff.apply s (onBillet b f)).o.kernels = s.o.kernels := rfl
@[simp] theorem apply_onBillet_tasks (s : State) (b : Nat) (f : Billet → Billet) : (Eff.apply s (onBillet b f)).o.tasks = s.o.tasks := rfl
@[simp] theorem apply_onBillet_loops (s : State) (b : Nat) (f : Billet → Billet) : (Eff.apply s (onBillet b f)).o.loops = s.o.loops := rfl
@[simp] theorem apply_onBillet_seqs (s : State) (b : Nat) (f : Billet → Billet) : (Eff.apply s (onBillet b f)).o.seqs = s.o.seqs := rfl
@[simp] theorem apply_onBillet_billets (s : State) (b : Nat) (f : Billet → Billet) : (Eff.apply s (onBillet b f)).o.billets = tabUpd s.o.billets b f := rfl
@[simp] theorem apply_onBillet_near (s : State) (b : Nat) (f : Billet → Billet) : (Eff.apply s (onBillet b f)).o.near = s.o.near := rfl
@[simp] theorem apply_onBillet_mxReqs (s : State) (b : Nat) (f : Billet → Billet) : (Eff.apply s (onBillet b f)).o.mxReqs = s.o.mxReqs := rfl
@[simp] theorem apply_onBillet_barSends (s : State) (b : Nat) (f : Billet → Billet) : (Eff.apply s (onBillet b f)).o.barSends = s.o.barSends := rfl
@[simp] theorem apply_onBillet_subs (s : State) (b : Nat) (f : Billet → Billet) : (Eff.apply s (onBillet b f)).o.subs = s.o.subs := rfl
@[simp] theorem apply_onBillet_ctxs (s : State) (b : Nat) (f : Billet → Billet) : (Eff.apply s (onBillet b f)).o.ctxs = s.o.ctxs := rfl
@[simp] theorem apply_onBillet_queues (s : State) (b : Nat) (f : Billet → Billet) : (Eff.apply s (onBillet b f)).o.queues = s.o.queues := rfl
@[simp] theorem apply_onBillet_ports (s : State) (b : Nat) (f : Billet → Billet) : (Eff.apply s (onBillet b f)).o.ports = s.o.ports := rfl
@[simp] theorem apply_onBillet_outbox (s : State) (b : Nat) (f : Billet → Billet) : (Eff.apply s (onBillet b f)).o.outbox = s.o.outbox := rfl
@[simp] theorem apply_onBillet_poison (s : State) (b : Nat) (f : Billet → Billet) : (Eff.apply s (onBillet b f)).o.poison = s.o.poison := rfl
@[simp] theorem apply_onBillet_flips (s : State) (b : Nat) (f : Billet → Billet) : (Eff.apply s (onBillet b f)).o.flips = s.o.flips := rfl
@[simp] theorem apply_onBillet_resv (s : State) (b : Nat) (f : Billet → Billet) : (Eff.apply s (onBillet b f)).o.resv = s.o.resv := rfl
@[simp] theorem apply_onBillet_mod (s : State) (b : Nat) (f : Billet → Billet) : (Eff.apply s (onBillet b f)).o.mod = s.o.mod := rfl
@[simp] theorem apply_onBillet_now (s : State) (b : Nat) (f : Billet → Billet) : (Eff.apply s (onBillet b f)).now = s.now := rfl
@[simp] theorem apply_onBillet_fresh (s : State) (b : Nat) (f : Billet → Billet) : (Eff.apply s (onBillet b f)).fresh = s.fresh := rfl
@[simp] theorem apply_onBillet_cur (s : State) (b : Nat) (f : Billet → Billet) : (Eff.apply s (onBillet b f)).cur = s.cur := rfl
@[simp] theorem apply_onBillet_agenda (s : State) (b : Nat) (f : Billet → Billet) : (Eff.apply s (onBillet b f)).agenda = s.agenda := rfl
@[simp] theorem apply_onBillet_mem (s : State) (b : Nat) (f : Billet → Billet) : (Eff.apply s (onBillet b f)).mem = s.mem := rfl
@[simp] theorem apply_onBillet_commits (s : State) (b : Nat) (f : Billet → Billet) : (Eff.apply s (onBillet b f)).commits = s.commits := rfl
@[simp] theorem apply_onBillet_lastWrite (s : State) (b : Nat) (f : Billet → Billet) : (Eff.apply s (onBillet b f)).lastWrite = s.lastWrite := rfl
@[simp] theorem apply_onBillet_journal (s : State) (b : Nat) (f : Billet → Billet) : (Eff.apply s (onBillet b f)).journal = s.journal := rfl
@[simp] theorem apply_onBillet_jsn (s : State) (b : Nat) (f : Billet → Billet) : (Eff.apply s (onBillet b f)).jsn = s.jsn := rfl

@[simp] theorem apply_onMod_mod (s : State) (f : Module → Module) : (Eff.apply s (onMod f)).o.mod = f s.o.mod := rfl
@[simp] theorem apply_onMod_ports (s : State) (f : Module → Module) : (Eff.apply s (onMod f)).o.ports = s.o.ports := rfl
@[simp] theorem apply_onMod_ctxs (s : State) (f : Module → Module) : (Eff.apply s (onMod f)).o.ctxs = s.o.ctxs := rfl
@[simp] theorem apply_onMod_dies (s : State) (f : Module → Module) : (Eff.apply s (onMod f)).o.dies = s.o.dies := rfl
@[simp] theorem apply_onMod_mem (s : State) (f : Module → Module) : (Eff.apply s (onMod f)).mem = s.mem := rfl

end Sys2Proof.Machine
end

