-- ==== Sys2Proof/Laws/Run.lean ====
section
/-!
SUPPORT. Laws/Run: a meaning is a run of stages, and a stage is a list of changes. What every change keeps, every
answer of `exec` and every step keeps.
-/

namespace Sys2Proof.Machine

open Sys2Proof

/-! ## Stages -/

@[simp] theorem run_nil (s : State) : run [] s = s := rfl
@[simp] theorem run_cons (x : Stage) (l : List Stage) (s : State) : run (x :: l) s = run l (runStage s x) := rfl
theorem run_append (a b : List Stage) (s : State) : run (a ++ b) s = run b (run a s) := by simp [run, List.foldl_append]
@[simp] theorem runStage_skip (s : State) : runStage s skip = s := rfl
@[simp] theorem runStage_eff (s : State) (l : List Eff) : runStage s (eff l) = l.foldl Eff.apply s := rfl

theorem runStage_andThen (s : State) (a b : Stage) : runStage s (andThen a b) = runStage (runStage s a) b := by
  simp [runStage, andThen, List.foldl_append]

/-- Stages in order as one stage run as they do one by one. -/
theorem runStage_seqS (l : List Stage) (s : State) : runStage s (seqS l) = run l s := by
  induction l generalizing s with
  | nil => rfl
  | cons x r ih =>
    show runStage s (andThen x (seqS r)) = _
    rw [runStage_andThen, ih]; rfl

theorem runStage_pick (f : State → List Stage) (s : State) : runStage s (pick f) = run (f s) s :=
  runStage_seqS (f s) s

/-- What every change keeps, a run keeps. -/
theorem run_keeps {P : State → Prop} (h : ∀ s e, P s → P (Eff.apply s e)) (l : List Stage) (s : State) (hs : P s) :
    P (run l s) := by
  have stage : ∀ (es : List Eff) (s : State), P s → P (es.foldl Eff.apply s) := by
    intro es
    induction es with
    | nil => intro s hs; exact hs
    | cons e r ih => intro s hs; exact ih _ (h s e hs)
  induction l generalizing s with
  | nil => exact hs
  | cons x r ih => exact ih _ (stage (x s) s hs)

/-! ## What every change keeps -/

theorem apply_now (s : State) (e : Eff) : (Eff.apply s e).now = s.now := by cases e <;> rfl

/-- No run changes the cycle. -/
theorem run_now (l : List Stage) (s : State) : (run l s).now = s.now :=
  run_keeps (P := fun t => t.now = s.now) (fun t e h => by rw [apply_now, h]) l s rfl

theorem apply_wf (s : State) (e : Eff) (h : Memory.wf s.mem = true) : Memory.wf (Eff.apply s e).mem = true := by
  cases e <;> first | exact h | exact wf_write _ _ _ h | exact wf_scrub _ _ _ h

/-- A run keeps memory canonical. -/
theorem run_wf (l : List Stage) (s : State) (h : Memory.wf s.mem = true) : Memory.wf (run l s).mem = true :=
  run_keeps (P := fun t => Memory.wf t.mem = true) apply_wf l s h

/-! ## Answers -/

theorem fire_next {l : List Stage} {s t : State} (h : fire l s = .next t) : ∃ l, t = run l s := by
  cases h; exact ⟨l, rfl⟩

theorem fireC_next {p : State → Plan} {s t : State} (h : fireC p s = .next t) : ∃ l, t = run l s := by
  unfold fireC at h
  split at h
  · cases h; exact ⟨_, rfl⟩
  · cases h

theorem fireA_next {p : State → Plan} {s t : State} (h : fireA p s = .next t) : ∃ l, t = run l s := by
  unfold fireA at h
  split at h
  · cases h; exact ⟨_, rfl⟩
  · cases h

theorem execTlbMiss_next {slot va acc : Nat} {s t : State} (h : execTlbMiss slot va acc s = .next t) : ∃ l, t = run l s := by
  unfold execTlbMiss at h; split at h <;> exact fire_next h

theorem execEncoding_next {b : BitVec 64} {s t : State} (h : execEncodingNotInstruction b s = .next t) :
    ∃ l, t = run l s := by
  unfold execEncodingNotInstruction at h
  split at h
  · split at h <;> exact fire_next h
  · cases h

/-- The next state that an instruction answers is a run of stages from the state that it met. -/
theorem exec_next {i : Instr} {s t : State} (h : exec i s = .next t) : ∃ l, t = run l s := by
  cases i with
  | nop ls => exact fireC_next (p := planNop ls) h
  | br ls k off => exact fireC_next (p := planBr ls k off) h
  | brn ls k off => exact fireC_next (p := planBrn ls k off) h
  | jmp ls off => exact fireC_next (p := planJmp ls off) h
  | call ls off => exact fireC_next (p := planCall ls off) h
  | jmpr ls a => exact fireC_next (p := planJmpr ls a) h
  | callr ls a => exact fireC_next (p := planCallr ls a) h
  | exit ls => exact fireC_next (p := planExit ls) h
  | yield ls => exact fireC_next (p := planYield ls) h
  | trap ls imm => exact fireC_next (p := planTrap ls imm) h
  | csrr ls d c => exact fireC_next (p := planCsrr ls d c) h
  | csrw ls a c => exact fireC_next (p := planCsrw ls a c) h
  | l2pdataWrite ls a => exact fireC_next (p := planL2pdataWrite ls a) h
  | eret ls => exact fireC_next (p := planEret ls) h
  | ldN sb d b sz off => exact fireC_next (p := planLdN sb d b sz off) h
  | ldNLong sb d b sz lit => exact fireC_next (p := planLdNLong sb d b sz lit) h
  | stN sb v b sz off => exact fireC_next (p := planStN sb v b sz off) h
  | stNLong sb v b sz lit => exact fireC_next (p := planStNLong sb v b sz lit) h
  | ldG sb d b sz off => exact fireC_next (p := planLdG sb d b sz off) h
  | ldGLong sb d b sz lit => exact fireC_next (p := planLdGLong sb d b sz lit) h
  | stG sb v b sz off => exact fireC_next (p := planStG sb v b sz off) h
  | stGLong sb v b sz lit => exact fireC_next (p := planStGLong sb v b sz lit) h
  | lduG sb d b sz off => exact fireC_next (p := planLduG sb d b sz off) h
  | lduGLong sb d b sz lit => exact fireC_next (p := planLduGLong sb d b sz lit) h
  | ldtr ls d b sz off => exact fireC_next (p := planLdtr ls d b sz off) h
  | plane ls d a b => exact fireC_next (p := planPlane ls d a b) h
  | unplane ls d a b => exact fireC_next (p := planUnplane ls d a b) h
  | take ls d a => exact fireC_next (p := planTake ls d a) h
  | put ls a b => exact fireC_next (p := planPut ls a b) h
  | peek ls d a => exact fireC_next (p := planPeek ls d a) h
  | feset ls a f => exact fireC_next (p := planFeset ls a f) h
  | feq ls d a => exact fireC_next (p := planFeq ls d a) h
  | chbind ls a b => exact fireC_next (p := planChbind ls a b) h
  | chsend ls a b => exact fireC_next (p := planChsend ls a b) h
  | chrecv ls d a => exact fireC_next (p := planChrecv ls d a) h
  | chclose ls a => exact fireC_next (p := planChclose ls a) h
  | atomN ls d a b p => exact fireC_next (p := planAtomN ls d a b p) h
  | atomG ls d a b p => exact fireC_next (p := planAtomG ls d a b p) h
  | redG ls a b p => exact fireC_next (p := planRedG ls a b p) h
  | casN ls d a b => exact fireC_next (p := planCasN ls d a b) h
  | casG ls d a b => exact fireC_next (p := planCasG ls d a b) h
  | ordatom ls d n b => exact fireC_next (p := planOrdatom ls d n b) h
  | fenceNear ls => exact fireC_next (p := planFenceNear ls) h
  | fenceGlobal ls => exact fireC_next (p := planFenceGlobal ls) h
  | fenceEngine ls => exact fireC_next (p := planFenceEngine ls) h
  | fenceMirror ls => exact fireC_next (p := planFenceMirror ls) h
  | fenceSystem ls => exact fireC_next (p := planFenceSystem ls) h
  | chunk ls => exact fireC_next (p := planChunk ls) h
  | barArrive ls d n => exact fireC_next (p := planBarArrive ls d n) h
  | barWait ls a n => exact fireC_next (p := planBarWait ls a n) h
  | barSync ls n => exact fireC_next (p := planBarSync ls n) h
  | barWaitd ls d a n => exact fireC_next (p := planBarWaitd ls d a n) h
  | barInit ls a n => exact fireC_next (p := planBarInit ls a n) h
  | evWait ls => exact fireC_next (p := planEvWait ls) h
  | evSignal ls a => exact fireC_next (p := planEvSignal ls a) h
  | evWaitt ls d a => exact fireC_next (p := planEvWaitt ls d a) h
  | msend ls d a b => exact fireC_next (p := planMsend ls d a b) h
  | latheOpen ls d a g n => exact fireC_next (p := planLatheOpen ls d a g n) h
  | latheLwait ls => exact fireC_next (p := planLatheLwait ls) h
  | latheLabort ls => exact fireC_next (p := planLatheLabort ls) h
  | nest ls n a b => exact fireC_next (p := planNest ls n a b) h
  | next ls d n k => exact fireC_next (p := planNext ls d n k) h
  | sbind ls d a => exact fireC_next (p := planSbind ls d a) h
  | sunbind ls d => exact fireC_next (p := planSunbind ls d) h
  | sstat ls d a => exact fireC_next (p := planSstat ls d a) h
  | tspawn ls d a b => exact fireC_next (p := planTspawn ls d a b) h
  | tstamp ls a => exact fireC_next (p := planTstamp ls a) h
  | gloop sb d a b lit => exact fireC_next (p := planGloop sb d a b lit) h
  | gput ls => exact fireC_next (p := planGput ls) h
  | gend ls d => exact fireC_next (p := planGend ls d) h
  | gquit ls => exact fireC_next (p := planGquit ls) h
  | acceptEq ls => exact fireC_next (p := planAcceptEq ls) h
  | acceptSeq ls a => exact fireC_next (p := planAcceptSeq ls a) h
  | acceptTol ls a => exact fireC_next (p := planAcceptTol ls a) h
  | rxtag ls d n => exact fireC_next (p := planRxtag ls d n) h
  | rxtagVoid ls d => exact fireC_next (p := planRxtagVoid ls d) h
  | rxuntag ls d => exact fireC_next (p := planRxuntag ls d) h
  | rxdrop ls d => exact fireC_next (p := planRxdrop ls d) h
  | rxkeep ls d => exact fireC_next (p := planRxkeep ls d) h
  | rxq ls d a => exact fireC_next (p := planRxq ls d a) h
  | wid ls d n => exact fireC_next (p := planWid ls d n) h
  | job ls d a => exact fireC_next (p := planJob ls d a) h
  | jobw ls a b => exact fireC_next (p := planJobw ls a b) h
  | jobq ls d a => exact fireC_next (p := planJobq ls d a) h
  | jobResume ls d a => exact fireC_next (p := planJobResume ls d a) h
  | mxsend ls d a b => exact fireC_next (p := planMxsend ls d a b) h
  | mxsendAdd ls d a b => exact fireC_next (p := planMxsendAdd ls d a b) h
  | swapt ls d a b => exact fireC_next (p := planSwapt ls d a b) h
  | launch ls d a => exact fireC_next (p := planLaunch ls d a) h
  | tlbw ls a b => exact fireC_next (p := planTlbw ls a b) h
  | tlbi ls a b => exact fireC_next (p := planTlbi ls a b) h
  | tlbr ls d b => exact fireC_next (p := planTlbr ls d b) h
  | slicemass ls d a b => exact fireC_next (p := planSlicemass ls d a b) h
  | draw ls d a b => exact fireC_next (p := planDraw ls d a b) h
  | penal ls d a b => exact fireC_next (p := planPenal ls d a b) h
  | tokapp ls d a b => exact fireC_next (p := planTokapp ls d a b) h
  | seqcmtCommit ls d a b => exact fireC_next (p := planSeqcmtCommit ls d a b) h
  | seqcmtRewind ls d a b => exact fireC_next (p := planSeqcmtRewind ls d a b) h
  | gmask ls d a b => exact fireC_next (p := planGmask ls d a b) h
  | movi sb d lit => exact fireC_next (p := planMovi sb d lit) h
  | moviHi sb d lit => exact fireC_next (p := planMoviHi sb d lit) h
  | anop => exact fireA_next (p := planAnop) h
  | add d a b t => exact fireA_next (p := planAdd d a b t) h
  | sub d a b t => exact fireA_next (p := planSub d a b t) h
  | mul d a b t => exact fireA_next (p := planMul d a b t) h
  | mulh d a b t => exact fireA_next (p := planMulh d a b t) h
  | div d a b t => exact fireA_next (p := planDiv d a b t) h
  | rem d a b t => exact fireA_next (p := planRem d a b t) h
  | and d a b t => exact fireA_next (p := planAnd d a b t) h
  | or d a b t => exact fireA_next (p := planOr d a b t) h
  | xor d a b t => exact fireA_next (p := planXor d a b t) h
  | shl d a b t => exact fireA_next (p := planShl d a b t) h
  | shr d a b t => exact fireA_next (p := planShr d a b t) h
  | sar d a b t => exact fireA_next (p := planSar d a b t) h
  | rot d a b t => exact fireA_next (p := planRot d a b t) h
  | min d a b t => exact fireA_next (p := planMin d a b t) h
  | max d a b t => exact fireA_next (p := planMax d a b t) h
  | abs d a t => exact fireA_next (p := planAbs d a t) h
  | neg d a t => exact fireA_next (p := planNeg d a t) h
  | clz d a t => exact fireA_next (p := planClz d a t) h
  | popc d a t => exact fireA_next (p := planPopc d a t) h
  | brev d a t => exact fireA_next (p := planBrev d a t) h
  | bfx d a b t => exact fireA_next (p := planBfx d a b t) h
  | bfi d a b t => exact fireA_next (p := planBfi d a b t) h
  | mov d a t => exact fireA_next (p := planMov d a t) h
  | addi d a imm => exact fireA_next (p := planAddi d a imm) h
  | andi d a imm => exact fireA_next (p := planAndi d a imm) h
  | ori d a imm => exact fireA_next (p := planOri d a imm) h
  | xori d a imm => exact fireA_next (p := planXori d a imm) h
  | shli d a imm => exact fireA_next (p := planShli d a imm) h
  | shri d a imm => exact fireA_next (p := planShri d a imm) h
  | sari d a imm => exact fireA_next (p := planSari d a imm) h
  | padd d a b => exact fireA_next (p := planPadd d a b) h
  | paddi d a imm => exact fireA_next (p := planPaddi d a imm) h
  | pset d a b => exact fireA_next (p := planPset d a b) h
  | pget d a => exact fireA_next (p := planPget d a) h
  | pdiff d a b => exact fireA_next (p := planPdiff d a b) h
  | cmp k c a b t => exact fireA_next (p := planCmp k c a b t) h
  | cmpi k c a imm t => exact fireA_next (p := planCmpi k c a imm t) h
  | kop k c a b => exact fireA_next (p := planKop k c a b) h
  | sel d a b p => exact fireA_next (p := planSel d a b p) h
  | kmovToReg d a => exact fireA_next (p := planKmovToReg d a) h
  | kmovToPred d a => exact fireA_next (p := planKmovToPred d a) h
  | vadd d a b t => exact fireA_next (p := planVadd d a b t) h
  | vsub d a b t => exact fireA_next (p := planVsub d a b t) h
  | vmul d a b t => exact fireA_next (p := planVmul d a b t) h
  | vfma d a b t => exact fireA_next (p := planVfma d a b t) h
  | vmin d a b t => exact fireA_next (p := planVmin d a b t) h
  | vmax d a b t => exact fireA_next (p := planVmax d a b t) h
  | vabs d a t => exact fireA_next (p := planVabs d a t) h
  | vneg d a t => exact fireA_next (p := planVneg d a t) h
  | vand d a b => exact fireA_next (p := planVand d a b) h
  | vor d a b => exact fireA_next (p := planVor d a b) h
  | vxor d a b => exact fireA_next (p := planVxor d a b) h
  | vshl d a b t => exact fireA_next (p := planVshl d a b t) h
  | vshr d a b t => exact fireA_next (p := planVshr d a b t) h
  | vcmp k c a b t => exact fireA_next (p := planVcmp k c a b t) h
  | vsel d a p t => exact fireA_next (p := planVsel d a p t) h
  | vshuf d a b t => exact fireA_next (p := planVshuf d a b t) h
  | vbcast d a t => exact fireA_next (p := planVbcast d a t) h
  | vred d a b t => exact fireA_next (p := planVred d a b t) h
  | vdot d a b t => exact fireA_next (p := planVdot d a b t) h
  | vscale d a b t => exact fireA_next (p := planVscale d a b t) h
  | vadds d a b t => exact fireA_next (p := planVadds d a b t) h
  | rcp d a => exact fireA_next (p := planRcp d a) h
  | rsq d a => exact fireA_next (p := planRsq d a) h
  | rcpnr d a b => exact fireA_next (p := planRcpnr d a b) h
  | rsqnr d a b => exact fireA_next (p := planRsqnr d a b) h
  | exp2 d a => exact fireA_next (p := planExp2 d a) h
  | log2 d a => exact fireA_next (p := planLog2 d a) h
  | cvt d a e f => exact fireA_next (p := planCvt d a e f) h
  | cvtsr d a e f => exact fireA_next (p := planCvtsr d a e f) h
  | pack d a e f => exact fireA_next (p := planPack d a e f) h
  | unpack d a e f => exact fireA_next (p := planUnpack d a e f) h
  | rng d a b => exact fireA_next (p := planRng d a b) h
  | mma sh n a b q => exact fireA_next (p := planMma sh n a b q) h
  | aclr d a => exact fireA_next (p := planAclr d a) h
  | arnd d a b t => exact fireA_next (p := planArnd d a b t) h
  | amov d a => exact fireA_next (p := planAmov d a) h
  | amovSt d a => exact fireA_next (p := planAmovSt d a) h
  | amovRaw d a b => exact fireA_next (p := planAmovRaw d a b) h
  | aadd d a => exact fireA_next (p := planAadd d a) h
  | roundStart _ => exact fire_next h
  | waitLimit _ => exact fire_next h
  | pendingResultWrite _ _ => exact fire_next h
  | icacheFill _ _ => exact fire_next h
  | tlbMiss _ _ _ => exact execTlbMiss_next h
  | regfileLower _ => exact fire_next h
  | regfileWake _ => exact fire_next h
  | trapEntry _ => exact fire_next h
  | quarantineDone _ => exact fire_next h
  | preemptionRequest _ => exact fire_next h
  | preemptionComplete _ => exact fire_next h
  | resumption _ _ => exact fire_next h
  | chunkValidate _ => exact fire_next h
  | chunkCommit _ => exact fire_next h
  | chunkDiscard _ => exact fire_next h
  | heldChunkReserve _ => exact fire_next h
  | remoteNearArrival _ => exact fire_next h
  | globalAtomicExecute _ _ => exact fire_next h
  | fpEvent _ => exact fire_next h
  | latheWordIssue _ => exact fire_next h
  | latheWordResult _ => exact fire_next h
  | matrixOpStart _ => exact fire_next h
  | matrixOpComplete _ _ => exact fire_next h
  | remoteMatrixArrival _ => exact fire_next h
  | swaptMatch _ => exact fire_next h
  | dieBarrierArrival _ => exact fire_next h
  | barrierDeadline _ _ _ => exact fire_next h
  | graphUnitReceive _ => exact fire_next h
  | kernelReady _ => exact fire_next h
  | placementStart _ => exact fire_next h
  | placementEnd _ => exact fire_next h
  | taskDispatch _ => exact fire_next h
  | classPreempt _ => exact fire_next h
  | kernelComplete _ => exact fire_next h
  | floorChange _ => exact fire_next h
  | gatedSlotTake _ => exact fire_next h
  | ordatomBatchClose _ _ => exact fire_next h
  | seqBind _ _ => exact fire_next h
  | seqUnbind _ _ => exact fire_next h
  | drawMaxReturn _ _ _ => exact fire_next h
  | drawRoot _ _ _ => exact fire_next h
  | maskDeadline _ _ _ _ => exact fire_next h
  | quantumEnd _ => exact fire_next h
  | quadSwitch _ => exact fire_next h
  | recordPost _ => exact fire_next h
  | recordToHost _ => exact fire_next h
  | supervisorRestart _ _ => exact fire_next h
  | supervisorAbandon _ _ => exact fire_next h
  | supervisorSetcsr _ _ => exact fire_next h
  | supervisorUnknown _ _ => exact fire_next h
  | billetStart _ => exact fire_next h
  | engineUnit _ => exact fire_next h
  | billetDone _ => exact fire_next h
  | sendRingSend _ _ => exact fire_next h
  | mirrorBreak => exact fire_next h
  | twinHalt _ => exact fire_next h
  | moduleReset => exact fire_next h
  | firmwareVerify => exact fire_next h
  | throttleEscalate => exact fire_next h
  | encodingNotInstruction _ => exact execEncoding_next h
  | waittTimeout _ => exact fire_next h
  | streamUnitFetch _ _ => exact fire_next h
  | sleepWake _ => exact fire_next h
  | quarantine _ _ _ _ => exact fire_next h
  | latheCapture _ => exact fire_next h
  | classifyEnd _ _ _ => exact fire_next h
  | hostLaunch _ _ => exact fire_next h
  | hostStop _ _ => exact fire_next h
  | hostSuspend _ _ => exact fire_next h
  | hostResume _ _ => exact fire_next h
  | hostKill _ _ => exact fire_next h
  | setPriority _ _ => exact fire_next h
  | readJournal _ _ => exact fire_next h
  | contextCreate _ _ => exact fire_next h
  | contextChange _ _ => exact fire_next h
  | contextKill _ _ => exact fire_next h
  | contextDestroy _ _ => exact fire_next h
  | map _ _ _ => exact fire_next h
  | portConfig _ _ _ => exact fire_next h
  | peerWindow _ _ _ => exact fire_next h
  | portReset _ _ => exact fire_next h
  | powerCap _ _ => exact fire_next h
  | quenchLevel _ _ => exact fire_next h
  | readSensors _ _ => exact fire_next h
  | quote _ _ _ => exact fire_next h
  | firmwareLoad _ _ => exact fire_next h
  | patrolRead _ => exact fire_next h
  | portTrainingDone _ _ => exact fire_next h
  | portLinkLoss _ => exact fire_next h
  | laneFail _ => exact fire_next h
  | peerInboundPacket _ _ _ _ _ => exact fire_next h
  | peerAck _ _ _ => exact fire_next h
  | inboundSend _ _ _ => exact fire_next h
  | mirrorAck _ => exact fire_next h
  | twinDigest _ _ _ _ => exact fire_next h
  | linksTrained => exact fire_next h
  | scrubComplete _ => exact fire_next h
  | sensorAlarm _ _ => exact fire_next h
  | powerWindow _ => exact fire_next h
  | junctionTemperature _ _ => exact fire_next h
  | unknownCodeCommand _ _ => exact fire_next h
  | mirrorWriteReceive _ _ _ => exact fire_next h

end Sys2Proof.Machine
end

