-- ==== Sys2Proof/Laws/Ops.lean ====
section
/-!
SUPPORT. Laws/Ops: what the issue of a bundle does where nothing but its words is at work, once for every word.
-/

namespace Sys2Proof.Machine

open Sys2Proof

/-! ## The current thread -/

theorem thr_onThr (s : State) (f : Thread → Thread) (h : occupied s s.cur = true) :
    thr (onMe s f) s.cur = f (thr s s.cur) := by
  simp only [thr, onMe]; exact tabD_upd_self _ _ _ _ h

theorem me_onMe (s : State) (f : Thread → Thread) (h : occupied s s.cur = true) : me (onMe s f) = f (me s) :=
  thr_onThr s f h

@[simp] theorem cur_onMe (s : State) (f : Thread → Thread) : (onMe s f).cur = s.cur := rfl
@[simp] theorem now_onMe (s : State) (f : Thread → Thread) : (onMe s f).now = s.now := rfl
@[simp] theorem mem_onMe (s : State) (f : Thread → Thread) : (onMe s f).mem = s.mem := rfl
@[simp] theorem agenda_onMe (s : State) (f : Thread → Thread) : (onMe s f).agenda = s.agenda := rfl
@[simp] theorem fresh_onMe (s : State) (f : Thread → Thread) : (onMe s f).fresh = s.fresh := rfl

theorem occupied_onMe (s : State) (f : Thread → Thread) (i : Nat) : occupied (onMe s f) i = occupied s i := by
  simp only [occupied, onMe]; exact tabHas_upd _ _ _ _

theorem onMe_onMe (s : State) (f g : Thread → Thread) : onMe (onMe s f) g = onMe s (fun t => g (f t)) := by
  simp only [onMe, tabUpd_upd]

@[simp] theorem cur_taken (s : State) : (taken s).cur = s.cur := rfl
@[simp] theorem now_taken (s : State) : (taken s).now = s.now := rfl
@[simp] theorem o_taken (s : State) : (taken s).o = s.o := rfl
@[simp] theorem mem_taken (s : State) : (taken s).mem = s.mem := rfl
@[simp] theorem thr_taken (s : State) (i : Nat) : thr (taken s) i = thr s i := rfl
@[simp] theorem occupied_taken (s : State) (i : Nat) : occupied (taken s) i = occupied s i := rfl

/-! ## The issue -/

/-- A plan that raises no trap, waits for nothing and ends no chunk, but as a chunk point. -/
structure Runs (s : State) (p : Plan) (point : Bool := false) : Prop where
  ill : p.ill = false
  priv : p.priv = false
  c2 : p.c2 = none
  c3 : p.c3 = none
  poison : p.poison = none
  miss : p.miss = none
  hold : p.hold = false
  pipe : (p.vpipe && pipeBusy s s.cur) = false
  mx : mqOver s s.cur p.mxs = false
  sleep : p.sleep = none
  point : p.point = point
  irrev : (p.irrev && (speculative s s.cur && !isLead s s.cur)) = false
  ends : p.ends = false
  pops : p.pops = []

/-- A plan that raises no trap and waits for nothing: its bundle takes effect. -/
structure Issues (s : State) (p : Plan) (point : Bool := false) : Prop where
  ill : p.ill = false
  priv : p.priv = false
  c2 : p.c2 = none
  c3 : p.c3 = none
  poison : p.poison = none
  miss : p.miss = none
  hold : p.hold = false
  pipe : (p.vpipe && pipeBusy s s.cur) = false
  mx : mqOver s s.cur p.mxs = false
  sleep : p.sleep = none
  point : p.point = point
  irrev : (p.irrev && (speculative s s.cur && !isLead s s.cur)) = false

theorem Runs.issues {s : State} {p : Plan} {b : Bool} (h : Runs s p b) : Issues s p b :=
  ⟨h.ill, h.priv, h.c2, h.c3, h.poison, h.miss, h.hold, h.pipe, h.mx, h.sleep, h.point, h.irrev⟩

/-- A state in which the end of a bundle ends no chunk. -/
structure Fit (u : State) : Prop where
  held : occupied u u.cur = true
  turn : (me u).st = .ready ∨ (me u).st = .trapped
  alone : (me u).partner = none
  room : (me u).chunk.bundles < 511
  stores : (me u).chunk.nst < 32

theorem Clear.fit {s : State} (h : Clear s) : Fit s :=
  ⟨h.held, h.turn, h.alone, h.room, Nat.lt_succ_of_lt h.stores⟩

theorem Clear.fit_taken {s : State} (h : Clear s) : Fit (taken s) :=
  ⟨h.held, h.turn, h.alone, h.room, Nat.lt_succ_of_lt h.stores⟩

/-- What ends a bundle, in a state that fits, is `finished`. -/
theorem bundle_end {u : State} (h : Fit u) (p : Plan) (npc : Option (BitVec 64)) (lost : Nat) (a : After) (m : Bool) :
    run [leaderWrites u.cur p, advance u.cur npc lost, afterBundle u.cur false false a,
      marker u.cur m, fpCheck u.cur, eff [.draw 256]] u = finished u m npc lost := by
  have l : leaderWrites u.cur p u = [] := by simp [leaderWrites, h.alone]
  have hb := h.room
  have hn := h.stores
  have ad : runStage u (advance u.cur npc lost) = onMe u (stepped npc lost) := rfl
  have m1 : me (onMe u (stepped npc lost)) = stepped npc lost (me u) := me_onMe _ _ h.held
  simp only [run_cons, run_nil]
  rw [show runStage u (leaderWrites u.cur p) = u by simp [runStage, l], ad]
  generalize hv : onMe u (stepped npc lost) = v at *
  have cv : v.cur = u.cur := by rw [← hv]; rfl
  rw [← cv]
  have ab : runStage v (afterBundle v.cur false false a) = v := by
    have b1 : (me v).chunk.bundles = (me u).chunk.bundles + 1 := by rw [m1]; rfl
    have b2 : (me v).chunk.nst = (me u).chunk.nst := by rw [m1]; rfl
    simp only [afterBundle, runStage_pick]
    rw [show thr v v.cur = me v from rfl, b1, b2]
    have c1 : ¬ 512 ≤ (me u).chunk.bundles + 1 := by omega
    have c2 : ¬ 32 ≤ (me u).chunk.nst := by omega
    simp [c1, c2]
  rw [ab]
  have tv : (me v).st = .ready ∨ (me v).st = .trapped := by rw [m1]; exact h.turn
  have mk : runStage v (marker v.cur m) = marked v m := by
    simp only [runStage, marker, marked]
    by_cases c : (m && anyPending (me v)) = true
    · rw [show thr v v.cur = me v from rfl, if_pos c, if_pos c]
      rcases tv with t | t <;> simp [t] <;> rfl
    · rw [show thr v v.cur = me v from rfl, if_neg c, if_neg c]; rfl
  rw [mk]
  have cm : (marked v m).cur = v.cur := by simp only [marked]; split <;> rfl
  rw [← cm]
  have fp : runStage (marked v m) (fpCheck (marked v m).cur) = boundary (marked v m) := by
    simp only [runStage, fpCheck, boundary]
    rw [show thr (marked v m) (marked v m).cur = me (marked v m) from rfl]
    split <;> rfl
  rw [fp]
  subst hv
  rfl

theorem idle_runs (s : State) : Runs s idle := ⟨rfl, rfl, rfl, rfl, rfl, rfl, rfl, rfl, rfl, rfl, rfl, rfl, rfl, rfl⟩

theorem clash_idle (p : Plan) : clash p idle = false := by simp [clash, idle]

theorem idle_clash (p : Plan) : clash idle p = false := rfl

/-- Two plans that run, and write no destination twice, take effect together. -/
theorem issue_runs {s : State} {c a : Plan} (al : (me s).partner = none) (qc : Issues s c) (qa : Issues s a) (nc : clash c a = false)
    (mq : mqOver s s.cur (c.mxs + a.mxs) = false) : run (issue s s.cur c a) s = run (effects s.cur c a) (taken s) := by
  have le : leaderFull (thr s s.cur) c = false := by simp [leaderFull, al]
  have vp : ((c.vpipe || a.vpipe) && pipeBusy s s.cur) = false := by
    have p1 := qc.pipe
    have p2 := qa.pipe
    cases hp : pipeBusy s s.cur <;> simp_all
  have ft : firstTrap s s.cur c a = none := by
    simp [firstTrap, qc.ill, qc.priv, qc.c2, qc.c3, qc.hold, qc.miss, qa.hold, qa.ill, qa.priv, qa.c2, qa.c3, nc]
  have ir : ((c.irrev || a.irrev) && speculative s s.cur && !isLead s s.cur) = false := by
    have p1 := qc.irrev
    have p2 := qa.irrev
    cases hp : speculative s s.cur <;> cases hl : isLead s s.cur <;> simp_all
  simp only [issue, ft, qc.poison, qa.poison, qc.miss, qa.miss, Option.or_none, qc.hold, qa.hold, le, vp, mq, ir, qc.point, qa.point, qc.sleep, qa.sleep, Bool.or_false, Bool.false_and, Bool.false_eq_true, if_false]
  rfl

/-- Their effects end the bundle. -/
theorem effects_end {s u : State} {c a : Plan} (qc : Runs s c) (qa : Runs s a)
    (hu : run (c.stages ++ a.stages) (taken s) = u) (fu : Fit u) (cu : u.cur = s.cur) :
    run (effects s.cur c a) (taken s) = finished u (c.mark || a.mark) (c.npc.or a.npc) (c.lost + a.lost) := by
  have pt : runStage (taken s) (popStreams s.cur []) = taken s := rfl
  simp only [effects, qc.pops, qa.pops, qc.point, qa.point, qc.ends, qa.ends, Bool.or_false, List.append_nil]
  rw [List.append_assoc, List.append_assoc, run_append, run_cons, run_nil, pt, ← List.append_assoc, run_append, hu, ← cu]
  exact bundle_end fu c _ _ _ _

/-- The issue of a C-word whose plan runs, beside ANOP. -/
theorem fireC_runs {s : State} {p : State → Plan} (h : Clear s) (q : Runs s (p s)) {u : State}
    (hu : run (p s).stages (taken s) = u) (fu : Fit u) (cu : u.cur = s.cur) :
    fireC p s = .next (finished u (p s).mark (p s).npc (p s).lost) := by
  unfold fireC
  rw [if_pos h.held, issue_runs h.alone q.issues (idle_runs s).issues (clash_idle _) (by simpa [idle] using q.mx),
    effects_end q (idle_runs s) (by simpa [idle] using hu) fu cu]
  simp [idle]

/-- The issue of an A-word whose plan runs, beside NOP. -/
theorem fireA_runs {s : State} {p : State → Plan} (h : Clear s) (q : Runs s (p s)) {u : State}
    (hu : run (p s).stages (taken s) = u) (fu : Fit u) (cu : u.cur = s.cur) :
    fireA p s = .next (finished u (p s).mark (p s).npc (p s).lost) := by
  unfold fireA
  rw [if_pos h.held, issue_runs h.alone (idle_runs s).issues q.issues (idle_clash _) (by simpa [idle] using q.mx),
    effects_end (idle_runs s) q (by simpa [idle] using hu) fu cu]
  simp [idle]

/-! ## Register operands -/

theorem firstSome_none {α β : Type} {f : α → Option β} {l : List α} (h : ∀ x ∈ l, f x = none) : firstSome f l = none := by
  induction l with
  | nil => rfl
  | cons x r ih => simp [firstSome, h x (by simp), ih (fun y hy => h y (by simp [hy]))]

theorem pending_clear {s : State} (h : Clear s) (f : Nat) : pending (me s) f = false := by
  simp [pending, h.quiet, h.unset]

theorem dropped_plain {s : State} {f : Nat} (p : Plain s f) : dropped (me s) f = false := by
  rcases p.2 with q | q | q
  · subst q; rfl
  · simp [dropped, fieldReg]; omega
  · simp [dropped]; omega

theorem replay_plain {s : State} {f : Nat} (p : Plain s f) : replayOf s s.cur f = [] := by
  simp [replayOf, dropped_plain p]

theorem total_zero {l : List Nat} (h : ∀ x ∈ l, x = 0) : total l = 0 := by
  unfold total
  induction l with
  | nil => rfl
  | cons x r ih =>
    rw [List.foldl_cons, h x (by simp)]
    exact ih (fun y hy => h y (by simp [hy]))

/-- The plan of a word whose fields are plain registers, writable where written, runs within the window, or predicates
raises nothing and waits for nothing. -/
theorem regPlan_plain {s : State} (h : Clear s) (wf : Bool) (names : List Field)
    (hn : ∀ x ∈ names, ∀ n, x.n = some n → ∀ f ∈ upto x.f n, fieldReg f = true ∧ f < (me s).limit)
    (hp : ∀ x ∈ regFields names, Plain s x.f) (hd : ∀ x ∈ regFields names, x.w = true → Dest s x.f) :
    regPlan s s.cur wf names = { ill := !wf, dests := names.flatMap Field.dests } := by
  have mem : ∀ x ∈ names, ∀ y ∈ x.each, y ∈ regFields names := fun x hx y hy => by
    simp only [regFields, List.mem_flatMap]; exact ⟨x, hx, hy⟩
  have nd : ∀ x ∈ regFields names, dropped (me s) x.f = false := fun x hx => dropped_plain (hp x hx)
  have ns : ∀ x ∈ regFields names, (me s).arch.strm x.f = none := fun x hx => (hp x hx).1
  have hz : ∀ x ∈ regFields names, hazardOf s s.cur x = none := fun x hx => by
    simp [hazardOf, hazardTrap, hazardW, pending_clear h, replay_plain (hp x hx), recipeRegs, recipeOps, firstSome]
  have c2 : regTraps s s.cur names = none := by
    simp only [regTraps]
    have r1 : firstSome (Field.range (me s)) names = none := firstSome_none (fun x hx => by
      cases p : x.pred
      · cases e : x.n with
        | none =>
          simp only [Field.range, p, e, Bool.false_eq_true, if_false]
          rcases (hp x (mem x hx x (by simp [Field.each, p, e]))).2 with q | q | q
          · simp [rangeTrap, fieldReg, q]
          · simp [rangeTrap, fieldReg]; omega
          · simp [rangeTrap]; omega
        | some n =>
          simp only [Field.range, p, e, Bool.false_eq_true, if_false, runTrap]
          exact firstSome_none (fun f hf => by have q := hn x hx n e f hf; simp [q.1]; omega)
      · simp [Field.range, p])
    have r2 : firstSome (Field.hazard s s.cur) names = none := firstSome_none (fun x hx => by
      cases p : x.pred
      · simp only [Field.hazard, p, Bool.false_eq_true, if_false]
        exact firstSome_none (fun y hy => hz y (mem x hx y hy))
      · simp [Field.hazard, p, predHazard, h.quiet, firstSome])
    have r3 : firstSome (fun (x : Field) => if x.w then droppedTrap (me s) x.f else none) (regFields names) = none :=
      firstSome_none (fun x hx => by simp [droppedTrap, nd x hx])
    have r4 : firstSome (fun (x : Field) => if x.r then depthTrap s s.cur x.f else none) (regFields names) = none :=
      firstSome_none (fun x hx => by simp [depthTrap, replay_plain (hp x hx), recipeRegs, recipeOps, firstSome])
    simp only [r1, r2, r3, r4, Option.none_or]
  simp only [regPlan, c2]
  generalize regFields names = fs at *
  have ap : appends (me s) fs = [] := by
    simp only [appends, List.filterMap_eq_nil_iff]
    intro x hx; simp [ns x hx]
  have po : popsOf (me s) fs = [] := by
    simp only [popsOf, List.filterMap_eq_nil_iff]
    intro x hx; simp [ns x hx]
  have st : firstSome (streamTrap (me s)) fs = none :=
    firstSome_none (fun x hx => by simp [streamTrap, ns x hx])
  have rs : firstSome (replayStream s s.cur) fs = none :=
    firstSome_none (fun x hx => by simp [replayStream, replay_plain (hp x hx), recipeRegs, recipeOps, firstSome])
  have hdet : hearthDet s s.cur fs = none := by
    simp only [hearthDet]
    rw [if_neg]
    simp only [Bool.and_eq_true, List.any_eq_true, decide_eq_true_eq, beq_iff_eq, not_and, not_exists]
    intro d1 x hx w1 w2
    rcases (hd x hx w1).2 with e | e | e
    · omega
    · simp [e] at d1
    · exact e d1.2
  have fp : firstSome (fieldPoison (me s)) fs = none :=
    firstSome_none (fun x hx => by simp [fieldPoison, ns x hx])
  have fh : fs.any (fieldHold (me s)) = false := by
    simp only [List.any_eq_false]
    intro x hx; simp [fieldHold, ns x hx]
  have lo : total (fs.map (fun x => if x.r then (recipeOps (replayOf s s.cur x.f)).length else 0)) = 0 := by
    apply total_zero
    intro y hy
    obtain ⟨x, hx, rfl⟩ := List.mem_map.mp hy
    simp [replay_plain (hp x hx), recipeOps]
  simp only [st, rs, hdet, ap, po, fp, fh, lo, List.map_nil, List.filterMap_nil, firstSome, Option.or_none,
    List.any_nil]

/-! ## Writing a field -/

/-- A write of a field with no stream is `put`. -/
theorem wr_put {s : State} {f : Nat} (v : Word) (h : (me s).arch.strm f = none) :
    runStage s (wr s.cur f v) = put s f v := by
  simp only [runStage, wr, put]
  split
  · rfl
  · split
    · rfl
    · rw [show thr s s.cur = me s from rfl, h]; rfl

@[simp] theorem cur_put (s : State) (f : Nat) (v : Word) : (put s f v).cur = s.cur := by
  simp only [put]; split <;> [rfl; (split <;> rfl)]

@[simp] theorem mem_put (s : State) (f : Nat) (v : Word) : (put s f v).mem = s.mem := by
  simp only [put]; split <;> [rfl; (split <;> rfl)]

theorem occupied_put (s : State) (f : Nat) (v : Word) (i : Nat) : occupied (put s f v) i = occupied s i := by
  simp only [put]; split <;> [rfl; (split <;> [rfl; exact occupied_onMe _ _ _])]

/-- A write changes nothing of the current thread but a window register. -/
theorem me_put {s : State} (f : Nat) (v : Word) (h : occupied s s.cur = true) :
    me (put s f v) = if f = 0 ∨ 112 ≤ f then me s else { me s with arch := (me s).arch.setReg f v } := by
  simp only [put]
  by_cases a : f = 0
  · simp [a]
  · by_cases b : 112 ≤ f
    · simp only [a, b, if_true, if_false, or_true]; rfl
    · simp only [a, b, if_false, or_self]; exact me_onMe _ _ h

theorem Fit.put {u : State} (h : Fit u) (f : Nat) (v : Word) : Fit (put u f v) := by
  have e := me_put f v h.held
  have c : (Machine.put u f v).cur = u.cur := cur_put _ _ _
  refine ⟨by rw [c, occupied_put]; exact h.held, ?_, ?_, ?_, ?_⟩ <;> rw [e] <;> split
  all_goals first | exact h.turn | exact h.alone | exact h.room | exact h.stores

theorem strm_taken (s : State) (f : Nat) : (me (taken s)).arch.strm f = (me s).arch.strm f := rfl

/-! ## Words of one value -/

/-- An A-word with plain sources and a writable destination writes its value. -/
theorem fireA_value {s : State} {p : State → Plan} {d : BitVec 7} {srcs : List (BitVec 7)} {v : Word} (h : Clear s)
    (e : p s = valuePlan s true d srcs v) (hd : Dest s d.toNat) (hs : ∀ x ∈ srcs, Plain s x.toNat) :
    fireA p s = .next (finished (put (taken s) d.toNat v) false) := by
  have r : p s = { dests := (destOf d.toNat), stages := [wr s.cur d.toNat v] } := by
    have f : regFields (fw d :: srcs.map fr) = fw d :: srcs.map fr := by
      have g : ∀ l : List (BitVec 7), (l.map fr).flatMap Field.each = l.map fr := fun l => by
        induction l with
        | nil => rfl
        | cons x r ih => simp only [List.map_cons, List.flatMap_cons, ih]; rfl
      simp only [regFields, List.flatMap_cons, g]; rfl
    rw [e, valuePlan, regPlan_plain h true (fw d :: srcs.map fr)]
    · have i : ¬ (me s).arch.lathe.st = .capturing := by rw [h.idle]; decide
      rw [aPlan, if_neg i]
      simp [Plan.does, fw, fr, outF, inF, Field.dests, Field.each, List.flatMap_map]
    · intro x hx
      simp only [List.mem_cons, List.mem_map] at hx
      rcases hx with rfl | ⟨y, _, rfl⟩ <;> (intro n e; cases e)
    · intro x hx
      rw [f] at hx
      simp only [List.mem_cons, List.mem_map] at hx
      rcases hx with rfl | ⟨y, hy, rfl⟩
      · exact hd.1
      · exact hs y hy
    · intro x hx w
      rw [f] at hx
      simp only [List.mem_cons, List.mem_map] at hx
      rcases hx with rfl | ⟨y, hy, rfl⟩
      · exact hd
      · simp [fr, inF] at w
  have q : Runs s (p s) := by rw [r]; exact ⟨rfl, rfl, rfl, rfl, rfl, rfl, rfl, rfl, rfl, rfl, rfl, rfl, rfl, rfl⟩
  have hu : run (p s).stages (taken s) = put (taken s) d.toNat v := by
    rw [r]
    simp only [run_cons, run_nil]
    exact wr_put v hd.1.1
  rw [fireA_runs h q hu (h.fit_taken.put _ _) (cur_put _ _ _), r]

/-! ## Traps -/

theorem o_onMe (s : State) (f : Thread → Thread) : (onMe s f).o = { s.o with slots := tabUpd s.o.slots s.cur f } := rfl

/-- The commit of a blank chunk only begins the next one. -/
theorem commit_blank {u : State} (b : Blank (me u).chunk) : runStage u (commitChunk u.cur) = renewed u := by
  have m : ∀ v : State, commitMem u.cur = commitMem u.cur → (me u).chunk = (thr v u.cur).chunk →
      runStage v (commitMem u.cur) = v := by
    intro v _ e
    simp only [commitMem, runStage_pick, ← e, b.opened, if_true, run_nil]
  have e : thr u u.cur = me u := rfl
  simp only [commitChunk, runStage_pick, e, b.spawns, b.stamp, b.nests, b.table, b.landed, b.loop, b.free, b.bar]
  simp only [run_cons, run_nil, m u rfl rfl]
  have sp : runStage u (commitSpawns u.cur []) = u := by
    simp [commitSpawns, runStage_pick]
  have mi : runStage u (mirrorFor (me u).task []) = u := by simp [mirrorFor, mirrorWrites, runStage]
  simp only [runStage_skip, mi, sp, List.map_nil, runStage_eff, List.foldl_nil, List.isEmpty_nil, if_true,
    Option.isSome_none, Bool.or_self, Bool.false_eq_true, if_false]
  cases iterOf u u.cur <;> rfl

/-- A blank chunk of a thread without a partner ends without the arbiter (R143). -/
theorem needsArbiter_blank {v : State} (b : Blank (me v).chunk) (al : (me v).partner = none) {a : After} (ne : a ≠ .exit) :
    needsArbiter v v.cur a = false := by
  have e : thr v v.cur = me v := rfl
  have x : (a == After.exit) = false := beq_eq_false_iff_ne.mpr ne
  have r : roomToCreate v v.cur a = true := by
    cases a <;> first | exact absurd rfl ne | simp [roomToCreate, creates, e, b.spawns, b.loop]
  simp [needsArbiter, undigested, e, x, r, b.opened, al]

theorem cur_renewed (s : State) : (renewed s).cur = s.cur := rfl

theorem occupied_renewed (s : State) (i : Nat) : occupied (renewed s) i = occupied s i := by
  simp only [occupied, renewed, run_cons, run_nil, runStage, shadowsDone]
  exact tabHas_upd _ _ _ _

theorem me_renewed {s : State} (h : occupied s s.cur = true) :
    me (renewed s) = { me s with
      start := (me s).arch, pend := (me s).pend.map (fun p => { p with committed := true }), heldRegs := 0
      claims := (me s).claims.drop (me s).used, used := 0, misses := 0
      chunk := nextChunk s (taskOf s s.cur).ts (me s).chunk } := by
  have := me_onMe s (fun t => { t with
      start := t.arch, pend := t.pend.map (fun p => { p with committed := true }), heldRegs := 0
      claims := t.claims.drop t.used, used := 0, misses := 0
      chunk := nextChunk s (taskOf s s.cur).ts t.chunk }) h
  exact this

/-- A trap that is deliverable is delivered. -/
theorem raise_delivers {s : State} (h : Deliverable s) (tr : Trap) (pc : BitVec 64) :
    runStage (taken s) (raiseTrap s.cur tr pc) = delivered s tr pc := by
  have hc := h.clear
  have n : nested (taken s) s.cur = false := h.outer
  have ab : runStage (taken s) (abortLathe s.cur) = taken s := by
    have i : (thr s s.cur).arch.lathe.st = .idle := hc.idle
    simp [runStage, abortLathe, i]
  simp only [raiseTrap, runStage_pick, n, Bool.false_eq_true, if_false, run_cons, run_nil, ab]
  have occ : occupied (taken s) (taken s).cur = true := hc.held
  have g1 : runStage (taken s) (eff [onThr s.cur (fun t => { t with grant := none, fault := none })]) =
      onMe (taken s) (fun t => { t with grant := none, fault := none }) := rfl
  rw [g1]
  generalize hv : onMe (taken s) (fun t => { t with grant := none, fault := none }) = v
  have cv : v.cur = s.cur := by rw [← hv]; rfl
  have ov : occupied v v.cur = true := by rw [← hv, cur_onMe, occupied_onMe]; exact hc.held
  have mv : me v = { me s with grant := none, fault := none } := by rw [← hv]; exact me_onMe _ _ occ
  rw [← cv]
  simp only [endChunk, runStage_pick]
  have k1 : ((After.trap tr pc == After.exit || After.trap tr pc == After.yield) && anyPending (thr v v.cur)) = false := by
    have a1 : (After.trap tr pc == After.exit) = false := by rw [beq_eq_false_iff_ne]; exact nofun
    have a2 : (After.trap tr pc == After.yield) = false := by rw [beq_eq_false_iff_ne]; exact nofun
    rw [a1, a2]; rfl
  have k2 : needsArbiter v v.cur (.trap tr pc) = false := by
    exact needsArbiter_blank (by rw [mv]; exact h.blank) (by rw [mv]; exact hc.alone) nofun
  simp only [k1, k2, Bool.false_eq_true, if_false, List.cons_append, List.nil_append, run_cons, run_nil]
  have g2 : runStage v (eff [onThr v.cur (fun t => { t with after := .trap tr pc })]) =
      onMe v (fun t => { t with after := .trap tr pc }) := rfl
  rw [g2]
  have e2 : onMe v (fun t => { t with after := .trap tr pc }) =
      onMe (taken s) (fun t => { t with grant := none, fault := none, after := .trap tr pc }) := by
    rw [← hv, onMe_onMe]
  rw [e2]
  generalize hw : onMe (taken s) (fun t => { t with grant := none, fault := none, after := .trap tr pc }) = w
  have cw : w.cur = s.cur := by rw [← hw]; rfl
  have ow : occupied w w.cur = true := by rw [← hw, cur_onMe, occupied_onMe]; exact hc.held
  have mw : me w = { me s with grant := none, fault := none, after := .trap tr pc } := by
    rw [← hw]; exact me_onMe _ _ occ
  rw [cv, ← cw]
  rw [commit_blank (u := w) (by rw [mw]; exact h.blank)]
  have mr := me_renewed ow
  have d : delivered s tr pc = onMe (renewed w) (trapEntered tr pc) := by rw [← hw]; rfl
  rw [d]
  have af : (thr (renewed w) w.cur).after = .trap tr pc := by
    rw [show thr (renewed w) w.cur = me (renewed w) from rfl, mr, mw]
  have pd : anyPending (thr (renewed w) w.cur) = false := by
    rw [show thr (renewed w) w.cur = me (renewed w) from rfl, mr, mw]
    simp [anyPending, hc.quiet, hc.unset]
  have vd : ((thr (renewed w) w.cur).chunk.st == .validating) = false := by
    rw [show thr (renewed w) w.cur = me (renewed w) from rfl, mr]; rfl
  have et : runStage (renewed w) (enterTrap w.cur) = onMe (renewed w) (trapEntered tr pc) := by
    have ra : (thr (renewed w) w.cur).raised = 0 := by
      rw [show thr (renewed w) w.cur = me (renewed w) from rfl, mr, mw]; exact hc.noEvent
    simp only [runStage, enterTrap, af, pd, vd, ra, Bool.or_self, Bool.false_eq_true, if_false]
    rfl
  simp only [afterCommit, runStage_pick, af, run_cons, run_nil, et]

/-- A bundle that raises a trap has it delivered. -/
theorem issue_raises {s : State} {c a : Plan} {tr : Trap} (h : Deliverable s) (f : firstTrap s s.cur c a = some tr)
    (ns : tr.code ≠ .soft) : run (issue s s.cur c a) s = delivered s tr (me s).arch.pc := by
  simp only [issue, f, ns, if_false, List.cons_append, List.nil_append, run_cons, run_nil]
  exact raise_delivers h tr _

/-- SOFT is delivered with the address of the next bundle (R85). -/
theorem issue_raises_soft {s : State} {c a : Plan} {tr : Trap} (h : Deliverable s)
    (f : firstTrap s s.cur c a = some tr) (sf : tr.code = .soft) :
    run (issue s s.cur c a) s = delivered s tr ((me s).arch.pc + 8) := by
  simp only [issue, f, sf, if_true, List.cons_append, List.nil_append, run_cons, run_nil]
  exact raise_delivers h tr _

/-! ## Chunk points -/

theorem blank_counted {t : Thread} (b : Blank t.chunk) (npc : Option (BitVec 64)) (lost : Nat) :
    Blank (stepped npc lost t).chunk :=
  ⟨b.opened, b.spawns, b.stamp, b.nests, b.bar, b.loop, b.table, b.landed, b.free⟩

/-- What ends a chunk point, in a state whose chunk is blank, is `pointed`. -/
theorem point_end {u : State} (h : Fit u) (k : Blank (me u).chunk) (p : Plan) (npc : Option (BitVec 64)) (lost : Nat)
    (m : Bool) :
    run [leaderWrites u.cur p, advance u.cur npc lost, afterBundle u.cur true false .nothing,
      marker u.cur m, fpCheck u.cur, eff [.draw 256]] u = pointed u m npc lost := by
  have l : leaderWrites u.cur p u = [] := by simp [leaderWrites, h.alone]
  have ad : runStage u (advance u.cur npc lost) = onMe u (stepped npc lost) := rfl
  have m1 : me (onMe u (stepped npc lost)) = stepped npc lost (me u) := me_onMe _ _ h.held
  have o1 : occupied (onMe u (stepped npc lost)) u.cur = true := by rw [occupied_onMe]; exact h.held
  have op : (me (onMe u (stepped npc lost))).chunk.st = .opened := by rw [m1]; exact k.opened
  simp only [run_cons, run_nil]
  rw [show runStage u (leaderWrites u.cur p) = u by simp [runStage, l], ad]
  generalize hx : onMe u (stepped npc lost) = x at *
  have cx : x.cur = u.cur := by rw [← hx]; rfl
  rw [← cx] at o1 ⊢
  have fi : runStage x (eff [onChunk x.cur (fun c => { c with firm := true })]) =
      onMe x (fun t => { t with chunk := { t.chunk with firm := true } }) := rfl
  have ab : runStage x (afterBundle x.cur true false .nothing) =
      boundary (renewed (onMe x (fun t => { t with chunk := { t.chunk with firm := true }, after := .nothing }))) := by
    simp only [afterBundle, runStage_pick, o1, Bool.true_or, Bool.and_self, if_true, run_cons, run_nil, fi]
    generalize hy : onMe x (fun t => { t with chunk := { t.chunk with firm := true } }) = y
    have cy : y.cur = x.cur := by rw [← hy]; rfl
    have my : me y = { me x with chunk := { (me x).chunk with firm := true } } := by rw [← hy]; exact me_onMe _ _ o1
    have kx : Blank (me x).chunk := by rw [m1]; exact blank_counted k _ _
    have ky : Blank (me y).chunk := by
      rw [my]; exact ⟨kx.opened, kx.spawns, kx.stamp, kx.nests, kx.bar, kx.loop, kx.table, kx.landed, kx.free⟩
    have al : (me y).partner = none := by rw [my]; show (me x).partner = none; rw [m1]; exact h.alone
    rw [← cy]
    simp only [endChunk, runStage_pick, needsArbiter_blank ky al (a := .nothing) nofun, Bool.false_eq_true, if_false]
    rw [show ((After.nothing == After.exit || After.nothing == After.yield) && anyPending (thr y y.cur)) = false from rfl]
    simp only [Bool.false_eq_true, if_false, List.cons_append, List.nil_append, run_cons, run_nil]
    rw [show runStage y (eff [onThr y.cur (fun t => { t with after := .nothing })]) = onMe y (fun t => { t with after := .nothing }) from rfl,
      show onMe y (fun t => { t with after := .nothing }) =
        onMe x (fun t => { t with chunk := { t.chunk with firm := true }, after := .nothing }) by rw [← hy, onMe_onMe]]
    generalize hz : onMe x (fun t => { t with chunk := { t.chunk with firm := true }, after := .nothing }) = z
    have cz : z.cur = x.cur := by rw [← hz]; rfl
    have oz : occupied z z.cur = true := by rw [← hz, cur_onMe, occupied_onMe]; exact o1
    have mz : me z = { me x with chunk := { (me x).chunk with firm := true }, after := .nothing } := by
      rw [← hz]; exact me_onMe _ _ o1
    have kz : Blank (me z).chunk := by
      rw [mz]; exact ⟨kx.opened, kx.spawns, kx.stamp, kx.nests, kx.bar, kx.loop, kx.table, kx.landed, kx.free⟩
    rw [cy, ← cz, commit_blank kz]
    have af : (thr (renewed z) z.cur).after = .nothing := by
      rw [show thr (renewed z) z.cur = me (renewed z) from rfl, me_renewed oz, mz]
    have fc : runStage (renewed z) (fpCheck z.cur) = boundary (renewed z) := by
      simp only [runStage, fpCheck, boundary, show thr (renewed z) z.cur = me (renewed z) from rfl]
      split <;> rfl
    simp only [afterCommit, runStage_pick, af, run_cons, run_nil, fc]
  rw [ab]
  generalize hw : onMe x (fun t => { t with chunk := { t.chunk with firm := true }, after := .nothing }) = w at *
  have cw : w.cur = x.cur := by rw [← hw]; rfl
  have ow : occupied w w.cur = true := by rw [← hw, cur_onMe, occupied_onMe]; exact o1
  have mr := me_renewed ow
  have mb : ∀ y : State, me (boundary y) = me y := fun y => by unfold boundary; split <;> rfl
  have tr : (me (boundary (renewed w))).st = .ready ∨ (me (boundary (renewed w))).st = .trapped := by
    rw [mb, mr, ← hw, me_onMe x _ o1, m1]; exact h.turn
  generalize hv : boundary (renewed w) = v at *
  have cv : v.cur = x.cur := by rw [← hv, ← cw]; unfold boundary; split <;> rfl
  rw [← cv]
  have mk : runStage v (marker v.cur m) = marked v m := by
    simp only [runStage, marker, marked]
    by_cases c : (m && anyPending (me v)) = true
    · rw [show thr v v.cur = me v from rfl, if_pos c, if_pos c]
      rcases tr with t | t <;> simp [t] <;> rfl
    · rw [show thr v v.cur = me v from rfl, if_neg c, if_neg c]; rfl
  rw [mk]
  have cm : (marked v m).cur = v.cur := by simp only [marked]; split <;> rfl
  rw [← cm]
  have fp : runStage (marked v m) (fpCheck (marked v m).cur) = boundary (marked v m) := by
    simp only [runStage, fpCheck, boundary]
    rw [show thr (marked v m) (marked v m).cur = me (marked v m) from rfl]
    split <;> rfl
  rw [fp]
  subst hv
  unfold pointed
  rw [← hw, ← hx, onMe_onMe]
  rfl

/-- The issue of a C-word whose plan runs as a chunk point, beside ANOP: the chunk ends before and after it. -/
theorem fireC_point {s : State} {p : State → Plan} (h : Clear s) (k : Blank (me s).chunk) (q : Runs s (p s) true) (qa : (p s).after = .nothing)
    {u : State} (hu : run (p s).stages (renewed (taken s)) = u) (fu : Fit u) (ku : Blank (me u).chunk)
    (cu : u.cur = s.cur) : fireC p s = .next (pointed u (p s).mark (p s).npc (p s).lost) := by
  unfold fireC
  rw [if_pos h.held]
  congr 1
  have le : leaderFull (thr s s.cur) (p s) = false := by simp [leaderFull, h.alone]
  have vp : (((p s).vpipe || idle.vpipe) && pipeBusy s s.cur) = false := by
    have := q.pipe; simpa [idle] using this
  have ft : firstTrap s s.cur (p s) idle = none := by
    simp only [firstTrap, q.ill, q.priv, q.c2, q.c3, q.hold, q.miss, clash_idle]; rfl
  have ir : (((p s).irrev || idle.irrev) && speculative s s.cur && !isLead s s.cur) = false := by
    have := q.irrev; simpa [idle, Bool.and_assoc] using this
  have op : needsArbiter s s.cur .nothing = false := needsArbiter_blank k h.alone nofun
  have mq : mqOver s s.cur ((p s).mxs + idle.mxs) = false := by simpa [idle] using q.mx
  have e : run (issue s s.cur (p s) idle) s = run ([commitChunk s.cur] ++ effects s.cur (p s) idle) (taken s) := by
    simp only [issue, ft, q.poison, q.miss, q.hold, le, vp, mq, ir, q.point, q.sleep, op]
    rfl
  rw [e, run_append, run_cons, run_nil]
  have c0 : runStage (taken s) (commitChunk s.cur) = renewed (taken s) := commit_blank (u := taken s) k
  rw [c0]
  simp only [effects, q.pops, q.point, q.ends]
  rw [show (idle.pops : List Nat) = [] from rfl, show idle.stages = [] from rfl, List.append_nil, List.append_nil,
    run_append, run_append, show run [popStreams s.cur []] (renewed (taken s)) = renewed (taken s) from rfl, hu, ← cu]
  have := point_end fu ku (p s) ((p s).npc.or none) ((p s).lost + 0) ((p s).mark || false)
  simpa [idle, qa] using this

theorem Clear.fit_renewed {s : State} (h : Clear s) : Fit (renewed (taken s)) := by
  have m := me_renewed (s := taken s) h.held
  refine ⟨by rw [cur_renewed, occupied_renewed]; exact h.held, ?_, ?_, ?_, ?_⟩ <;> rw [m]
  · exact h.turn
  · exact h.alone
  · exact Nat.zero_lt_succ _
  · exact Nat.zero_lt_succ _

theorem blank_renewed {s : State} (h : occupied s s.cur = true) : Blank (me (renewed s)).chunk := by
  rw [me_renewed h]
  exact ⟨rfl, rfl, rfl, rfl, rfl, rfl, rfl, rfl, rfl⟩

theorem fireC_raises {s : State} {p : State → Plan} {tr : Trap} (h : Deliverable s)
    (f : firstTrap s s.cur (p s) idle = some tr) (ns : tr.code ≠ .soft) :
    fireC p s = .next (delivered s tr (me s).arch.pc) := by
  unfold fireC; rw [if_pos h.clear.held, issue_raises h f ns]

theorem fireA_raises {s : State} {p : State → Plan} {tr : Trap} (h : Deliverable s)
    (f : firstTrap s s.cur idle (p s) = some tr) (ns : tr.code ≠ .soft) :
    fireA p s = .next (delivered s tr (me s).arch.pc) := by
  unfold fireA; rw [if_pos h.clear.held, issue_raises h f ns]

/-! ## The other plain changes -/

theorem Fit.onMe {u : State} (h : Fit u) (f : Thread → Thread)
    (hf : ((f (me u)).st = .ready ∨ (f (me u)).st = .trapped) ∧ (f (me u)).partner = none ∧
      (f (me u)).chunk.bundles < 511 ∧ (f (me u)).chunk.nst < 32) : Fit (Machine.onMe u f) := by
  have e := me_onMe u f h.held
  refine ⟨by rw [cur_onMe, occupied_onMe]; exact h.held, ?_, ?_, ?_, ?_⟩ <;> rw [e]
  exacts [hf.1, hf.2.1, hf.2.2.1, hf.2.2.2]

theorem Fit.putPred {u : State} (h : Fit u) (k : Nat) (v : BitVec 16) : Fit (putPred u k v) :=
  h.onMe _ ⟨h.turn, h.alone, h.room, h.stores⟩

theorem Fit.putFlags {u : State} (h : Fit u) (fl : BitVec 5) : Fit (putFlags u fl) := by
  unfold Machine.putFlags
  split
  · exact h
  · exact h.onMe _ ⟨h.turn, h.alone, h.room, h.stores⟩

@[simp] theorem cur_putFlags (s : State) (fl : BitVec 5) : (putFlags s fl).cur = s.cur := by
  unfold Machine.putFlags; split <;> rfl

theorem wrPred_put (s : State) (k : Nat) (v : BitVec 16) : runStage s (wrPred s.cur k v) = putPred s k v := rfl

theorem wrFlags_put (s : State) (mask fl : BitVec 5) (m : (me s).fxmask = mask) :
    runStage s (wrFlags s.cur mask fl) = putFlags s fl := by
  subst m
  simp only [runStage, wrFlags, putFlags]; split <;> rfl

theorem pendIn_pended (s : State) (dests : List Nat) (pred : Option Nat) (op : PendOp) (bound : Nat) :
    runStage s (pendIn s.cur dests pred op bound) = pended s dests pred op bound := rfl

theorem Fit.pended {u : State} (h : Fit u) (dests : List Nat) (pred : Option Nat) (op : PendOp) (bound : Nat) :
    Fit (pended u dests pred op bound) := by
  have f := h.onMe (fun t => { t with pend := t.pend ++ [{ id := u.fresh, dests := dests, pred := pred, op := op }] })
    ⟨h.turn, h.alone, h.room, h.stores⟩
  exact ⟨f.held, f.turn, f.alone, f.room, f.stores⟩

/-! ## Words whose plan runs -/

/-- A C-word whose plan runs acts as the plan says, whatever else is under way in its slot. -/
theorem acts_of_issues_alone {s : State} {i : Instr} {P : State → Plan} {p : Plan} (h : occupied s s.cur = true)
    (al : (me s).partner = none) (e : exec i s = fireC P s) (r : P s = p) (q : Issues s p) : Acts s i p := by
  unfold Acts
  rw [e, fireC, if_pos h, r, issue_runs al q (idle_runs s).issues (clash_idle _) (by simpa [idle] using q.mx)]

/-- A C-word whose plan runs acts as the plan says. -/
theorem acts_of_issues {s : State} {i : Instr} {P : State → Plan} {p : Plan} (h : Clear s) (e : exec i s = fireC P s)
    (r : P s = p) (q : Issues s p) : Acts s i p := acts_of_issues_alone h.held h.alone e r q

/-- An A-word whose plan runs acts as the plan says. -/
theorem actsA_of_issues {s : State} {i : Instr} {P : State → Plan} {p : Plan} (h : Clear s) (e : exec i s = fireA P s)
    (r : P s = p) (q : Issues s p) : ActsA s i p := by
  unfold ActsA
  rw [e, fireA, if_pos h.held, r, issue_runs h.alone (idle_runs s).issues q (idle_clash _) (by simpa [idle] using q.mx)]

/-- The own near memory that a plan takes banks of (R69) is no part of its effects. -/
theorem acts_near {s : State} {i : Instr} {p : Plan} (l : List (Nat × Nat)) (h : Acts s i { p with near := l }) : Acts s i p := h

theorem pointActs_near {s : State} {i : Instr} {p : Plan} (l : List (Nat × Nat)) (h : PointActs s i { p with near := l }) :
    PointActs s i p := h

/-- The chunk before such a chunk point commits in the same cycle (R143). -/
theorem AtPoint.unarbitrated {s : State} (h : AtPoint s) : needsArbiter s s.cur .nothing = false := by
  have e : thr s s.cur = me s := rfl
  simp [needsArbiter, undigested, e, h.opened, h.room, h.clear.alone]

/-- A chunk point whose plan runs acts as the plan says. -/
theorem point_of_issues {s : State} {i : Instr} {P : State → Plan} {p : Plan} (h : AtPoint s) (e : exec i s = fireC P s)
    (r : P s = { p with point := true }) (q : Issues s { p with point := true } true) : PointActs s i p := by
  unfold PointActs
  have le : ∀ c, leaderFull (thr s s.cur) c = false := fun c => by simp [leaderFull, h.clear.alone]
  have vp : (p.vpipe && pipeBusy s s.cur) = false := q.pipe
  have q5 : p.ill = false := q.ill
  have q6 : p.priv = false := q.priv
  have q7 : p.c2 = none := q.c2
  have q8 : p.c3 = none := q.c3
  have q2 : p.miss = none := q.miss
  have q3 : p.hold = false := q.hold
  have ft : firstTrap s s.cur { p with point := true } idle = none := by
    simp only [firstTrap, q5, q6, q7, q8, q2, q3, clash_idle]; rfl
  have ir : (p.irrev && speculative s s.cur && !isLead s s.cur) = false := by
    have := q.irrev; simpa [Bool.and_assoc] using this
  have op : needsArbiter s s.cur .nothing = false := h.unarbitrated
  have mq : mqOver s s.cur p.mxs = false := q.mx
  rw [e, fireC, if_pos h.clear.held, r]
  have q1 : p.poison = none := q.poison
  have q4 : p.sleep = none := q.sleep
  congr 1
  simp only [issue, ft]
  simp only [q1, q2, q3, le, q4, op, mq, idle, Option.or_none, Nat.add_zero, Bool.or_false, vp, ir, if_true,
    Bool.and_false, Bool.false_eq_true, if_false]
  rfl

/-- A C-word that waits sleeps. -/
theorem sleeps_of_alone {s : State} {i : Instr} {P : State → Plan} {w : Wait} (h : occupied s s.cur = true)
    (al : (me s).partner = none) (e : exec i s = fireC P s) (q : Issues s { P s with sleep := none } (P s).point) (op : (P s).point = true → needsArbiter s s.cur .nothing = false)
    (sl : (P s).sleep = some w) : Sleeps s i w (P s).first := by
  unfold Sleeps
  have le : leaderFull (thr s s.cur) (P s) = false := by simp [leaderFull, al]
  have vp : ((P s).vpipe && pipeBusy s s.cur) = false := q.pipe
  have q0 : (P s).ill = false := q.ill
  have qp : (P s).priv = false := q.priv
  have qc : (P s).c2 = none := q.c2
  have qd : (P s).c3 = none := q.c3
  have q2 : (P s).miss = none := q.miss
  have q3 : (P s).hold = false := q.hold
  have ft : firstTrap s s.cur (P s) idle = none := by
    simp only [firstTrap, q0, qp, qc, qd, q2, q3, clash_idle]; rfl
  have ir : ((P s).irrev && speculative s s.cur && !isLead s s.cur) = false := by
    have := q.irrev; simpa [Bool.and_assoc] using this
  have q1 : (P s).poison = none := q.poison
  have o : ((P s).point && needsArbiter s s.cur .nothing) = false := by
    cases c : (P s).point
    · rfl
    · rw [op c]; rfl
  have mq : mqOver s s.cur (P s).mxs = false := q.mx
  rw [e, fireC, if_pos h]
  congr 1
  simp only [issue, ft]
  simp only [q1, q2, q3, le, sl, o, mq, idle, Option.or_none, Nat.add_zero, Bool.or_false, vp, ir, Bool.false_eq_true, if_false]
  rfl

theorem sleeps_of {s : State} {i : Instr} {P : State → Plan} {w : Wait} (h : Clear s) (e : exec i s = fireC P s)
    (q : Issues s { P s with sleep := none } (P s).point) (op : (P s).point = true → needsArbiter s s.cur .nothing = false)
    (sl : (P s).sleep = some w) : Sleeps s i w (P s).first := sleeps_of_alone h.held h.alone e q op sl

end Sys2Proof.Machine
end

