-- ==== Sys2Proof/Tests/Slice0.lean ====
section
/-!
SUPPORT. Tests: ill-formed terms that the check refuses, words written out from the encodings of the spec with what
they stand for, single steps with results that the spec states or that follow from its tables by hand, and for every
statement with hypotheses a state and operands that meet them.
-/

open Sys2Proof Sys2Proof.Machine

namespace Sys2Proof.Tests

set_option Elab.async false

/-! ## Small states -/

/-- A thread of kernel 1 in slot 0 whose bundle issues, changed as a test asks. -/
def small (f : Thread → Thread := id) (g : State → State := id) : State := g (onMe (placed State.reset 0) f)

/-- Registers take values. -/
def regs (l : List (Nat × Nat)) (t : Thread) : Thread :=
  { t with arch := l.foldl (fun a x => a.setReg x.1 (wd x.2)) t.arch }

/-- The next state, or the one after reset where a step stops. -/
def next (o : Host.Outcome State Fault Refusal) : State :=
  match o with
  | .next t => t
  | _ => State.reset

/-- What a register of slot 0 reads in the next state. -/
def reg (r : Nat) (o : Host.Outcome State Fault Refusal) : Nat := (rd (next o) 0 r).toNat

/-- The values on their way to slot 0's registers. -/
def coming (o : Host.Outcome State Fault Refusal) : List PendOp := (thr (next o) 0).pend.map (·.op)

/-- The kernel of slot 0 has a handler, so that its traps are delivered. -/
def handled (s : State) : State := (onKernel 1 (fun k => { k with lrec := { k.lrec with handler := some 0 } })).apply s

/-- TRAPCODE and TRAPINFO of slot 0. -/
def trapped (o : Host.Outcome State Fault Refusal) : Nat × Nat :=
  ((thr (next o) 0).trapcode.toNat, (thr (next o) 0).trapinfo.toNat)

/-! ## Ill-formed terms -/

/-- Every term of the list is refused. -/
def refused (l : List Instr) : Bool := l.all (fun i => !i.wf)

/-- A hearth register as the destination of a long instruction (R105). -/
theorem test_wf_long_destinations : refused [.ldG false 112 1 0 0, .ldGLong false 127 1 0 0, .lduG false 112 1 0 0,
    .lduGLong false 112 1 0 0, .plane ⟨false, false⟩ 112 1 2, .unplane ⟨false, false⟩ 112 1 2, .atomG ⟨false, false⟩ 112 1 2 0,
    .casG ⟨false, false⟩ 112 1 2, .ordatom ⟨false, false⟩ 112 0 1, .msend ⟨false, false⟩ 112 1 2, .gloop false 112 1 2 0,
    .job ⟨false, false⟩ 112 1, .jobq ⟨false, false⟩ 112 1, .jobResume ⟨false, false⟩ 112 1, .mxsend ⟨false, false⟩ 112 1 2,
    .mxsendAdd ⟨false, false⟩ 112 1 2, .swapt ⟨false, false⟩ 112 1 2, .launch ⟨false, false⟩ 112 1, .slicemass ⟨false, false⟩ 112 1 2,
    .draw ⟨false, false⟩ 112 1 2, .penal ⟨false, false⟩ 112 1 2, .tokapp ⟨false, false⟩ 112 1 2, .seqcmtCommit ⟨false, false⟩ 112 1 2,
    .seqcmtRewind ⟨false, false⟩ 112 1 2, .gmask ⟨false, false⟩ 112 1 2, .div 112 1 2 0, .rem 112 1 2 0, .rcp 112 1, .rsq 112 1,
    .rcpnr 112 1 2, .rsqnr 112 1 2, .exp2 112 1, .log2 112 1, .rng 112 1 2, .arnd 112 0 1 0, .amovSt 112 0, .amovRaw 112 0 1] = true := by
  decide

/-- A register that a window word cannot name (R115 to R117): x0, a hearth register, or no last register of its eight. -/
theorem test_wf_window_registers : refused [.rxtag ⟨false, false⟩ 0 1, .rxtag ⟨false, false⟩ 112 1, .rxtagVoid ⟨false, false⟩ 0,
    .rxtagVoid ⟨false, false⟩ 112, .rxuntag ⟨false, false⟩ 0, .rxuntag ⟨false, false⟩ 112, .rxdrop ⟨false, false⟩ 8,
    .rxkeep ⟨false, false⟩ 8, .unpack 5 0 6 1, .unpack 5 5 6 1] = true := by decide

/-- A code that its operation does not accept: CSR numbers (R87), atomic operations (R157, R158), work identifier fields
(R233), shift counts (R130), KOP's conditions (R134), reductions (R171), formats (R172, R179 to R182), shapes (R204) and
ARND's modes (R208). -/
theorem test_wf_codes : refused [.csrr ⟨false, false⟩ 1 0x008, .csrr ⟨false, false⟩ 1 0x3FF, .csrw ⟨false, false⟩ 1 0x010,
    .csrw ⟨false, false⟩ 1 0x100, .atomN ⟨false, false⟩ 1 2 3 7, .atomG ⟨false, false⟩ 1 2 3 7, .redG ⟨false, false⟩ 1 2 6,
    .wid ⟨false, false⟩ 1 9, .shli 1 2 64, .shri 1 2 64, .sari 1 2 2047, .kop 1 4 2 1, .kop 1 6 1 0, .kop 1 7 0 1, .vred 1 2 3 0,
    .vdot 1 2 3 4, .vdot 1 2 3 11, .cvt 1 2 0 11, .cvt 1 2 11 20, .cvtsr 1 2 11 11, .cvtsr 1 2 13 9, .pack 1 2 0 11, .pack 1 2 11 0,
    .pack 1 2 11 11, .unpack 1 2 0 11, .unpack 1 2 11 20, .unpack 1 2 11 11, .mma 6 0 1 2 0, .arnd 1 0 2 6] = true := by decide

/-! ## Words of the encodings

Each word is written field by field from the maps of the spec, the highest bit first. -/

/-- Each C-word with its literal decodes to what it stands for. -/
def reads (l : List (BitVec 32 × BitVec 32 × Instr)) : Bool := l.all (fun x => (decodeC x.1 x.2.1).toOption == some x.2.2)

/-- Each A-word decodes to what it stands for. -/
def readsA (l : List (BitVec 32 × Instr)) : Bool := l.all (fun x => (decodeA x.1).toOption == some x.2)

theorem test_words_control : reads [
    (0b0_1_000000_000000000000000000000000, 0, .nop ⟨false, true⟩),
    (0b1_0_000001_101_1_10110000000000000101, 0, .br ⟨true, false⟩ 5 720901),
    (0b0_1_000001_101_0_10110000000000000101, 0, .brn ⟨false, true⟩ 5 720901),
    (0b1_0_000010_101000000000000000000110, 0, .jmp ⟨true, false⟩ 10485766),
    (0b0_1_000011_101000000000000000000110, 0, .call ⟨false, true⟩ 10485766),
    (0b1_0_000100_0000000_1000101_0000000000, 0, .jmpr ⟨true, false⟩ 69),
    (0b0_1_000100_0000000_1000101_0000000001, 0, .callr ⟨false, true⟩ 69),
    (0b1_0_000101_000000000000000000000000, 0, .exit ⟨true, false⟩),
    (0b0_1_000101_000000000000000000000001, 0, .yield ⟨false, true⟩),
    (0b1_0_000110_00000000000000_1000010011, 0, .trap ⟨true, false⟩ 531),
    (0b0_1_000111_1000101_0000000_1000010011, 0, .csrr ⟨false, true⟩ 69 531),
    (0b1_0_001000_1000101_0000000_1000010011, 0, .csrw ⟨true, false⟩ 69 531),
    (0b0_1_001000_1000101_0000000_0100010001, 0, .l2pdataWrite ⟨false, true⟩ 69),
    (0b1_0_001001_000000000000000000000000, 0, .eret ⟨true, false⟩)] = true := by decide

theorem test_words_memory : reads [
    (0b0_1_001010_1000101_0011010_101_1011001, 0, .ldN true 69 26 5 89),
    (0b1_1_001010_1000101_0011010_101_0000000, 0x9abcdef0, .ldNLong true 69 26 5 0x9ABCDEF0),
    (0b0_0_001011_1000101_0011010_101_1011001, 0, .stN false 69 26 5 89),
    (0b1_1_001011_1000101_0011010_101_0000000, 0x9abcdef0, .stNLong true 69 26 5 0x9ABCDEF0),
    (0b0_1_001100_1000101_0011010_101_1011001, 0, .ldG true 69 26 5 89),
    (0b1_1_001100_1000101_0011010_101_0000000, 0x9abcdef0, .ldGLong true 69 26 5 0x9ABCDEF0),
    (0b0_0_001101_1000101_0011010_101_1011001, 0, .stG false 69 26 5 89),
    (0b1_1_001101_1000101_0011010_101_0000000, 0x9abcdef0, .stGLong true 69 26 5 0x9ABCDEF0),
    (0b0_1_001110_1000101_0011010_101_1011001, 0, .lduG true 69 26 5 89),
    (0b1_1_001110_1000101_0011010_101_0000000, 0x9abcdef0, .lduGLong true 69 26 5 0x9ABCDEF0),
    (0b0_1_001111_1000101_0011010_0_10_1011001, 0, .ldtr ⟨false, true⟩ 69 26 2 89),
    (0b1_0_010000_1000101_0011010_1011001_000, 0, .plane ⟨true, false⟩ 69 26 89),
    (0b0_1_010000_1000101_0011010_1011001_001, 0, .unplane ⟨false, true⟩ 69 26 89)] = true := by decide

theorem test_words_synchronisation : reads [
    (0b1_0_010001_1000101_0011010_0000000000, 0, .take ⟨true, false⟩ 69 26),
    (0b0_1_010001_0000000_1000101_0011010_001, 0, .put ⟨false, true⟩ 69 26),
    (0b1_0_010001_1000101_0011010_0000000010, 0, .peek ⟨true, false⟩ 69 26),
    (0b0_1_010001_0000000_1000101_000000_1_011, 0, .feset ⟨false, true⟩ 69 1),
    (0b1_0_010001_1000101_0011010_0000000100, 0, .feq ⟨true, false⟩ 69 26),
    (0b0_1_010010_0000000_1000101_0011010_000, 0, .chbind ⟨false, true⟩ 69 26),
    (0b1_0_010010_0000000_1000101_0011010_001, 0, .chsend ⟨true, false⟩ 69 26),
    (0b0_1_010010_1000101_0011010_0000000010, 0, .chrecv ⟨false, true⟩ 69 26),
    (0b1_0_010010_0000000_1000101_0000000011, 0, .chclose ⟨true, false⟩ 69),
    (0b0_1_010011_1000101_0011010_1011001_101, 0, .atomN ⟨false, true⟩ 69 26 89 5),
    (0b1_0_010100_1000101_0011010_1011001_101, 0, .atomG ⟨true, false⟩ 69 26 89 5),
    (0b0_1_010101_0000000_1000101_0011010_101, 0, .redG ⟨false, true⟩ 69 26 5),
    (0b1_0_010110_1000101_0011010_1011001_000, 0, .casN ⟨true, false⟩ 69 26 89),
    (0b0_1_010110_1000101_0011010_1011001_001, 0, .casG ⟨false, true⟩ 69 26 89),
    (0b1_0_010111_1000101_000_1010_0011010_000, 0, .ordatom ⟨true, false⟩ 69 10 26)] = true := by decide

theorem test_words_barriers_and_events : reads [
    (0b0_1_011000_000000000000000000000000, 0, .fenceNear ⟨false, true⟩),
    (0b1_0_011000_000000000000000000000001, 0, .fenceGlobal ⟨true, false⟩),
    (0b0_1_011000_000000000000000000000010, 0, .fenceEngine ⟨false, true⟩),
    (0b1_0_011000_000000000000000000000011, 0, .fenceMirror ⟨true, false⟩),
    (0b0_1_011000_000000000000000000000100, 0, .fenceSystem ⟨false, true⟩),
    (0b1_0_011001_000000000000000000000000, 0, .chunk ⟨true, false⟩),
    (0b0_1_011010_1000101_000000000_10110_000, 0, .barArrive ⟨false, true⟩ 69 22),
    (0b1_0_011010_0000000_1000101_00_10110_001, 0, .barWait ⟨true, false⟩ 69 22),
    (0b0_1_011010_0000000000000000_10110_010, 0, .barSync ⟨false, true⟩ 22),
    (0b1_0_011010_1000101_0011010_00_10110_011, 0, .barWaitd ⟨true, false⟩ 69 26 22),
    (0b0_1_011010_0000000_1000101_00_10110_100, 0, .barInit ⟨false, true⟩ 69 22),
    (0b1_0_011011_000000000000000000000000, 0, .evWait ⟨true, false⟩),
    (0b0_1_011011_0000000_1000101_0000000001, 0, .evSignal ⟨false, true⟩ 69),
    (0b1_0_011011_1000101_0011010_0000000010, 0, .evWaitt ⟨true, false⟩ 69 26),
    (0b0_1_011100_1000101_0011010_1011001_000, 0, .msend ⟨false, true⟩ 69 26 89)] = true := by decide

theorem test_words_loops_and_streams : reads [
    (0b1_0_011101_1000101_0011010_101_1010_000, 0, .latheOpen ⟨true, false⟩ 69 26 5 10),
    (0b0_1_011101_000000000000000000000010, 0, .latheLwait ⟨false, true⟩),
    (0b1_0_011101_000000000000000000000011, 0, .latheLabort ⟨true, false⟩),
    (0b0_1_011110_00000_10_1000101_0011010_000, 0, .nest ⟨false, true⟩ 2 69 26),
    (0b1_0_011110_1000101_00000_10_0000_101_001, 0, .next ⟨true, false⟩ 69 2 5),
    (0b0_1_011111_1000101_0011010_0000000000, 0, .sbind ⟨false, true⟩ 69 26),
    (0b1_0_011111_1000101_00000000000000001, 0, .sunbind ⟨true, false⟩ 69),
    (0b0_1_011111_1000101_0011010_0000000010, 0, .sstat ⟨false, true⟩ 69 26),
    (0b1_0_100000_1000101_0011010_1011001_000, 0, .tspawn ⟨true, false⟩ 69 26 89),
    (0b0_1_100001_0000000_1000101_0000000000, 0, .tstamp ⟨false, true⟩ 69),
    (0xA20A1840, 0xc000040, .gloop false 5 6 8 0x0C000040),
    (0b0_1_100011_000000000000000000000000, 0, .gput ⟨false, true⟩),
    (0b1_0_100011_1000101_00000000000000001, 0, .gend ⟨true, false⟩ 69),
    (0b0_1_100011_000000000000000000000010, 0, .gquit ⟨false, true⟩),
    (0b1_0_100100_000000000000000000000000, 0, .acceptEq ⟨true, false⟩),
    (0b0_1_100100_0000000_1000101_0000000001, 0, .acceptSeq ⟨false, true⟩ 69),
    (0b1_0_100100_0000000_1000101_0000000010, 0, .acceptTol ⟨true, false⟩ 69)] = true := by decide

theorem test_words_windows_and_jobs : reads [
    (0b0_1_100101_1000101_000000001_10110_000, 0, .rxtag ⟨false, true⟩ 69 22),
    (0b1_0_100101_1000101_00000000000001000, 0, .rxtagVoid ⟨true, false⟩ 69),
    (0b0_1_100101_1000101_00000000000000000, 0, .rxuntag ⟨false, true⟩ 69),
    (0b1_0_100101_1000101_00000000000000001, 0, .rxdrop ⟨true, false⟩ 69),
    (0b0_1_100101_1000101_00000000000000010, 0, .rxkeep ⟨false, true⟩ 69),
    (0b1_0_100101_1000101_0011010_0000000011, 0, .rxq ⟨true, false⟩ 69 26),
    (0b0_1_100110_1000101_0000000_0011010_000, 0, .wid ⟨false, true⟩ 69 26),
    (0b1_0_100111_1000101_0011010_0000000000, 0, .job ⟨true, false⟩ 69 26),
    (0b0_1_100111_0000000_1000101_0011010_001, 0, .jobw ⟨false, true⟩ 69 26),
    (0b1_0_100111_1000101_0011010_0000000010, 0, .jobq ⟨true, false⟩ 69 26),
    (0b0_1_100111_1000101_0011010_0000000011, 0, .jobResume ⟨false, true⟩ 69 26),
    (0b1_0_101000_1000101_0011010_1011001_000, 0, .mxsend ⟨true, false⟩ 69 26 89),
    (0b0_1_101000_1000101_0011010_1011001_001, 0, .mxsendAdd ⟨false, true⟩ 69 26 89),
    (0b1_0_101001_1000101_0011010_1011001_000, 0, .swapt ⟨true, false⟩ 69 26 89),
    (0b0_1_101010_1000101_0011010_0000000000, 0, .launch ⟨false, true⟩ 69 26)] = true := by decide

theorem test_words_sequences : reads [
    (0b1_0_101011_0000000_1000101_0011010_000, 0, .tlbw ⟨true, false⟩ 69 26),
    (0b0_1_101011_0000000_1000101_0011010_001, 0, .tlbi ⟨false, true⟩ 69 26),
    (0b1_0_101011_1000101_0000000_0011010_010, 0, .tlbr ⟨true, false⟩ 69 26),
    (0b0_1_101100_1000101_0011010_1011001_000, 0, .slicemass ⟨false, true⟩ 69 26 89),
    (0b1_0_101101_1000101_0011010_1011001_000, 0, .draw ⟨true, false⟩ 69 26 89),
    (0b0_1_101110_1000101_0011010_1011001_000, 0, .penal ⟨false, true⟩ 69 26 89),
    (0b1_0_101111_1000101_0011010_1011001_000, 0, .tokapp ⟨true, false⟩ 69 26 89),
    (0b0_1_110000_1000101_0011010_1011001_000, 0, .seqcmtCommit ⟨false, true⟩ 69 26 89),
    (0b1_0_110000_1000101_0011010_1011001_001, 0, .seqcmtRewind ⟨true, false⟩ 69 26 89),
    (0b0_1_110001_1000101_0011010_1011001_000, 0, .gmask ⟨false, true⟩ 69 26 89),
    (0xB2080000, 0xfffffffe, .movi false 4 0xFFFFFFFE),
    (0b1_1_110010_1000101_0000000_0000000_001, 0x9abcdef0, .moviHi true 69 0x9ABCDEF0)] = true := by decide

theorem test_words_scalar_arithmetic : readsA [
    (0b0000000_0000000000000000000000000, .anop),
    (0b0000001_1000101_0011010_1011001_01_10, .add 69 26 89 2),
    (0b0000010_1000101_0011010_1011001_01_10, .sub 69 26 89 2),
    (0b0000011_1000101_0011010_1011001_01_10, .mul 69 26 89 2),
    (0b0000100_1000101_0011010_1011001_01_10, .mulh 69 26 89 2),
    (0b0000101_1000101_0011010_1011001_01_10, .div 69 26 89 2),
    (0b0000110_1000101_0011010_1011001_01_10, .rem 69 26 89 2),
    (0b0000111_1000101_0011010_1011001_01_10, .and 69 26 89 2),
    (0b0001000_1000101_0011010_1011001_01_10, .or 69 26 89 2),
    (0b0001001_1000101_0011010_1011001_01_10, .xor 69 26 89 2),
    (0b0001010_1000101_0011010_1011001_01_10, .shl 69 26 89 2),
    (0b0001011_1000101_0011010_1011001_01_10, .shr 69 26 89 2),
    (0b0001100_1000101_0011010_1011001_01_10, .sar 69 26 89 2),
    (0b0001101_1000101_0011010_1011001_01_10, .rot 69 26 89 2),
    (0b0001110_1000101_0011010_1011001_01_10, .min 69 26 89 2),
    (0b0001111_1000101_0011010_1011001_01_10, .max 69 26 89 2),
    (0b0010000_1000101_0011010_000000001_10, .abs 69 26 2)] = true := by decide

theorem test_words_scalar_bits_and_immediates : readsA [
    (0b0010001_1000101_0011010_000000001_10, .neg 69 26 2),
    (0b0010010_1000101_0011010_000000001_10, .clz 69 26 2),
    (0b0010011_1000101_0011010_000000001_10, .popc 69 26 2),
    (0b0010100_1000101_0011010_000000001_10, .brev 69 26 2),
    (0b0010101_1000101_0011010_1011001_01_10, .bfx 69 26 89 2),
    (0b0010110_1000101_0011010_1011001_01_10, .bfi 69 26 89 2),
    (0b0010111_1000101_0011010_000000001_10, .mov 69 26 2),
    (0b0011000_1000101_0011010_10000010101, .addi 69 26 1045),
    (0b0011001_1000101_0011010_10000010101, .andi 69 26 1045),
    (0b0011010_1000101_0011010_10000010101, .ori 69 26 1045),
    (0b0011011_1000101_0011010_10000010101, .xori 69 26 1045),
    (0b0011100_1000101_0011010_10000010101, .shli 69 26 1045),
    (0b0011101_1000101_0011010_10000010101, .shri 69 26 1045),
    (0b0011110_1000101_0011010_10000010101, .sari 69 26 1045)] = true := by decide

theorem test_words_pointers_and_predicates : readsA [
    (0b0100000_1000101_0011010_1011001_0000, .padd 69 26 89),
    (0b0100001_1000101_0011010_10000010101, .paddi 69 26 1045),
    (0b0100010_1000101_0011010_1011001_0000, .pset 69 26 89),
    (0b0100011_1000101_0011010_00000000000, .pget 69 26),
    (0b0100100_1000101_0011010_1011001_0000, .pdiff 69 26 89),
    (0b0101000_101_0_011_1000101_0011010_1010, .cmp 5 3 69 26 10),
    (0b0101001_101_0_011_1000101_0011010_0_110, .cmpi 5 3 69 26 6),
    (0b0101010_101_0_011_0000_110_0000_101_0000, .kop 5 3 6 5),
    (0b0101011_1000101_0011010_1011001_0_101, .sel 69 26 89 5),
    (0b0101100_1000101_0000_101_00000000000, .kmovToReg 69 5),
    (0b0101100_0000_101_1000101_00000000001, .kmovToPred 5 69)] = true := by decide

theorem test_words_vectors : readsA [
    (0b0110000_1000101_0011010_1011001_1010, .vadd 69 26 89 10),
    (0b0110001_1000101_0011010_1011001_1010, .vsub 69 26 89 10),
    (0b0110010_1000101_0011010_1011001_1010, .vmul 69 26 89 10),
    (0b0110011_1000101_0011010_1011001_1010, .vfma 69 26 89 10),
    (0b0110100_1000101_0011010_1011001_1010, .vmin 69 26 89 10),
    (0b0110101_1000101_0011010_1011001_1010, .vmax 69 26 89 10),
    (0b0110110_1000101_0011010_0000000_1010, .vabs 69 26 10),
    (0b0110111_1000101_0011010_0000000_1010, .vneg 69 26 10),
    (0b0111000_1000101_0011010_1011001_0000, .vand 69 26 89),
    (0b0111001_1000101_0011010_1011001_0000, .vor 69 26 89),
    (0b0111010_1000101_0011010_1011001_0000, .vxor 69 26 89),
    (0b0111011_1000101_0011010_1011001_0_101, .vshl 69 26 89 5),
    (0b0111100_1000101_0011010_1011001_0_101, .vshr 69 26 89 5),
    (0b0111101_101_0_011_1000101_0011010_1010, .vcmp 5 3 69 26 10),
    (0b0111110_1000101_0011010_0000_101_1010, .vsel 69 26 5 10),
    (0b0111111_1000101_0011010_1011001_1010, .vshuf 69 26 89 10)] = true := by decide

theorem test_words_conversions : readsA [
    (0b1000000_1000101_0011010_0000000_1010, .vbcast 69 26 10),
    (0b1000001_1000101_0011010_1011001_1010, .vred 69 26 89 10),
    (0b1000010_1000101_0011010_1011001_1010, .vdot 69 26 89 10),
    (0b1000011_1000101_0011010_1011001_1_101, .vscale 69 26 89 5),
    (0b1000100_1000101_0011010_1011001_0_101, .vadds 69 26 89 5),
    (0b1010000_1000101_0011010_00000001010, .rcp 69 26),
    (0b1010001_1000101_0011010_00000001010, .rsq 69 26),
    (0b1010010_1000101_0011010_1011001_1010, .rcpnr 69 26 89),
    (0b1010011_1000101_0011010_1011001_1010, .rsqnr 69 26 89),
    (0b1010100_1000101_0011010_00000001010, .exp2 69 26),
    (0b1010101_1000101_0011010_00000001010, .log2 69 26),
    (0b1011000_1000101_0011010_10110_01101_0, .cvt 69 26 22 13),
    (0b1011001_1000101_0011010_10110_01101_0, .cvtsr 69 26 22 13),
    (0b1011010_1000101_0011010_10110_01101_0, .pack 69 26 22 13),
    (0b1011011_1000101_0011010_10110_01101_0, .unpack 69 26 22 13),
    (0b1011100_1000101_0011010_1011001_0101, .rng 69 26 89)] = true := by decide

theorem test_words_matrices : readsA [
    (0b1100000_10110_101_1000101_0011010_011, .mma 22 5 69 26 3),
    (0b1100001_0000_101_1000101_00000000000, .aclr 5 69),
    (0b1100010_1000101_0000_101_0011010_0_011, .arnd 69 5 26 3),
    (0b1100011_0000_101_0000_011_00000000000, .amov 5 3),
    (0b1100011_1000101_0000_101_00000000001, .amovSt 69 5),
    (0b1100011_1000101_0000_101_0011010_0010, .amovRaw 69 5 26),
    (0b1100100_0000_101_0000_011_00000000000, .aadd 5 3)] = true := by decide

/-! ## Single steps -/

/-- R128: 5 - 7 on s64 wraps; 2^31 - 1 + 1 on s32 is sign-extended, on n32 zero-extended; bits 127:64 are cleared. -/
theorem test_add_sub : reg 9 (exec (.sub 9 3 4 2) (small (regs [(3, 5), (4, 7)]))) = 2 ^ 64 - 2 ∧
    reg 9 (exec (.add 9 3 4 0) (small (regs [(3, 2 ^ 31 - 1), (4, 2 ^ 100 + 1)]))) = 2 ^ 64 - 2 ^ 31 ∧
    reg 9 (exec (.add 9 3 4 1) (small (regs [(3, 2 ^ 31 - 1), (4, 1)]))) = 2 ^ 31 := by decide +kernel

/-- R128: the high half of -1 × -1 is 0 signed and 2^64 - 2 unsigned. -/
theorem test_mulh : reg 9 (exec (.mulh 9 3 4 2) (small (regs [(3, 2 ^ 64 - 1), (4, 2 ^ 64 - 1)]))) = 0 ∧
    reg 9 (exec (.mulh 9 3 4 3) (small (regs [(3, 2 ^ 64 - 1), (4, 2 ^ 64 - 1)]))) = 2 ^ 64 - 2 := by decide +kernel

/-- R128: -7 / 2 is truncated to -3, with remainder -1; the most negative number divided by -1 wraps. -/
theorem test_div_rem : coming (exec (.div 9 3 4 2) (small (regs [(3, 2 ^ 64 - 7), (4, 2)]))) = [.value [wd (2 ^ 64 - 3)] none 0] ∧
    coming (exec (.rem 9 3 4 2) (small (regs [(3, 2 ^ 64 - 7), (4, 2)]))) = [.value [wd (2 ^ 64 - 1)] none 0] ∧
    coming (exec (.div 9 3 4 2) (small (regs [(3, 2 ^ 63), (4, 2 ^ 64 - 1)]))) = [.value [wd (2 ^ 63)] none 0] := by decide +kernel

/-- R129, R369: a zero divisor raises DIV0 (0x0D) with the b field. -/
theorem test_div_zero : trapped (exec (.div 9 3 4 2) (handled (small (regs [(3, 7)])))) = (0x0D, 4) := by decide +kernel

/-- R128: a shift uses its count modulo W; SAR keeps the sign. -/
theorem test_shifts : reg 9 (exec (.shl 9 3 4 0) (small (regs [(3, 1), (4, 33)]))) = 2 ∧
    reg 9 (exec (.sar 9 3 4 2) (small (regs [(3, 2 ^ 63), (4, 63)]))) = 2 ^ 64 - 1 := by decide +kernel

/-- R128: bits 11:4 of 0xABC, sign-extended and zero-extended; a source that is also the destination. -/
theorem test_bfx : reg 9 (exec (.bfx 9 3 4 2) (small (regs [(3, 0xABC), (4, 0x804)]))) = 2 ^ 64 - 0x55 ∧
    reg 3 (exec (.bfx 3 3 4 3) (small (regs [(3, 0xABC), (4, 0x804)]))) = 0xAB := by decide +kernel

/-- R130, R127: -1 is added; MOVI extends its literal's sign, MOVI.HI keeps the low half. -/
theorem test_immediates : reg 9 (exec (.addi 9 3 0x7FF) (small (regs [(3, 0)]))) = 2 ^ 64 - 1 ∧
    reg 9 (exec (.movi false 9 0x80000000) (small)) = 2 ^ 64 - 2 ^ 31 ∧
    reg 9 (exec (.moviHi false 9 0x12) (small (regs [(9, 2 ^ 80 + 0x34)]))) = 0x1200000034 := by decide +kernel

/-- R131: the spec's examples of PSET: 0xF1 is a tag, and bits 63:32 then read 0x7880_0000; 0x1E0 raises TAG (0x0B). -/
theorem test_pset : reg 8 (exec (.pset 8 2 3) (small (regs [(2, 0x10), (3, 0xF1)]))) / 2 ^ 32 = 0x78800000 ∧
    trapped (exec (.pset 8 2 3) (handled (small (regs [(2, 0x10), (3, 0x1E0)])))) = (0x0B, 0x1E0) := by decide +kernel

/-- R131: the address wraps into no tag. -/
theorem test_padd : reg 8 (exec (.padd 8 2 3) (small (regs [(2, 2 ^ 63 + 16), (3, 2 ^ 64 - 16)]))) = 2 ^ 63 ∧
    trapped (exec (.padd 8 2 3) (handled (small (regs [(2, 2 ^ 63 + 15), (3, 2 ^ 64 - 16)])))) = (0x0B, 2 ^ 63 + 15) := by
  decide +kernel

/-- R132 to R135: -1 < 0 signed, but not unsigned; a predicate is written whole. -/
theorem test_predicates : (thr (next (exec (.cmp 2 2 3 4 6) (small (regs [(3, 2 ^ 64 - 1)])))) 0).arch.pred 2 = 0xFFFF ∧
    (thr (next (exec (.cmp 2 2 3 4 7) (small (regs [(3, 2 ^ 64 - 1)])))) 0).arch.pred 2 = 0 ∧
    (thr (next (exec (.kop 1 4 0 0) (small))) 0).arch.pred 1 = 0 ∧
    reg 9 (exec (.sel 9 3 4 0) (small (regs [(3, 5), (4, 6)]))) = 5 := by decide +kernel

/-- R80 to R82: BR on k0 branches back three bundles; CALL links the next bundle in x1. -/
theorem test_control : (thr (next (exec (.br ⟨false, false⟩ 0 0xFFFFD) (small (fun t => { t with arch := { t.arch with pc := 64 } })))) 0).arch.pc = 40 ∧
    (thr (next (exec (.brn ⟨false, false⟩ 0 0xFFFFD) (small (fun t => { t with arch := { t.arch with pc := 64 } })))) 0).arch.pc = 72 ∧
    reg 1 (exec (.call ⟨false, false⟩ 5) (small (fun t => { t with arch := { t.arch with pc := 64 } }))) = 72 := by decide +kernel

/-- R85, R369: TRAP raises SOFT (0x16) with its immediate, and TRAPPC names the next bundle. -/
theorem test_trap : trapped (exec (.trap ⟨false, false⟩ 7) (handled (small))) = (0x16, 7) ∧
    (thr (next (exec (.trap ⟨false, false⟩ 7) (handled (small)))) 0).trappc = 8 ∧
    (thr (next (exec (.trap ⟨false, false⟩ 7) (handled (small)))) 0).arch.priv = .handler := by decide +kernel

/-- R78: ERET at user privilege raises PRIV (0x12); at handler privilege it returns to TRAPPC at user privilege. -/
theorem test_eret : (trapped (exec (.eret ⟨false, false⟩) (handled (small)))).1 = 0x12 ∧
    (thr (next (exec (.eret ⟨false, false⟩) (handled (small (fun t => { t with st := .trapped, trappc := 72, arch := { t.arch with priv := .handler } }))))) 0).arch.pc = 72 ∧
    (thr (next (exec (.eret ⟨false, false⟩) (handled (small (fun t => { t with st := .trapped, trappc := 72, arch := { t.arch with priv := .handler } }))))) 0).arch.priv = .user := by decide +kernel

/-- R87: CSR 0x022 can be read at user privilege, and writing it raises PRIV. -/
theorem test_csr : reg 5 (exec (.csrr ⟨false, false⟩ 5 0x022) (small (fun t => { t with trapcode := 0x16 }))) = 0x16 ∧
    (trapped (exec (.csrw ⟨false, false⟩ 5 0x022) (handled (small)))).1 = 0x12 := by decide +kernel

/-- The TCM of slot 0 holds 0x80 at byte 5. -/
def tcm (s : State) : State := { (onKernel 1 (fun k => { k with lrec := { k.lrec with tcm := 64 } })).apply s with mem := [(2 ^ 45 + 5, 0x80)] }

/-- R152: s8 extends the sign, n8 does not; R137: the first byte beyond the TCM raises NEAR-RANGE (0x08). -/
theorem test_near_load : reg 9 (exec (.ldN false 9 3 0 5) (tcm (small))) = 2 ^ 64 - 128 ∧
    reg 9 (exec (.ldN false 9 3 1 5) (tcm (small))) = 128 ∧
    trapped (exec (.ldN false 9 3 1 0) (handled (tcm (small (regs [(3, 64)]))))) = (0x08, 64) := by decide +kernel

/-- R153: the low two bytes of X[v] are stored, the lower byte at the lower address (R4). -/
theorem test_near_store : (next (exec (.stN false 9 3 2 1) (tcm (small (regs [(9, 0x12345678)]))))).mem =
    [(2 ^ 45 + 2, 0x78), (2 ^ 45 + 3, 0x56), (2 ^ 45 + 5, 0x80)] := by decide +kernel

/-- R35: the spec's example, f32 1.6 into t8: 0x45 under RNE, RUP and RNA, 0x44 under RTZ and RDN; NX is set. -/
theorem test_cvt_taper : [0, 1, 2, 3, 4].map (fun m => reg 9 (exec (.cvt 9 3 15 11)
      (small (fun t => regs [(3, 0x3FCCCCCD)] { t with arch := { t.arch with round := m } })))) = [0x45, 0x44, 0x44, 0x45, 0x45] ∧
    (thr (next (exec (.cvt 9 3 15 11) (small (regs [(3, 0x3FCCCCCD)])))) 0).arch.fxflags = 1 := by decide +kernel

/-- R36: the spec's example, 1.5625 into t8 rounds up for a word of 2^31 or more. -/
theorem test_cvtsr : reg 9 (exec (.cvtsr 9 3 15 11) (small (regs [(3, 0x3FC80000), (4, 0x80000000)]))) = 0x45 ∧
    reg 9 (exec (.cvtsr 9 3 15 11) (small (regs [(3, 0x3FC80000), (4, 0x7FFFFFFF)]))) = 0x44 := by decide +kernel

/-- R23: patterns of the spec's table of t8: 1.625, 2^-2, 2^18, -1.0 and NaR, as f32. -/
theorem test_taper_values : [0x45, 0x30, 0x7D, 0xC0, 0x80].map (fun p => reg 9 (exec (.cvt 9 3 11 15) (small (regs [(3, p)])))) =
    [0x3FD00000, 0x3E800000, 0x48800000, 0xBF800000, 0x7FC00000] := by decide +kernel

/-- R165, R32: 1.5 + 2.25 in f32 is 3.75, exactly; 255 + 1 in n8 lanes wraps without reaching the next lane. -/
theorem test_vadd : reg 9 (exec (.vadd 9 3 4 10) (small (regs [(3, 0x3FC00000), (4, 0x40100000)]))) = 0x40700000 ∧
    reg 9 (exec (.vadd 9 3 4 1) (small (regs [(3, 0x01FF), (4, 0x0001)]))) = 0x0100 := by decide +kernel

/-- R173: VADDS saturates s8 at 127 and at -128. -/
theorem test_vadds : reg 9 (exec (.vadds 9 3 4 0) (small (regs [(3, 0x807F), (4, 0xFF01)]))) = 0x807F := by decide +kernel

/-- R175, R176, R177: the spec's examples of RCP, RSQ and RCPNR in lane 0. -/
theorem test_special_functions :
    (rcpLane false 0x40400000).1 = 0x3EAAAAAA ∧ (rsqLane false 0x40800000).1 = 0x3F000000 ∧
    (newtonLane false 0 0x40400000 0x3EAAAAAA).1 = 0x3EAAAAAB := by decide +kernel

/-- R183: the spec's table of RNG for a zero key and counter. -/
theorem test_rng : coming (exec (.rng 9 3 4) (small)) = [.value [0x369C7C83D488EEEAB630E6E70B11F0D4] none 0] := by decide +kernel

/-- R115, R116: a void register above the new limit is dropped with its group of eight. -/
theorem test_drop : (thr (next (exec (.rxdrop ⟨false, false⟩ 103) (small (fun t => { t with arch :=
    { t.arch with tags := (upto 104 8).map (fun r => (r, .void)) } })))) 0).arch.t = 104 := by decide +kernel

/-- R89: a set latch is cleared; a clear one puts the thread to sleep and moves no PC. -/
theorem test_latch : (thr (next (exec (.evWait ⟨false, false⟩) (small (fun t => { t with latch := true })))) 0).latch = false ∧
    (thr (next (exec (.evWait ⟨false, false⟩) (small))) 0).st = .sleeping ∧
    (thr (next (exec (.evWait ⟨false, false⟩) (small))) 0).arch.pc = 0 := by decide +kernel

/-- R187: the spec's LATHE.OPEN captures two words for the count in x9. -/
theorem test_lathe_open : let l := (thr (next (exec (.latheOpen ⟨false, false⟩ 20 9 0 1) (small (regs [(9, 5)])))) 0).arch.lathe
    (l.st, l.n, l.count) = (.capturing, 2, 5) := by decide +kernel

/-- R44, R60: the first step after a word is placed runs it; a reserved word raises ILLEGAL (0x01) and, without a handler,
contains the slot (R230). -/
theorem test_first_step : reg 9 (step (State.reset.withFetchWord 32 0x30240005)) = 5 ∧
    (thr (next (step (State.reset.withFetchWord 32 0x3F000000))) 0).st = .quarantined ∧
    (next (step State.reset)).o.mod.st = .verify := by decide +kernel

/-- R253's table: the second claim of a counter of 10 by 10 iterations and four takers. -/
theorem test_claim : claimRegs (newClaim 2 { opened := true, e0 := 10, e1 := 10, p := 4, remaining := 87, next := 13 }) =
    [3, 1, 11] := by decide +kernel

/-! ## States that meet the hypotheses of the statements

Every statement with hypotheses has a theorem here that gives, for its clauses, a state and operands that meet them. -/

/-- What `Clear` asks, as a value. -/
def clearB (s : State) : Bool :=
  occupied s s.cur && ((me s).st == .ready || (me s).st == .trapped) && (me s).pend == [] && (me s).arch.lathe.st == .idle &&
  (me s).arch.lathe.set == [] && (me s).raised == 0 && (me s).partner == none && decide ((me s).chunk.bundles < 511) &&
  decide ((me s).chunk.nst < 31)

theorem clear_of {s : State} (h : clearB s = true) : Clear s := by
  simp only [clearB, Bool.and_eq_true, Bool.or_eq_true, beq_iff_eq, decide_eq_true_eq] at h
  obtain ⟨⟨⟨⟨⟨⟨⟨⟨a, b⟩, c⟩, d⟩, e⟩, f⟩, g⟩, h⟩, i⟩ := h
  exact ⟨a, b, c, d, e, f, g, h, i⟩

/-- A clear state whose fields ds may be written and as read. -/
def Ready (s : State) (ds as : List Nat) : Prop := Clear s ∧ (∀ d ∈ ds, Dest s d) ∧ ∀ a ∈ as, Plain s a

/-- What `Plain` asks. -/
def plainB (s : State) (f : Nat) : Bool :=
  (me s).arch.strm f == none && (f == 0 || decide (112 ≤ f) || decide (f < (me s).arch.t) && decide (f < (me s).limit))

theorem plain_of {s : State} {f : Nat} (h : plainB s f = true) : Plain s f := by
  simp only [plainB, Bool.and_eq_true, Bool.or_eq_true, beq_iff_eq, decide_eq_true_eq] at h
  obtain ⟨a, b⟩ := h
  exact ⟨a, or_assoc.mp b⟩

/-- What `Ready` asks. -/
def readyB (s : State) (ds as : List Nat) : Bool :=
  clearB s && ds.all (fun f => plainB s f && (decide (f < 112) || !determ s s.cur || (me s).arch.priv != .user)) && as.all (plainB s)

theorem ready_of {s : State} {ds as : List Nat} (h : readyB s ds as = true) : Ready s ds as := by
  simp only [readyB, Bool.and_eq_true, List.all_eq_true, Bool.or_eq_true, decide_eq_true_eq, Bool.not_eq_true', bne_iff_ne] at h
  obtain ⟨⟨c, d⟩, a⟩ := h
  refine ⟨clear_of c, fun f hf => ⟨plain_of (d f hf).1, ?_⟩, fun f hf => plain_of (a f hf)⟩
  exact or_assoc.mp (d f hf).2

/-- What `Deliverable` asks. -/
def deliverB (s : State) : Bool :=
  let c := (me s).chunk
  clearB s && c.st == .opened && c.spawns == [] && c.tstamp == none && c.nests == [] && c.bar == none && c.gloop == none && c.l2p == [] &&
  c.landed == [] && c.resvd == false && nested s s.cur == false

theorem deliver_of {s : State} (h : deliverB s = true) : Deliverable s := by
  simp only [deliverB, Bool.and_eq_true, beq_iff_eq] at h
  obtain ⟨⟨⟨⟨⟨⟨⟨⟨⟨⟨a, b⟩, c⟩, d⟩, e⟩, f⟩, g⟩, h⟩, i⟩, j⟩, k⟩ := h
  exact ⟨clear_of a, ⟨b, c, d, e, f, g, h, i, j⟩, k⟩

theorem point_of {s : State} (h : (deliverB s && roomToCreate s s.cur .nothing) = true) : AtPoint s := by
  rw [Bool.and_eq_true] at h
  exact ⟨(deliver_of h.1).clear, (deliver_of h.1).blank.opened, h.2⟩

theorem window_of {s : State} {f : Nat} (h : (plainB s f && f != 0 && decide (f < 112)) = true) : InWindow s f := by
  simp only [Bool.and_eq_true, bne_iff_ne, decide_eq_true_eq] at h
  exact ⟨plain_of h.1.1, h.1.2, h.2⟩

theorem ok_of {α β : Type} {e : Except α β} {x : β} (h : e.toOption = some x) : e = .ok x := by
  cases e with
  | error => exact nomatch h
  | ok y => exact congrArg _ (Option.some.inj h)

/-- The error of a result. -/
def errorOf {α β : Type} : Except α β → Option α
  | .error a => some a
  | .ok _ => none

theorem error_of {α β : Type} {e : Except α β} {a : α} (h : errorOf e = some a) : e = .error a := by
  cases e with
  | error b => exact congrArg _ (Option.some.inj h)
  | ok => exact nomatch h

/-- What a translation gives, as plain options. -/
def xlat : Xlat → Option (Nat × BitVec 128) × Option Trap × Option (Nat × Acc)
  | .hit l e => (some (l, e), none, none)
  | .trap t => (none, some t, none)
  | .miss v a => (none, none, some (v, a))

theorem hit_of {x : Xlat} {l : Nat} {e : BitVec 128} (h : (xlat x).1 = some (l, e)) : x = .hit l e := by
  cases x <;> simp_all [xlat]

theorem trap_of {x : Xlat} {t : Trap} (h : (xlat x).2.1 = some t) : x = .trap t := by
  cases x <;> simp_all [xlat]

theorem miss_of {x : Xlat} {v : Nat} {a : Acc} (h : (xlat x).2.2 = some (v, a)) : x = .miss v a := by
  cases x <;> simp_all [xlat]

/-- The launch record of the states below. -/
def record : LRec :=
  { text := 2 ^ 18, textlen := 64, handler := some 0, groups := 2, threads := 1, anvils := 4, tcm := 4096, scratch := 65536, qbar := 2, dbar := 1, ordch := 1,
    recipes := 1, gang := true }

/-- A context whose partition is the first quads of die 0. -/
def config (cid : Nat) : CtxCfg :=
  { cid := cid, partDies := 1, partQuads := 0x00000C0C, isolated := false, twin := false, pinned := 0, windows := [(0, 65536)], queues := [(3, 1)],
    command := 0, hosts := [0], keys := [], quantum := 1000, saveBase := 0, saveLen := 0, mirrorSave := false, tracePoison := false, syncMirror := false }

/-- A page of context 1 at address 0, for every access, in the HBM of die 0. -/
def page : BitVec 128 := BitVec.ofNat 128 (1 + 2 ^ 104 + 2 ^ 105 + 2 ^ 106 + 2 ^ 107 + 2 ^ 108 + 2 ^ 116)

/-- That page in the context's tables. -/
def walked : PageCfg :=
  { map := true, va := 0, size := 0, die := 0, hbm := true, pa := 0, r := true, w := true, x := true, append := true, mirror := false, grain := 0 }

/-- A page at 64 KiB that may only be read. -/
def readOnly : BitVec 128 := BitVec.ofNat 128 (1 + 2 ^ 16 + 2 ^ 104 + 2 ^ 105 + 2 ^ 116)

/-- The page at 2^18 that holds the launch's text. -/
def textPage : BitVec 128 := BitVec.ofNat 128 (1 + 2 ^ 18 + 2 ^ 66 + 2 ^ 104 + 2 ^ 105 + 2 ^ 107 + 2 ^ 116)

/-- A running launch: task 1 of kernel 1 in slot 0, its group on quad 0 and another on quad 1. -/
def rich (f : Thread → Thread := id) (g : State → State := id) : State :=
  let t : Thread := { task := 1, kernel := 1, limit := 112, cur := 112, arch := { t := 112, pc := 2 ^ 18 }, start := { t := 112, pc := 2 ^ 18 } }
  let groups : Tab Group := [(0, { quad := 0, base := 0, cores := [0] }), (1, { quad := 1, base := 0, cores := [4] })]
  let k : Kernel := { lrec := record, st := .running, ctx := 1, queue := 3, left := 2, l2p := [0], recipes := [[]], groups := groups }
  let x : Task := { kernel := 1, w := 0, g := 0, t := 0, ts := 0, st := .running, slot := some 0 }
  let o : Objs := { slots := [(0, f t)], cores := [(0, { tlb := [(0, page), (1, readOnly), (2, textPage)], live := true })], kernels := [(1, k)],
                    tasks := [(1, x)], ctxs := [(1, { cfg := config 1, l2p := [0], pages := [(0, walked)] })], queues := [(3, { cid := 1, cls := 1 })],
                    dies := Vector.replicate 4 { harvest := BitVec.allOnes 576 }, mod := { st := .ready } }
  g { now := 1000, fresh := 100, agenda := [(1000, .turn 0)], o := o }

/-- The task of slot 0 changes. -/
def task1 (f : Task → Task) (s : State) : State := (onTask 1 f).apply s
/-- The record of kernel 1 changes. -/
def rec1 (f : LRec → LRec) (s : State) : State := (onKernel 1 (fun k => { k with lrec := f k.lrec })).apply s
/-- Kernel 1 changes. -/
def kern1 (f : Kernel → Kernel) (s : State) : State := (onKernel 1 f).apply s
/-- The objects change. -/
def objs (f : Objs → Objs) (s : State) : State := { s with o := f s.o }

open Sys2Proof.Says

theorem test_meets_scalar : Ready (rich) [9, 0, 112] [3, 111, 127] ∧ ¬ isZero 0 (rd (rich (regs [(4, 1)])) 0 4) ∧
    Deliverable (rich) ∧ (∀ t : BitVec 2, isZero t (rd (rich) 0 4)) :=
  ⟨ready_of (by decide +kernel), by unfold isZero; decide +kernel, deliver_of (by decide +kernel),
    by unfold isZero; decide +kernel⟩

theorem test_meets_immediate : Ready (rich) [9] [3] ∧ Deliverable (rich) ∧ (63 : BitVec 11).toNat ≤ 63 ∧
    63 < (64 : BitVec 11).toNat :=
  ⟨ready_of (by decide +kernel), deliver_of (by decide +kernel), by decide +kernel⟩

/-- The greatest address with a difference of 0, 1 and -1, the least with -1; the greatest tag, a tag of no format with a block
length, and no tag. -/
def pointers : State := rich (regs [(3, 2 ^ 55 - 1), (4, 1), (5, 2 ^ 64 - 1), (6, 19 * 16 + 15), (7, 2), (8, 20 * 16)])

theorem test_meets_pointer : Ready pointers [9] [0, 3, 4, 5, 6, 7, 8] ∧ Deliverable pointers ∧
    (((rd64 pointers 0 3).setWidth 55).toNat : Int) + (rd64 pointers 0 0).toInt = 2 ^ 55 - 1 ∧
    (((rd64 pointers 0 3).setWidth 55).toNat : Int) + (rd64 pointers 0 4).toInt = 2 ^ 55 ∧
    (((rd64 pointers 0 0).setWidth 55).toNat : Int) + (rd64 pointers 0 5).toInt = -1 ∧ bits (rd64 pointers 0 6) 8 4 = 19 ∧
    bits (rd64 pointers 0 7) 8 4 = 0 ∧ bits (rd64 pointers 0 7) 3 1 = 1 ∧ bits (rd64 pointers 0 8) 8 4 = 20 :=
  ⟨ready_of (by decide +kernel), deliver_of (by decide +kernel), by decide +kernel⟩

theorem test_meets_predicate : Ready (rich) [9, 0, 112] [3, 127] ∧ (Instr.kop 1 0 2 3).wf = true ∧
    (Instr.kop 1 4 2 0).wf = true ∧ (Instr.kop 1 7 0 0).wf = true :=
  ⟨ready_of (by decide +kernel), by decide +kernel⟩

theorem test_meets_control : Ready (rich (regs [(3, 64), (4, 65)])) [] [1, 3, 4] ∧
    Deliverable (rich (regs [(3, 64), (4, 65)])) ∧ (rd64 (rich (regs [(3, 64), (4, 65)])) 0 3).toNat % 8 = 0 ∧
    (rd64 (rich (regs [(3, 64), (4, 65)])) 0 4).toNat % 8 ≠ 0 :=
  ⟨ready_of (by decide +kernel), deliver_of (by decide +kernel), by decide +kernel⟩

/-- Slot 0 in its handler. -/
def handling (f : Thread → Thread := id) : State :=
  rich (fun t => f { t with st := .trapped, back := .trapped, arch := { t.arch with priv := .handler } })

/-- A carry loop of task 7 with no carried register but one, x16. -/
def loop7 : Loop :=
  { req := { d := 5, b := 16, nc := 0, wid := 4, goff := 8, body := 8, n := 10, regions := [] }, tau := 0, kernel := 1, iters := [(2, (1, []))] }

/-- Slot 0 runs iteration 2 of that loop. -/
def iterating (f : Thread → Thread := id) : State :=
  rich f (objs (fun o => { o with loops := [(7, loop7)] }) ∘ task1 (fun t => { t with kind := .iteration 7 2 }))

/-- An iteration that has recorded its carry. -/
def carrying : State := iterating (fun t => { t with arch := { t.arch with carry := some ([0], .eq) } })

/-- Slot 0 runs the loop's owner. -/
def owning (st : LoopSt := .running) : State := rich id (objs (fun o => { o with loops := [(1, { loop7 with st := st, final := [5] })] }))

theorem test_meets_trap_exit_yield : Deliverable (rich) ∧ Clear (handling) ∧ Clear (rich) ∧ Clear (carrying) ∧
    Deliverable (owning) ∧ Deliverable (iterating) ∧ mayEret (me (handling)) = true ∧ mayEret (me (rich)) = false ∧
    loopOpen (rich) 0 = false ∧ iterOf (rich) 0 = none ∧ loopOpen (carrying) 0 = false ∧
    (me carrying).arch.carry.isSome = true ∧ loopOpen (owning) 0 = true ∧ (iterOf (iterating) 0).isSome = true ∧
    (me (iterating)).arch.carry = none ∧ (me (rich)).arch.priv ≠ .handler :=
  ⟨deliver_of (by decide +kernel), clear_of (by decide +kernel), clear_of (by decide +kernel), clear_of (by decide +kernel),
    deliver_of (by decide +kernel), deliver_of (by decide +kernel), by decide +kernel⟩

/-- A DETERM launch. -/
def deterministic (f : Thread → Thread := id) : State := rich f (rec1 (fun r => { r with determ := true }))

/-- Values for CSRs: 31 and 32 for FXFLAGS, 8 for TRAPVEC, a core of the partition and one outside for L2PDATA. -/
def csrs : State := rich (regs [(3, 31), (4, 32), (5, 8), (6, 64), (7, 63)])

theorem test_meets_csr : Ready csrs [9] [3, 4, 5, 6, 7] ∧ Deliverable csrs ∧ Clear (deterministic) ∧
    Deliverable (deterministic) ∧ Clear (handling) ∧ determ (deterministic) 0 = true ∧ csrKnown 0x022 = true ∧
    csrKnown 0x3FF = false ∧ csrWritable 0x030 = true ∧ csrBad 0x030 (rd64 csrs 0 3) = false ∧
    csrBad 0x030 (rd64 csrs 0 4) = true ∧ csrHandler 0x030 = false ∧ csrHandler 0x020 = true ∧
    csrBad 0x020 (rd64 csrs 0 5) = false ∧ (me csrs).arch.priv = .user ∧ (me (handling)).arch.priv ≠ .user ∧
    csrWritable 0x100 = false ∧ l2pOk csrs 0 (rd64 csrs 0 6) = true ∧ l2pOk csrs 0 (rd64 csrs 0 7) = false :=
  ⟨ready_of (by decide +kernel), deliver_of (by decide +kernel), clear_of (by decide +kernel),
    deliver_of (by decide +kernel), clear_of (by decide +kernel), by decide +kernel⟩

/-- Near addresses: the last aligned word of the TCM, an odd one, the first beyond it, the own region, the same region by its
remote window, a region on quad 1, and an address with bit 32. -/
def nears (f : Thread → Thread := id) : State :=
  rich (fun t => f (regs [(3, 4088), (4, 4095), (5, 4096), (6, 0x100010), (7, 0x80000010), (8, 0x80100010), (10, 2 ^ 32)] t))

theorem test_meets_near_load : Ready (nears) [9, 127] [3, 4, 5, 6, 7, 8] ∧ Deliverable (nears) ∧
    nearOperand (nears) 0 (rd64 (nears) 0 3) 0 = .ok (4088, ⟨2 ^ 45 + 4088, false⟩) ∧
    nearOperand (nears) 0 (rd64 (nears) 0 4) (-8) = .ok (4087, ⟨2 ^ 45 + 4087, false⟩) ∧
    nearOperand (nears) 0 (rd64 (nears) 0 6) 0 = .ok (0x100010, ⟨2 ^ 44 + 16, false⟩) ∧
    nearOperand (nears) 0 (rd64 (nears) 0 8) 0 = .ok (0x80100010, ⟨2 ^ 44 + 2 ^ 20 + 16, true⟩) ∧ 4088 % 8 = 0 ∧
    4087 % 8 ≠ 0 ∧ raceTrap (nears) 0 (2 ^ 44 + 16) 0x100010 16 false = none ∧
    raceTrap (nears) 0 (2 ^ 44 + 2 ^ 20 + 16) 0x80100010 8 false = none ∧ nearPoison (nears) (2 ^ 44 + 16) 16 = none :=
  ⟨ready_of (by decide +kernel), deliver_of (by decide +kernel), ok_of (by decide +kernel), ok_of (by decide +kernel),
    ok_of (by decide +kernel), ok_of (by decide +kernel), by decide +kernel⟩

theorem test_meets_near_store : AtPoint (nears) ∧ Ready (nears) [9] [3, 5, 10] ∧ Deliverable (nears) ∧ AtPoint (iterating) ∧
    nearOperand (nears) 0 (rd64 (nears) 0 5) 0 = .error (nTrap .nearRange 4096) ∧
    nearOperand (nears) 0 (rd64 (nears) 0 0) (-1) = .error ⟨.nearRange, -1⟩ ∧
    nearOperand (nears) 0 (rd64 (nears) 0 10) 0 = .error ⟨.nearRange, 2 ^ 32⟩ ∧ speculative (nears) 0 = false ∧
    speculative (iterating) 0 = true ∧ locScratch (2 ^ 45 + 4088) = false ∧
    raceTrap (nears) 0 (2 ^ 45 + 4088) 4088 8 true = none :=
  ⟨point_of (by decide +kernel), ready_of (by decide +kernel), deliver_of (by decide +kernel), point_of (by decide +kernel),
    error_of (by decide +kernel), error_of (by decide +kernel), error_of (by decide +kernel), by decide +kernel⟩

/-- Global addresses: the last aligned word of the page that allows all, an odd one, the read-only page, an unmapped one, and the
last of the 55 bits. -/
def globals (f : Thread → Thread := id) : State :=
  rich (fun t => f (regs [(3, 65528), (4, 65527), (5, 65536), (6, 131072), (7, 2 ^ 55 - 1)] t))

theorem test_meets_global_load : Ready (globals) [9] [3, 4, 5, 6, 7] ∧ Deliverable (globals) ∧
    globalOperand (rd64 (globals) 0 3) 0 = .ok 65528 ∧ Machine.translate (globals) 0 65528 .read = .hit 65528 page ∧
    globalOperand (rd64 (globals) 0 4) 0 = .ok 65527 ∧ Machine.translate (globals) 0 65527 .read = .hit 65527 page ∧
    globalOperand (rd64 (globals) 0 7) 1 = .error ⟨.page, 2 ^ 55⟩ ∧
    globalOperand (rd64 (globals) 0 0) (-1) = .error ⟨.page, -1⟩ ∧ globalOperand (rd64 (globals) 0 6) 0 = .ok 131072 ∧
    Machine.translate (globals) 0 131072 .read = .miss 131072 .read ∧
    Machine.translate (globals) 0 65536 .write = .trap (nTrap .perm 65536) ∧
    Clear (rich id (objs (fun o => { o with cores := [(0, { tlb := [(0, page - 2 ^ 105)] })] }))) ∧
    Machine.translate (rich id (objs (fun o => { o with cores := [(0, { tlb := [(0, page - 2 ^ 105)] })] }))) 0 8 .read = .trap (nTrap .perm 8) ∧
    regionLoadTrap 65528 (relOf (globals) 0 65528) = none ∧ regionWait (globals) 65528 (relOf (globals) 0 65528) = none ∧
    tracks (globals) 0 (relOf (globals) 0 65528) = true ∧ reducedHere (me (globals)).chunk 65528 8 = false ∧ 65527 % 8 ≠ 0 :=
  ⟨ready_of (by decide +kernel), deliver_of (by decide +kernel), ok_of (by decide +kernel), hit_of (by decide +kernel),
    ok_of (by decide +kernel), hit_of (by decide +kernel), error_of (by decide +kernel), error_of (by decide +kernel),
    ok_of (by decide +kernel), miss_of (by decide +kernel), trap_of (by decide +kernel), clear_of (by decide +kernel),
    trap_of (by decide +kernel), by decide +kernel⟩

/-- An iteration whose loop's append region stands at 512, with records of 64 bytes: its own is the third. -/
def appending : State := rich (regs [(3, 512 + 128)])
  (objs (fun o => { o with loops := [(7, { loop7 with req := { loop7.req with regions := [(512, 64, 10)] } })] }) ∘
    task1 (fun t => { t with kind := .iteration 7 2 }))

theorem test_meets_global_store : Ready (globals) [] [3, 4, 5, 6, 9] ∧ Deliverable (globals) ∧
    Machine.translate (globals) 0 65528 .write = .hit 65528 page ∧
    Machine.translate (globals) 0 65536 .write = .trap (nTrap .perm 65536) ∧
    Machine.translate (globals) 0 131072 .write = .miss 131072 .write ∧ Ready appending [] [3, 9] ∧
    globalOperand (rd64 appending 0 3) 0 = .ok 640 ∧ Machine.translate appending 0 640 .append = .hit 640 page ∧
    guessing (globals) 0 = false ∧ relOf (globals) 0 65528 = .outside ∧ regionStoreTrap (globals) 0 65528 .outside = none ∧
    guessing appending 0 = false ∧ relOf appending 0 640 = .mine ∧ loopRegion (globals) 0 65528 = none ∧
    kvRegion (globals) 0 65528 = none ∧ (5 : BitVec 3).toNat ≤ 5 ∧
    tlbFind (Machine.core (rich id (rec1 (fun r => { r with text := 0 }))) 0) 1 8 = some page ∧
    storesText (rich id (rec1 (fun r => { r with text := 0 }))) 0 page .write = true ∧
    storesText (rich) 0 page .write = false :=
  ⟨ready_of (by decide +kernel), deliver_of (by decide +kernel), hit_of (by decide +kernel), trap_of (by decide +kernel),
    miss_of (by decide +kernel), ready_of (by decide +kernel), ok_of (by decide +kernel), hit_of (by decide +kernel),
    by decide +kernel⟩

theorem test_meets_ldtr : Ready (nears) [] [6, 8] ∧ (∀ i < 8, InWindow (nears) (16 + i)) ∧
    nearOperand (nears) 0 (rd64 (nears) 0 6) (16 * (1 : BitVec 7).toInt) = .ok (0x100020, ⟨2 ^ 44 + 32, false⟩) ∧
    nearOperand (nears) 0 (rd64 (nears) 0 8) 0 = .ok (0x80100010, ⟨2 ^ 44 + 2 ^ 20 + 16, true⟩) ∧
    nearAt (nears) 0 (0x100020 + 127) = some ⟨2 ^ 44 + 32 + 127, false⟩ ∧ 0x100020 % 16 = 0 ∧
    raceTrap (nears) 0 (2 ^ 44 + 32) 0x100020 128 false = none ∧ nearPoison (nears) (2 ^ 44 + 32) 128 = none ∧
    nearAt (nears) 0 (0x80100010 + 127) = some ⟨2 ^ 44 + 2 ^ 20 + 16 + 127, true⟩ :=
  ⟨ready_of (by decide +kernel), fun i hi => window_of (by revert i; decide +kernel), ok_of (by decide +kernel),
    ok_of (by decide +kernel), by decide +kernel⟩

theorem test_meets_atomic : AtPoint (nears) ∧ Ready (nears) [9] [6, 8, 3] ∧
    nearOperand (nears) 0 (rd64 (nears) 0 6) 0 = .ok (0x100010, ⟨2 ^ 44 + 16, false⟩) ∧
    nearOperand (nears) 0 (rd64 (nears) 0 8) 0 = .ok (0x80100010, ⟨2 ^ 44 + 2 ^ 20 + 16, true⟩) ∧ AtPoint (globals) ∧
    globalOperand (rd64 (globals) 0 3) 0 = .ok 65528 ∧ Machine.translate (globals) 0 65528 .atomic = .hit 65528 page ∧
    speculative (nears) 0 = false ∧ determ (nears) 0 = false ∧ nearPoison (nears) (2 ^ 44 + 16) 8 = none ∧
    (6 : BitVec 3).toNat ≤ 6 ∧ determ (globals) 0 = false :=
  ⟨point_of (by decide +kernel), ready_of (by decide +kernel), ok_of (by decide +kernel), ok_of (by decide +kernel),
    point_of (by decide +kernel), ok_of (by decide +kernel), hit_of (by decide +kernel), by decide +kernel⟩

/-- The word at offset 16 of quad 0's region is full. -/
def fullWord : State := rich (regs [(6, 0x100010)]) (objs (fun o => { o with quads := [(0, { full := [16] })] }))

theorem test_meets_full_empty : AtPoint (nears) ∧ Ready (nears) [9] [6, 8, 3] ∧
    wordOperand (nears) 0 (rd64 (nears) 0 6) = .ok (0x100010, ⟨2 ^ 44 + 16, false⟩) ∧
    wordOperand (nears) 0 (rd64 (nears) 0 8) = .ok (0x80100010, ⟨2 ^ 44 + 2 ^ 20 + 16, true⟩) ∧ AtPoint fullWord ∧
    Ready fullWord [9] [6, 3] ∧ wordOperand fullWord 0 (rd64 fullWord 0 6) = .ok (0x100010, ⟨2 ^ 44 + 16, false⟩) ∧
    (me (nears)).grant = none ∧ isFull (nears) (2 ^ 44 + 16) = false ∧ nearPoison (nears) (2 ^ 44 + 16) 8 = none ∧
    isFull fullWord (2 ^ 44 + 16) = true ∧ speculative fullWord 0 = false :=
  ⟨point_of (by decide +kernel), ready_of (by decide +kernel), ok_of (by decide +kernel), ok_of (by decide +kernel),
    point_of (by decide +kernel), ready_of (by decide +kernel), ok_of (by decide +kernel), by decide +kernel⟩

/-- Quad 0 holds a ring of two words at offset 16 of the region, with what a test says of it and of its full words. -/
def ring (full : List Nat) (e : Chan) : State :=
  rich (regs [(6, 0x100010), (7, 2)]) (objs (fun o => { o with quads := [(0, { full := full, chans := [(2 ^ 44 + 16, e)] })] }))

/-- Slot 0 is the writer and the reader of the ring. -/
def both : Chan := { n := 2, writer := some 1, reader := some 1, kernel := 1 }

/-- Does a channel word take effect? -/
def takesEffect : ChanAt → Bool
  | .done _ _ => true
  | _ => false

theorem done_of {r : ChanAt} (h : takesEffect r = true) : ∃ st x, r = .done st x := by
  cases r <;> simp_all [takesEffect]

theorem test_meets_channel : AtPoint (ring [] both) ∧ Ready (ring [] both) [9] [6, 7] ∧
    wordOperand (ring [] both) 0 (rd64 (ring [] both) 0 6) = .ok (0x100010, ⟨2 ^ 44 + 16, false⟩) ∧
    AtPoint (nears (regs [(7, 2)])) ∧
    (∃ st x, chanStep (nears (regs [(7, 2)])) (2 ^ 44 + 16) 0 1 1 (rd (nears (regs [(7, 2)])) 0 7) { loc := 2 ^ 44 + 16, kind := 0, slot := 0, req := none, value := 0, chan := none } = .done st x) ∧
    (∃ st x, chanStep (ring [] both) (2 ^ 44 + 16) 3 1 1 0 { loc := 2 ^ 44 + 16, kind := 3, slot := 0, req := none, value := 0, chan := none } = .done st x) ∧
    AtPoint (ring [16] both) ∧ Deliverable (ring [] { both with writer := some 9 }) ∧
    AtPoint (ring [] { both with wclose := true }) ∧ speculative (ring [] both) 0 = false ∧
    (me (ring [] both)).grant = none ∧ 0x100010 % 8 = 0 ∧
    chbindTrap (nears (regs [(7, 2)])) 0 (rd (nears (regs [(7, 2)])) 0 7) 0x100010 = none ∧
    tabGet (quad (ring [] both) 0).chans (2 ^ 44 + 16) = some both ∧ both.writer = some (me (ring [] both)).task ∧
    isFull (ring [] both) (2 ^ 44 + 16) = false ∧ isFull (ring [16] both) (2 ^ 44 + 16) = true ∧ both.wclose = false ∧
    both.rclose = false :=
  ⟨point_of (by decide +kernel), ready_of (by decide +kernel), ok_of (by decide +kernel), point_of (by decide +kernel),
    done_of (by decide +kernel), done_of (by decide +kernel), point_of (by decide +kernel), deliver_of (by decide +kernel),
    point_of (by decide +kernel), by decide +kernel⟩

/-- Barriers 0 and 16 of the launch with two participants; a token of the current phase, of another, and a late one; a count. -/
def barriers : State := rich (regs [(3, 0), (4, 1), (5, 2 ^ 16), (6, 256)])
  (kern1 (fun k => { k with dbars := [(16, { p := 2 })], groups := tabUpd k.groups 0 (fun g => { g with bars := [(0, { p := 2 })] }) }))

theorem test_meets_fence_barrier : Ready barriers [9] [3, 4, 5, 6] ∧ Deliverable barriers ∧ speculative barriers 0 = false ∧
    barDeclared barriers 0 0 = true ∧ barDeclared barriers 0 16 = true ∧ (barAt barriers 0 0).p = 2 ∧
    determ barriers 0 = false ∧ (rd64 barriers 0 6).toNat = 256 ∧ (me barriers).grant = none ∧
    (barAt barriers 0 0).phase ≠ bits (rd barriers 0 4) 15 0 ∧ (rd barriers 0 5).getLsbD 16 = true ∧
    (barAt barriers 0 0).phase = bits (rd barriers 0 3) 15 0 ∧ (rd barriers 0 3).getLsbD 16 = false ∧
    barDeclared barriers 0 2 = false ∧ barDeclared barriers 0 17 = false :=
  ⟨ready_of (by decide +kernel), deliver_of (by decide +kernel), by decide +kernel⟩

/-- Values for the latch words: a slot of quad 0, one outside the partition, a mailbox, and the same with a target. -/
def latched (b : Bool) : State :=
  rich (fun t => regs [(3, 64), (4, 65536), (5, 0x100010), (6, 0x100010 + 2 ^ 63 + 64 * 2 ^ 32), (7, 9)] { t with latch := b })

theorem test_meets_latch : AtPoint (latched true) ∧ Ready (latched true) [9] [0, 3, 4, 5, 6] ∧ AtPoint (latched false) ∧
    Ready (latched false) [9] [0, 3, 7] ∧ Deliverable (latched true) ∧ (me (latched true)).latch = true ∧
    (me (latched false)).latch = false ∧ determ (latched false) 0 = false ∧ (me (latched false)).grant = none ∧
    bits (rd (latched false) 0 0) 31 0 = 0 ∧ bits (rd (latched false) 0 7) 31 0 ≠ 0 ∧ guessing (latched true) 0 = false ∧
    speculative (latched true) 0 = false ∧ addrOutside (latched true) 0 (bits (rd64 (latched true) 0 3) 17 0) = false ∧
    addrOutside (latched true) 0 (bits (rd64 (latched true) 0 4) 17 0) = true ∧
    nearAt (latched true) 0 (bits (rd64 (latched true) 0 5) 31 0) = some ⟨2 ^ 44 + 16, false⟩ ∧
    (rd64 (latched true) 0 6).getLsbD 63 = true ∧ addrOutside (latched true) 0 (bits (rd64 (latched true) 0 6) 49 32) = false :=
  ⟨point_of (by decide +kernel), ready_of (by decide +kernel), point_of (by decide +kernel), ready_of (by decide +kernel),
    deliver_of (by decide +kernel), by decide +kernel⟩

/-- NEST's least and greatest extents and participants. -/
def nests : State := rich (regs [(3, 1), (4, 1), (5, 2 ^ 63 - 1), (6, 256)])

theorem test_meets_nest : Ready nests [] [3, 4, 5, 6] ∧ (∀ i < 4, InWindow nests (16 + i)) ∧ bits (rd64 nests 0 3) 20 0 = 1 ∧
    bits (rd64 nests 0 3) 62 42 = 0 ∧ (rd64 nests 0 4).toNat = 1 ∧ bits (rd64 nests 0 5) 41 21 ≠ 0 ∧
    (rd64 nests 0 5).getLsbD 63 = false ∧ (rd64 nests 0 6).toNat = 256 ∧ speculative nests 0 = false ∧
    (me nests).claims = [] ∧ (me nests).used = 0 :=
  ⟨ready_of (by decide +kernel), fun i hi => window_of (by revert i; decide +kernel), by decide +kernel⟩

/-- A window of t registers with void tags from 104 on. -/
def window (t cur : Nat) (tags : Tab RTag := (upto 104 8).map (fun r => (r, .void))) (g : State → State := id) : State :=
  rich (fun x => { x with cur := cur, arch := { x.arch with t := t, tags := tags } }) g

/-- The register file of core 0 is full. -/
def crowded (s : State) : State :=
  objs (fun o => { o with slots := o.slots ++ (upto 1 18).map (fun i => (i, { limit := 112, cur := 112, arch := { t := 112 } })) }) s

theorem test_meets_window : Ready (rich) [9] [] ∧ InWindow (rich) 103 ∧ Deliverable (rich) ∧ Clear (window 112 112) ∧
    Clear (window 104 104) ∧ Clear (crowded (window 104 104)) ∧ 0 < (recOf (rich) 0).recipes ∧
    (∀ r ∈ recipeRegs (recipeOf (rich) 0 0), dropped (me (rich)) r = false ∧ (me (rich)).arch.strm r = none) ∧
    (recOf (rich) 0).recipes ≤ 1 ∧ 103 % 8 = 7 ∧ 103 < (me (rich)).limit ∧ (me (rich)).arch.t ≤ 111 + 1 ∧
    (∀ r ∈ upto 104 8, (me (window 112 112)).arch.tag r ≠ .none ∧ (me (window 112 112)).arch.strm r = none) ∧
    (me (rich)).arch.tag 104 = .none ∧ (me (window 104 104)).arch.t < 112 ∧
    (∀ r ∈ upto 104 8, (me (window 104 104)).arch.tag r = .void) ∧
    112 ≤ (me (window 104 104)).cur + entriesFree (window 104 104) 0 ∧
    (me (crowded (window 104 104))).cur + entriesFree (crowded (window 104 104)) 0 < 112 :=
  ⟨ready_of (by decide +kernel), window_of (by decide +kernel), deliver_of (by decide +kernel), clear_of (by decide +kernel),
    clear_of (by decide +kernel), clear_of (by decide +kernel), by decide +kernel⟩

/-- A stream descriptor in the TCM: 16 bytes at near address 256, a read stream of s8, and one of all zeros at 64. -/
def descriptor : State :=
  { rich (regs [(3, 0), (4, 64), (5, 2 ^ 32)]) with mem := memWrite [] (2 ^ 45) (bytesOf 8 (256 + 2 ^ 59) ++ bytesOf 4 1 ++ bytesOf 4 1 ++ bytesOf 4 1 ++ bytesOf 4 1) }

/-- x16 is bound to a stream. -/
def bound : State := rich (fun t => { t with arch := { t.arch with
  streams := [{ reg := 16, write := false, global := false, ptr := 2 ^ 59 + 256, counts := [4, 1, 1, 1], strides := [16, 0, 0, 0] }] } })

theorem test_meets_stream : Ready descriptor [9] [3, 4, 5] ∧ InWindow descriptor 16 ∧ Deliverable descriptor ∧
    Ready bound [9] [3] ∧ bits (rd descriptor 0 4) 54 32 = 0 ∧ bits (rd descriptor 0 5) 54 32 ≠ 0 ∧
    16 < (me descriptor).limit ∧ nearOwn descriptor 0 0 48 = some (2 ^ 45) ∧ nearPoison descriptor (2 ^ 45) 48 = none ∧
    bindTrap descriptor 0 16 (lookBytes descriptor (2 ^ 45) 48) = none ∧ nearOwn descriptor 0 64 48 = some (2 ^ 45 + 64) ∧
    bindTrap descriptor 0 16 (lookBytes descriptor (2 ^ 45 + 64) 48) = some (nTrap .stream 0) ∧
    (me bound).arch.strm 16 ≠ none ∧ 16 < (me bound).limit :=
  ⟨ready_of (by decide +kernel), window_of (by decide +kernel), deliver_of (by decide +kernel), ready_of (by decide +kernel),
    by decide +kernel⟩

/-- A running lathe. -/
def lathing : State := rich (fun t => { t with arch := { t.arch with lathe := { st := .running, n := 1, count := 4, words := [0] } } })

/-- The greatest count of LATHE.OPEN, and one more. -/
def counts : State := rich (regs [(3, 65535), (4, 65536)])

theorem test_meets_lathe_words : Ready counts [] [3, 4] ∧ Deliverable counts ∧ Plain lathing 3 ∧
    (me counts).arch.priv ≠ .handler ∧ 20 < (me counts).limit ∧ bits (rd counts 0 3) 31 0 = 65535 ∧
    bits (rd counts 0 4) 31 0 = 65536 ∧ occupied lathing 0 = true ∧ (me lathing).partner = none ∧
    (me lathing).arch.lathe.st = .running :=
  ⟨ready_of (by decide +kernel), deliver_of (by decide +kernel), plain_of (by decide +kernel), by decide +kernel⟩

/-- TSPAWN's argument with the last bundle of the text, and with the bundle after it; a task whose timestamp is 5. -/
def spawning : State := rich (regs [(3, 56 * 2 ^ 64 + 5), (4, 64 * 2 ^ 64 + 5), (6, 4), (7, 5)]) (task1 (fun t => { t with ts := 5 }))

theorem test_meets_spawn : Ready spawning [9] [3, 4, 6, 7] ∧ Deliverable spawning ∧ AtPoint spawning ∧
    guessing spawning 0 = false ∧ bits (rd spawning 0 3) 127 96 = 0 ∧ bits (rd spawning 0 3) 95 64 = 56 ∧
    (recOf spawning 0).textlen = 64 ∧ (taskOf spawning 0).ts = bits (rd spawning 0 3) 63 0 ∧
    (me spawning).chunk.spawns.length < 8 ∧ bits (rd spawning 0 4) 95 64 = 64 ∧ speculative spawning 0 = false ∧
    (taskOf spawning 0).ts ≤ (rd64 spawning 0 7).toNat ∧ (rd64 spawning 0 6).toNat < (taskOf spawning 0).ts ∧
    0 < (recOf spawning 0).ordch ∧ (recOf spawning 0).gang = true ∧ (recOf spawning 0).qbar ≠ 0 :=
  ⟨ready_of (by decide +kernel), deliver_of (by decide +kernel), point_of (by decide +kernel), by decide +kernel⟩

/-- GLOOP's arguments without an append region, and with one whose table stands at near address 0. -/
def looping (n : Nat) : State :=
  { rich (regs [(3, 8 * 2 ^ 64 + n * 2 ^ 32 + 10)]) with mem := memWrite [] (2 ^ 45) (bytesOf 8 512 ++ bytesOf 4 64 ++ bytesOf 4 10) }

theorem test_meets_gloop : Ready (looping 0) [5] [3] ∧ Ready (looping 1) [5] [3] ∧ InWindow (looping 1) 16 ∧
    speculative (looping 1) 0 = false ∧ loopOpen (looping 1) 0 = false ∧ bits (0x0C000004 : BitVec 32) 25 21 = 0 ∧
    8 * bits (0x0C000004 : BitVec 32) 20 0 < (recOf (looping 1) 0).textlen ∧ bits (0x0C000004 : BitVec 32) 28 26 = 3 ∧
    bits (rd (looping 1) 0 3) 63 35 = 0 ∧ bits (rd (looping 1) 0 3) 34 32 = 1 ∧ bits (rd (looping 0) 0 3) 34 32 = 0 ∧
    bits (rd (looping 1) 0 3) 95 64 = 8 ∧ (taskOf (looping 1) 0).ts + 2 ^ 33 < 2 ^ 64 ∧
    nearOwn (looping 1) 0 (bits (rd (looping 1) 0 3) 127 96) 16 = some (2 ^ 45) ∧ nearPoison (looping 1) (2 ^ 45) 16 = none ∧
    regionsBad (regionsOf 1 (lookBytes (looping 1) (2 ^ 45) 16)) = false ∧ bits (0x0C000004 : BitVec 32) 31 29 = 0 :=
  ⟨ready_of (by decide +kernel), ready_of (by decide +kernel), window_of (by decide +kernel), by decide +kernel⟩

theorem test_meets_loop_words : Ready (iterating) [9] [3] ∧ InWindow (iterating) 16 ∧ Deliverable carrying ∧
    Deliverable (rich id (rec1 (fun r => { r with determ := true }) ∘ objs (fun o => { o with loops := [(7, loop7)] }) ∘ task1 (fun t => { t with kind := .iteration 7 2 }))) ∧
    Clear (rich id (objs (fun o => { o with loops := [(7, loop7)] }) ∘ task1 (fun t => { t with kind := .guess 7 2 }))) ∧
    Ready (owning .done) [9] [] ∧ InWindow (owning .done) 16 ∧ Ready (owning) [9] [] ∧
    loopAt (iterating) 0 = some (7, loop7) ∧ (iterOf (iterating) 0).isSome = true ∧ (me (iterating)).arch.carry = none ∧
    (me (iterating)).arch.priv ≠ .handler ∧ determ (iterating) 0 = false ∧ loopAt carrying 0 = some (7, loop7) ∧
    (me carrying).arch.carry.isSome = true ∧
    loopAt (rich id (objs (fun o => { o with loops := [(7, loop7)] }) ∘ task1 (fun t => { t with kind := .guess 7 2 }))) 0 = some (7, loop7) ∧
    loop7.gputs + 1 ≠ loop7.req.wid ∧ (tabGet (owning .done).o.loops 1).map (·.st) = some .done ∧
    (tabGet (owning).o.loops 1).map (·.st) = some .running ∧ speculative (owning) 0 = false :=
  ⟨ready_of (by decide +kernel), window_of (by decide +kernel), deliver_of (by decide +kernel),
    deliver_of (by decide +kernel), clear_of (by decide +kernel), ready_of (by decide +kernel),
    window_of (by decide +kernel), ready_of (by decide +kernel), by decide +kernel⟩

theorem test_meets_vector : Ready (rich) [9, 112] [0, 3, 4] ∧ InWindow (rich) 4 ∧ Ready (rich) [3] [] ∧
    pipeBusy (rich) 0 = false ∧ (Instr.vdot 9 3 4 0).wf = true ∧ (Instr.vdot 9 3 4 14).wf = true ∧ isInt (typeFmt 0) = true ∧
    isInt (typeFmt 14) = false ∧ (Instr.cvt 9 3 15 11).wf = true ∧ (Instr.cvtsr 9 3 15 11).wf = true ∧
    (Instr.pack 9 3 15 11).wf = true ∧ (Instr.unpack 9 3 11 15).wf = true :=
  ⟨ready_of (by decide +kernel), window_of (by decide +kernel), ready_of (by decide +kernel), by decide +kernel⟩

/-- The bounds of a bias, one more and one less; a conversion control; pointers of t8: elements, planes, and elements with block
scales, whose scale array's address follows. -/
def matrix (mq : List MxOp := []) : State :=
  rich (regs [(3, 2047), (4, 2 ^ 64 - 2048), (5, 2048), (6, 2 ^ 64 - 2049), (7, 11 * 2 ^ 16), (8, 15 * 2 ^ 59 + 0x100000), (9, 15 * 2 ^ 59 + 2 ^ 55 + 0x100200),
    (10, 15 * 2 ^ 59 + 2 ^ 56 + 0x100000), (11, 0x100400), (12, 16 + 4 * 2 ^ 16)]) (objs (fun o => { o with cores := [(0, { mq := mq })] }))

/-- A queue of eight operations. -/
def eight : List MxOp := (upto 0 8).map (fun i => { id := i, task := 1, kind := .aclr 0 0 })

theorem test_meets_matrix : Ready (matrix) [16, 111] [3, 4, 5, 6, 7, 8, 9, 10] ∧ Deliverable (matrix) ∧
    InWindow (matrix) 10 ∧ InWindow (matrix) 11 ∧ Clear (matrix eight) ∧ mqOver (matrix) 0 1 = false ∧
    3 < (recOf (matrix) 0).anvils ∧ ¬ 4 < (recOf (matrix) 0).anvils ∧ (rd64 (matrix) 0 3).toInt = 2047 ∧
    (rd64 (matrix) 0 4).toInt = -2048 ∧ (rd64 (matrix) 0 5).toInt = 2048 ∧ (rd64 (matrix) 0 6).toInt = -2049 ∧
    bits (rd (matrix) 0 0) 63 9 = 0 ∧ arndOk (rd (matrix) 0 7) = true ∧ ptrBlog (rd64 (matrix) 0 8) = 0 ∧
    mmaTrap (matrix) 0 (bTrap (matrix) 0 .illegal) 4 4 16 (rd64 (matrix) 0 8) (rd64 (matrix) 0 9) 0 = none ∧
    ptrBlog (rd64 (matrix) 0 10) = 1 ∧
    mmaTrap (matrix) 0 (bTrap (matrix) 0 .illegal) 4 4 16 (rd64 (matrix) 0 10) (rd64 (matrix) 0 9) (rd64 (matrix) 0 11).toNat = none ∧
    mqOver (matrix eight) 0 1 = true :=
  ⟨ready_of (by decide +kernel), deliver_of (by decide +kernel), window_of (by decide +kernel),
    window_of (by decide +kernel), clear_of (by decide +kernel), by decide +kernel⟩

theorem test_meets_plane : AtPoint (matrix) ∧ Ready (matrix) [12] [8, 9] ∧ Deliverable (matrix) ∧
    nearPtr (matrix) 0 0x100200 64 = .ok (2 ^ 44 + 0x200) ∧ nearPtr (matrix) 0 0x100000 64 = .ok (2 ^ 44) ∧
    nearPtr (matrix) 0 (rd64 (matrix) 0 11).toNat 8 = .ok (2 ^ 44 + 0x400) ∧ bits (rd (matrix) 0 12) 15 0 = 16 ∧
    bits (rd (matrix) 0 12) 31 16 = 4 ∧
    planeShape (bTrap (matrix) 0 .illegal) (rd (matrix) 0 12) (rd64 (matrix) 0 9) = none ∧
    planeTags false (rd64 (matrix) 0 9) (rd64 (matrix) 0 8) = none ∧
    planeTags true (rd64 (matrix) 0 8) (rd64 (matrix) 0 9) = none ∧
    planeTags true (rd64 (matrix) 0 9) (rd64 (matrix) 0 8) = some ⟨.tag, rd64 (matrix) 0 9⟩ ∧
    planeShape (bTrap (matrix) 0 .illegal) (rd (matrix) 0 0) (rd64 (matrix) 0 9) = some (bTrap (matrix) 0 .illegal) ∧
    elemAlign (rd64 (matrix) 0 8) = none ∧ raceTrap (matrix) 0 (2 ^ 44) 0x100000 64 false = none ∧
    raceTrap (matrix) 0 (2 ^ 44 + 0x200) 0x100200 64 true = none ∧ scaleBytes (ptrBlog (rd64 (matrix) 0 10)) (16 * 4) ≠ 0 ∧
    raceTrap (matrix) 0 (2 ^ 44 + 0x400) 0x400 (scaleBytes (ptrBlog (rd64 (matrix) 0 10)) (16 * 4)) false = none :=
  ⟨point_of (by decide +kernel), ready_of (by decide +kernel), deliver_of (by decide +kernel), ok_of (by decide +kernel),
    ok_of (by decide +kernel), ok_of (by decide +kernel), by decide +kernel⟩

/-- A region and a length for SWAPT; a payload that clears anvil 1 of the core of slot 64; x3 holds a capability. -/
def commanding (cap : Dword) : State :=
  rich (fun t => regs [(5, 0x100000), (6, 16), (7, 4096), (8, 4097), (9, 64 + 0xC2040000 * 2 ^ 32 + 5 * 2 ^ 64), (10, 64 + 2 ^ 21)]
    { t with arch := t.arch.setReg 3 (cap.setWidth 128) })

/-- A capability: CHECK over bits 47:0. -/
def joined (c : BitVec 16) (r : BitVec 48) : Dword := c.setWidth 64 <<< 48 ||| r.setWidth 64

theorem joined_low (c : BitVec 16) (r : BitVec 48) : (joined c r).setWidth 48 = r := by
  apply BitVec.eq_of_getLsbD_eq; intro i hi
  simp only [joined, BitVec.getLsbD_setWidth, BitVec.getLsbD_or, BitVec.getLsbD_shiftLeft, hi]
  simp [show i < 64 by omega]

theorem joined_high (c : BitVec 16) (r : BitVec 48) : (joined c r).extractLsb' 48 16 = c := by
  apply BitVec.eq_of_getLsbD_eq; intro i hi
  simp only [joined, BitVec.getLsbD_extractLsb', BitVec.getLsbD_setWidth, BitVec.getLsbD_or, BitVec.getLsbD_shiftLeft, hi]
  simp [show ¬ 48 + i < 48 by omega, show i < 64 by omega, show 48 + i < 64 by omega]

theorem joined_bit (c : BitVec 16) (r : BitVec 48) {i : Nat} (h : i < 48) : (joined c r).getLsbD i = r.getLsbD i := by
  have e := BitVec.getLsbD_setWidth 48 (joined c r) i
  rw [joined_low] at e; rw [e, decide_eq_true h, Bool.true_and]

/-- Bits 47:0 of a capability of kernel 1: die 0, both rights, anvil 1. -/
def rights : BitVec 48 := 0x2C100000001

/-- That capability with its CHECK. -/
def capability : Dword := joined (Config.check 1 rights) rights

theorem capability_fits (right : Nat) (h : right = 38 ∨ right = 39) :
    capBad (commanding 0) 0 capability 64 right [1] = false := by
  have bit {i : Nat} (h : i < 48) : capability.getLsbD i = rights.getLsbD i := joined_bit _ _ h
  have low : bits capability 31 0 = 1 := by
    have e : capability.toNat % 2 ^ 32 = (capability.setWidth 48).toNat % 2 ^ 32 := by
      rw [BitVec.toNat_setWidth]; omega
    simp only [bits, Nat.shiftRight_zero]
    rw [show 31 + 1 - 0 = 32 from rfl, e, capability, joined_low]; decide
  have k : (thr (commanding 0) 0).kernel = 1 := by decide +kernel
  have c : ctxHas (commanding 0) (ctxOf (commanding 0) 0) (quadOf 64) = true := by decide +kernel
  have check : Config.check 1 (capability.setWidth 48) = capability.extractLsb' 48 16 := by
    rw [capability, joined_low, joined_high]
  simp only [capBad, k, c, low, check, List.any_cons, List.any_nil]
  rw [bit (by omega), bit (i := 32 + dieOf 64) (by decide), bit (i := 40 + 1) (by decide)]
  rcases h with rfl | rfl <;> simp <;> decide

theorem test_meets_exchange : AtPoint (commanding 0) ∧ Ready (commanding 0) [16] [5, 6, 7, 8] ∧ Deliverable (commanding 0) ∧
    capBad (commanding 0) 0 capability 64 38 [1] = false ∧ capBad (commanding 0) 0 0 64 38 [1] = true ∧
    capBad (commanding 0) 0 capability 64 39 [1] = false ∧ speculative (commanding 0) 0 = false ∧
    (rd64 (commanding 0) 0 6).toNat = 16 ∧ (rd64 (commanding 0) 0 7).toNat = 4096 ∧
    (nearOwn (commanding 0) 0 0x100000 4096).isSome = true ∧
    (groupOn (kernelOf (commanding 0) 0) (quadOf (partnerSlot 0))).isSome = true ∧ (rd64 (commanding 0) 0 8).toNat = 4097 ∧
    guessing (commanding 0) 0 = false ∧ determ (commanding 0) 0 = false ∧
    addrQuad (bits (rd (commanding 0) 0 9) 17 0) ≤ 143 ∧
    commandOf ((rd (commanding 0) 0 9).extractLsb' 32 32) = some (.aclr 1 0, [1]) ∧ bits (rd (commanding 0) 0 9) 21 18 = 0 ∧
    commandTrap (.aclr 1 0) ((rd (commanding 0) 0 9).extractLsb' 64 32) 0 = none ∧ bits (rd (commanding 0) 0 10) 127 24 = 0 ∧
    bits (rd (commanding 0) 0 10) 23 21 = 1 ∧ bits (rd (commanding 0) 0 10) 20 18 < (recOf (commanding 0) 0).anvils ∧
    mqOver (commanding 0) 0 1 = false :=
  ⟨point_of (by decide +kernel), ready_of (by decide +kernel), deliver_of (by decide +kernel), capability_fits 38 (.inl rfl),
    by simp [capBad, bits], capability_fits 39 (.inr rfl), by decide +kernel⟩

/-- Aligned and misaligned record addresses, a counter's address, and a count it has not reached. -/
def working : State := rich (regs [(3, 256), (4, 128), (5, 64), (6, 8), (7, 1)])

/-- Those addresses where core 0's page at 0 may not be read. -/
def hidden : State := objs (fun o => { o with cores := [(0, { tlb := [(0, page - 2 ^ 105)] })] }) working

theorem test_meets_work : Ready working [9] [3, 4, 5, 6, 7] ∧ AtPoint working ∧ Deliverable working ∧
    Deliverable (deterministic) ∧ Machine.translate working 0 8 .read = .hit 8 page ∧
    Machine.translate working 0 256 .read = .hit 256 page ∧ Deliverable hidden ∧
    Machine.translate hidden 0 256 .read = .trap (nTrap .perm 256) ∧ (recOf working 0).widths.length = 1 ∧
    guessing working 0 = false ∧ bits (rd64 working 0 3) 54 0 % 256 = 0 ∧ bits (rd64 working 0 4) 54 0 % 256 ≠ 0 ∧
    bits (rd64 working 0 4) 54 0 % 128 = 0 ∧ bits (rd64 working 0 5) 54 0 % 128 ≠ 0 ∧ determ working 0 = false ∧
    determ (deterministic) 0 = true ∧ globalPoison working 8 8 = none ∧ (me working).grant = none ∧
    ofBytes (overlay (ownBytes (me working).chunk 8 8) (lookBytes working 8 8)) = 0 ∧ (rd64 working 0 0).toNat = 0 ∧
    (rd64 working 0 7).toNat = 1 :=
  ⟨ready_of (by decide +kernel), point_of (by decide +kernel), deliver_of (by decide +kernel),
    deliver_of (by decide +kernel), hit_of (by decide +kernel), hit_of (by decide +kernel), deliver_of (by decide +kernel),
    trap_of (by decide +kernel), by decide +kernel⟩

/-- The firmware thread of quad 0's translation service core, with a pending miss of context 1 at address 0; an entry for it;
words that write it without an answer, with one, and that refuse the miss; a bad word; words of TLBI and TLBR. -/
def service : State :=
  rich id (fun s => { s with cur := 2 ^ 18, o := { s.o with
    slots := [(2 ^ 18, regs [(3, page.toNat), (4, 0), (5, 2 ^ 24), (6, 2 ^ 25), (7, 3 * 2 ^ 24), (8, 4), (9, 2 ^ 16 + 1), (10, 17), (11, 33), (12, 2 ^ 31)]
      { limit := 112, cur := 112, arch := { t := 112, priv := .firmware } })]
    quads := [(0, { misses := [(0, ⟨0, 1, [0], [0]⟩)] })] } })

theorem test_meets_tlb : Ready service [16] [3, 4, 5, 6, 7, 8, 9, 10, 11, 12] ∧ Deliverable service ∧ Deliverable (rich) ∧
    (me service).arch.priv = .firmware ∧ service.cur < 2 ^ 19 ∧ serviceQuad service.cur = 0 ∧
    tlbwBad (quad service 0) page (rd64 service (2 ^ 18) 4) = false ∧
    tlbwBad (quad service 0) page (rd64 service (2 ^ 18) 5) = false ∧
    tlbwBad (quad service 0) page (rd64 service (2 ^ 18) 6) = false ∧
    tlbwBad (quad service 0) page (rd64 service (2 ^ 18) 7) = false ∧
    tlbwBad (quad service 0) page (rd64 service (2 ^ 18) 8) = true ∧ bits (rd64 service (2 ^ 18) 9) 63 28 = 0 ∧
    bits (rd64 service (2 ^ 18) 9) 15 6 = 0 ∧ bits (rd64 service (2 ^ 18) 9) 3 0 ≠ 0 ∧
    bits (rd64 service (2 ^ 18) 9) 5 4 = 0 ∧ bits (rd64 service (2 ^ 18) 10) 5 4 = 1 ∧
    bits (rd64 service (2 ^ 18) 11) 5 4 = 2 ∧ (rd64 service (2 ^ 18) 4).getLsbD 31 = false ∧
    bits (rd64 service (2 ^ 18) 4) 63 14 = 0 ∧ (rd64 service (2 ^ 18) 12).getLsbD 31 = true ∧
    bits (rd64 service (2 ^ 18) 12) 30 22 = 0 ∧ (me (rich)).arch.priv ≠ .firmware :=
  ⟨ready_of (by decide +kernel), deliver_of (by decide +kernel), deliver_of (by decide +kernel), by decide +kernel⟩

/-- A sequence bound at address 256, CP 3 and TIP 5, with three versions. -/
def seq1 : Seq :=
  { cid := 1, addr := 256, loc := 256, st := 1, flim := 0, maskreq := false, greedy := true, vocab := 32, seed := 0, cinv := 0, pfreq := 0, ppres := 0,
    hist := 4, nslices := 1, dlcy := 0, digit0 := 0, minus := 10, faulttok := 11, ringlen := 64, ring := 1024, vbase := 4096, cp := 3, tip := 5, keep := 8,
    optab := [], kvreg := [], lastGen := 9, vers := [(3, (1, 0)), (4, (2, 1)), (5, (3, 1))] }

/-- Slot 0's core caches the sequence, changed as a test asks; V(5) forces a token. X[4] to X[7] are position 5, position 6 (no version
yet), position 5 with slices that fit and that do not. -/
def serving (h : Seq → Seq := id) (g : State → State := id) : State :=
  let o := objs (fun o => { o with seqs := [(2 ^ 47 + 1, h seq1)], cores := [(0, { tlb := [(0, page)], sids := [2 ^ 47 + 1] })] })
  { rich (regs [(3, 256), (4, 4), (5, 6), (6, 4 * 2 ^ 32 + 5), (7, 29 * 2 ^ 64 + 4 * 2 ^ 32 + 4), (8, 28 * 2 ^ 64 + 4 * 2 ^ 32 + 4), (10, 5),
      (11, 20 * 2 ^ 32 + 4), (12, 40 * 2 ^ 32 + 4), (13, 3), (14, 64 * 2 ^ 64 + 4)]) (g ∘ o) with
    mem := memWrite [] (4096 + 1024 * 5 + 551) [1, 7] }

theorem cached_of {s : State} {v : Dword} {q : Seq} (a : bits v 54 0 % 256 = 0) (m : ∃ loc e, Machine.translate s s.cur (bits v 54 0) .read = .hit loc e)
    (h : (Machine.core s (coreOf s.cur)).sids.contains (seqKey (ctxOf s s.cur) (bits v 54 0)) = true)
    (b : tabGet s.o.seqs (seqKey (ctxOf s s.cur) (bits v 54 0)) = some q) : Cached s v (seqKey (ctxOf s s.cur) (bits v 54 0)) q := ⟨a, m, rfl, h, b⟩

theorem test_meets_sequence : AtPoint (serving) ∧ Ready (serving) [9] [3, 4, 5, 6, 7, 8, 10, 11, 12, 13, 14] ∧
    Cached (serving) (rd64 (serving) 0 3) (seqKey (ctxOf (serving) 0) (bits (rd64 (serving) 0 3) 54 0)) seq1 ∧
    AtPoint (serving id (objs (fun o => { o with loops := [(7, loop7)] }) ∘ task1 (fun t => { t with kind := .iteration 7 2 }))) ∧
    AtPoint (serving (fun q => { q with st := 3 })) ∧ verPoison (serving) seq1 4 = none ∧ verPoison (serving) seq1 5 = none ∧
    ringPoison (serving) seq1 0 4 = none ∧ determ (serving) 0 = false ∧ bits (rd (serving) 0 4) 127 32 = 0 ∧
    hasVer seq1 4 = true ∧ verFinal (serving) seq1 4 = false ∧ hasVer seq1 6 = false ∧ seq1.cp ≤ 6 ∧ 6 < seq1.keep ∧
    iterOf (serving) 0 = none ∧
    (iterOf (serving id (objs (fun o => { o with loops := [(7, loop7)] }) ∘ task1 (fun t => { t with kind := .iteration 7 2 }))) 0).isSome = true ∧
    (verAt (serving) seq1 5).fqn = 1 ∧ (verAt (serving) seq1 4).fqn = 0 ∧ (sliceArg (rd (serving) 0 8)).count = 4 ∧
    nearOwn (serving) 0 0 16 = some (2 ^ 45) ∧ nearPoison (serving) (2 ^ 45) 16 = none ∧
    seq1.vocab < (sliceArg (rd (serving) 0 7)).first + 4 ∧ (sliceArg (rd (serving) 0 8)).first + 4 = seq1.vocab ∧
    tabGet seq1.masks 4 = none ∧ speculative (serving) 0 = false ∧ bits (rd (serving) 0 14) 118 64 % 64 = 0 ∧
    bits (rd (serving) 0 14) 63 32 = 0 ∧ (tabGet seq1.steps 4).bind (·.result) = none ∧ 5 ≤ seq1.cp + 62 ∧
    bits (rd (serving) 0 11) 63 32 < seq1.vocab ∧ seq1.vocab ≤ bits (rd (serving) 0 12) 63 32 ∧
    bits (rd (serving) 0 13) 31 0 = seq1.cp ∧ seq1.st ≠ 3 ∧
    ((tabGet { seq1 with steps := [(4, { gen := 2, result := some (0, 9) })] }.steps 4).bind (·.result)) = some (0, 9) :=
  ⟨point_of (by decide +kernel), ready_of (by decide +kernel),
    cached_of (by decide +kernel) ⟨256, page, hit_of (by decide +kernel)⟩ (by decide +kernel) (by decide +kernel),
    point_of (by decide +kernel), point_of (by decide +kernel), by decide +kernel⟩

/-- Slot 0 asleep on a condition. -/
def sleeping (w : Wait) (f : Thread → Thread := id) : State := rich (fun t => f { t with st := .sleeping, wait := some w })

/-- Core 0 idle since cycle 900 with its slot asleep. -/
def idle : State := objs (fun o => { o with cores := [(0, { live := true, idleFrom := some 900, sleepcfg := 1 })] }) (sleeping .latch)

theorem test_meets_rounds : (Machine.core (rich) 0).live = true ∧ (Machine.core (rich) 0).lowered = 0 ∧
    allSlots (rich) 0 ≠ [] ∧
    (∀ y ∈ allSlots (rich) 0, inRotation y.2 = true ∧ y.2.wait = none ∧ y.2.notBefore ≤ (rich).now) ∧
    offerOrder (rich) 0 = [] ∧ (∀ q ∈ (rich).o.quads, ∀ w ∈ q.2.waiters, w.extra = false) ∧
    (Machine.core (rich) 9).live = false ∧ (Machine.core idle 0).idleFrom = some 900 ∧ 900 + 64 ≤ idle.now ∧
    (Machine.core idle 0).sleepcfg ≠ 0 ∧ (Machine.core idle 0).lowered = 0 ∧ (∀ y ∈ allSlots idle 0, active y.2 = false) ∧
    waitHolds (sleeping .latch (fun t => { t with latch := true })) 0 (thr (sleeping .latch (fun t => { t with latch := true })) 0) = true ∧
    waitHolds (sleeping .fpHold (fun t => { t with latch := true })) 0 (thr (sleeping .fpHold (fun t => { t with latch := true })) 0) = true ∧
    waitHolds (sleeping (.window 112) (fun t => { t with cur := 104 })) 0 (thr (sleeping (.window 112) (fun t => { t with cur := 104 })) 0) = true ∧
    waitHolds (sleeping (.window 112)) 0 (thr (sleeping (.window 112)) 0) = true ∧ (thr (rich) 0).st ≠ .sleeping ∧
    waitHolds (sleeping .latch) 0 (thr (sleeping .latch) 0) = false ∧ occupied (sleeping (.latchUntil 1000)) 0 = true ∧
    (thr (sleeping (.latchUntil 1000)) 0).outer = none ∧
    (thr (sleeping (.window 112) (fun t => { t with cur := 104 })) 0).cur < (thr (sleeping (.window 112) (fun t => { t with cur := 104 })) 0).arch.t ∧
    1000 ≤ (sleeping (.latchUntil 1000)).now ∧ (thr (sleeping (.latchUntil 1000)) 0).latch = false ∧
    (thr (sleeping (.word (2 ^ 44)) (fun t => { t with waitlim := 4, waitCount := 5 })) 0).waitlim.toNat < 5 ∧
    (thr (sleeping (.word (2 ^ 44)) (fun t => { t with waitlim := 4, waitCount := 5 })) 0).grant = none :=
    by decide +kernel

/-- Slot 0 about to enter a trap; in QUARANTINED; with an enabled event. -/
def ending (a : After) (st : SlotSt := .ready) (raised : BitVec 5 := 0) : State := rich (fun t => { t with after := a, st := st, raised := raised })

theorem test_meets_trap_events : Deliverable (rich) ∧
    (thr (ending (.trap (nTrap .soft 7) 8)) 0).after = .trap (nTrap .soft 7) 8 ∧
    anyPending (thr (ending (.trap (nTrap .soft 7) 8)) 0) = false ∧
    (thr (ending (.trap (nTrap .soft 7) 8)) 0).chunk.st ≠ .validating ∧ outsideCode (0x20 : BitVec 8).toNat = some .poison ∧
    occupied (rich) 0 = true ∧ (thr (rich) 0).st ≠ .quarantined ∧ (thr (ending .nothing .quarantined) 0).st = .quarantined ∧
    (thr (ending .nothing .ready 1) 0).raised ≠ 0 ∧ (thr (ending .nothing .ready 1) 0).after = .nothing ∧
    encodingTrap (rich) 0x3F000000 = some .illegal ∧ encodingTrap (rich) (2 ^ 32 + 2 ^ 31) = some .bundle :=
  ⟨deliver_of (by decide +kernel), by decide +kernel⟩

/-- Slot 0 with an ended chunk. -/
def validating (f : Chunk → Chunk := id) (p : List Pend := []) (g : State → State := id) : State :=
  rich (fun t => { t with pend := p, chunk := f { t.chunk with st := .validating, reads := [5], writes := [6] } }) g

/-- An epoch in which task 2 has written word 5. -/
def epoch1 : Epoch := { task := 2, w := 1, cn := 0, ts := 0, reads := [], writes := [5], reds := [] }

/-- The kernel is deterministic, with that epoch. -/
def racing : State := validating (fun c => { c with sent := true }) [] (kern1 (fun k => { k with lrec := { k.lrec with determ := true }, epoch := [epoch1] }))

/-- A deterministic kernel whose floor lies below the chunk's timestamp. -/
def gated : State := validating (fun c => { c with sent := true, ts := 9 }) [] (kern1 (fun k => { k with lrec := { k.lrec with determ := true } }))

/-- Slot 0 leads a redundant pair whose digests differ. -/
def pairing (f : Chunk → Chunk := id) : State := validating (fun c => f { c with sent := true }) [] (objs (fun o => { o with
  slots := tabPut (tabMap o.slots (fun _ t => { t with partner := some 64, digest := [1] })) 64 { task := 1, kernel := 1, st := .shadow, partner := some 0, digest := [2] } }))

/-- The kernel's epoch holds a chunk of task 1 that has read the given words. -/
def recorded (l : List Nat) : State := validating (fun c => { c with sent := true }) []
  (kern1 (fun k => { k with lrec := { k.lrec with determ := true }, epoch := [{ epoch1 with task := 1, reads := l, writes := [] }] }))

/-- With 2^20 words of one slice in the epoch, a chunk that has read another of that slice exceeds its record. -/
theorem recorded_many (n : Nat) (h : 2 ^ 20 ≤ n) : epochOver (recorded (List.replicate n 5)) 0 = true := by
  have e : epochsOf (recorded (List.replicate n 5)) 0 = [[{ epoch1 with task := 1, reads := List.replicate n 5, writes := [] }], []] := rfl
  have c : (thr (recorded (List.replicate n 5)) 0).chunk.reads = [5] := rfl
  have z : (sliceOf 5 == 0) = true := by decide
  simp only [epochOver, e, List.any_cons, Bool.or_eq_true]
  left
  simp only [List.isEmpty_cons, Bool.not_false, Bool.true_and, List.any_eq_true]
  refine ⟨0, by decide, decide_eq_true ?_⟩
  simp [sliceWords, c, total, List.filter_append, z, epoch1]
  omega

theorem recorded_over : epochOver (recorded (List.replicate (2 ^ 20) 5)) 0 = true := recorded_many _ (Nat.le_refl _)

theorem recorded_released (l : List Nat) : (released (recorded l) 0, haltedAt (recorded l) 0, epochClash (recorded l) 0,
    (thr (recorded l) 0).chunk.firm, (thr (recorded l) 0).chunk.stale, conflicts (recorded l) (thr (recorded l) 0).chunk) =
    (true, false, none, false, false, false) := rfl

theorem test_meets_epoch_over : epochOver (recorded (List.replicate (2 ^ 20) 5)) 0 = true ∧
    (released (recorded (List.replicate (2 ^ 20) 5)) 0, haltedAt (recorded (List.replicate (2 ^ 20) 5)) 0, epochClash (recorded (List.replicate (2 ^ 20) 5)) 0, (thr (recorded (List.replicate (2 ^ 20) 5)) 0).chunk.firm, (thr (recorded (List.replicate (2 ^ 20) 5)) 0).chunk.stale, conflicts (recorded (List.replicate (2 ^ 20) 5)) (thr (recorded (List.replicate (2 ^ 20) 5)) 0).chunk) = (true, false, none, false, false, false) :=
  ⟨recorded_over, recorded_released _⟩

theorem test_meets_validation : occupied (validating) 0 = true ∧ (thr (validating) 0).chunk.sent = false ∧
    loadsOut (thr (validating) 0) = false ∧
    loadsOut (thr (validating id [{ id := 1, dests := [9], op := .load 8 6 [] 0 true }]) 0) = true ∧
    (recOf (validating) 0).twin = false ∧
    (recOf (validating id [] (rec1 (fun r => { r with twin := true }))) 0).twin = true ∧
    loadsOut (thr (validating id [] (rec1 (fun r => { r with twin := true }))) 0) = false ∧ offerOrder gated 0 = [] ∧
    released (pairing) 0 = true ∧ epochOver (pairing) 0 = false ∧ unequal (pairing) 0 = true ∧
    (thr (pairing) 0).chunk.unequal = 0 ∧ epochClash (pairing) 0 = none ∧ haltedAt (pairing) 0 = false ∧
    unequal (pairing (fun c => { c with unequal := 1 })) 0 = true ∧ unequal (validating) 0 = false ∧
    unequal (pairing (fun c => { c with firm := true })) 0 = false ∧ (thr (validating) 0).chunk.firm = false ∧
    (thr (validating (fun c => { c with firm := true })) 0).chunk.firm = true ∧ released gated 0 = false ∧
    released racing 0 = true ∧ haltedAt racing 0 = false ∧ epochClash racing 0 = some (epoch1, 5) ∧
    haltedAt (validating (fun c => { c with sent := true }) [] (objs (fun o => { o with ctxs := tabMap o.ctxs (fun _ c => { c with halted := true }) }))) 0 = true ∧
    released (validating (fun c => { c with sent := true })) 0 = true ∧
    epochClash (validating (fun c => { c with sent := true })) 0 = none ∧
    conflicts (validating) (thr (validating) 0).chunk = false ∧ epochOver (validating) 0 = false ∧
    (thr (validating) 0).partner = none ∧
    conflicts { validating with lastWrite := [(5, 1)] } (thr (validating) 0).chunk = true ∧
    (thr (validating (fun c => { c with tries := 1 })) 0).chunk.tries < 2 ∧
    2 ≤ (thr (validating (fun c => { c with tries := 2 })) 0).chunk.tries ∧
    (∀ w ∈ (thr (rich (fun t => { t with chunk := { t.chunk with tries := 3, held := [5] } })) 0).chunk.held, tabGet (rich).o.resv w = none ∨ tabGet (rich).o.resv w = some 0) ∧
    tabGet (objs (fun o => { o with resv := [(5, 3)] }) (rich)).o.resv 5 = some 3 :=
    by decide +kernel

/-- The image of task 1, saved, with slot 0 FREE. -/
def saved : State := objs (fun o => { o with slots := [] })
  (rich id (task1 (fun t => { t with st := .saved, slot := none, image := some { task := 1, kernel := 1, limit := 112, cur := 112 } })))

/-- Slot 0, asked to stop, with a chunk that waits for its floor. -/
def stopping : State := (onThr 0 (fun t => { t with stop := true, leave := .yields, chunk := { t.chunk with blocked := true } })).apply gated

theorem test_meets_preemption : (thr (pairing) 64).st = .shadow ∧ (thr (pairing) 64).stop = false ∧
    (thr (pairing) 64).partner = some 0 ∧ occupied (pairing) 64 = true ∧ Machine.gated stopping 0 = true ∧
    settled stopping 0 = false ∧ settled (run [withdraw 1, giveUp 0] stopping) 0 = true ∧ (thr stopping 0).leave = .yields ∧
    Machine.gated (rich (fun t => { t with stop := true })) 0 = false ∧
    settled (run [withdraw 1, skip] (rich (fun t => { t with stop := true }))) 0 = true ∧
    settled (run [withdraw 1, skip] (rich (fun t => { t with stop := true, arch := { t.arch with lathe := { t.arch.lathe with flight := [{}] } } }))) 0 = false ∧
    occupied (rich) 0 = true ∧ (thr (rich) 0).st ≠ .quarantined ∧ (thr (rich) 0).stop = false ∧ (thr (rich) 0).st ≠ .shadow ∧
    (thr (rich) 0).partner = none ∧ settled (rich (fun t => { t with stop := true })) 0 = true ∧
    settled (rich (fun t => { t with stop := true, arch := { t.arch with lathe := { t.arch.lathe with flight := [{}] } } })) 0 = false ∧
    (task? (rich (fun t => { t with stop := true })) 1).map (fun x => (x.slot, x.image)) = some (some 0, none) ∧
    (task? saved 1).map (·.st) = some .saved ∧ occupied saved 0 = false ∧
    frameLost saved 1 (slotFrame saved 1 0) 196608 0 = false ∧
    (task? saved 1).map (fun x => (x.frame, x.savedAt)) = some (slotFrame saved 1 0, 0) ∧
    ((task? saved 1).bind (coresFor saved)) = some (0, none) ∧
    frameLost (objs (fun o => { o with poison := [(0, 2)], ctxs := tabMap o.ctxs (fun _ c => { c with cfg := { c.cfg with windows := [(0, 2 ^ 40)] }, pages := [(0, { walked with size := 2 })] }) }) saved) 1 (slotFrame saved 1 0) 196608 0 = true ∧
    (task? (task1 (fun t => { t with image := t.image.map (fun im => { im with cur := 3000 }) }) saved) 1).bind (coresFor (task1 (fun t => { t with image := t.image.map (fun im => { im with cur := 3000 }) }) saved)) = none :=
    by decide +kernel

/-- Slot 0 with a long result, a load or an atomic on its way. -/
def waiting (op : PendOp) : State := rich (fun t => { t with pend := [{ id := 50, dests := [9], op := op }] })

/-- A read stream of two units of the TCM on x16, with n units fetched. -/
def fetching (n : Nat) : State := rich (fun t => { t with arch := { t.arch with
  streams := [{ reg := 16, write := false, global := false, ptr := 2 ^ 59, counts := [2, 1, 1, 1], strides := [16, 0, 0, 0], fifo := List.replicate n (.data 0) }] } })

/-- What a stream's unit fetches as data. -/
def unitWord : Except (Option (Nat × Acc)) Unit16 → Option Word
  | .ok (.data w) => some w
  | _ => none

/-- That stream in the global realm, from address 0. -/
def reaching : State := rich (fun t => { t with arch := { t.arch with
  streams := [{ reg := 16, write := false, global := true, ptr := 2 ^ 59, counts := [2, 1, 1, 1], strides := [16, 0, 0, 0], fifo := [] }] } })

/-- Iteration 2 reads its loop's record of iteration 1, which has not landed, as a stream. -/
def early : State := objs (fun o => { o with loops := [(7, { loop7 with iters := [(1, (0, [])), (2, (1, []))], req := { loop7.req with regions := [(512, 64, 10)] } })] })
  (iterating (fun t => { t with arch := { t.arch with
    streams := [{ reg := 16, write := false, global := true, ptr := 2 ^ 59 + 576, counts := [2, 1, 1, 1], strides := [16, 0, 0, 0], fifo := [] }] } }))

/-- Is a unit to be asked for again? -/
def asksAgain : Except (Option (Nat × Acc)) Unit16 → Bool
  | .error none => true
  | _ => false

theorem test_meets_results :
    ((thr reaching 0).arch.strm 16).bind (fun y => unitWord (streamUnit reaching 0 y (y.addr 0))) = some 0 ∧
    ((thr reaching 0).arch.strm 16).map (fun y => (y.global, y.write, y.fifo.any Unit16.isFault, decide (y.total = 2))) = some (true, false, false, true) ∧
    ((thr early 0).arch.strm 16).map (fun y => asksAgain (streamUnit early 0 y (y.addr 0))) = some true ∧
    (∀ q ∈ (thr (waiting (.atom 8 0 1 0 8)) 0).pend.takeWhile (fun q => q.id != 50), atomOut q = false) ∧
    [Unit16.data 0, .fault (nTrap .page 0)].any Unit16.isFault = true ∧
    (task? (waiting (.value [7] none 0)) 1).bind (·.slot) = some 0 ∧
    (pendOf (waiting (.value [7] none 0)) 1 50).map (·.dests) = some [9] ∧
    (pendOf (waiting (.value [7] none 0)) 1 50).map (·.op) = some (.value [7] none 0) ∧
    (thr (waiting (.value [7] none 0)) 0).arch.strm 9 = none ∧ (thr (waiting (.value [7] none 0)) 0).st = .ready ∧
    (thr (waiting (.value [7] none 0)) 0).after = .nothing ∧
    (pendOf (waiting (.load 8 6 [] 8 true)) 1 50).map (·.op) = some (.load 8 6 [] 8 true) ∧ (rich).o.flips = [] ∧
    (rich).o.poison = [] ∧ (pendOf (waiting (.atom 8 0 1 0 8)) 1 50).map (·.op) = some (.atom 8 0 1 0 8) ∧
    tabGet (rich).o.resv 1 = none ∧ gates (rich) 0 = [] ∧
    ((thr (fetching 0) 0).arch.strm 16).map (fun y => (y.fifo.length, y.pos, y.total)) = some (0, 0, 2) ∧
    ((thr (fetching 0) 0).arch.strm 16).bind (fun y => unitWord (streamUnit (fetching 0) 0 y (y.addr 0))) = some 0 ∧
    ((thr (fetching 2) 0).arch.strm 16).map (fun y => (y.fifo.length, y.pos, y.total)) = some (2, 0, 2) ∧
    pendingEntry (quad service 0) 1 8 = some (0, ⟨0, 1, [0], [0]⟩) ∧ pendingEntry (quad (rich) 0) 1 8 = none ∧
    tabFree (quad (rich) 0).misses 0 64 = some 0 ∧
    tabFree ((upto 0 64).map (fun i => (i, (⟨BitVec.ofNat 64 (2 ^ 16 * (i + 9)), 1, [0], [0]⟩ : PMiss)))) 0 64 = none :=
    by decide +kernel

/-- A request on its way to quad 1. -/
def request (op : NearOp) (w : Bool := false) : State :=
  objs (fun o => { o with near := [(60, { task := 1, slot := 0, kernel := 1, loc := 2 ^ 44 + 2 ^ 20 + 16, va := 0x80100010, op := op, pend := some 50, order := 0, upto := 0, waiting := w })] }) (rich)

/-- Does a request take effect at once? -/
def stepsAt (s : State) (op : NearOp) : Bool := (nearStep s (2 ^ 44 + 2 ^ 20 + 16) op).isSome

/-- An arrival on its way to die barrier 16, and what stands there. -/
def arriving : State := kern1 (fun k => { k with dbars := [(0, { p := 2, dl := some 900 })] })
  (objs (fun o => { o with barSends := [(60, { kernel := 1, die := 0, bar := 16, task := 1, slot := 0, kind := .sync })] }) (rich))

/-- Barrier 0 of both groups has completed its first phase, and channel 0 holds a request of that interval. -/
def batch (n : Nat) : State :=
  kern1 (fun k => { k with groups := tabMap k.groups (fun _ g => { g with bars := [(0, { p := 1, phases := n })] }), ord := [(0, [{ task := 1, pend := 50, w := 0, ts := 0, cn := 0, interval := 0, addend := 3 }])] }) (rich)

/-- SWAPTs of slot 0 and of its partner, slot 192, over n and m bytes. -/
def swapping (n m : Nat) : State :=
  let t : Thread := { task := 2, kernel := 1, pend := [{ id := 51, dests := [9], op := .swapt 0x100100 m }] }
  objs (fun o => { o with slots := tabPut o.slots 192 t, tasks := tabPut o.tasks 2 { kernel := 1, w := 0, g := 0, t := 1, ts := 0, slot := some 192 } })
    (waiting (.swapt 0x100000 n))

/-- A request of LDTR, with or without a record that waits for it. -/
def transposing (p : Option Nat) : State := objs (fun o => { o with near := tabMap o.near (fun _ r => { r with pend := p }) }) (request (.ldtr 0))

theorem test_meets_requests : (tabGet (transposing none).o.near 60).map (fun r => (r.op, r.pend)) = some (.ldtr 0, none) ∧
    (tabGet (transposing (some 50)).o.near 60).map (·.pend) = some (some 50) ∧ stepsAt (transposing none) (.ldtr 0) = true ∧
    nearPoison (transposing none) (2 ^ 44 + 2 ^ 20 + 16) (NearOp.ldtr 0).reads = none ∧
    (tabGet (request (.chan 0 0)).o.near 60).map (·.op) = some (.chan 0 0) ∧
    (ctxXlat (batch 1) 1 ((kernel (batch 1) 1).lrec.ordptr + 8 * 0) .write).toOption = some 0 ∧ (batch 1).o.flips = [] ∧
    (tabGet (request (.load 6) true).o.near 60).map (·.waiting) = some true ∧
    (tabGet (request (.load 6)).o.near 60).map (·.waiting) = some false ∧
    nearPoison (request (.load 6)) (2 ^ 44 + 2 ^ 20 + 16) 8 = none ∧ stepsAt (request (.load 6)) (.load 6) = true ∧
    stepsAt (request (.fe 0 0)) (.fe 0 0) = false ∧ (NearOp.load 6).reads ≠ 0 ∧
    nearPoison (objs (fun o => { o with poison := [((2 ^ 44 + 2 ^ 20) / 64, 2)] }) (request (.load 6))) (2 ^ 44 + 2 ^ 20 + 16) 8 = some 2 ∧
    (task? (rich) 1).bind (·.slot) = some 0 ∧ (tabGet arriving.o.barSends 60).map (·.bar) = some 16 ∧
    (∀ x ∈ arriving.agenda, x.2 = .turn 0) ∧ (barOf arriving 1 0 16).dl = some 900 ∧
    900 + arriving.o.mod.zero ≤ arriving.now ∧ (barOf arriving 1 0 16).c < (barOf arriving 1 0 16).p ∧
    batchOver (batch 0) 1 0 = false ∧ batchOver (batch 1) 1 0 = true ∧ tabHas (batch 1).o.kernels 1 = true ∧
    (tabD (kernel (batch 1) 1).ord 0 []).map (·.interval) = [0] ∧ swapMeets (swapping 16 32) 0 = true ∧ partnerSlot 0 = 192 ∧
    (swapOf (thr (swapping 16 16) 0)).map (·.2) = some (0x100000, 16) ∧
    (swapOf (thr (swapping 16 32) 192)).map (·.2) = some (0x100100, 32) ∧ swapMeets (swapping 16 16) 0 = true ∧
    nearOwn (swapping 16 16) 0 0x100000 16 = some (2 ^ 44) ∧
    nearOwn (swapping 16 16) 192 0x100100 16 = some (2 ^ 44 + 0x100) ∧ nearPoison (swapping 16 16) (2 ^ 44) 16 = none :=
    by decide +kernel

/-- A lathe that has captured VADD x20, x21, x22 for a count of n; one that runs it. -/
def lathe1 (st : LatheSt) (count next : Nat) (flight : List LatheRes := []) : State := rich (fun t => { t with arch := { t.arch with
  lathe := { st := st, n := 1, count := count, words := [0b01100000010100001010100101101010], next := next, flight := flight } } })

theorem test_meets_lathe_events : (thr (lathe1 .idle 4 4 [{ writes := [(20, 7)] }, {}]) 0).arch.lathe.flight.length = 2 ∧
    (thr (lathe1 .idle 4 4 [{ writes := [(20, 7)] }, {}]) 0).arch.lathe.st ≠ .running ∧
    (thr (lathe1 .capturing 0 0) 0).arch.lathe.n ≤ (thr (lathe1 .capturing 0 0) 0).arch.lathe.words.length ∧
    (thr (lathe1 .capturing 4 0) 0).arch.lathe.count ≠ 0 ∧ (thr (lathe1 .running 4 1) 0).arch.lathe.next < 1 * 4 ∧
    latheTurn (lathe1 .running 4 1) 0 = true ∧
    ((captured (advanced (thr (lathe1 .running 4 1) 0).arch.lathe 1) 0b01100000010100001010100101101010).map (fun v => v.fields.map (·.f))) = some [20, 21, 22] ∧
    (thr (lathe1 .running 4 1) 0).arch.strm 20 = none ∧
    latheTurn (objs (fun o => { o with cores := [(0, { latheAt := 1001 })] }) (lathe1 .running 4 1)) 0 = false ∧
    (thr (lathe1 .running 4 4 [{ writes := [(20, 7)] }]) 0).arch.lathe.flight.map (·.writes) = [[(20, 7)]] ∧
    1 * 4 ≤ (thr (lathe1 .running 4 4) 0).arch.lathe.next :=
    by decide +kernel

/-- Core 0's queueOf queue. -/
def queueOf (l : List MxOp) (g : State → State := id) : State := objs (fun o => { o with cores := tabMap o.cores (fun _ c => { c with mq := l }) }) (rich id g)

/-- A waiting or running operation on an anvil of task 1. -/
def opOn (started : Bool) (n : Nat) : MxOp := { id := 7, task := 1, kind := .aclr n 0, started := started }

/-- A command from core 0 to slot 0, or a send-add of its own anvil. -/
def command (w : BitVec 32) (add : Option (Nat × Anvil) := none) (target : Nat := 0) (mq : List MxOp := []) : State :=
  objs (fun o => { o with mxReqs := [(60, { task := 1, pend := 50, target := target, kernel := 1, word := w, afmt := 0, bfmt := 0, aaddr := 0, baddr := 0, add := add })] })
    (queueOf mq (fun s => onMe s (fun t => { t with arch := { t.arch with anvils := [Anvil.cleared 0] } })))

/-- The request in it. -/
def sent (s : State) : MxReq := (tabGet s.o.mxReqs 60).getD { task := 0, pend := 0, target := 0, kernel := 0, word := 0, afmt := 0, bfmt := 0, aaddr := 0, baddr := 0, add := none }

/-- A command to slot 0 whose thread, which has an anvil, is saved. -/
def apart : State :=
  let s := command 0b11000010000000000000000000000000
  task1 (fun t => { t with slot := none, image := some { thr s 0 with home := 0 } }) (objs (fun o => { o with slots := [] }) s)

theorem test_meets_matrix_queue :
    (Machine.core (queueOf [opOn false 1]) 0).mq.find? (fun m => !m.started) = some (opOn false 1) ∧
    mayStart (queueOf [opOn false 1]) 0 (opOn false 1) = true ∧
    mayStart (queueOf [opOn true 1, opOn false 1]) 0 (opOn false 1) = false ∧
    (Machine.core (queueOf [opOn true 1]) 0).mq.find? (fun m => m.id == 7 && m.started) = some (opOn true 1) ∧
    (opOn true 1).remote = none ∧ (task? (rich) 1).bind (·.slot) = some 0 ∧ (rich).o.poison = [] ∧ (rich).o.flips = [] ∧
    mxTarget (command 0b11000010000000000000000000000000 none 9) (sent (command 0b11000010000000000000000000000000 none 9)) = none ∧
    mxTarget (command 0) (sent (command 0)) = some 1 ∧ (taskThr? (command 0) 1).isSome = true ∧
    errorOf (commandAt (command 0) (sent (command 0)) (thr (command 0) 0)) = some 3 ∧
    errorOf (commandAt (command 0xC2140000) (sent (command 0xC2140000)) (thr (command 0xC2140000) 0)) = some 2 ∧
    (commandAt (command 0b11000010000000000000000000000000) (sent (command 0b11000010000000000000000000000000)) (thr (command 0b11000010000000000000000000000000) 0)).toOption = some (.aclr 0 0) ∧
    queueFull (command 0b11000010000000000000000000000000 none 0 eight) 0 = true ∧
    queueFull (command 0b11000010000000000000000000000000) 0 = false ∧
    (sent (command 0b11000010000000000000000000000000)).add = none ∧
    (sent (command 0b11000010000000000000000000000000)).held = false ∧ mxTarget apart (sent apart) = some 1 ∧
    ((taskThr? apart 1).map (fun t => (commandAt apart (sent apart) t).toOption)) = some (some (.aclr 0 0)) ∧
    (task? apart 1).bind (·.slot) = none :=
    by decide +kernel

/-- A launch record: 64 bytes of text at 0, one group of one thread, 112 registers, the window 64, no handler, no supervisor. -/
def launchBytes : List Byte :=
  bytesOf 8 0 ++ bytesOf 8 64 ++ bytesOf 4 0 ++ bytesOf 4 (2 ^ 32 - 1) ++ bytesOf 4 1 ++ bytesOf 2 1 ++ bytesOf 1 112 ++ bytesOf 13 0 ++
  bytesOf 3 0 ++ bytesOf 1 1 ++ bytesOf 8 (2 ^ 64 - 1) ++ bytesOf 8 64 ++ bytesOf 192 0

/-- A COPY billet of 16 bytes from address 0 to address 64. -/
def billetBytes : List Byte := bytesOf 16 1 ++ bytesOf 4 16 ++ bytesOf 4 1 ++ bytesOf 8 0 ++ bytesOf 8 (2 ^ 59) ++ bytesOf 8 (2 ^ 59 + 64) ++ bytesOf 16 0 ++
  bytesOf 32 1 ++ bytesOf 32 1

/-- A request at die 0's graph unit. -/
def submit (kind : Nat) (b : Option (List Byte)) : SubReq :=
  { kind := kind, die := 0, addr := 512, bytes := b, ctx := 1, queue := 3, cls := 1, root := 0, task := 1, pend := 50, determ := false, kernel := 1, due := 1000 }

/-- That request on its way. -/
def submitting (r : SubReq) : State := objs (fun o => { o with subs := [(60, r)] }) (rich)

/-- The kernel's state, its edges and its groups left. -/
def kernelAs (st : KSt) (preds : List Nat := []) (left : Nat := 2) (measuring : Bool := false) : State :=
  rich id (kern1 (fun k => { k with st := st, preds := preds, left := left, measuring := measuring, matrix := 9 }))

/-- A billet in a state, copying 16 bytes to address 64, with some of its units done. -/
def billet (st : BSt) (preds : List Nat := []) (u : Nat := 0) : Billet :=
  { addr := 512, die := 0, ctx := 1, queue := 3, root := 0, kernel := 1, op := 1, snear := false, dnear := false, len := 16, rows := 1, sstride := 0, dstride := 0,
    src := 2 ^ 59, dst := 2 ^ 59 + 64, aux := 0, counter := 0, reads := [], writes := [], st := st, preds := preds, unit := u }

/-- That billet is node 9. -/
def engine (b : Billet) (f : Objs → Objs := id) : State := objs (fun o => f { o with billets := [(9, b)] }) (rich)

theorem test_meets_graph :
    (tabGet (submitting (submit 0 (some launchBytes))).o.subs 60) = some (submit 0 (some launchBytes)) ∧
    (judgeLaunch (rich) 0 1 (some launchBytes) false).1 = 0 ∧ (judgeLaunch (rich) 0 1 (some (bytesOf 256 0)) false).1 ≠ 0 ∧
    (submit 1 none).bytes = none ∧ billetFieldBad (bytesOf 128 0) = true ∧ billetFieldBad billetBytes = false ∧
    nodesOn (rich) 0 < 1024 ∧ oldestFaulted (rich) 1 0 512 = none ∧
    oldestFaulted (engine (billet .faulted)) 1 0 512 = some 9 ∧ 3 ≤ (submit 3 none).kind ∧
    ((kernel (kernelAs .waiting) 1).st, (kernel (kernelAs .waiting) 1).preds) = (.waiting, []) ∧
    (kernel (rich) 1).st ≠ .waiting ∧
    ((kernel (kernelAs .running [] 0) 1).st, (kernel (kernelAs .running [] 0) 1).left) = (.running, 0) ∧
    (kernel (kernelAs .running [] 2 true) 1).measuring = true ∧ 0 < (kernel (kernelAs .running [] 2 true) 1).matrix - 5 ∧
    (kernel gated 1).lrec.determ = true ∧ gated.o.loops = [] ∧ floorOf gated (domainTasks gated 1) = some 9 ∧
    (kernel gated 1).floor < 9 :=
    by decide +kernel

/-- The kernel READY with its groups to be placed; and in its placement transaction. -/
def toPlace (st : KSt) (busy : Bool) (scratch : Nat := 4096) (suspending : Bool := false) : State :=
  rich id (kern1 (fun k => { k with st := st, busy := busy, suspending := suspending, groups := [], left := 2, text := [0], lrec := { record with scratch := scratch, gang := false } }))

/-- Task 2 waits for a slot of group 0; its kernel is 2, of class 2, where the first one's is of class 1. -/
def offering (slots : Nat → Thread := fun _ => {}) (n : Nat := 1) (c1 : Nat := 1) (g : State → State := id) : State :=
  let o := fun o : Objs => { o with
    slots := (upto 0 n).map (fun i => (i, { slots i with task := 1, kernel := 1 })), tasks := tabPut o.tasks 2 { kernel := 2, w := 0, g := 0, t := 0, ts := 0 },
    kernels := tabMap (tabPut o.kernels 2 (kernel (rich) 1)) (fun i k => { k with cls := if i = 1 then c1 else 2 }) }
  rich id (fun s => objs o (g s))

/-- The chunks of its slots wait for the floor. -/
def gatedSlots : State := offering (fun _ => { chunk := { ({} : Chunk) with st := .validating, sent := true, blocked := true, ts := 9 } }) 64 1
  (kern1 (fun k => { k with lrec := { k.lrec with determ := true } }))

/-- Every slot of quad 0 is taken: of its cores the module has core 0 alone. -/
def filled : State := objs (fun o => { o with dies := Vector.replicate 4 { harvest := 1 } }) (offering (fun _ => {}) 64)

theorem test_meets_placement : nextKernel (toPlace .ready false) 0 = some 1 ∧ nextKernel (rich) 0 ≠ some 1 ∧
    ((kernel (toPlace .placing true) 1).busy, (kernel (toPlace .placing true) 1).st, (kernel (toPlace .placing true) 1).suspending) = (true, .placing, false) ∧
    placement (toPlace .placing true) 1 ((tableQuads (kernel (toPlace .placing true) 1).l2p).map (quadRoom (toPlace .placing true))) ≠ [] ∧
    placement (toPlace .placing true (2 ^ 21)) 1 ((tableQuads (kernel (toPlace .placing true (2 ^ 21)) 1).l2p).map (quadRoom (toPlace .placing true (2 ^ 21)))) = [] ∧
    ((kernel (toPlace .placing true 4096 true) 1).busy, (kernel (toPlace .placing true 4096 true) 1).st, (kernel (toPlace .placing true 4096 true) 1).suspending) = (true, .placing, true) ∧
    placement (toPlace .placing true 4096 true) 1 ((tableQuads (kernel (toPlace .placing true 4096 true) 1).l2p).map (quadRoom (toPlace .placing true 4096 true))) ≠ [] ∧
    (offerOrder (offering) 0).head?.map (·.1) = some 2 ∧
    ((offerOrder (offering) 0).head?.bind (fun t => coresFor (offering) t.2)) = some (0, none) ∧
    freeSlotOf (offering) 0 = some 1 ∧ (∀ y ∈ (offering).o.slots, y.2.wait = none) ∧
    ((offerOrder filled 0).find? (fun x => (classVictim filled x.2).isSome)).map (·.1) = some 2 ∧
    coresFull filled (quadCores filled 0) = true ∧ coresFull (offering) (quadCores (offering) 0) = false ∧
    ((offerOrder filled 0).head?.bind (fun t => classVictim filled t.2)) = some 63 ∧
    (∀ t ∈ offerOrder (offering (fun _ => {}) 64 3) 0, classVictim (offering (fun _ => {}) 64 3) t.2 = none) ∧
    ((offerOrder gatedSlots 0).head?.map (fun t => slotsFull gatedSlots t.2)) = some true ∧
    ((offerOrder gatedSlots 0).head?.bind (fun t => gatedVictim gatedSlots t.2)) = some 0 :=
    by decide +kernel

/-- Contexts 1 and 2 share a partition; the first holds it in state st, the second is OUT, in with work or not. -/
def sharing (st : CSt) (sw : Bool) (work : Bool) (slots : Bool := true) (st2 : CSt := .out) : State :=
  objs (fun o => { o with slots := if slots then o.slots else [], ctxs := [(1, { cfg := config 1, st := st, switching := sw, l2p := [0] }), (2, { cfg := config 2, st := st2, l2p := [0] })],
                          kernels := if work then tabPut o.kernels 2 { ctx := 2, st := .ready } else o.kernels }) (rich)

theorem test_meets_time_sharing :
    (ctx? (sharing .resident false true) 1).map (fun x => (x.st, x.switching, x.cfg.isolated)) = some (.resident, false, false) ∧
    ((ctx? (sharing .resident false true) 1).bind (fun x => nextTurn (rotationSet (sharing .resident false true) x.cfg) 1 (fun y => y != 1 && hasWork (sharing .resident false true) y))) = some 2 ∧
    (ctx? (sharing .resident false false) 1).isSome = true ∧
    nextTurn (rotationSet (sharing .resident false false) (config 1)) 1 (fun y => y != 1 && hasWork (sharing .resident false false) y) = none ∧
    ((rotationSet (sharing .resident true true) (config 2)).find? (fun y => y.2.st == .resident && y.1 != 2)).map (fun y => (y.1, y.2.switching)) = some (1, true) ∧
    ((rotationSet (sharing .resident false true) (config 2)).find? (fun y => y.2.st == .resident && y.1 != 2)).map (fun y => (y.1, y.2.switching)) = some (1, false) ∧
    (ctx? (sharing .resident true true) 2).map (·.st) = some .out ∧
    (ctx? (sharing .resident false true) 2).map (·.st) = some .out ∧ drained (sharing .resident true true) 1 = false ∧
    drained (sharing .resident true true false) 1 = true ∧
    (rotationSet (sharing .out false true) (config 2)).find? (fun y => y.2.st == .resident && y.1 != 2) = none ∧
    (ctx? (sharing .out false true) 2).map (·.st) = some .out ∧
    (rotationSet (sharing .out false true true .resident) (config 2)).find? (fun y => y.2.st == .resident && y.1 != 2) = none ∧
    (ctx? (sharing .out false true true .resident) 2).map (·.st) = some .resident ∧
    (∀ y ∈ (sharing .out false true).agenda, y.2 ≠ .ev (.quantumEnd 2)) ∧
    (∃ y ∈ ({ sharing .out false true with agenda := [(2000, .ev (.quantumEnd 2))] } : State).agenda, y.2 = .ev (.quantumEnd 2)) :=
    by decide +kernel

/-- The record of a sequence: ACTIVE, greedy, 16 tokens, one slice, a ring of 64 entries, its versions at 4096. -/
def seqBytes (vocab : Nat := 16) : List Byte :=
  bytesOf 1 1 ++ bytesOf 7 1 ++ bytesOf 4 vocab ++ bytesOf 22 0 ++ bytesOf 2 1 ++ bytesOf 4 0 ++ bytesOf 4 0 ++ bytesOf 4 10 ++ bytesOf 4 11 ++ bytesOf 4 64 ++
  bytesOf 8 2048 ++ bytesOf 8 4096 ++ bytesOf 184 0

/-- Slot 0 waits for the sequence at address 256, whose record stands in memory. -/
def binding (bs : List Byte) (g : State → State := id) : State :=
  let s := rich (fun t => { t with st := .sleeping, wait := some (.binding (2 ^ 47 + 1)) }) g
  { s with mem := memWrite s.mem 256 bs }

/-- A slice of all its tokens with the logit 1 in each, and the weights that M has given them. -/
def slice (n w : Nat) : Slice := { first := 0, count := n, loc := 8192, logits := List.replicate n 0x3F800000, weights := List.replicate n w, task := 1, pend := 50 }

/-- The sequence of `serving` with a step at position 7. -/
def stepping (x : DrawStep) : State := serving (fun q => { q with nslices := 1, vocab := 16, steps := [(7, x)] })

/-- That sequence. -/
def held (s : State) : Seq := (tabGet s.o.seqs (2 ^ 47 + 1)).getD seq1

theorem test_meets_sequences : seqKey 1 256 = 2 ^ 47 + 1 ∧ bindWaiters (binding (seqBytes)) (2 ^ 47 + 1) = [0] ∧
    tabHas (binding (seqBytes)).o.seqs (2 ^ 47 + 1) = false ∧
    bindWaiters (objs (fun o => { o with seqs := [(2 ^ 47 + 1, seq1)] }) (binding (seqBytes))) (2 ^ 47 + 1) = [0] ∧
    errorOf (ctxXlat (objs (fun o => { o with ctxs := tabMap o.ctxs (fun _ c => { c with pages := [] }) }) (binding (seqBytes))) 1 256 .read) = some .page ∧
    (ctxXlat (binding (seqBytes)) 1 256 .read).toOption = some 256 ∧ (binding (seqBytes)).o.seqs = [] ∧
    (binding (seqBytes)).o.flips = [] ∧ (binding (seqBytes)).o.poison = [] ∧
    recordBad (seqOf 1 256 256 (memRead (binding (seqBytes)).mem 256 256)) (memRead (binding (seqBytes)).mem 256 256) = false ∧
    recordBad (seqOf 1 256 256 (memRead (binding (seqBytes 4)).mem 256 256)) (memRead (binding (seqBytes 4)).mem 256 256) = true ∧
    bindWaiters (rich) (2 ^ 47 + 1) = [] ∧ (held (serving)).st ≠ 3 ∧ (held (serving (fun q => { q with st := 3 }))).st = 3 ∧
    seqInUse (serving (fun q => { q with st := 3 })) (2 ^ 47 + 1) (held (serving (fun q => { q with st := 3 }))) = false ∧
    seqInUse (stepping { gen := 0, draws := [(1, 50)] }) (2 ^ 47 + 1) (held (stepping { gen := 0, draws := [(1, 50)] })) = true ∧
    stepFull (held (stepping { gen := 0, slices := [(0, slice 16 0)] })) 7 { gen := 0, slices := [(0, slice 16 0)] } = true ∧
    (held (stepping { gen := 0, slices := [(0, slice 8 1)], m := some (some 0x3F800000) })).nslices = 1 ∧
    tiles 16 0 [(0, slice 8 1)] = false ∧ tiles 16 0 [(0, slice 16 1)] = true ∧
    stepFull (held (stepping { gen := 0 })) 7 { gen := 0 } = false ∧
    verPoison (stepping { gen := 0, slices := [(0, slice 16 0)] }) (held (stepping { gen := 0, slices := [(0, slice 16 0)] })) 7 = none ∧
    maskPoison (stepping { gen := 0, slices := [(0, slice 16 0)] }) (held (stepping { gen := 0, slices := [(0, slice 16 0)] })) 7 0 16 = none ∧
    total (((slice 16 0).weights.zipIdx).map (·.1)) = 0 ∧ total (((slice 16 1).weights.zipIdx).map (·.1)) ≠ 0 ∧
    tabHas (held (serving)).masks 7 = false :=
    by decide +kernel

/-- What a supervisor of kernel 1 finds: the records that wait, and with `e` the posted entry 0 with command word w and operand v. -/
def super (recs : List SRec) (posted : Bool := false) (w v : Nat := 0) (code : Code := .soft) (st : TSt := .contained) : State :=
  let p : Tab SRec := if posted then [(0, { code := code, task := 1 })] else []
  let q : Quad := { full := if posted then [63544] else [] }
  let k := kern1 (fun k => { k with recs := recs, posted := p, lrec := { k.lrec with super := some 0 } })
  let s := rich (fun t => { t with wait := some .fpHold }) (k ∘ task1 (fun t => { t with st := st }) ∘ objs (fun o => { o with quads := [(0, q)] }))
  { s with mem := memWrite (memWrite [] (2 ^ 44 + 63488 + 56) (bytesOf 8 w)) (2 ^ 44 + 63488 + 48) (bytesOf 8 v) }

/-- A record of task 1. -/
def softRec : SRec := { code := .soft, task := 1 }

/-- The command word in entry 0, its code in bits 63:56, and its operand. -/
def commandIn (s : State) : Option (List Nat) :=
  (entryCommand s 1 0).map (fun x => [bits x.2.2 63 56, bits x.2.2 55 0, (misfit x.1).toNat, (contained s x.1).toNat, (setcsrBad x.2.1).toNat])

theorem test_meets_supervision : (kernel (rich id (kern1 (fun k => { k with recs := [softRec] }))) 1).recs = [softRec] ∧
    (kernel (rich id (kern1 (fun k => { k with recs := [softRec] }))) 1).lrec.super = none ∧ (kernel (rich) 1).posted = [] ∧
    (kernel (super [softRec] false 0 0 .soft .running) 1).recs = [softRec] ∧
    superGone (super [softRec] false 0 0 .soft .running) 1 = false ∧ superGone (super [softRec]) 1 = true ∧
    ringBase (super [softRec] false 0 0 .soft .running) 1 = some (2 ^ 44 + 63488) ∧
    isFull (super [softRec] false 0 0 .soft .running) (2 ^ 44 + 63488) = false ∧
    (superTask (super [softRec] false 0 0 .soft .running) 1).map (·.1) = some 1 ∧ (kernel (rich) 1).recs = [] ∧
    entryCommand (super []) 1 0 = none :=
    by decide +kernel

theorem test_meets_supervisor_commands : commandIn (super [] true (2 ^ 56)) = some [1, 0, 0, 1, 0] ∧
    commandIn (super [] true (2 ^ 56) 0 .fpEnabled) = some [1, 0, 1, 1, 0] ∧
    commandIn (super [] true (2 * 2 ^ 56) 0 .soft .running) = some [2, 0, 0, 0, 0] ∧
    commandIn (super [] true (3 * 2 ^ 56) 1) = some [3, 0, 0, 1, 0] ∧
    commandIn (super [] true (3 * 2 ^ 56) 32) = some [3, 0, 0, 1, 1] ∧
    commandIn (super [] true (4 * 2 ^ 56)) = some [4, 0, 0, 1, 0] ∧
    commandIn (super [] true (2 ^ 56 + 1)) = some [1, 1, 0, 1, 0] ∧
    commandIn (super [] true (2 * 2 ^ 56)) = some [2, 0, 0, 1, 0] ∧ softRec.kind ≠ 2 ∧ inHold (super []) 1 = true ∧
    inHold (rich) 1 = false :=
    by decide +kernel

theorem test_meets_engines : (engine (billet .waiting)).o.billets = [(9, billet .waiting)] ∧ (billet .waiting).die = 0 ∧
    (billet .waiting).preds = [] ∧ (die (engine (billet .waiting)) 0).engines < 64 ∧
    engineStalled (engine (billet .running)) (billet .running) = false ∧
    engineStalled (objs (fun o => { o with mod := { o.mod with throttle := .all } }) (engine (billet .running))) (billet .running) = true ∧
    errorOf ((billet .running).unitWork (objs (fun o => { o with ctxs := tabMap o.ctxs (fun _ c => { c with pages := [] }) }) (engine (billet .running))) 0) = some (.page, 0) ∧
    ((billet .running).unitWork (engine (billet .running)) 0).toOption.isSome = true ∧
    (engine (billet .running)).o.flips = [] ∧ (billet .waiting).st ≠ .running ∧
    (billet .running).units ≤ (billet .running [] 1).unit :=
    by decide +kernel

/-- Context 1 with a peer's window on its first 4 KiB, a send ring at 4096 and a receive ring at 8192; a port in a state and use. -/
def linked (f : Ctx → Ctx := id) (p : Port := {}) (g : Module → Module := id) : State :=
  objs (fun o => { o with mod := g o.mod, ports := Vector.replicate 16 p, ctxs := tabMap o.ctxs (fun _ c => f { c with
    rings := [(0, { out := [(2, 64)] })], peer := ⟨[⟨0, 4096, [(5, true, true)]⟩], [⟨4096, 256, 24, 5⟩], [⟨8192, 256, 32, 5⟩]⟩ }) }) (rich)

theorem test_meets_links : reachable (linked) 1 = true ∧
    ((ctx? (linked) 1).map (fun x => (peerMay x true 5 8 1, peerMay x true 6 8 1, x.peer.recvs.length))) = some (true, false, 1) ∧
    ((ctx? (linked) 1).map (fun x => (peerMay x false 5 8 1, peerMay x false 6 8 1))) = some (true, false) ∧
    (linkBytes (linked) 1 8 1).isSome = true ∧ linkBytes (linked) 1 65536 1 = none ∧
    writesAt (linked) 1 8 [7] = some [(8, [7])] ∧ writesAt (linked) 1 65536 [7] = none ∧ (linked).o.flips = [] ∧
    [(7 : Byte)].length ≤ 8192 ∧
    ((ctx? (linked) 1).bind (fun x => (tabGet x.rings 0).bind (fun r => tabGet r.out 2))) = some 64 ∧
    (writesAt (linked) 1 8192 (bytesOf 64 1)).isSome = true ∧
    writesAt (linked (fun c => { c with pages := [] })) 1 8192 (bytesOf 64 1) = none ∧
    linkUp (linked id { st := .up, use := .mirror }) PortUse.mirrors = true ∧
    mirroring (linked id { st := .up, use := .mirror } (fun m => { m with mirror := true })) = true ∧
    (linked).o.mod.st = .ready ∧
    linkUp (linked id { st := .training, use := .mirror } (fun m => { m with mirror := true, mirrorHeld := 2 ^ 26 })) PortUse.mirrors = false ∧
    2 ^ 26 ≤ (linked id { st := .training, use := .mirror } (fun m => { m with mirror := true, mirrorHeld := 2 ^ 26 })).o.mod.mirrorHeld ∧
    linkAway (objs id { linked id { st := .training, use := .mirror } with now := 95000000 }) PortUse.mirrors 95000000 = true ∧
    (kernel (rich id (rec1 (fun r => { r with twin := true }))) 1).lrec.twin = true ∧
    linkUp (linked id { st := .up, use := .twin true }) PortUse.twins = true ∧
    ((ctx? (linked (fun c => { c with cfg := { c.cfg with twin := true } })) 1).map (fun x => (x.st, x.cfg.twin, x.halted))) = some (.resident, true, false) ∧
    diverged (linked) 1 = false ∧ linkAway (linked) PortUse.twins 1900000 = false ∧
    diverged (linked id {} (fun m => { m with twinOwn := [(1, 0, 0, 5)], twinSeen := [(1, 0, 0, 6)] })) 1 = true ∧
    (port (linked id { st := .training }) 15).st = .training ∧
    PortUse.mirrors (port (linked id { st := .training }) 15).use = false ∧
    (port (linked id { st := .training, fails := 1 }) 0).fails + 1 < 3 ∧
    3 ≤ (port (linked id { st := .training, fails := 2 }) 0).fails + 1 ∧ (port (linked id { st := .up }) 15).st = .up :=
    by decide +kernel

/-- Data from a peer that the receive ring takes, where the free choice is to take it and its offset is 0. -/
theorem test_meets_inbound (h : Config.freeNat 101 = 0) : writesAt (linked) 1 (8192 + Config.freeNat ((linked).fresh + 1)) [7] = some [(8192, [7])] := by
  have e : (linked).fresh + 1 = 101 := rfl
  rw [e, h]; decide +kernel

/-- The module in a state. -/
def modAs (f : Module → Module) (now : Nat := 1000) : State := { objs (fun o => { o with mod := f o.mod }) (rich) with now := now }

/-- The dies have drawn a power of mw each. -/
def drawing (mw : Nat) (f : Module → Module := id) : State :=
  objs (fun o => { o with dies := o.dies.map (fun d => { d with power := mw }) }) (modAs f)

theorem test_meets_module : (modAs (fun m => { m with st := .verify })).o.mod.st = .verify ∧
    (modAs (fun m => { m with st := .training })).o.mod.st = .training ∧
    (modAs (fun m => { m with st := .scrub })).o.mod.st = .scrub ∧ (1 : BitVec 4).toNat ≤ 3 ∧ (rich).o.mod.st ≠ .reset ∧
    (modAs (fun m => { m with qlevel := 0 })).o.mod.qlevel = 0 ∧ (rich).o.mod.qlevel = 2 ∧ (rich).o.mod.st = .ready ∧
    capNow (rich).o.mod < powerNow (drawing 1000000) ∧ powerNow (drawing 10) ≤ capNow (rich).o.mod ∧
    (rich).o.mod.throttle = .off ∧ (modAs (fun m => { m with throttle := .shared })).o.mod.throttle ≠ .off ∧
    (modAs (fun m => { m with throttle := .shared, throttleFrom := 1000 }) 19001000).o.mod.throttleFrom + 19000000 ≤ 19001000 ∧
    (modAs (fun m => { m with st := .reset })).o.mod.st = .reset ∧ locGlobal (5 * 64) = true ∧
    mapsOk (List.replicate 4 (BitVec.allOnes 576)) = true ∧ mapsOk [] = false :=
    by decide +kernel

/-- A message of a queue with a code, a sequence number and an argument. -/
def message (queue code seq : Nat) (arg : Nat := 0) : BitVec 512 := BitVec.ofNat 512 (queue * 2 ^ 48 + code * 2 ^ 40 + seq * 2 ^ 64 + arg * 2 ^ 192)

/-- Queue 3 of context 1, changed as a test asks, a journal entry of it, and a launch record at address 256. -/
def hosting (f : Queue → Queue := id) (g : Kernel → Kernel := id) : State :=
  let s := objs (fun o => { o with queues := tabMap o.queues (fun _ q => f q), seqs := [(2 ^ 47 + 1, seq1)] }) (rich id (kern1 (fun k => g { k with host := true })))
  { s with mem := memWrite [] 256 launchBytes, journal := [⟨0, 5, 1, 1, 3, 1, 0, true⟩], jsn := 2 }

theorem test_meets_host_commands :
    (tabGet (hosting).o.queues 3).map (fun q => (q.cid, q.nextseq, q.st)) = some (1, 1, .opened) ∧
    (hosting).o.mod.st = .ready ∧ (ctx? (hosting) 1).isSome = true ∧ msgQueue (message 3 1 1 256) = 3 ∧
    msgCode (message 3 1 1 256) = 1 ∧ msgSeq (message 3 1 1 256) = 1 ∧ msgZeros (message 3 1 1 256) = true ∧
    msgZeros (message 3 1 1 256 ||| 1) = false ∧
    (tabGet (hosting (fun q => { q with st := .closing })).o.queues 3).map (·.st) = some .closing ∧
    1 < msgSeq (message 3 1 2) ∧ (entryFor (hosting (fun q => { q with nextseq := 2 })) 3 1 1).map (·.jsn) = some 1 ∧
    entryFor (hosting) 3 1 0 = none ∧ msgArg (message 3 1 1 256) 24 8 = 256 ∧ msgArg (message 3 1 1 256) 32 4 = 0 ∧
    (judgeLaunch (hosting) 0 1 (ctxBytes (hosting) 1 256 256 .read) (decide (256 ≤ hostKernels (hosting) 3))).1 = 0 ∧
    (judgeLaunch (hosting) 0 1 (ctxBytes (hosting) 1 1024 256 .read) (decide (256 ≤ hostKernels (hosting) 3))).1 ≠ 0 ∧
    (tabGet (hosting).o.seqs (seqKey 1 256)).map (·.addr) = some 256 ∧ msgArg (message 3 3 1 1) 28 8 = 0 ∧
    ((hosting).o.kernels.filter (fun k => k.2.queue == 3)).map (·.1) = [1] ∧ suspendable (kernel (hosting) 1) = true ∧
    (kernel (hosting id (fun k => { k with st := .suspended })) 1).st = .suspended ∧ killable (kernel (hosting) 1) = true ∧
    killable (kernel (hosting id (fun k => { k with st := .done })) 1) = false ∧ msgArg (message 3 6 1 7) 24 1 ≤ 7 ∧
    msgArg (message 3 6 1 7) 25 11 = 0 ∧
    (((hosting).o.queues.filter (fun x => x.2.cid == 1)).find? (fun x => x.1 == 3)).isSome = true ∧
    ((hosting).o.queues.filter (fun x => x.2.cid == 1)).find? (fun x => x.1 == 4) = none :=
    by decide +kernel

/-- A context's items inside their limits. -/
def wide (cid : Nat) : CtxCfg := { config cid with windows := [(0, 2 ^ 40)], keys := [(0, 1)], saveLen := 2 ^ 34 }

theorem test_meets_management : msgCode (message 1023 32 1) = 32 ∧ managed (rich) 32 = true ∧
    msgQueue (message 1023 32 1) = 1023 ∧ (rich).o.mod.mgmtSeq = 1 ∧ msgZeros (message 1023 32 1) = true ∧
    msgArg (message 1023 32 1) 32 4 = 0 ∧ limitsOk (rich) (config 1) = false ∧ limitsOk (rich) (wide 1) = true ∧
    tabHas (rich).o.ctxs (wide 1).cid = true ∧ (ctx? (rich) 1).map (·.st) = some .resident ∧ ctx? (rich) 4095 = none ∧
    (ctx? (objs (fun o => { o with ctxs := tabMap o.ctxs (fun _ c => { c with st := .dead }) }) (rich)) 1).map (·.st) = some .dead ∧
    ((ctx? (objs (fun o => { o with ctxs := [(1, { cfg := wide 1 })] }) (rich)) 1).map (fun x => (x.pages, pageOk x walked))) = some ([], true) ∧
    pageResident (objs (fun o => { o with cores := [] }) (rich)) 1 walked = false ∧
    (port (linked id { st := .failed }) 15).st = .failed ∧ 900 ≤ 1700 ∧
    (modAs (fun m => { m with qlevel := 0 })).o.mod.qlevel < 3 ∧
    ([0x0FFF, 0] : List (BitVec 16)).all (fun c => c.extractLsb' 12 4 == 0) = true ∧
    (modAs (fun m => { m with st := .recovery })).o.mod.st = .recovery :=
    by decide +kernel

theorem test_meets_invariant : Machine.Inv State.reset ∧ (Instr.sub 9 3 4 0).wf = true ∧ encode (.sub 9 3 4 0) ≠ .none ∧
    (decodeC 0x070A0022 0).toOption = some (.csrr ⟨false, false⟩ 5 0x022) ∧
    (decodeA 0x04241844).toOption = some (.sub 9 3 4 0) :=
  ⟨⟨by decide, List.pairwise_singleton _ _, by decide, by decide, by decide, by decide⟩, by decide +kernel⟩

/-- Slot 0 at a bundle of kernel 1's text, whose line its core holds. -/
def issuing (b : BitVec 64) (held : Bool := true) : State :=
  rich id (kern1 (fun k => { k with text := [b] }) ∘ objs (fun o => { o with cores := tabMap o.cores (fun _ c => { c with lines := if held then [2 ^ 58 + 2 ^ 12] else [] }) }))

/-- What a bundle's two words stand for. -/
def words (b : BitVec 64) : Option (Instr × Option Instr) := (decodeBundle b).toOption.map (fun x => (x.1, x.2.toOption))

/-- Slots 0 and 64, on two cores of quad 0, each at a near load of the first word of its scratchpad in this cycle; its bank
served the core `last` before. -/
def meeting (last : Nat) : State :=
  let s := issuing 0x000000000A0A0D80
  let t := regs [(3, 0x100000)] (thr s 0)
  { objs (fun o => { o with slots := [(0, t), (64, { t with task := 2 })], cores := [(0, Machine.core s 0), (1, Machine.core s 0)],
                            tasks := tabPut o.tasks 2 { kernel := 1, w := 0, g := 0, t := 1, ts := 0, st := .running, slot := some 64 },
                            quads := [(0, { banks := [(0, (7, last))] })] }) s with agenda := [(1000, .turn 0), (1000, .turn 64)] }

theorem test_meets_step : Machine.translate (issuing 0) 0 (thr (issuing 0) 0).arch.pc.toNat .fetch = .hit (2 ^ 18) textPage ∧
    (rich).agenda = [(1000, .turn 0)] ∧ (fetch (issuing 0 false) 0).toOption = none ∧
    (fetch (issuing 0x0424184400000000) 0).toOption = some 0x0424184400000000 ∧
    words 0x0000000006000007 = some (.trap ⟨false, false⟩ 7, some .anop) ∧
    words 0x0424184400000000 = some (.nop ⟨false, false⟩, some (.sub 9 3 4 0)) ∧
    words 0x04241844070A0022 = some (.csrr ⟨false, false⟩ 5 0x022, some (.sub 9 3 4 0)) ∧
    words 0xFE00000000000000 = some (.nop ⟨false, false⟩, none) ∧ words 0x000000003E000000 = none ∧
    occupied (issuing 0) 0 = true ∧ canIssue (thr (issuing 0) 0) = true ∧ haltedAt (issuing 0) 0 = false ∧
    (thr (issuing 0) 0).fault = none ∧ (thr (issuing 0) 0).arch.priv ≠ .firmware ∧ inText (issuing 0) 0 = true ∧
    (Machine.core (issuing 0) 0).lines.contains (textLine (issuing 0) 0) = true ∧ (thr (issuing 0) 0).joining = false ∧
    (fetch (meeting 3) 0).toOption = some 0x000000000A0A0D80 ∧ bundleBanks (meeting 3) 0 = [0] ∧
    losesBank (meeting 3) 0 [0] = false ∧ losesBank (meeting 0) 0 [0] = true ∧ (quad (rich) 0).banks = [] ∧
    (rich).agenda = [(1000, .turn 0)] ∧ coreOf 0 = 0 ∧ (issuing 0).agenda = [(1000, .turn 0)] ∧
    ({ rich with agenda := [(1000, .walk 5 0)] } : State).agenda = [(1000, .walk 5 0)] ∧
    ({ rich with agenda := [(1000, .offer 4 7 [])] } : State).agenda = [(1000, .offer 4 7 [])] ∧
    ({ rich with agenda := [] } : State).agenda = [] :=
  ⟨hit_of (by decide +kernel), by decide +kernel⟩

/-- Does a step go on? -/
def goesOn (o : Host.Outcome State Fault Refusal) : Bool :=
  match o with
  | .next _ => true
  | _ => false

theorem test_meets_frame : Ready (nears) [9, 127] [3, 4] ∧ AtPoint (nears) ∧
    nearOperand (nears) 0 (rd64 (nears) 0 3) 0 = .ok (4088, ⟨2 ^ 45 + 4088, false⟩) ∧ Ready (globals) [] [3, 9] ∧
    globalOperand (rd64 (globals) 0 3) 0 = .ok 65528 ∧ Machine.translate (globals) 0 65528 .write = .hit 65528 page ∧
    (Says.registerWord (.sub 9 3 4 0)) = some (9, [3, 4]) ∧ (Instr.sub 9 3 4 0).wf = true ∧
    goesOn (exec (.sub 9 3 4 0) (nears)) = true ∧ goesOn (exec (.stN false 4 3 3 0) (nears)) = true ∧
    speculative (nears) 0 = false ∧ raceTrap (nears) 0 (2 ^ 45 + 4088) 4088 8 true = none ∧
    goesOn (exec (.stG false 9 3 3 0) (globals)) = true ∧ guessing (globals) 0 = false ∧ relOf (globals) 0 65528 ≠ .mine ∧
    65528 % 8 = 0 ∧ regionStoreTrap (globals) 0 65528 (relOf (globals) 0 65528) = none :=
  ⟨ready_of (by decide +kernel), point_of (by decide +kernel), ok_of (by decide +kernel), ready_of (by decide +kernel),
    ok_of (by decide +kernel), hit_of (by decide +kernel), by decide +kernel⟩

theorem test_meets_traps : Deliverable (handled (rich)) ∧
    (firstTrap (rich) 0 { ill := true } {}) = some (bTrap (rich) 0 .illegal) ∧ (me (handled (rich))).arch.priv = .user ∧
    (me (handled (rich))).back ≠ .shadow ∧
    nested (rich (fun t => { t with arch := { t.arch with priv := .handler } })) 0 = true :=
  ⟨deliver_of (by decide +kernel), by decide +kernel⟩

theorem test_meets_commit : (thr (validating) 0).chunk.st ≠ .opened ∧ (validating).o.flips = [] ∧
    (thr (validating) 0).chunk.bar = none :=
    by decide +kernel

/-- Barrier 1 of group 0. -/
def barrier (b : Bar) : State := rich id (kern1 (fun k => { k with groups := tabUpd k.groups 0 (fun g => { g with bars := [(1, b)] }) }))

theorem test_meets_barriers : tabHas (barrier {}).o.kernels 1 = true ∧ (group? (barrier {}) 1 0).isSome = true ∧
    (barOf (barrier {}) 1 0 1).p = 0 ∧ (barOf (barrier { p := 3, c := 2 }) 1 0 1).p ≠ 0 ∧
    (barOf (barrier { p := 3, c := 2 }) 1 0 1).c < 3 ∧ 2 ≤ (barOf (barrier { p := 3, c := 2 }) 1 0 1).c ∧
    0 < (barOf (barrier { p := 3, late := 1 }) 1 0 1).late ∧ (barOf (barrier { p := 3, c := 1 }) 1 0 1).c + 1 < 3 ∧
    (barOf (barrier { p := 3, c := 2 }) 1 0 1).c + 1 = 3 ∧ (barOf (barrier { p := 3 }) 1 0 1).waiters = [] ∧
    (task? (barrier { p := 3 }) 1).bind (·.slot) = some 0 ∧ occupied (barrier { p := 3 }) 0 = true ∧
    (thr (barrier { p := 3 }) 0).arch.strm 9 = none :=
    by decide +kernel

theorem test_meets_pairs : Ready (handled (rich)) [5, 9] [3, 4] ∧ Deliverable (handled (rich)) ∧
    words 0x02241844070A0022 = some (.csrr ⟨false, false⟩ 5 0x022, some (.add 9 3 4 0)) ∧
    words 0x02141844070A0022 = some (.csrr ⟨false, false⟩ 5 0x022, some (.add 5 3 4 0)) ∧ csrKnown 0x022 = true ∧
    clash { dests := [5] } { dests := [5] } = true :=
  ⟨ready_of (by decide +kernel), deliver_of (by decide +kernel), by decide +kernel⟩

end Sys2Proof.Tests
end

section
/-!
Proofs: the control words NOP, ANOP, BR, BRN, JMP, CALL, JMPR and CALLR (R58, R59, R80 to R82) in a slot that has
nothing else under way. Each word's plan is computed once; two lemmas about the issue of such a plan, one for a plan
that takes effect and one for a plan that raises ALIGN, then say what the word does.
-/

namespace Sys2Proof.Machine

open Sys2Proof

/-! ## The PC at the end of a bundle -/

/-- Two changes that agree on the current thread change the state alike. -/
theorem onMe_congr {s : State} {f g : Thread → Thread} (h : occupied s s.cur = true) (e : f (me s) = g (me s)) :
    onMe s f = onMe s g := by
  obtain ⟨t, ht⟩ := Option.isSome_iff_exists.mp h
  have m : me s = t := by simp [me, thr, tabD, ht]
  rw [m] at e
  simp only [onMe, tabUpd, ht, e]

/-- To move to the bundle behind is what the end of a bundle does of itself. -/
theorem finished_pc_add_eight {u : State} (h : occupied u u.cur = true) (m : Bool) (lost : Nat) :
    finished u m (some ((me u).arch.pc + 8)) lost = finished u m none lost := by
  simp only [finished]
  rw [onMe_congr (f := stepped (some ((me u).arch.pc + 8)) lost) (g := stepped none lost) h rfl]

/-! ## The fields of control words -/

theorem regFields_single {names : List Field} (hs : ∀ x ∈ names, x.each = [x]) : regFields names = names := by
  induction names with
  | nil => rfl
  | cons x r ih =>
    rw [List.forall_mem_cons] at hs
    have tail : r.flatMap Field.each = r := ih hs.2
    simp only [regFields, List.flatMap_cons, hs.1, tail, List.singleton_append]

/-- The plan of a word that names single registers, all plain, and writable where written. -/
theorem regPlan_single {s : State} (h : Clear s) {names : List Field} (hs : ∀ x ∈ names, x.n = none ∧ x.pred = false)
    (hp : ∀ x ∈ names, Plain s x.f) (hd : ∀ x ∈ names, x.w = true → Dest s x.f) :
    regPlan s s.cur true names = { dests := names.flatMap Field.dests } := by
  have f : regFields names = names := regFields_single (fun x hx => by simp [Field.each, hs x hx])
  exact regPlan_plain h true names (fun x hx n e => by simp [hs x hx] at e) (by rwa [f]) (by rwa [f])

/-- Reading a predicate asks nothing of the issue while no long instruction is under way. -/
theorem regPlan_inPred {s : State} (h : Clear s) (k : BitVec 3) : regPlan s s.cur true [inPred k] = {} :=
  regPlan_plain h true [inPred k] (fun x hx n e => by simp [List.mem_singleton.mp hx, inPred, inF] at e) nofun nofun

theorem dest_link {s : State} (p : Plain s 1) : Dest s 1 := ⟨p, .inl (by decide)⟩

theorem regPlan_source {s : State} (h : Clear s) {a : BitVec 7} (p : Plain s a.toNat) :
    regPlan s s.cur true [fr a] = {} :=
  regPlan_single h (by simp [fr, inF]) (by simpa [fr, inF] using p) (by simp [fr, inF])

theorem regPlan_link {s : State} (h : Clear s) (p : Plain s 1) : regPlan s s.cur true [fw 1] = { dests := [1] } :=
  regPlan_single h (by simp [fw, outF]) (by simpa [fw, outF] using p) (by simpa [fw, outF] using dest_link p)

theorem regPlan_link_source {s : State} (h : Clear s) (p : Plain s 1) {a : BitVec 7} (pa : Plain s a.toNat) :
    regPlan s s.cur true [fw 1, fr a] = { dests := [1] } :=
  regPlan_single h (by simp [fw, fr, inF, outF]) (by simpa [fw, fr, inF, outF] using ⟨p, pa⟩)
    (by simpa [fw, fr, inF, outF] using dest_link p)

/-! ## The issue of a control word -/

/-- The issue of a C-word that asks for nothing but its effect, a next PC and a marker. -/
theorem fireC_moves {s : State} {P : State → Plan} {ds : List Nat} {npc : Option (BitVec 64)} {l : List Stage} {m : Bool}
    (h : Clear s) (e : P s = { dests := ds, npc := npc, stages := l, mark := m }) {u : State}
    (hu : run l (taken s) = u) (fu : Fit u) (cu : u.cur = s.cur) : fireC P s = .next (finished u m npc) := by
  have q : Runs s (P s) := by rw [e]; exact ⟨rfl, rfl, rfl, rfl, rfl, rfl, rfl, rfl, rfl, rfl, rfl, rfl, rfl, rfl⟩
  rw [fireC_runs h q (by rw [e]; exact hu) fu cu, e]

/-- A C-word without an effect of its own only ends its bundle and moves the PC. -/
theorem fireC_jumps {s : State} {P : State → Plan} {npc : Option (BitVec 64)} {m : Bool} (h : Clear s)
    (e : P s = { npc := npc, mark := m }) : fireC P s = .next (finished (taken s) m npc) :=
  fireC_moves h e (run_nil _) h.fit_taken rfl

/-- A C-word whose one effect is its link in x1. -/
theorem fireC_links {s : State} {P : State → Plan} {npc : Option (BitVec 64)} {v : Word} {m : Bool} (h : Clear s)
    (p : Plain s 1) (e : P s = { dests := [1], npc := npc, stages := [wr s.cur 1 v], mark := m }) :
    fireC P s = .next (finished (put (taken s) 1 v) m npc) :=
  fireC_moves h e (wr_put (s := taken s) v p.1) (h.fit_taken.put 1 v) (cur_put _ _ _)

/-- A C-word that asks for nothing but a trap of class 3 raises it. -/
theorem fireC_raises_own {s : State} {P : State → Plan} {ds : List Nat} {npc : Option (BitVec 64)} {l : List Stage}
    {m : Bool} {tr : Trap} (h : Deliverable s)
    (e : P s = { dests := ds, npc := npc, stages := l, mark := m, c3 := some tr }) (ns : tr.code ≠ .soft) :
    fireC P s = .next (delivered s tr (me s).arch.pc) := by
  refine fireC_raises h ?_ ns
  simp only [firstTrap, clash_idle, e]
  rfl

/-! ## The plans of control words -/

theorem targetTrap_aligned {v : Dword} (e : v.toNat % 8 = 0) : targetTrap v = none := if_pos e

theorem targetTrap_misaligned {v : Dword} (e : v.toNat % 8 ≠ 0) : targetTrap v = some ⟨.align, v⟩ := if_neg e

theorem branchPlan_eq {s : State} (h : Clear s) (ls : LS) (k : BitVec 3) (off : BitVec 20) (sense : Bool) :
    branchPlan ls k off sense s =
      { npc := if ((me s).arch.pred k.toNat).getLsbD 0 = sense then some ((me s).arch.pc + 8 * off.signExtend 64) else none
        mark := ls.s } := by
  simp only [branchPlan, regPlan_inPred h, cPlan, pcOf, beq_iff_eq]

theorem planCall_eq {s : State} (h : Clear s) (p : Plain s 1) (ls : LS) (off : BitVec 24) :
    planCall ls off s = { dests := [1], npc := some ((me s).arch.pc + 8 * off.signExtend 64)
                          stages := [wr s.cur 1 (ext64 ((me s).arch.pc + 8))], mark := ls.s } := by
  simp only [planCall, regPlan_link h p, cPlan, Plan.does, pcOf, List.nil_append]

theorem planJmpr_eq {s : State} (h : Clear s) {a : BitVec 7} (pa : Plain s a.toNat) (ls : LS) :
    planJmpr ls a s =
      { npc := some (rd64 s s.cur a.toNat), mark := ls.s, c3 := targetTrap (rd64 s s.cur a.toNat) } := by
  simp only [planJmpr, regPlan_source h pa, cPlan, Plan.own, Option.none_or]

theorem planCallr_eq {s : State} (h : Clear s) (p : Plain s 1) {a : BitVec 7} (pa : Plain s a.toNat) (ls : LS) :
    planCallr ls a s =
      { dests := [1], npc := some (rd64 s s.cur a.toNat), stages := [wr s.cur 1 (ext64 ((me s).arch.pc + 8))]
        mark := ls.s, c3 := targetTrap (rd64 s s.cur a.toNat) } := by
  simp only [planCallr, regPlan_link_source h p pa, cPlan, Plan.own, Plan.does, pcOf, Option.none_or, List.nil_append]

/-! ## The words -/

theorem exec_nop {s : State} (h : Clear s) (ls : LS) : exec (.nop ls) s = .next (finished (taken s) ls.s) :=
  fireC_jumps (P := planNop ls) h rfl

theorem exec_anop {s : State} (h : Clear s) : exec .anop s = .next (finished (taken s) false) :=
  fireA_runs (p := planAnop) h (idle_runs s) (run_nil _) h.fit_taken rfl

/-- A branch goes to its target where lane 0 of its predicate is what the branch asks for, else to the bundle behind. -/
theorem fireC_branchPlan {s : State} (h : Clear s) (ls : LS) (k : BitVec 3) (off : BitVec 20) (sense : Bool) :
    fireC (branchPlan ls k off sense) s = .next (finished (taken s) ls.s
      (some (if ((me s).arch.pred k.toNat).getLsbD 0 = sense then (me s).arch.pc + 8 * off.signExtend 64
        else (me s).arch.pc + 8))) := by
  rw [fireC_jumps h (branchPlan_eq h ls k off sense)]
  split
  · rfl
  · exact congrArg _ (finished_pc_add_eight (u := taken s) h.held ls.s 0).symm

theorem exec_br {s : State} (h : Clear s) (ls : LS) (k : BitVec 3) (off : BitVec 20) :
    exec (.br ls k off) s = .next (finished (taken s) ls.s
      (some (if ((me s).arch.pred k.toNat).getLsbD 0 then (me s).arch.pc + 8 * off.signExtend 64
        else (me s).arch.pc + 8))) :=
  fireC_branchPlan h ls k off true

theorem exec_brn {s : State} (h : Clear s) (ls : LS) (k : BitVec 3) (off : BitVec 20) :
    exec (.brn ls k off) s = .next (finished (taken s) ls.s
      (some (if ((me s).arch.pred k.toNat).getLsbD 0 then (me s).arch.pc + 8
        else (me s).arch.pc + 8 * off.signExtend 64))) := by
  refine (fireC_branchPlan h ls k off false).trans ?_
  cases ((me s).arch.pred k.toNat).getLsbD 0 <;> rfl

theorem exec_jmp {s : State} (h : Clear s) (ls : LS) (off : BitVec 24) :
    exec (.jmp ls off) s = .next (finished (taken s) ls.s (some ((me s).arch.pc + 8 * off.signExtend 64))) :=
  fireC_jumps (P := planJmp ls off) h rfl

theorem exec_call {s : State} (h : Clear s) (p : Plain s 1) (ls : LS) (off : BitVec 24) :
    exec (.call ls off) s = .next (finished (put (taken s) 1 (((me s).arch.pc + 8).setWidth 128)) ls.s
      (some ((me s).arch.pc + 8 * off.signExtend 64))) :=
  fireC_links h p (planCall_eq h p ls off)

section RegisterTarget

variable {s : State} {a : BitVec 7} (pa : Plain s a.toNat) (ls : LS)
include pa

theorem exec_jmpr (h : Clear s) (al : (rd64 s s.cur a.toNat).toNat % 8 = 0) :
    exec (.jmpr ls a) s = .next (finished (taken s) ls.s (some (rd64 s s.cur a.toNat))) :=
  fireC_jumps h (by rw [planJmpr_eq h pa, targetTrap_aligned al])

theorem exec_callr (h : Clear s) (p : Plain s 1) (al : (rd64 s s.cur a.toNat).toNat % 8 = 0) :
    exec (.callr ls a) s = .next (finished (put (taken s) 1 (((me s).arch.pc + 8).setWidth 128)) ls.s
      (some (rd64 s s.cur a.toNat))) :=
  fireC_links h p (by rw [planCallr_eq h p pa, targetTrap_aligned al, ext64])

theorem jmpr_raises_align (h : Deliverable s) (mis : (rd64 s s.cur a.toNat).toNat % 8 ≠ 0) :
    Raises s (.jmpr ls a) ⟨.align, rd64 s s.cur a.toNat⟩ :=
  fireC_raises_own h (by rw [planJmpr_eq h.clear pa, targetTrap_misaligned mis]) nofun

theorem callr_raises_align (h : Deliverable s) (p : Plain s 1) (mis : (rd64 s s.cur a.toNat).toNat % 8 ≠ 0) :
    Raises s (.callr ls a) ⟨.align, rd64 s s.cur a.toNat⟩ :=
  fireC_raises_own h (by rw [planCallr_eq h.clear p pa, targetTrap_misaligned mis]) nofun

end RegisterTarget

/-- Settles O5: each word's plan asks for its next PC, the calls for their link, and the register forms for ALIGN. -/
theorem controlFlowMovesThePc : Obligations.ControlFlowMovesThePc := by
  intro s ls h
  refine ⟨exec_nop h ls, exec_anop h, fun k off => ⟨exec_br h ls k off, exec_brn h ls k off⟩, exec_jmp h ls,
    fun off p => exec_call h p ls off, fun a pa => ⟨exec_jmpr pa ls h, fun al p => exec_callr pa ls h p al, ?_⟩⟩
  exact fun mis d => ⟨jmpr_raises_align pa ls d mis, fun p => callr_raises_align pa ls d p mis⟩

end Sys2Proof.Machine
end

section
/-!
Proofs: the results of the scalar table (R128). The model computes with integers and takes the result modulo 2^W; the
table is written with bit vectors. `BitVec.ofInt W` is the bridge: an operation on integers is followed to the pattern of
its result, for any width, and then read off at the width of the type.
-/

namespace Sys2Proof.Machine

open Sys2Proof

/-! ## Integers as W-bit patterns (R128) -/

theorem sWidth_cases (t : BitVec 2) :
    (t.getLsbD 1 = false ∧ sWidth t = 32) ∨ (t.getLsbD 1 = true ∧ sWidth t = 64) := by
  unfold sWidth; cases t.getLsbD 1 <;> simp

theorem sWidth_le (t : BitVec 2) : sWidth t ≤ 64 := by
  obtain ⟨-, w⟩ | ⟨-, w⟩ := sWidth_cases t <;> omega

theorem sWidth_pos (t : BitVec 2) : 0 < sWidth t := by
  obtain ⟨-, w⟩ | ⟨-, w⟩ := sWidth_cases t <;> omega

theorem ofInt_toNat {w : Nat} (x : BitVec w) : BitVec.ofInt w (x.toNat : Int) = x := by
  rw [BitVec.ofInt_natCast, BitVec.ofNat_toNat, BitVec.setWidth_eq]

theorem signed_toNat {w : Nat} (x : BitVec w) : signed w x.toNat = x.toInt := by
  rw [signed, BitVec.ofNat_toNat, BitVec.setWidth_eq]

theorem signed_wrap (w : Nat) (i : Int) : signed w (wrap w i) = (BitVec.ofInt w i).toInt := signed_toNat _

theorem wd_toNat {w : Nat} (x : BitVec w) : wd x.toNat = x.setWidth 128 := by rw [wd, BitVec.ofNat_toNat]

theorem wd_wrap (w : Nat) (i : Int) : wd (wrap w i) = (BitVec.ofInt w i).setWidth 128 := wd_toNat _

theorem sPat_eq_toNat (t : BitVec 2) (x : Word) : sPat t x = (x.setWidth (sWidth t)).toNat :=
  (BitVec.toNat_setWidth _ _).symm

theorem sIn_unsigned {t : BitVec 2} (h : t.getLsbD 0 = true) (x : Word) :
    sIn t x = ((x.setWidth (sWidth t)).toNat : Int) := by
  rw [sIn, if_pos h, sPat_eq_toNat]

theorem sIn_signed {t : BitVec 2} (h : t.getLsbD 0 = false) (x : Word) :
    sIn t x = (x.setWidth (sWidth t)).toInt := by
  rw [sIn, if_neg (ne_true_of_eq_false h), sPat_eq_toNat, signed_toNat]

theorem ofInt_sIn (t : BitVec 2) (x : Word) : BitVec.ofInt (sWidth t) (sIn t x) = x.setWidth (sWidth t) := by
  cases h : t.getLsbD 0
  · rw [sIn_signed h, BitVec.ofInt_toInt]
  · rw [sIn_unsigned h, ofInt_toNat]

theorem sOut_eq_result (t : BitVec 2) (v : Int) : sOut t v = Says.result t (BitVec.ofInt 32 v) (BitVec.ofInt 64 v) := by
  unfold sOut Says.result
  split
  · rw [wd_wrap, signed_wrap]; rfl
  · rw [wd_wrap]
    split
    · subst t; rfl
    · rename_i h0 h1
      have w : sWidth t = 64 := by revert t; decide
      rw [w]

/-- Of a result given for every width, only the one of the type's own width counts. -/
theorem result_congr {t : BitVec 2} {f g : (w : Nat) → BitVec w} (e : f (sWidth t) = g (sWidth t)) :
    Says.result t (f 32) (f 64) = Says.result t (g 32) (g 64) := by
  obtain ⟨h, w⟩ | ⟨h, w⟩ := sWidth_cases t
  · rw [w] at e
    have c : t = 0 ∨ t = 1 := by revert t; decide
    rcases c with rfl | rfl <;> simp [Says.result, e]
  · rw [w] at e
    have c : t = 2 ∨ t = 3 := by revert t; decide
    rcases c with rfl | rfl <;> simp [Says.result, e]

/-- An operation whose W-bit result depends on the W-bit patterns of its operands alone. -/
theorem sOut_alike {t : BitVec 2} {F : Int → Int → Int} {g : (w : Nat) → BitVec w → BitVec w → BitVec w}
    (h : ∀ i j, BitVec.ofInt (sWidth t) (F i j) = g _ (BitVec.ofInt (sWidth t) i) (BitVec.ofInt (sWidth t) j))
    (x y : Word) : sOut t (F (sIn t x) (sIn t y)) = Says.alike (g 32) (g 64) t x y := by
  rw [sOut_eq_result]
  exact result_congr (f := fun w => BitVec.ofInt w _) (g := fun w => g w (x.setWidth w) (y.setWidth w))
    (by simp only [h, ofInt_sIn])

/-- An operation that takes its operands as signed numbers for s types, as unsigned ones for n types. -/
theorem sOut_bySign {t : BitVec 2} {F : Int → Int → Int} {gs gu : (w : Nat) → BitVec w → BitVec w → BitVec w}
    (hs : t.getLsbD 0 = false → ∀ x y : BitVec (sWidth t), BitVec.ofInt _ (F x.toInt y.toInt) = gs _ x y)
    (hu : t.getLsbD 0 = true → ∀ x y : BitVec (sWidth t), BitVec.ofInt _ (F x.toNat y.toNat) = gu _ x y) (x y : Word) :
    sOut t (F (sIn t x) (sIn t y)) = Says.bySign (gs 32) (gu 32) (gs 64) (gu 64) t x y := by
  rw [sOut_eq_result, Says.bySign]
  cases h : t.getLsbD 0
  · rw [sIn_signed h, sIn_signed h]
    exact result_congr (f := fun w => BitVec.ofInt w _) (g := fun w => gs w (x.setWidth w) (y.setWidth w)) (hs h _ _)
  · rw [sIn_unsigned h, sIn_unsigned h]
    exact result_congr (f := fun w => BitVec.ofInt w _) (g := fun w => gu w (x.setWidth w) (y.setWidth w)) (hu h _ _)

/-! ## Arithmetic and logic on patterns -/

theorem ofInt_sub (w : Nat) (i j : Int) : BitVec.ofInt w (i - j) = BitVec.ofInt w i - BitVec.ofInt w j := by
  rw [Int.sub_eq_add_neg, BitVec.ofInt_add, BitVec.ofInt_neg, BitVec.sub_eq_add_neg]

/-- A bitwise operation on patterns gives the pattern that the bit vectors' operation gives. -/
theorem ofInt_onBits (t : BitVec 2) {f : Nat → Nat → Nat}
    {g : BitVec (sWidth t) → BitVec (sWidth t) → BitVec (sWidth t)}
    (h : ∀ x y, (g x y).toNat = f x.toNat y.toNat) (i j : Int) :
    BitVec.ofInt (sWidth t) (onBits t f i j) = g (BitVec.ofInt _ i) (BitVec.ofInt _ j) := by
  rw [onBits, wrap, wrap, ← h, ofInt_toNat]

/-! ## Shifts -/

/-- W divides 2^W, so a shift amount modulo W is seen in the pattern. -/
theorem sAmount_eq_mod (t : BitVec 2) (j : Int) : sAmount t j = (BitVec.ofInt (sWidth t) j).toNat % sWidth t := by
  rw [sAmount, BitVec.toNat_ofInt]
  obtain ⟨-, w⟩ | ⟨-, w⟩ := sWidth_cases t <;> rw [w] <;> omega

theorem ofInt_mul_two_pow (w k : Nat) (i : Int) : BitVec.ofInt w (i * (2 ^ k : Nat)) = BitVec.ofInt w i <<< k := by
  have e : BitVec.ofNat w (2 ^ k) = BitVec.twoPow w k :=
    BitVec.eq_of_toNat_eq (by rw [BitVec.toNat_ofNat, BitVec.toNat_twoPow])
  rw [BitVec.ofInt_mul, BitVec.ofInt_natCast, BitVec.shiftLeft_eq_mul_twoPow, e]

theorem ofNat_div_two_pow {w : Nat} (x : BitVec w) (k : Nat) : BitVec.ofNat w (x.toNat / 2 ^ k) = x >>> k := by
  apply BitVec.eq_of_toNat_eq
  rw [BitVec.toNat_ofNat, BitVec.toNat_ushiftRight, Nat.shiftRight_eq_div_pow,
    Nat.mod_eq_of_lt (Nat.lt_of_le_of_lt (Nat.div_le_self _ _) x.isLt)]

theorem toInt_div_two_pow {w : Nat} (x : BitVec w) (k : Nat) : x.toInt / (2 ^ k : Nat) = (x.sshiftRight k).toInt := by
  rw [BitVec.toInt_sshiftRight, Int.shiftRight_eq_div_pow]

theorem ofInt_toInt_div_two_pow {w : Nat} (x : BitVec w) (k : Nat) :
    BitVec.ofInt w (x.toInt / (2 ^ k : Nat)) = x.sshiftRight k := by
  rw [toInt_div_two_pow, BitVec.ofInt_toInt]

/-- The two parts of a rotated pattern do not overlap. -/
theorem ofNat_rotated {w : Nat} (x : BitVec w) {k : Nat} (hk : k < w) :
    BitVec.ofNat w (x.toNat * 2 ^ k + x.toNat / 2 ^ (w - k)) = x.rotateLeft k := by
  have low : x.toNat / 2 ^ (w - k) < 2 ^ k := by
    apply Nat.div_lt_of_lt_mul
    rw [← Nat.pow_add, Nat.sub_add_cancel hk.le]
    exact x.isLt
  rw [BitVec.rotateLeft_def, Nat.mod_eq_of_lt hk, Nat.mul_comm, Nat.two_pow_add_eq_or_of_lt low, BitVec.ofNat_or,
    ofNat_div_two_pow]
  congr 1
  apply BitVec.eq_of_toNat_eq
  rw [BitVec.toNat_ofNat, BitVec.toNat_shiftLeft, Nat.shiftLeft_eq, Nat.mul_comm]

/-! ## Operations by sign -/

theorem ofInt_tdiv {w : Nat} (x y : BitVec w) : BitVec.ofInt w (x.toInt.tdiv y.toInt) = x.sdiv y :=
  BitVec.eq_of_toInt_eq (by rw [BitVec.toInt_ofInt, BitVec.toInt_sdiv])

theorem ofInt_tmod {w : Nat} (x y : BitVec w) : BitVec.ofInt w (x.toInt.tmod y.toInt) = x.srem y := by
  rw [← BitVec.toInt_srem, BitVec.ofInt_toInt]

theorem ofInt_natCast_tdiv {w : Nat} (x y : BitVec w) : BitVec.ofInt w ((x.toNat : Int).tdiv y.toNat) = x.udiv y := by
  rw [← Int.ofNat_tdiv, ← BitVec.toNat_udiv]; exact ofInt_toNat _

theorem ofInt_natCast_tmod {w : Nat} (x y : BitVec w) : BitVec.ofInt w ((x.toNat : Int).tmod y.toNat) = x.umod y := by
  rw [← Int.ofNat_tmod, ← BitVec.toNat_umod]; exact ofInt_toNat _

/-- Bits 2W−1 to W of a number, found in its 2W-bit pattern. -/
theorem ofInt_div_two_pow_width (w : Nat) (i : Int) :
    BitVec.ofInt w (i / (2 ^ w : Nat)) = (BitVec.ofInt (w + w) i >>> w).setWidth w := by
  obtain ⟨n, hn⟩ := Int.eq_ofNat_of_zero_le (Int.emod_nonneg i (b := (2 ^ (w + w) : Nat)) (by positivity))
  have split : i = n + (2 ^ w : Nat) * ((2 ^ w : Nat) * (i / (2 ^ (w + w) : Nat))) := by
    rw [← Int.mul_assoc, ← Int.natCast_mul, ← Nat.pow_add, ← hn, Int.emod_add_mul_ediv]
  have high : i / (2 ^ w : Nat) % (2 ^ w : Nat) = ((n / 2 ^ w % 2 ^ w : Nat) : Int) := by
    rw [split, Int.add_mul_ediv_left _ _ (by positivity), Int.add_mul_emod_self_left]; rfl
  apply BitVec.eq_of_toNat_eq
  rw [BitVec.toNat_ofInt, high, BitVec.toNat_setWidth, BitVec.toNat_ushiftRight, BitVec.toNat_ofInt, hn,
    Nat.shiftRight_eq_div_pow]
  rfl

/-- The upper half of the exact product of signed numbers. -/
theorem ofInt_mul_high_signed {w : Nat} (x y : BitVec w) :
    BitVec.ofInt w (x.toInt * y.toInt / (2 ^ w : Nat)) =
      ((x.signExtend (w + w) * y.signExtend (w + w)) >>> w).setWidth w := by
  rw [ofInt_div_two_pow_width, BitVec.ofInt_mul]; rfl

/-- The upper half of the exact product of unsigned numbers. -/
theorem ofInt_mul_high_unsigned {w : Nat} (x y : BitVec w) :
    BitVec.ofInt w ((x.toNat : Int) * y.toNat / (2 ^ w : Nat)) =
      ((x.setWidth (w + w) * y.setWidth (w + w)) >>> w).setWidth w := by
  rw [ofInt_div_two_pow_width, BitVec.ofInt_mul, BitVec.ofInt_natCast, BitVec.ofInt_natCast, BitVec.ofNat_toNat,
    BitVec.ofNat_toNat]

theorem ofInt_ite_toInt {w : Nat} (c : Prop) [Decidable c] (x y : BitVec w) :
    BitVec.ofInt w (if c then x.toInt else y.toInt) = if c then x else y := by
  split <;> exact BitVec.ofInt_toInt

theorem ofInt_ite_toNat {w : Nat} (c : Prop) [Decidable c] (x y : BitVec w) :
    BitVec.ofInt w (if c then (x.toNat : Int) else y.toNat) = if c then x else y := by
  split <;> exact ofInt_toNat _

theorem ofInt_toInt_abs {w : Nat} (x : BitVec w) :
    BitVec.ofInt w (if x.toInt < 0 then -x.toInt else x.toInt) = if x.msb then -x else x := by
  simp only [BitVec.msb_eq_toInt, decide_eq_true_eq]
  split
  · rw [BitVec.ofInt_neg, BitVec.ofInt_toInt]
  · exact BitVec.ofInt_toInt

theorem ofInt_toNat_abs {w : Nat} (x : BitVec w) :
    BitVec.ofInt w (if (x.toNat : Int) < 0 then -(x.toNat : Int) else x.toNat) = x := by
  rw [if_neg (Int.not_lt.mpr (Int.natCast_nonneg _)), ofInt_toNat]

/-! ## Numbers built from bits -/

theorem upto_eq_range' (a n : Nat) : upto a n = List.range' a n := by
  induction n generalizing a with
  | zero => rfl
  | succ n ih => rw [upto, ih, List.range'_succ]

theorem upto_zero_eq_range (n : Nat) : upto 0 n = List.range n := by rw [upto_eq_range', List.range_eq_range']

theorem total_eq_sum (l : List Nat) : total l = l.sum := List.sum_eq_foldl_nat.symm

theorem bit_eq_toNat (b : Bool) : bit b = b.toNat := by cases b <;> rfl

/-- A sum of powers of two is the number that has those bits. -/
theorem sum_bits_eq_ofBits (p : Nat → Bool) (w : Nat) :
    ((List.range w).map (fun i => bit (p i) * 2 ^ i)).sum = Nat.ofBits (fun i : Fin w => p i) := by
  induction w generalizing p with
  | zero => rfl
  | succ w ih =>
    have e : (fun i => bit (p (i + 1)) * 2 ^ (i + 1)) = fun i => 2 * (bit (p (i + 1)) * 2 ^ i) := by
      funext i; rw [Nat.pow_succ]; ring
    rw [List.sum_range_succ', Nat.ofBits_succ]
    simp only [Nat.succ_eq_add_one]
    rw [e, List.sum_map_mul_left, ih (fun i => p (i + 1)), Nat.pow_zero, Nat.mul_one, bit_eq_toNat, Nat.add_comm]
    rfl

theorem total_bits_eq_ofBits (p : Nat → Bool) (w : Nat) :
    total ((upto 0 w).map (fun i => bit (p i) * 2 ^ i)) = Nat.ofBits (fun i : Fin w => p i) := by
  rw [total_eq_sum, upto_zero_eq_range, sum_bits_eq_ofBits]

/-- A pattern is the number with its bits. -/
theorem ofNat_ofBits_eq {w : Nat} {f : Fin w → Bool} {x : BitVec w} (h : ∀ i : Fin w, x.getLsbD i = f i) :
    BitVec.ofNat w (Nat.ofBits f) = x := by
  apply BitVec.eq_of_getLsbD_eq
  intro i hi
  rw [BitVec.getLsbD_ofNat, Nat.testBit_ofBits_lt _ _ hi, decide_eq_true hi, Bool.true_and, ← h ⟨i, hi⟩]

/-! ## Bits counted and reversed -/

/-- The first number that fails a test ends the run of those that pass it. -/
theorem length_takeWhile_upto {p : Nat → Bool} {a n k : Nat} (hk : k ≤ n) (h : ∀ i < k, p (a + i) = true)
    (e : k < n → p (a + k) = false) : ((upto a n).takeWhile p).length = k := by
  induction n generalizing a k with
  | zero => rw [Nat.le_zero.mp hk]; rfl
  | succ n ih =>
    cases k with
    | zero => rw [upto, List.takeWhile_cons_of_neg (by simpa using e (by omega))]; rfl
    | succ k =>
      rw [upto, List.takeWhile_cons_of_pos (by simpa using h 0 (by omega)), List.length_cons,
        ih (a := a + 1) (k := k) (by omega) (fun i hi => ?_) (fun hi => ?_)]
      · rw [Nat.add_assoc, Nat.add_comm 1]; exact h (i + 1) (by omega)
      · rw [Nat.add_assoc, Nat.add_comm 1]; exact e (by omega)

theorem leadingZeros_eq_clz {w : Nat} (hw : 0 < w) (x : BitVec w) : leadingZeros w x.toNat = x.clz.toNat := by
  have le : x.clz.toNat ≤ w := by
    have h := BitVec.le_def.mp (BitVec.clz_le (x := x))
    rwa [BitVec.natCast_eq_ofNat, BitVec.toNat_ofNat, Nat.mod_eq_of_lt Nat.lt_two_pow_self] at h
  refine length_takeWhile_upto le (fun i hi => ?_) (fun hi => ?_)
  · have high : 2 ^ (w - x.clz.toNat) ≤ 2 ^ (w - 1 - i) := Nat.pow_le_pow_right (by omega) (by omega)
    rw [Nat.zero_add, Nat.testBit_lt_two_pow (Nat.lt_of_lt_of_le BitVec.toNat_lt_two_pow_sub_clz high)]; rfl
  · have nz : x ≠ 0#w := by
      rintro rfl
      rw [BitVec.clz_eq_iff_eq_zero.mpr rfl, BitVec.natCast_eq_ofNat, BitVec.toNat_ofNat,
        Nat.mod_eq_of_lt Nat.lt_two_pow_self] at hi
      exact Nat.lt_irrefl _ hi
    rw [Nat.zero_add, BitVec.testBit_toNat, BitVec.getLsbD_true_clz_of_ne_zero hw nz]; rfl

theorem cpopNatRec_eq_filter {w : Nat} (x : BitVec w) (n : Nat) :
    x.cpopNatRec n 0 = ((List.range n).filter (fun i => x.toNat.testBit i)).length := by
  induction n with
  | zero => exact BitVec.cpopNatRec_zero_self
  | succ n ih =>
    rw [BitVec.cpopNatRec_succ, BitVec.cpopNatRec_eq, ih, List.range_succ, List.filter_append, List.length_append,
      List.filter_singleton, BitVec.testBit_toNat]
    cases x.getLsbD n <;> rfl

theorem oneBits_eq_cpop {w : Nat} (x : BitVec w) : oneBits w x.toNat = x.cpop.toNat := by
  rw [oneBits, BitVec.toNat_cpop, cpopNatRec_eq_filter, upto_zero_eq_range]

theorem ofNat_reversed {w : Nat} (x : BitVec w) : BitVec.ofNat w (reversed w x.toNat) = x.reverse := by
  have e : reversed w x.toNat = Nat.ofBits (fun i : Fin w => x.toNat.testBit (w - 1 - i)) := by
    rw [reversed, total_eq_sum, ← List.sum_reverse, ← List.map_reverse, upto_eq_range', List.reverse_range',
      List.map_map, ← sum_bits_eq_ofBits (fun i => x.toNat.testBit (w - 1 - i))]
    refine congrArg List.sum (List.map_congr_left (fun i hi => ?_))
    rw [List.mem_range] at hi
    simp only [Function.comp_apply, Nat.zero_add]
    rw [Nat.sub_sub_self (by omega)]
  rw [e]
  refine ofNat_ofBits_eq (fun i => ?_)
  rw [BitVec.getLsbD_reverse, BitVec.getMsbD_eq_getLsbD, BitVec.testBit_toNat, decide_eq_true i.isLt, Bool.true_and]

/-! ## Bit fields -/

theorem fieldAt_eq (t : BitVec 2) (j : Int) :
    fieldAt t j = (Says.pos (BitVec.ofInt (sWidth t) j), Says.len (BitVec.ofInt (sWidth t) j)) := rfl

theorem len_le {w : Nat} (y : BitVec w) : Says.len y ≤ w := Nat.min_le_right _ _

theorem pos_lt {w : Nat} (y : BitVec w) : Says.pos y < 256 := Nat.mod_lt _ (by decide)

/-- A field of no bits is 0 like any other. -/
theorem bitField_eq (t : BitVec 2) {i j : Int} {y : BitVec (sWidth t)} (hy : BitVec.ofInt (sWidth t) j = y) :
    bitField t i j = if t.getLsbD 0 then ((BitVec.ofInt (Says.len y) (i / (2 ^ Says.pos y : Nat))).toNat : Int)
      else (BitVec.ofInt (Says.len y) (i / (2 ^ Says.pos y : Nat))).toInt := by
  have e := fieldAt_eq t j
  rw [hy] at e
  simp only [bitField, e, signed_wrap]
  split
  · next z => rw [z, BitVec.of_length_zero (x := BitVec.ofInt 0 _)]; simp
  · rfl

theorem ofInt_bitField_unsigned {t : BitVec 2} (h : t.getLsbD 0 = true) (x y : BitVec (sWidth t)) :
    BitVec.ofInt (sWidth t) (bitField t x.toNat y.toNat) =
      ((x.setWidth 512).extractLsb' (Says.pos y) (Says.len y)).setWidth (sWidth t) := by
  rw [bitField_eq t (ofInt_toNat y), if_pos h, BitVec.ofInt_natCast, BitVec.ofNat_toNat, ← Int.natCast_ediv,
    BitVec.ofInt_natCast]
  congr 1
  apply BitVec.eq_of_toNat_eq
  rw [BitVec.toNat_ofNat, BitVec.extractLsb'_toNat, BitVec.toNat_setWidth_of_le (by have := sWidth_le t; omega),
    Nat.shiftRight_eq_div_pow]

/-- A field that reaches above the pattern reads copies of the sign bit, as a field of the number itself does. -/
theorem ofInt_div_eq_extractLsb' {w : Nat} (x : BitVec w) {p n : Nat} (hw : w ≤ 512) (h : p + n ≤ 512) :
    BitVec.ofInt n (x.toInt / (2 ^ p : Nat)) = (x.signExtend 512).extractLsb' p n := by
  rw [← BitVec.toInt_signExtend_of_le hw, toInt_div_two_pow]
  show BitVec.signExtend n _ = _
  rw [BitVec.signExtend_eq_setWidth_of_le _ (by omega)]
  apply BitVec.eq_of_getLsbD_eq
  intro i hi
  have in512 : p + i < 512 := by omega
  have lt512 : ¬ 512 ≤ i := by omega
  simp only [BitVec.getLsbD_setWidth, BitVec.getLsbD_sshiftRight, BitVec.getLsbD_extractLsb', in512, lt512, if_true,
    decide_false, Bool.not_false, Bool.true_and]

theorem ofInt_bitField_signed {t : BitVec 2} (h : t.getLsbD 0 = false) (x y : BitVec (sWidth t)) :
    BitVec.ofInt (sWidth t) (bitField t x.toInt y.toInt) =
      ((x.signExtend 512).extractLsb' (Says.pos y) (Says.len y)).signExtend (sWidth t) := by
  have hp := pos_lt y
  have hn := len_le y
  have ht := sWidth_le t
  rw [bitField_eq t BitVec.ofInt_toInt, if_neg (ne_true_of_eq_false h), ofInt_div_eq_extractLsb' x (by omega) (by omega)]
  rfl

theorem getLsbD_insert {w : Nat} (hw : w ≤ 64) (d x y : BitVec w) {i : Nat} (hi : i < w) :
    (Says.insert d x y).getLsbD i = if Says.pos y ≤ i ∧ i < Says.pos y + Says.len y then x.getLsbD (i - Says.pos y)
      else d.getLsbD i := by
  have i512 : i < 512 := by omega
  have j512 : i - Says.pos y < 512 := by omega
  simp only [Says.insert, BitVec.getLsbD_setWidth, BitVec.getLsbD_or, BitVec.getLsbD_and, BitVec.getLsbD_not,
    BitVec.getLsbD_shiftLeft, BitVec.getLsbD_allOnes, hi, i512, j512, decide_true, Bool.true_and]
  by_cases low : i < Says.pos y
  · have out : ¬ (Says.pos y ≤ i ∧ i < Says.pos y + Says.len y) := by omega
    simp [low, out]
  · by_cases high : i - Says.pos y < Says.len y
    · have ins : Says.pos y ≤ i ∧ i < Says.pos y + Says.len y := by omega
      simp [low, high, ins]
    · have out : ¬ (Says.pos y ≤ i ∧ i < Says.pos y + Says.len y) := by omega
      simp [low, high, out]

theorem ofInt_insertField (t : BitVec 2) (i j k : Int) : BitVec.ofInt (sWidth t) (insertField t i j k) =
    Says.insert (BitVec.ofInt _ i) (BitVec.ofInt _ j) (BitVec.ofInt _ k) := by
  refine (congrArg (fun n : Nat => BitVec.ofInt (sWidth t) n) (total_bits_eq_ofBits _ (sWidth t))).trans ?_
  rw [BitVec.ofInt_natCast]
  refine ofNat_ofBits_eq fun b => ?_
  rw [getLsbD_insert (sWidth_le t) _ _ _ b.isLt]
  simp only [wrap, BitVec.testBit_toNat]
  rfl

/-! ## The results of R128's table -/

section Results

variable (t : BitVec 2) (x y : Word)

theorem sOut_add : sOut t (sIn t x + sIn t y) = Says.add t x y :=
  sOut_alike (F := fun i j => i + j) (g := fun _ x y => x + y) BitVec.ofInt_add x y

theorem sOut_sub : sOut t (sIn t x - sIn t y) = Says.sub t x y :=
  sOut_alike (F := fun i j => i - j) (g := fun _ x y => x - y) (ofInt_sub _) x y

theorem sOut_mul : sOut t (sIn t x * sIn t y) = Says.mul t x y :=
  sOut_alike (F := fun i j => i * j) (g := fun _ x y => x * y) BitVec.ofInt_mul x y

theorem sOut_mulh : sOut t (sIn t x * sIn t y / (2 ^ sWidth t : Nat)) = Says.mulh t x y :=
  sOut_bySign (F := fun i j => i * j / (2 ^ sWidth t : Nat))
    (gs := fun w x y => ((x.signExtend (w + w) * y.signExtend (w + w)) >>> w).setWidth w)
    (gu := fun w x y => ((x.setWidth (w + w) * y.setWidth (w + w)) >>> w).setWidth w)
    (fun _ => ofInt_mul_high_signed) (fun _ => ofInt_mul_high_unsigned) x y

theorem sOut_div : sOut t ((sIn t x).tdiv (sIn t y)) = Says.div t x y :=
  sOut_bySign (gs := @BitVec.sdiv) (gu := @BitVec.udiv) (fun _ => ofInt_tdiv) (fun _ => ofInt_natCast_tdiv) x y

theorem sOut_rem : sOut t ((sIn t x).tmod (sIn t y)) = Says.rem t x y :=
  sOut_bySign (gs := @BitVec.srem) (gu := @BitVec.umod) (fun _ => ofInt_tmod) (fun _ => ofInt_natCast_tmod) x y

theorem sOut_and : sOut t (onBits t (· &&& ·) (sIn t x) (sIn t y)) = Says.and t x y :=
  sOut_alike (g := fun _ x y => x &&& y) (ofInt_onBits t BitVec.toNat_and) x y

theorem sOut_or : sOut t (onBits t (· ||| ·) (sIn t x) (sIn t y)) = Says.or t x y :=
  sOut_alike (g := fun _ x y => x ||| y) (ofInt_onBits t BitVec.toNat_or) x y

theorem sOut_xor : sOut t (onBits t (· ^^^ ·) (sIn t x) (sIn t y)) = Says.xor t x y :=
  sOut_alike (g := fun _ x y => x ^^^ y) (ofInt_onBits t BitVec.toNat_xor) x y

theorem sOut_shl : sOut t (sIn t x * (2 ^ sAmount t (sIn t y) : Nat)) = Says.shl t x y :=
  sOut_alike (F := fun i j => i * (2 ^ sAmount t j : Nat)) (g := fun w x y => x <<< (y.toNat % w))
    (fun i j => by rw [ofInt_mul_two_pow, sAmount_eq_mod]) x y

theorem sOut_shr : sOut t (wrap (sWidth t) (sIn t x) / 2 ^ sAmount t (sIn t y) : Nat) = Says.shr t x y :=
  sOut_alike (F := fun i j => (wrap (sWidth t) i / 2 ^ sAmount t j : Nat)) (g := fun w x y => x >>> (y.toNat % w))
    (fun i j => by rw [BitVec.ofInt_natCast, wrap, ofNat_div_two_pow, sAmount_eq_mod]) x y

theorem sOut_sar :
    sOut t (signed (sWidth t) (wrap (sWidth t) (sIn t x)) / (2 ^ sAmount t (sIn t y) : Nat)) = Says.sar t x y :=
  sOut_alike (F := fun i j => signed (sWidth t) (wrap (sWidth t) i) / (2 ^ sAmount t j : Nat))
    (g := fun w x y => x.sshiftRight (y.toNat % w))
    (fun i j => by rw [signed_wrap, ofInt_toInt_div_two_pow, sAmount_eq_mod]) x y

theorem sOut_rot :
    sOut t (wrap (sWidth t) (sIn t x) * 2 ^ sAmount t (sIn t y) +
      wrap (sWidth t) (sIn t x) / 2 ^ (sWidth t - sAmount t (sIn t y)) : Nat) = Says.rot t x y :=
  sOut_alike
    (F := fun i j =>
      (wrap (sWidth t) i * 2 ^ sAmount t j + wrap (sWidth t) i / 2 ^ (sWidth t - sAmount t j) : Nat))
    (g := fun w x y => x.rotateLeft (y.toNat % w))
    (fun i j => by
      have hk : sAmount t j < sWidth t := by rw [sAmount_eq_mod]; exact Nat.mod_lt _ (sWidth_pos t)
      rw [BitVec.ofInt_natCast, wrap, ofNat_rotated _ hk, sAmount_eq_mod]) x y

theorem sOut_min : sOut t (if sIn t x ≤ sIn t y then sIn t x else sIn t y) = Says.min t x y :=
  sOut_bySign (F := fun i j => if i ≤ j then i else j) (gs := fun _ x y => if x.sle y then x else y)
    (gu := fun _ x y => if x.ule y then x else y) (fun _ x y => by rw [ofInt_ite_toInt]; simp only [BitVec.sle_iff_toInt_le])
    (fun _ x y => by rw [ofInt_ite_toNat]; simp only [Int.ofNat_le, BitVec.ule_iff_toNat_le]) x y

theorem sOut_max : sOut t (if sIn t x ≤ sIn t y then sIn t y else sIn t x) = Says.max t x y :=
  sOut_bySign (F := fun i j => if i ≤ j then j else i) (gs := fun _ x y => if x.sle y then y else x)
    (gu := fun _ x y => if x.ule y then y else x) (fun _ x y => by rw [ofInt_ite_toInt]; simp only [BitVec.sle_iff_toInt_le])
    (fun _ x y => by rw [ofInt_ite_toNat]; simp only [Int.ofNat_le, BitVec.ule_iff_toNat_le]) x y

theorem sOut_bfx : sOut t (bitField t (sIn t x) (sIn t y)) = Says.bfx t x y :=
  sOut_bySign (gs := fun w x y => ((x.signExtend 512).extractLsb' (Says.pos y) (Says.len y)).signExtend w)
    (gu := fun w x y => ((x.setWidth 512).extractLsb' (Says.pos y) (Says.len y)).setWidth w)
    ofInt_bitField_signed ofInt_bitField_unsigned x y

theorem sOut_abs : sOut t (if sIn t x < 0 then -sIn t x else sIn t x) = Says.abs t x y :=
  sOut_bySign (F := fun i _ => if i < 0 then -i else i) (gs := fun _ x _ => if x.msb then -x else x) (gu := fun _ x _ => x)
    (fun _ x _ => ofInt_toInt_abs x) (fun _ x _ => ofInt_toNat_abs x) x y

theorem sOut_neg : sOut t (-sIn t x) = Says.neg t x y :=
  sOut_alike (F := fun i _ => -i) (g := fun _ x _ => -x) (fun _ _ => BitVec.ofInt_neg) x y

theorem sOut_clz : sOut t (leadingZeros (sWidth t) (wrap (sWidth t) (sIn t x)) : Nat) = Says.clz t x y :=
  sOut_alike (F := fun i _ => (leadingZeros (sWidth t) (wrap (sWidth t) i) : Nat)) (g := fun _ x _ => x.clz)
    (fun _ _ => by rw [wrap, leadingZeros_eq_clz (sWidth_pos t), ofInt_toNat]) x y

theorem sOut_popc : sOut t (oneBits (sWidth t) (wrap (sWidth t) (sIn t x)) : Nat) = Says.popc t x y :=
  sOut_alike (F := fun i _ => (oneBits (sWidth t) (wrap (sWidth t) i) : Nat)) (g := fun _ x _ => x.cpop)
    (fun _ _ => by rw [wrap, oneBits_eq_cpop, ofInt_toNat]) x y

theorem sOut_brev : sOut t (reversed (sWidth t) (wrap (sWidth t) (sIn t x)) : Nat) = Says.brev t x y :=
  sOut_alike (F := fun i _ => (reversed (sWidth t) (wrap (sWidth t) i) : Nat)) (g := fun _ x _ => x.reverse)
    (fun _ _ => by rw [wrap, BitVec.ofInt_natCast, ofNat_reversed]) x y

theorem sOut_mov : sOut t (sIn t x) = Says.mov t x y :=
  sOut_alike (F := fun i _ => i) (g := fun _ x _ => x) (fun _ _ => rfl) x y

theorem sOut_bfi (z : Word) : sOut t (insertField t (sIn t x) (sIn t y) (sIn t z)) = Says.bfi t x y z := by
  rw [sOut_eq_result]
  exact result_congr (f := fun w => BitVec.ofInt w _)
    (g := fun w => Says.insert (x.setWidth w) (y.setWidth w) (z.setWidth w))
    (by simp only [ofInt_insertField, ofInt_sIn])

end Results

end Sys2Proof.Machine
end

section
/-!
Proofs: scalar words, immediate forms, MOVI and pointer words (R127 to R131) in a slot that has nothing else under way.
Each word's plan is computed once; lemmas about the issue of such a plan, one for a plan that writes its destination and
one for a plan that raises a trap, then say what the word does.
-/

namespace Sys2Proof.Machine

open Sys2Proof

/-! ## The issue of a word with register operands -/

theorem aPlan_clear {s : State} (h : Clear s) (p : Plan) : aPlan s p = p := by
  rw [aPlan, if_neg (by rw [show thr s s.cur = me s from rfl, h.idle]; decide)]

/-- The plan of a word that writes d and reads its sources, all of them plain. -/
theorem regPlan_dest_sources {s : State} (h : Clear s) {d : BitVec 7} {srcs : List (BitVec 7)} (hd : Dest s d.toNat)
    (hs : ∀ a ∈ srcs, Plain s a.toNat) : regPlan s s.cur true (fw d :: srcs.map fr) = { dests := destOf d.toNat } := by
  have sources : (srcs.map fr).flatMap Field.dests = [] := by simp [fr, inF, Field.dests]
  rw [regPlan_single h, List.flatMap_cons, sources]
  · simp [fw, outF, Field.dests, Field.each]
  all_goals simp only [List.forall_mem_cons, List.forall_mem_map]
  · exact ⟨⟨rfl, rfl⟩, fun _ _ => ⟨rfl, rfl⟩⟩
  · exact ⟨hd.1, hs⟩
  · exact ⟨fun _ => hd, fun _ _ => nofun⟩

/-- The issue of an A-word that asks for nothing but its effect. -/
theorem fireA_does {s u : State} {P : State → Plan} {ds : List Nat} {l : List Stage} (h : Clear s)
    (e : P s = { dests := ds, stages := l }) (hu : run l (taken s) = u) (fu : Fit u) (cu : u.cur = s.cur) :
    fireA P s = .next (finished u false) := by
  have q : Runs s (P s) := by rw [e]; exact ⟨rfl, rfl, rfl, rfl, rfl, rfl, rfl, rfl, rfl, rfl, rfl, rfl, rfl, rfl⟩
  rw [fireA_runs h q (by rw [e]; exact hu) fu cu, e]

/-- An A-word whose one effect is the value of d. -/
theorem fireA_writes {s : State} {P : State → Plan} {ds : List Nat} {d : BitVec 7} {v : Word} (h : Clear s)
    (hd : Dest s d.toNat) (e : P s = { dests := ds, stages := [wr s.cur d.toNat v] }) :
    fireA P s = .next (finished (put (taken s) d.toNat v) false) :=
  fireA_does h e (wr_put (s := taken s) v hd.1.1) (h.fit_taken.put _ _) (cur_put _ _ _)

/-- An A-word that asks for nothing but a trap of class 3 raises it. -/
theorem fireA_raises_own {s : State} {P : State → Plan} {ds : List Nat} {l : List Stage} {tr : Trap} (h : Deliverable s)
    (e : P s = { dests := ds, stages := l, c3 := some tr }) (ns : tr.code ≠ .soft) :
    fireA P s = .next (delivered s tr (me s).arch.pc) := by
  refine fireA_raises h ?_ ns
  simp only [firstTrap, idle_clash, e]
  rfl

/-- An A-word that is not well formed raises ILLEGAL, whatever its fields name. -/
theorem fireA_raises_illegal {s : State} {P : State → Plan} (h : Deliverable s) (e : (P s).ill = true) :
    fireA P s = .next (delivered s (bTrap s s.cur .illegal) (me s).arch.pc) := by
  refine fireA_raises h ?_ nofun
  simp only [firstTrap, e]
  rfl

/-! ## Scalar words (R128) -/

/-- A scalar word of two sources, by what its operation gives for every two operands. -/
theorem scalar2_of_result {i : BitVec 7 → BitVec 7 → BitVec 7 → BitVec 2 → Instr}
    {F : BitVec 2 → Int → Int → Int} {v : BitVec 2 → Word → Word → Word}
    (e : ∀ d a b t s, exec (i d a b t) s = fireA (fun s => scalarPlan s d a b t (F t)) s)
    (r : ∀ t x y, sOut t (F t (sIn t x) (sIn t y)) = v t x y) : Says.Scalar2 i v := by
  intro s d a b t h hd pa pb
  rw [Says.Writes, e, fireA_value h rfl hd (by simp [pa, pb]), r]

theorem scalar1_of_result {i : BitVec 7 → BitVec 7 → BitVec 2 → Instr} {F : BitVec 2 → Int → Int}
    {v : BitVec 2 → Word → Word → Word}
    (e : ∀ d a t s, exec (i d a t) s = fireA (fun s => scalarPlan1 s d a t (F t)) s)
    (r : ∀ t x y, sOut t (F t (sIn t x)) = v t x y) : Says.Scalar1 i v := by
  intro s d a t h hd pa
  rw [Says.Writes, e, fireA_value h rfl hd (by simp [pa]), r]

/-- BFI reads its destination too. -/
theorem bfi_writes {s : State} (h : Clear s) {d a b : BitVec 7} (t : BitVec 2) (hd : Dest s d.toNat) (pa : Plain s a.toNat)
    (pb : Plain s b.toNat) : Says.Writes s (.bfi d a b t) d
      (Says.bfi t (rd s s.cur d.toNat) (rd s s.cur a.toNat) (rd s s.cur b.toNat)) := by
  have r : regPlan s s.cur true [fx d, fr a, fr b] = { dests := destOf d.toNat } := by
    rw [regPlan_single h]
    · simp [fx, ioF, fr, inF, Field.dests, Field.each]
    · simp [fx, ioF, fr, inF]
    · simpa [fx, ioF, fr, inF] using ⟨hd.1, pa, pb⟩
    · simpa [fx, ioF, fr, inF] using hd
  refine fireA_writes (P := planBfi d a b t) (ds := destOf d.toNat) h hd ?_
  simp only [planBfi, aPlan_clear h, r, Plan.does, List.nil_append, sOut_bfi]

theorem shortScalarWords : Says.ShortScalarWords := by
  refine ⟨scalar2_of_result (fun _ _ _ _ _ => rfl) sOut_add, scalar2_of_result (fun _ _ _ _ _ => rfl) sOut_sub,
    scalar2_of_result (fun _ _ _ _ _ => rfl) sOut_mul, scalar2_of_result (fun _ _ _ _ _ => rfl) sOut_mulh,
    scalar2_of_result (fun _ _ _ _ _ => rfl) sOut_and, scalar2_of_result (fun _ _ _ _ _ => rfl) sOut_or,
    scalar2_of_result (fun _ _ _ _ _ => rfl) sOut_xor, scalar2_of_result (fun _ _ _ _ _ => rfl) sOut_shl,
    scalar2_of_result (fun _ _ _ _ _ => rfl) sOut_shr, scalar2_of_result (fun _ _ _ _ _ => rfl) sOut_sar,
    scalar2_of_result (fun _ _ _ _ _ => rfl) sOut_rot, scalar2_of_result (fun _ _ _ _ _ => rfl) sOut_min,
    scalar2_of_result (fun _ _ _ _ _ => rfl) sOut_max, scalar2_of_result (fun _ _ _ _ _ => rfl) sOut_bfx,
    scalar1_of_result (fun _ _ _ _ => rfl) sOut_abs, scalar1_of_result (fun _ _ _ _ => rfl) sOut_neg,
    scalar1_of_result (fun _ _ _ _ => rfl) sOut_clz, scalar1_of_result (fun _ _ _ _ => rfl) sOut_popc,
    scalar1_of_result (fun _ _ _ _ => rfl) sOut_brev, scalar1_of_result (fun _ _ _ _ => rfl) sOut_mov,
    fun s d a b t h hd pa pb => bfi_writes h t hd pa pb⟩

/-! ## DIV and REM (R129) -/

theorem sIn_eq_zero_iff (t : BitVec 2) (x : Word) : sIn t x = 0 ↔ Says.isZero t x := by
  have e : sIn t x = 0 ↔ x.setWidth (sWidth t) = 0 := by
    constructor
    · intro z; rw [← ofInt_sIn, z]; rfl
    · intro z
      cases h : t.getLsbD 0
      · rw [sIn_signed h, z]; exact BitVec.toInt_zero
      · rw [sIn_unsigned h, z]; rfl
  rw [e, Says.isZero]
  obtain ⟨h, w⟩ | ⟨h, w⟩ := sWidth_cases t <;> rw [w, h] <;> rfl

theorem longDest_window {d : BitVec 7} (h : d.toNat < 112) : longDest d = true := by
  simp only [longDest, fieldHearth]
  simpa using h

/-- The plan of DIV and REM over plain fields, with a window register as destination. -/
theorem dividePlan_eq {s : State} (h : Clear s) {d a b : BitVec 7} (hd : Dest s d.toNat) (w : d.toNat < 112)
    (pa : Plain s a.toNat) (pb : Plain s b.toNat) (t : BitVec 2) (f : Int → Int → Int) :
    dividePlan s d a b t f =
      { dests := destOf d.toNat
        c3 := if sIn t (rd s s.cur b.toNat) = 0 then some (nTrap .div0 b.toNat) else none
        stages := [pendIn s.cur [d.toNat] none
          (.value [sOut t (f (sIn t (rd s s.cur a.toNat)) (sIn t (rd s s.cur b.toNat)))] none 0) 40] } := by
  have r : regPlan s s.cur true [fw d, fr a, fr b] = { dests := destOf d.toNat } :=
    regPlan_dest_sources h (srcs := [a, b]) hd (by simp [pa, pb])
  simp only [dividePlan, aPlan_clear h, longDest_window w, r, Plan.own, Plan.does, Option.none_or, List.nil_append]

section Divide

variable {i : BitVec 7 → BitVec 7 → BitVec 7 → BitVec 2 → Instr} {f : Int → Int → Int}
  (e : ∀ d a b t s, exec (i d a b t) s = fireA (fun s => dividePlan s d a b t f) s)
  {s : State} {d a b : BitVec 7} (hd : Dest s d.toNat) (w : d.toNat < 112) (pa : Plain s a.toNat) (pb : Plain s b.toNat)
  {t : BitVec 2}
include e hd w pa pb

theorem divide_pends {v : BitVec 2 → Word → Word → Word} (r : ∀ t x y, sOut t (f (sIn t x) (sIn t y)) = v t x y)
    (h : Clear s) (nz : ¬ Says.isZero t (rd s s.cur b.toNat)) :
    exec (i d a b t) s = .next (finished (pended (taken s) [d.toNat] none
      (.value [v t (rd s s.cur a.toNat) (rd s s.cur b.toNat)] none 0) 40) false) := by
  rw [← sIn_eq_zero_iff] at nz
  rw [e, ← r]
  refine fireA_does (ds := destOf d.toNat) (l := [pendIn s.cur [d.toNat] none _ 40]) h ?_ (pendIn_pended (taken s) _ _ _ _)
    (h.fit_taken.pended _ _ _ _) rfl
  rw [dividePlan_eq h hd w pa pb, if_neg nz]

theorem divide_raises_div0 (h : Deliverable s) (z : Says.isZero t (rd s s.cur b.toNat)) :
    Raises s (i d a b t) (nTrap .div0 b.toNat) := by
  rw [← sIn_eq_zero_iff] at z
  rw [Raises, e]
  exact fireA_raises_own h (by rw [dividePlan_eq h.clear hd w pa pb, if_pos z]) nofun

end Divide

theorem divideWords : Says.DivideWords := by
  constructor
  · intro s d a b t h hd w pa pb nz
    exact ⟨divide_pends (fun _ _ _ _ _ => rfl) hd w pa pb sOut_div h nz,
      divide_pends (fun _ _ _ _ _ => rfl) hd w pa pb sOut_rem h nz⟩
  · intro s d a b t h hd w pa pb z
    exact ⟨divide_raises_div0 (f := Int.tdiv) (fun _ _ _ _ _ => rfl) hd w pa pb h z,
      divide_raises_div0 (f := Int.tmod) (fun _ _ _ _ _ => rfl) hd w pa pb h z⟩

/-- Settles O1: each word's result, taken modulo 2^W, is the bit-vector operation of its table; DIV and REM ask for a
pending register, or for DIV0. -/
theorem scalarWordsComputeTheirTable : Obligations.ScalarWordsComputeTheirTable := ⟨shortScalarWords, divideWords⟩

/-! ## Immediate forms (R130) -/

theorem sIn_s64 (x : Word) : sIn 2 x = (lo64 x).toInt := sIn_signed (t := 2) rfl x

theorem sOut_s64 (v : Int) : sOut 2 v = (BitVec.ofInt 64 v).setWidth 128 := sOut_eq_result 2 v

theorem ill_valuePlan (s : State) (wf : Bool) (d : BitVec 7) (srcs : List (BitVec 7)) (v : Word) :
    (valuePlan s wf d srcs v).ill = !wf := by
  unfold valuePlan aPlan; split <;> rfl

section Immediate

variable {i : BitVec 7 → BitVec 7 → BitVec 11 → Instr} {ok : BitVec 11 → Bool} {F : BitVec 11 → Int → Int}
  (e : ∀ d a imm s, exec (i d a imm) s = fireA (fun s => immPlan s (ok imm) d a (F imm)) s)
include e

/-- An immediate form, by what its operation gives on 64-bit patterns. -/
theorem immediate_of_result {v : BitVec 64 → BitVec 64 → BitVec 64}
    (r : ∀ imm, ok imm = true → ∀ x : BitVec 64, BitVec.ofInt 64 (F imm x.toInt) = v x (imm.signExtend 64)) :
    Says.Immediate i ok v := by
  intro s d a imm h hd pa hok
  rw [Says.Writes, e, fireA_value h (by rw [hok]; rfl) hd (by simpa using pa), sIn_s64, sOut_s64, r imm hok]; rfl

theorem immediate_raises_illegal {s : State} (h : Deliverable s) (d a : BitVec 7) {imm : BitVec 11} (hok : ok imm = false) :
    Raises s (i d a imm) (bTrap s s.cur .illegal) := by
  rw [Raises, e]
  exact fireA_raises_illegal h (by rw [immPlan, ill_valuePlan, hok]; rfl)

end Immediate

/-- A shift amount is no negative immediate. -/
theorem toNat_signExtend_amount {imm : BitVec 11} (h : imm.toNat ≤ 63) : (imm.signExtend 64).toNat = imm.toNat := by
  rw [BitVec.signExtend_eq_setWidth_of_msb_false (BitVec.msb_eq_false_iff_two_mul_lt.mpr (by omega)),
    BitVec.toNat_setWidth_of_le (by decide)]

/-- Bitwise operations of the immediate forms. -/
theorem ofInt_onBits_immediate {f : Nat → Nat → Nat} {g : BitVec 64 → BitVec 64 → BitVec 64}
    (h : ∀ x y, (g x y).toNat = f x.toNat y.toNat) (imm : BitVec 11) (x : BitVec 64) :
    BitVec.ofInt 64 (onBits 2 f x.toInt imm.toInt) = g x (imm.signExtend 64) := by
  refine (ofInt_onBits 2 (g := g) h _ _).trans (congrArg₂ g ?_ rfl)
  exact BitVec.ofInt_toInt

theorem immediateForms : Says.ImmediateForms := by
  refine ⟨immediate_of_result (fun _ _ _ _ => rfl) fun imm _ x => ?_,
    immediate_of_result (fun _ _ _ _ => rfl) fun imm _ => ofInt_onBits_immediate BitVec.toNat_and imm,
    immediate_of_result (fun _ _ _ _ => rfl) fun imm _ => ofInt_onBits_immediate BitVec.toNat_or imm,
    immediate_of_result (fun _ _ _ _ => rfl) fun imm _ => ofInt_onBits_immediate BitVec.toNat_xor imm,
    immediate_of_result (fun _ _ _ _ => rfl) fun imm ok x => ?_,
    immediate_of_result (fun _ _ _ _ => rfl) fun imm ok x => ?_,
    immediate_of_result (fun _ _ _ _ => rfl) fun imm ok x => ?_, fun s d a imm h big => ?_⟩
  · rw [BitVec.ofInt_add, BitVec.ofInt_toInt]; rfl
  · rw [ofInt_mul_two_pow, BitVec.ofInt_toInt, toNat_signExtend_amount (of_decide_eq_true ok)]
  · rw [BitVec.ofInt_natCast, wrap, BitVec.ofInt_toInt, ofNat_div_two_pow, toNat_signExtend_amount (of_decide_eq_true ok)]
  · rw [ofInt_toInt_div_two_pow, toNat_signExtend_amount (of_decide_eq_true ok)]
  · have bad : decide (imm.toNat ≤ 63) = false := decide_eq_false (by omega)
    exact ⟨immediate_raises_illegal (fun _ _ _ _ => rfl) h d a bad,
      immediate_raises_illegal (fun _ _ _ _ => rfl) h d a bad,
      immediate_raises_illegal (fun _ _ _ _ => rfl) h d a bad⟩

/-! ## MOVI (R127) -/

/-- What a plain destination holds is what it reads as. -/
theorem held_plain {s : State} {f : Nat} (p : Plain s f) : held s s.cur f = rd s s.cur f := by
  have nd : dropped (thr s s.cur) f = false := dropped_plain p
  have ns : (thr s s.cur).arch.strm f = none := p.1
  by_cases z : f = 0
  · simp [held, rd, z]
  · simp [held, rd, z, nd, ns]

theorem regPlan_dest {s : State} (h : Clear s) {d : BitVec 7} (hd : Dest s d.toNat) :
    regPlan s s.cur true [fw d] = { dests := destOf d.toNat } :=
  regPlan_dest_sources h (srcs := []) hd nofun

/-- A C-word whose one effect is the value of d. -/
theorem fireC_writes {s : State} {P : State → Plan} {ds : List Nat} {d : BitVec 7} {v : Word} {m : Bool} (h : Clear s)
    (hd : Dest s d.toNat) (e : P s = { dests := ds, stages := [wr s.cur d.toNat v], mark := m }) :
    fireC P s = .next (finished (put (taken s) d.toNat v) m) :=
  fireC_moves h e (wr_put (s := taken s) v hd.1.1) (h.fit_taken.put _ _) (cur_put _ _ _)

theorem moviWords : Says.MoviWords := by
  intro s m d lit h hd
  constructor
  · refine fireC_writes (P := planMovi m d lit) (ds := destOf d.toNat) h hd ?_
    simp only [planMovi, regPlan_dest h hd, Plan.does, cPlan, ext64, List.nil_append]
  · refine fireC_writes (P := planMoviHi m d lit) (ds := destOf d.toNat) h hd ?_
    simp only [planMoviHi, regPlan_dest h hd, Plan.does, cPlan, ext64, List.nil_append, held_plain hd.1]
    rfl

/-- Settles O2: the immediate forms are the operations of s64 on a sign-extended immediate, and an ill-formed shift is
found before its fields are looked at. -/
theorem immediateFormsComputeOnS64 : Obligations.ImmediateFormsComputeOnS64 := ⟨immediateForms, moviWords⟩

/-! ## Pointers as bit fields (R131) -/

theorem bits_eq_extractLsb' {w : Nat} (v : BitVec w) (hi lo : Nat) :
    bits v hi lo = (v.extractLsb' lo (hi + 1 - lo)).toNat := (BitVec.extractLsb'_toNat _ _ _).symm

theorem bits_low {w : Nat} (v : BitVec w) (hi : Nat) : bits v hi 0 = (v.setWidth (hi + 1)).toNat := by
  rw [bits, Nat.shiftRight_zero, Nat.sub_zero, BitVec.toNat_setWidth]

theorem wd_append {m n : Nat} (x : BitVec m) (y : BitVec n) :
    wd (x.toNat * 2 ^ n + y.toNat) = (x ++ y).setWidth 128 := by
  rw [← wd_toNat, BitVec.toNat_append, ← Nat.shiftLeft_add_eq_or_of_lt y.isLt, Nat.shiftLeft_eq]

theorem toNat_eq_wrap {w : Nat} {i : Int} (nonneg : 0 ≤ i) (small : i < 2 ^ w) : i.toNat = wrap w i := by
  rw [wrap, BitVec.toNat_ofInt, Int.emod_eq_of_lt nonneg (by exact_mod_cast small)]

/-- Bits 127:64 of a source count for no field of its low half. -/
theorem bits_lo64 (v : Word) {hi lo : Nat} (h : hi < 64) : bits v hi lo = bits (lo64 v) hi lo := by
  simp only [bits_eq_extractLsb']
  congr 1
  apply BitVec.eq_of_getLsbD_eq
  intro i hi'
  have low : lo + i < 64 := by omega
  simp [lo64, hi', low]

/-! ## Pointer words (R131) -/

/-- A pointer with its address field replaced. -/
theorem wd_tag_address (x : Dword) {i : Int} (nonneg : 0 ≤ i) (small : i < 2 ^ 55) :
    wd (bits x 63 55 * 2 ^ 55 + i.toNat) = (x.extractLsb' 55 9 ++ BitVec.ofInt 55 i).setWidth 128 := by
  rw [bits_eq_extractLsb', toNat_eq_wrap nonneg small, wrap, wd_append]

section Padd

variable {s : State} {d a : BitVec 7} {srcs : List (BitVec 7)} (hd : Dest s d.toNat) (hs : ∀ x ∈ srcs, Plain s x.toNat)
  {off sum : Int} (e : (((rd64 s s.cur a.toNat).setWidth 55).toNat : Int) + off = sum)
include hd hs e

theorem paddPlan_eq (h : Clear s) : paddPlan s d a srcs off =
    { dests := destOf d.toNat
      c3 := if sum < 0 ∨ (2 : Int) ^ 55 ≤ sum then some ⟨.tag, rd64 s s.cur a.toNat⟩ else none
      stages := [wr s.cur d.toNat (wd (bits (rd64 s s.cur a.toNat) 63 55 * 2 ^ 55 + sum.toNat))] } := by
  simp only [paddPlan, aPlan_clear h, regPlan_dest_sources h hd hs, Plan.own, Plan.does, Option.none_or, List.nil_append,
    bits_low, ← e]

theorem padd_writes {P : State → Plan} (p : P s = paddPlan s d a srcs off) (h : Clear s) (nonneg : 0 ≤ sum)
    (small : sum < 2 ^ 55) : fireA P s = .next (finished (put (taken s) d.toNat
      (((rd64 s s.cur a.toNat).extractLsb' 55 9 ++ BitVec.ofInt 55 sum).setWidth 128)) false) :=
  fireA_writes h hd (by rw [p, paddPlan_eq hd hs e h, if_neg (by omega), wd_tag_address _ nonneg small])

theorem padd_raises_tag {P : State → Plan} (p : P s = paddPlan s d a srcs off) (h : Deliverable s)
    (out : sum < 0 ∨ 2 ^ 55 ≤ sum) :
    fireA P s = .next (delivered s ⟨.tag, rd64 s s.cur a.toNat⟩ (me s).arch.pc) :=
  fireA_raises_own h (by rw [p, paddPlan_eq hd hs e h.clear, if_pos out]) nofun

end Padd

section TwoPointers

variable {s : State} {d a b : BitVec 7} (hd : Dest s d.toNat) (pa : Plain s a.toNat) (pb : Plain s b.toNat)
include hd pa pb

theorem planPset_eq (h : Clear s) : planPset d a b s =
    { dests := destOf d.toNat
      c3 := if 20 ≤ bits (rd64 s s.cur b.toNat) 8 4 ∨
          (bits (rd64 s s.cur b.toNat) 8 4 = 0 ∧ bits (rd64 s s.cur b.toNat) 3 1 ≠ 0) then
        some ⟨.tag, rd64 s s.cur b.toNat⟩ else none
      stages := [wr s.cur d.toNat
        (((rd64 s s.cur b.toNat).setWidth 9 ++ (rd64 s s.cur a.toNat).setWidth 55).setWidth 128)] } := by
  have r : regPlan s s.cur true [fw d, fr a, fr b] = { dests := destOf d.toNat } :=
    regPlan_dest_sources h (srcs := [a, b]) hd (by simp [pa, pb])
  simp only [planPset, aPlan_clear h, r, Plan.own, Plan.does, Option.none_or, List.nil_append, ← wd_append, bits_low]

theorem pset_writes (h : Clear s) (known : bits (rd64 s s.cur b.toNat) 8 4 < 20)
    (untagged : bits (rd64 s s.cur b.toNat) 8 4 = 0 → bits (rd64 s s.cur b.toNat) 3 1 = 0) :
    Says.Writes s (.pset d a b) d
      (((rd64 s s.cur b.toNat).setWidth 9 ++ (rd64 s s.cur a.toNat).setWidth 55).setWidth 128) :=
  fireA_writes (P := planPset d a b) (ds := destOf d.toNat) h hd (by rw [planPset_eq hd pa pb h, if_neg (by omega)])

theorem pset_raises_tag (h : Deliverable s)
    (bad : 20 ≤ bits (rd64 s s.cur b.toNat) 8 4 ∨
      (bits (rd64 s s.cur b.toNat) 8 4 = 0 ∧ bits (rd64 s s.cur b.toNat) 3 1 ≠ 0)) :
    Raises s (.pset d a b) ⟨.tag, rd64 s s.cur b.toNat⟩ :=
  fireA_raises_own (P := planPset d a b) h (by rw [planPset_eq hd pa pb h.clear, if_pos bad]) nofun

theorem pdiff_writes (h : Clear s) : Says.Writes s (.pdiff d a b) d
    ((((rd64 s s.cur a.toNat).setWidth 55).setWidth 64 - ((rd64 s s.cur b.toNat).setWidth 55).setWidth 64 :
      BitVec 64).setWidth 128) := by
  refine (fireA_value (p := planPdiff d a b) (srcs := [a, b]) h rfl hd (by simp [pa, pb])).trans ?_
  rw [wd_wrap, ofInt_sub, bits_lo64 _ (by decide), bits_lo64 _ (by decide), bits_low, bits_low, BitVec.ofInt_natCast,
    BitVec.ofInt_natCast, BitVec.ofNat_toNat, BitVec.ofNat_toNat]
  rfl

end TwoPointers

theorem pget_writes {s : State} (h : Clear s) {d a : BitVec 7} (hd : Dest s d.toNat) (pa : Plain s a.toNat) :
    Says.Writes s (.pget d a) d (((rd64 s s.cur a.toNat).extractLsb' 55 9).setWidth 128) := by
  refine (fireA_value (p := planPget d a) (srcs := [a]) h rfl hd (by simp [pa])).trans ?_
  rw [bits_lo64 _ (by decide), bits_eq_extractLsb', wd_toNat]
  rfl

/-- Settles O3: the words' results are the fields of the sources' low halves, and what is no pointer asks for TAG. -/
theorem pointerWordsMoveAddressesAndTags : Obligations.PointerWordsMoveAddressesAndTags := by
  constructor
  · intro s d a b h hd pa pb
    have hs : ∀ x ∈ [a, b], Plain s x.toNat := by simp [pa, pb]
    exact ⟨fun lo hi => padd_writes (P := planPadd d a b) hd hs rfl rfl h lo hi,
      fun out k => padd_raises_tag (P := planPadd d a b) hd hs rfl rfl k out,
      fun ok => pset_writes hd pa pb h ok.1 ok.2, fun bad k => pset_raises_tag hd pa pb k bad,
      pget_writes h hd pa, pdiff_writes hd pa pb h⟩
  · intro s d a imm h hd pa
    have hs : ∀ x ∈ [a], Plain s x.toNat := by simp [pa]
    exact ⟨fun lo hi => padd_writes (P := planPaddi d a imm) hd hs rfl rfl h lo hi,
      fun out k => padd_raises_tag (P := planPaddi d a imm) hd hs rfl rfl k out⟩

end Sys2Proof.Machine
end

section
/-!
Proofs: every change that a stage can name keeps the invariant (R145, R146, R328, R350), so every run does, and so does
every step, which is a run from the state at the cycle of what is due.
-/

namespace Sys2Proof.Machine

open Sys2Proof

/-! ## The agenda in the order of its cycles -/

theorem due_le_of_agendaLe {x y : Nat × Act} (h : agendaLe x y = true) : x.1 ≤ y.1 := by
  unfold agendaLe at h
  rcases Bool.or_eq_true_iff.mp h with lt | h
  · exact Nat.le_of_lt (of_decide_eq_true lt)
  · exact Nat.le_of_eq (of_decide_eq_true (Bool.and_eq_true_iff.mp h).1)

theorem agendaLe_of_due_lt {x y : Nat × Act} (h : x.1 < y.1) : agendaLe x y = true :=
  Bool.or_eq_true_iff.mpr (.inl (decide_eq_true h))

/-- What no entry stands before comes no later than any of them. -/
theorem due_le_of_insertLast_none {x : Nat × Act} {l : List (Nat × Act)} (h : insertLast agendaLe x l = none) :
    ∀ y ∈ l, x.1 ≤ y.1 := by
  induction l with
  | nil => exact List.forall_mem_nil _
  | cons y r ih =>
    cases e : insertLast agendaLe x r with
    | some r' => simp [insertLast, e] at h
    | none =>
      have behind : ¬ agendaLe y x = true := by simpa [insertLast, e] using h
      refine List.forall_mem_cons.mpr ⟨?_, ih e⟩
      exact Nat.le_of_not_lt (fun lt => behind (agendaLe_of_due_lt lt))

/-- Where an entry finds its place behind another, some entry comes no later, and no third one appears. -/
theorem mem_of_insertLast_some {x : Nat × Act} {l l' : List (Nat × Act)} (h : insertLast agendaLe x l = some l') :
    (∃ y ∈ l, y.1 ≤ x.1) ∧ ∀ c ∈ l', c = x ∨ c ∈ l := by
  induction l generalizing l' with
  | nil => cases h
  | cons y r ih =>
    cases e : insertLast agendaLe x r with
    | some r' =>
      obtain rfl : y :: r' = l' := by simpa [insertLast, e] using h
      obtain ⟨⟨z, hz, le⟩, sub⟩ := ih e
      refine ⟨⟨z, List.mem_cons_of_mem _ hz, le⟩, fun c hc => ?_⟩
      rcases List.mem_cons.mp hc with rfl | hc
      · exact .inr List.mem_cons_self
      · exact (sub c hc).imp_right (List.mem_cons_of_mem _)
    | none =>
      have ⟨le, e'⟩ : agendaLe y x = true ∧ y :: x :: r = l' := by simpa [insertLast, e] using h
      subst e'
      refine ⟨⟨y, List.mem_cons_self, due_le_of_agendaLe le⟩, fun c hc => ?_⟩
      simp only [List.mem_cons] at hc ⊢
      tauto

theorem pairwise_insertLast {x : Nat × Act} {l l' : List (Nat × Act)} (h : insertLast agendaLe x l = some l')
    (p : l.Pairwise (fun x y => x.1 ≤ y.1)) : l'.Pairwise (fun x y => x.1 ≤ y.1) := by
  induction l generalizing l' with
  | nil => cases h
  | cons y r ih =>
    obtain ⟨first, p⟩ := List.pairwise_cons.mp p
    cases e : insertLast agendaLe x r with
    | some r' =>
      obtain rfl : y :: r' = l' := by simpa [insertLast, e] using h
      obtain ⟨⟨z, hz, le⟩, sub⟩ := mem_of_insertLast_some e
      refine List.pairwise_cons.mpr ⟨fun c hc => ?_, ih e p⟩
      rcases sub c hc with rfl | hc
      · exact Nat.le_trans (first z hz) le
      · exact first c hc
    | none =>
      have ⟨le, e'⟩ : agendaLe y x = true ∧ y :: x :: r = l' := by simpa [insertLast, e] using h
      subst e'
      have yx := due_le_of_agendaLe le
      have xr := due_le_of_insertLast_none e
      exact List.pairwise_cons.mpr ⟨List.forall_mem_cons.mpr ⟨yx, first⟩, List.pairwise_cons.mpr ⟨xr, p⟩⟩

theorem pairwise_agendaAdd {l : List (Nat × Act)} (p : l.Pairwise (fun x y => x.1 ≤ y.1)) (due : Nat) (a : Act) :
    (agendaAdd l due a).Pairwise (fun x y => x.1 ≤ y.1) := by
  unfold agendaAdd
  cases e : insertLast agendaLe (due, a) l with
  | some l' => exact pairwise_insertLast e p
  | none => exact List.pairwise_cons.mpr ⟨due_le_of_insertLast_none e, p⟩

theorem agendaDone_sublist (l : List (Nat × Act)) (now slot : Nat) : (agendaDone l now slot).Sublist l := by
  unfold agendaDone
  split
  · split
    · exact List.sublist_cons_self _ _
    · exact List.Sublist.refl _
  · exact List.Sublist.refl _

/-! ## The commit order -/

theorem rising_putAll (ws : List Nat) (v : Nat) (t : Tab Nat) (h : Tab.rising t = true) :
    Tab.rising (ws.foldl (fun t w => tabPut t w v) t) = true := by
  induction ws generalizing t with
  | nil => exact h
  | cons w r ih => exact ih _ (rising_put t w v h)

theorem mem_putAll (ws : List Nat) (v : Nat) (t : Tab Nat) {c : Nat × Nat}
    (h : c ∈ ws.foldl (fun t w => tabPut t w v) t) : c.2 = v ∨ c ∈ t := by
  induction ws generalizing t with
  | nil => exact .inr h
  | cons w r ih =>
    rcases ih _ h with e | m
    · exact .inl e
    · exact (mem_tabPut t w v c m).imp_left (fun e => by rw [e])

/-! ## The journal -/

theorem upto_concat (a n : Nat) : upto a (n + 1) = upto a n ++ [a + n] := by
  induction n generalizing a with
  | zero => rfl
  | succ n ih =>
    rw [upto, ih, upto, List.cons_append, Nat.add_assoc, Nat.add_comm 1 n]

/-! ## Every change, every run, every step -/

theorem apply_keeps_inv (s : State) (e : Eff) (h : Inv s) : Inv (Eff.apply s e) := by
  have mem := apply_wf s e h.memory
  cases e with
  | obj _ | store _ _ | scrub _ _ | draw _ | focus _ => exact { h with memory := mem }
  | post due a => exact { h with due := pairwise_agendaAdd h.due due a }
  | unpost p => exact { h with due := h.due.filter _ }
  | turnDone slot => exact { h with due := h.due.sublist (agendaDone_sublist _ _ _) }
  | restart => exact ⟨mem, h.due, rfl, nofun, rfl, rfl⟩
  | commit ws =>
    refine { h with words := rising_putAll ws _ _ h.words, committed := fun c hc => ?_ }
    rcases mem_putAll ws _ _ hc with e | m
    · exact Nat.le_of_eq e
    · exact Nat.le_succ_of_le (h.committed c m)
  | journal e =>
    refine { h with next := ?_, numbered := ?_ }
    · show s.jsn + 1 = (s.journal ++ [_]).length + 1
      rw [List.length_append, h.next]
      rfl
    · show (s.journal ++ [{ e with jsn := s.jsn }]).map JEntry.jsn = upto 1 (s.journal ++ [_]).length
      rw [List.length_append, List.length_singleton, upto_concat, List.map_append, h.numbered, List.map_singleton, h.next,
        Nat.add_comm 1]

theorem run_keeps_inv (l : List Stage) (s : State) (h : Inv s) : Inv (run l s) := run_keeps apply_keeps_inv l s h

theorem issueBundle_next {b : BitVec 64} {s t : State} (h : issueBundle b s = .next t) : ∃ l, t = run l s := by
  unfold issueBundle at h
  split at h
  · split at h
    · exact exec_next h
    · split at h
      · exact exec_next h
      · cases h; exact ⟨_, rfl⟩
  · exact exec_next h

theorem takesBanks_run (s : State) (slot : Nat) (banks : List Nat) : ∃ l, takesBanks s slot banks = run l s := by
  unfold takesBanks
  split
  · exact ⟨[], rfl⟩
  · exact ⟨[eff [onQuad (quadOf slot) (fun q => { q with
      banks := banks.foldl (fun t b => tabPut t b (s.now + 1, coreOf slot % 4)) q.banks })]], rfl⟩

theorem arbitrate_next {s t : State} {slot : Nat} {f : State → Host.Outcome State Fault Refusal}
    (hf : ∀ {u t : State}, f u = .next t → ∃ l, t = run l u) (h : arbitrate s slot f = .next t) : ∃ l, t = run l s := by
  unfold arbitrate at h
  dsimp only at h
  split at h
  · cases h; exact ⟨_, rfl⟩
  · obtain ⟨l, e⟩ := hf h
    obtain ⟨k, e'⟩ := takesBanks_run s slot (bundleBanks s slot)
    exact ⟨k ++ l, by rw [run_append, ← e', e]⟩

/-- A step is a run from the state that it meets, at a cycle no earlier, with some slot's position and with the agenda as it
was or without its first entry. -/
theorem step_next {s t : State} (h : step s = .next t) :
    ∃ (l : List Stage) (now cur : Nat) (a : List (Nat × Act)), s.now ≤ now ∧ a.Sublist s.agenda ∧
      t = run l { s with now := now, cur := cur, agenda := a } := by
  unfold step at h
  split at h
  · next e => cases h; exact ⟨[], s.now + 1, s.cur, s.agenda, Nat.le_succ _, List.Sublist.refl _, rfl⟩
  · next due i r e =>
    obtain ⟨l, hl⟩ := exec_next h
    exact ⟨l, _, s.cur, r, Nat.le_max_left s.now due, e ▸ List.sublist_cons_self _ _, hl⟩
  · next due q p r e => cases h; exact ⟨_, _, s.cur, r, Nat.le_max_left s.now due, e ▸ List.sublist_cons_self _ _, rfl⟩
  · next due l i vs r e => cases h; exact ⟨_, _, s.cur, r, Nat.le_max_left s.now due, e ▸ List.sublist_cons_self _ _, rfl⟩
  · next due _ tk x r e => cases h; exact ⟨_, _, s.cur, r, Nat.le_max_left s.now due, e ▸ List.sublist_cons_self _ _, rfl⟩
  · next due slot r e =>
    dsimp only at h
    split at h
    · cases h; exact ⟨_, _, slot, s.agenda, Nat.le_max_left s.now due, List.Sublist.refl _, rfl⟩
    · obtain ⟨l, hl⟩ := arbitrate_next issueBundle_next h
      exact ⟨l, _, slot, s.agenda, Nat.le_max_left s.now due, List.Sublist.refl _, hl⟩

/-- Settles O51: the invariant holds where a step's run begins, and every change of the run keeps it; a run does not
change the cycle at which it begins. -/
theorem everyStepKeepsTheInvariant : Obligations.EveryStepKeepsTheInvariant := by
  refine ⟨fun s t inv h => ?_, fun s t h => ?_⟩ <;> obtain ⟨l, now, cur, a, le, sub, rfl⟩ := step_next h
  · exact run_keeps_inv l _ { inv with due := inv.due.sublist sub }
  · rw [run_now]
    exact le

end Sys2Proof.Machine
end

section
/-!
Proofs: decoding and encoding. A word is a row of fields; a mask test on a row is a test on each field, and a field
cut out of a row is the field.
-/

namespace Sys2Proof.Machine
open Sys2Proof Decode

/-- Under the mask `k` the bits of `w` are those of `c`. -/
def fits {n : Nat} (w : BitVec n) (k c : Nat) : Bool := w &&& BitVec.ofNat n k == BitVec.ofNat n c

theorem mask_iff_fits {n : Nat} (w : BitVec n) (k c : Nat) :
    w &&& BitVec.ofNat n k = BitVec.ofNat n c ↔ fits w k c = true := by
  rw [fits, beq_iff_eq]

theorem append_eq_append_iff {m n : Nat} {x x' : BitVec m} {y y' : BitVec n} :
    x ++ y = x' ++ y' ↔ x = x' ∧ y = y' := by
  constructor
  · intro h
    have hx := congrArg (BitVec.extractLsb' n m) h
    have hy := congrArg (BitVec.extractLsb' 0 n) h
    rw [BitVec.extractLsb'_append_eq_left, BitVec.extractLsb'_append_eq_left] at hx
    rw [BitVec.extractLsb'_append_eq_right, BitVec.extractLsb'_append_eq_right] at hy
    exact ⟨hx, hy⟩
  · rintro ⟨rfl, rfl⟩
    rfl

theorem ofNat_add_eq_append (m n k : Nat) :
    BitVec.ofNat (m + n) k = BitVec.ofNat m (k / 2 ^ n) ++ BitVec.ofNat n (k % 2 ^ n) := by
  apply BitVec.eq_of_toNat_eq
  have := Nat.mod_lt k (Nat.two_pow_pos n)
  rw [BitVec.toNat_append, BitVec.toNat_ofNat, BitVec.toNat_ofNat, BitVec.toNat_ofNat, Nat.mod_mod,
    ← Nat.shiftLeft_add_eq_or_of_lt this, Nat.shiftLeft_eq, Nat.pow_add, Nat.mul_comm (2 ^ m), Nat.mod_mul,
    Nat.add_comm, Nat.mul_comm]

/-- A mask test on a row of fields is a test on each. -/
theorem fits_append {m n : Nat} (x : BitVec m) (y : BitVec n) (k c : Nat) :
    fits (x ++ y) k c = (fits x (k / 2 ^ n) (c / 2 ^ n) && fits y (k % 2 ^ n) (c % 2 ^ n)) := by
  rw [Bool.eq_iff_iff]
  simp only [fits, ofNat_add_eq_append m n, BitVec.and_append, append_eq_append_iff, Bool.and_eq_true, beq_iff_eq]

theorem fits_free {n : Nat} (x : BitVec n) : fits x 0 0 = true := by
  simp [fits]

theorem fits_literal (n x k c : Nat) :
    fits (BitVec.ofNat n x) k c = decide ((x &&& k) % 2 ^ n = c % 2 ^ n) := by
  simp only [fits, BitVec.toNat_eq, BitVec.toNat_and, BitVec.toNat_ofNat, Nat.and_mod_two_pow, beq_eq_decide]

theorem getLsbD_append_of_le {m n i : Nat} (x : BitVec m) (y : BitVec n) (h : n ≤ i) :
    (x ++ y).getLsbD i = x.getLsbD (i - n) := by
  rw [BitVec.getLsbD_append, if_neg (by omega)]

theorem getLsbD_append_of_lt {m n i : Nat} (x : BitVec m) (y : BitVec n) (h : i < n) :
    (x ++ y).getLsbD i = y.getLsbD i := by
  rw [BitVec.getLsbD_append, if_pos h]

theorem getLsbD_ofBool (b : Bool) : (BitVec.ofBool b).getLsbD 0 = b := by
  cases b <;> rfl

/-- L2PDATA has an operation of its own, so no CSRW is of it. -/
theorem csrw_ne_l2pdata {ls : LS} {a : BitVec 7} {c : BitVec 10} (h : (Instr.csrw ls a c).wf = true) :
    (c = 0x111#10) = False := by
  refine eq_false fun e => ?_
  subst e
  have hc : csrWritable 0x111#10 = true := h
  exact absurd hc (by decide)

/-! The constructors are taken in spans, so that no one proof walks through all of them. -/

theorem decodeA_encode_arithmetic {i : Instr} {w : BitVec 32} (h : encode i = .a w)
    (hi : i.ctorIdx.blt 124 = true) : decodeA w = .ok i := by
  cases i <;> cases h <;> cases hi <;>
    simp (disch := decide) only [decodeA, fits_append, fits_free, fits_literal, mask_iff_fits,
      BitVec.extractLsb'_append_eq_of_le, BitVec.extractLsb'_append_eq_of_add_le, BitVec.extractLsb'_eq_self,
      BitVec.toNat_ofNat, Nat.reducePow, Nat.reduceDiv, Nat.reduceMod, Nat.reduceAnd, Nat.reduceSub, Bool.and_true,
      decide_true, reduceIte]

theorem decodeA_encode_predicate {i : Instr} {w : BitVec 32} (h : encode i = .a w)
    (lo : i.ctorIdx.blt 124 = false) (hi : i.ctorIdx.blt 150 = true) : decodeA w = .ok i := by
  cases i <;> cases h <;> cases lo <;> cases hi <;>
    simp (disch := decide) only [decodeA, fits_append, fits_free, fits_literal, mask_iff_fits,
      BitVec.extractLsb'_append_eq_of_le, BitVec.extractLsb'_append_eq_of_add_le, BitVec.extractLsb'_eq_self,
      BitVec.toNat_ofNat, Nat.reducePow, Nat.reduceDiv, Nat.reduceMod, Nat.reduceAnd, Nat.reduceSub, Bool.and_true,
      decide_true, reduceIte, Bool.true_and, Bool.and_self, Nat.reduceEqDiff, decide_false, Bool.and_false,
      Bool.false_eq_true]

theorem decodeA_encode_vector {i : Instr} {w : BitVec 32} (h : encode i = .a w)
    (lo : i.ctorIdx.blt 150 = false) (hi : i.ctorIdx.blt 166 = true) : decodeA w = .ok i := by
  cases i <;> cases h <;> cases lo <;> cases hi <;>
    simp (disch := decide) only [decodeA, fits_append, fits_free, fits_literal, mask_iff_fits,
      BitVec.extractLsb'_append_eq_of_le, BitVec.extractLsb'_append_eq_of_add_le, BitVec.extractLsb'_eq_self,
      BitVec.toNat_ofNat, Nat.reducePow, Nat.reduceDiv, Nat.reduceMod, Nat.reduceAnd, Nat.reduceSub, Bool.and_true,
      decide_true, reduceIte]

theorem decodeA_encode_conversion {i : Instr} {w : BitVec 32} (h : encode i = .a w)
    (lo : i.ctorIdx.blt 166 = false) : decodeA w = .ok i := by
  cases i <;> cases h <;> cases lo <;>
    simp (disch := decide) only [decodeA, fits_append, fits_free, fits_literal, mask_iff_fits,
      BitVec.extractLsb'_append_eq_of_le, BitVec.extractLsb'_append_eq_of_add_le, BitVec.extractLsb'_eq_self,
      BitVec.toNat_ofNat, Nat.reducePow, Nat.reduceDiv, Nat.reduceMod, Nat.reduceAnd, Nat.reduceSub, Bool.and_true,
      decide_true, reduceIte, Bool.true_and, Nat.reduceEqDiff, decide_false, Bool.and_false, Bool.false_eq_true]

theorem decodeC_encode_csrw {ls : LS} {a : BitVec 7} {c : BitVec 10} (hw : (Instr.csrw ls a c).wf = true) :
    decodeWords (encode (.csrw ls a c)) = .ok (.csrw ls a c) := by
  simp (disch := decide) only [encode, decodeWords, decodeC, fits_append, fits_free, fits_literal, mask_iff_fits,
      BitVec.extractLsb'_append_eq_of_le, BitVec.extractLsb'_append_eq_of_add_le, BitVec.extractLsb'_eq_self,
      BitVec.toNat_ofNat, Nat.reducePow, Nat.reduceDiv, Nat.reduceMod, Nat.reduceAnd, Nat.reduceSub, Bool.and_true,
      decide_true, reduceIte, short, getLsbD_append_of_le, getLsbD_append_of_lt, getLsbD_ofBool, ne_eq,
      not_true_eq_false, and_false, BitVec.ofNat_eq_ofNat, csrw_ne_l2pdata hw]

theorem decodeC_encode_low {i : Instr} {w : BitVec 32} (h : encode i = .c w) (hw : i.wf = true)
    (hi : i.ctorIdx.blt 53 = true) : decodeC w 0 = .ok i := by
  cases i with
  | csrw ls a c => cases h; exact decodeC_encode_csrw hw
  | _ =>
    cases h <;> cases hi <;>
      simp (disch := decide) only [decodeC, fits_append, fits_free, fits_literal, mask_iff_fits,
      BitVec.extractLsb'_append_eq_of_le, BitVec.extractLsb'_append_eq_of_add_le, BitVec.extractLsb'_eq_self,
      BitVec.toNat_ofNat, Nat.reducePow, Nat.reduceDiv, Nat.reduceMod, Nat.reduceAnd, Nat.reduceSub, Bool.and_true,
      decide_true, reduceIte, short, getLsbD_append_of_le, getLsbD_append_of_lt, getLsbD_ofBool, ne_eq,
      not_true_eq_false, and_false, Bool.true_and, longCapable, BitVec.reduceGetLsb,
        BitVec.ofNat_eq_ofNat, BitVec.reduceExtractLsb', Nat.reduceEqDiff, decide_false, Bool.and_false,
        Bool.false_eq_true]

theorem decodeC_encode_high {i : Instr} {w : BitVec 32} (h : encode i = .c w)
    (lo : i.ctorIdx.blt 53 = false) : decodeC w 0 = .ok i := by
  cases i <;> cases h <;> cases lo <;>
    simp (disch := decide) only [decodeC, fits_append, fits_free, fits_literal, mask_iff_fits,
      BitVec.extractLsb'_append_eq_of_le, BitVec.extractLsb'_append_eq_of_add_le, BitVec.extractLsb'_eq_self,
      BitVec.toNat_ofNat, Nat.reducePow, Nat.reduceDiv, Nat.reduceMod, Nat.reduceAnd, Nat.reduceSub, Bool.and_true,
      decide_true, reduceIte, short, getLsbD_append_of_le, getLsbD_append_of_lt, getLsbD_ofBool, ne_eq,
      not_true_eq_false, and_false, Nat.reduceEqDiff, decide_false, Bool.and_false, Bool.false_eq_true]

theorem decodeC_encode_long {i : Instr} {w lit : BitVec 32} (h : encode i = .long w lit) :
    decodeC w lit = .ok i := by
  cases i <;> cases h <;>
    simp (disch := decide) only [decodeC, fits_append, fits_free, fits_literal, mask_iff_fits,
      BitVec.extractLsb'_append_eq_of_le, BitVec.extractLsb'_append_eq_of_add_le, BitVec.extractLsb'_eq_self,
      BitVec.toNat_ofNat, Nat.reducePow, Nat.reduceDiv, Nat.reduceMod, Nat.reduceAnd, Nat.reduceSub, Bool.and_true,
      decide_true, reduceIte, getLsbD_append_of_le, getLsbD_append_of_lt, getLsbD_ofBool, longCapable, longOnly,
      BitVec.ofNat_eq_ofNat,
      BitVec.reduceGetLsb, Nat.reduceEqDiff, decide_false, Bool.and_false, Bool.false_eq_true]

/-- Settles O52, by the kind of word and the constructors of each kind. -/
theorem decodingInvertsEncoding : Obligations.DecodingInvertsEncoding := by
  intro i hw hn
  cases h : encode i with
  | none => exact absurd h hn
  | long w lit => exact decodeC_encode_long h
  | c w =>
    cases hs : i.ctorIdx.blt 53 with
    | true => exact decodeC_encode_low h hw hs
    | false => exact decodeC_encode_high h hs
  | a w =>
    cases h₁ : i.ctorIdx.blt 124 with
    | true => exact decodeA_encode_arithmetic h h₁
    | false =>
      cases h₂ : i.ctorIdx.blt 150 with
      | true => exact decodeA_encode_predicate h h₁ h₂
      | false =>
        cases h₃ : i.ctorIdx.blt 166 with
        | true => exact decodeA_encode_vector h h₂ h₃
        | false => exact decodeA_encode_conversion h h₃

end Sys2Proof.Machine
end

section
/-!
Proofs: encoding and decoding. What the decoder takes out of a word, beside what its tests fix, is the whole word.
-/

namespace Sys2Proof.Machine
open Sys2Proof Decode

/-- The field `x` stands in the word `w` from bit `p` on. -/
def standsAt {n : Nat} (x : BitVec n) (w : BitVec 32) (p : Nat) : Prop := w.extractLsb' p n = x

theorem eq_iff_standsAt {x w : BitVec 32} : x = w ↔ standsAt x w 0 := by
  rw [standsAt, BitVec.extractLsb'_eq_self, eq_comm]

theorem standsAt_append {m n : Nat} {x : BitVec m} {y : BitVec n} {w : BitVec 32} {p : Nat} :
    standsAt (x ++ y) w p ↔ standsAt x w (p + n) ∧ standsAt y w p := by
  rw [standsAt, ← BitVec.extractLsb'_append_extractLsb'_eq_extractLsb' (start₂ := p + n) rfl, append_eq_append_iff]
  rfl

theorem standsAt_extractLsb' {w : BitVec 32} {p q n : Nat} (h : q = p) : standsAt (w.extractLsb' p n) w q := by
  rw [h, standsAt]

theorem standsAt_ofBool {w : BitVec 32} {p q : Nat} (h : q = p) : standsAt (BitVec.ofBool (w.getLsbD p)) w q := by
  apply BitVec.eq_of_getLsbD_eq
  intro i hi
  obtain rfl : i = 0 := by omega
  simp [h]

theorem standsAt_of_getLsbD {w : BitVec 32} {p q : Nat} {b : Bool} {x : BitVec 1} (h : w.getLsbD p = b)
    (hq : q = p ∧ x = BitVec.ofBool b) : standsAt x w q := by
  rw [hq.2, ← h]
  exact standsAt_ofBool hq.1

theorem standsAt_of_extractLsb' {w : BitVec 32} {p q n : Nat} {x : BitVec n} (h : w.extractLsb' p n = x) (hq : q = p) :
    standsAt x w q := by
  rw [hq, standsAt, h]

/-- A mask that covers a field fixes it. -/
theorem standsAt_of_mask {w : BitVec 32} {k c p n x : Nat} (h : w &&& BitVec.ofNat 32 k = BitVec.ofNat 32 c)
    (hk : p + n ≤ 32 ∧ k / 2 ^ p % 2 ^ n = 2 ^ n - 1 ∧ c / 2 ^ p % 2 ^ n = x % 2 ^ n) :
    standsAt (BitVec.ofNat n x) w p := by
  obtain ⟨hp, hk, hc⟩ := hk
  apply BitVec.eq_of_getLsbD_eq
  intro i hi
  have hb := congrArg (fun v => BitVec.getLsbD v (p + i)) h
  have hki : k.testBit (p + i) = true := by
    have := congrArg (fun v => Nat.testBit v i) hk
    simpa [Nat.testBit_div_two_pow, Nat.testBit_two_pow_sub_one, hi, Nat.add_comm] using this
  have hci : c.testBit (p + i) = x.testBit i := by
    have := congrArg (fun v => Nat.testBit v i) hc
    simpa [Nat.testBit_div_two_pow, hi, Nat.add_comm] using this
  have hpi : p + i < 32 := by omega
  simp only [BitVec.getLsbD_and, BitVec.getLsbD_ofNat, hpi, decide_true, Bool.true_and, hki, hci, Bool.and_true] at hb
  rw [BitVec.getLsbD_extractLsb', BitVec.getLsbD_ofNat, hb, decide_eq_true hi, Bool.true_and]

theorem standsAt_of_toNat {w : BitVec 32} {p n x : Nat} (h : (w.extractLsb' p n).toNat = x) :
    standsAt (BitVec.ofNat n x) w p := by
  rw [standsAt, ← h, BitVec.ofNat_toNat, BitVec.setWidth_eq]

/-- The word `w`, with the literal `lit` where it has one, is what `i` encodes to. -/
def Encodes (w lit : BitVec 32) (i : Instr) : Prop := encode i = .c w ∨ encode i = .long w lit

/-- What a decoder answers for the word `w` encodes to `w`. -/
def Reads (w lit : BitVec 32) (r : Except DecodeError Instr) : Prop := ∀ i, r = .ok i → Encodes w lit i

theorem reads_error (w lit : BitVec 32) (e : DecodeError) : Reads w lit (.error e) :=
  fun _ h => absurd h (by simp only [reduceCtorEq, not_false_eq_true])

theorem reads_short (w lit : BitVec 32) (i : Instr) :
    Reads w lit (short w lit i) ↔ (¬ (w.getLsbD 31 = true ∧ lit ≠ 0) → Encodes w lit i) := by
  unfold short
  split <;> simp_all [Reads]

theorem reads_longCapable (w lit : BitVec 32) (i l : Instr) :
    Reads w lit (longCapable w i l) ↔
      (w.getLsbD 31 = true → w.extractLsb' 0 7 = 0#7 → Encodes w lit l) ∧
      (w.getLsbD 31 = false → Encodes w lit i) := by
  unfold longCapable
  split <;> (try split) <;> simp_all [Reads]

theorem reads_longOnly (w lit : BitVec 32) (i : Instr) :
    Reads w lit (longOnly w i) ↔ (w.getLsbD 31 = true → Encodes w lit i) := by
  unfold longOnly
  split <;> simp_all [Reads]


theorem encodes_of_row {w lit : BitVec 32} {i : Instr} {x : BitVec 32} (hi : encode i = .c x) (h : standsAt x w 0) :
    Encodes w lit i := by
  rw [Encodes, hi, eq_iff_standsAt.2 h]
  exact .inl rfl

theorem encodes_of_longRow {w lit : BitVec 32} {i : Instr} {x : BitVec 32} (hi : encode i = .long x lit)
    (h : standsAt x w 0) : Encodes w lit i := by
  rw [Encodes, hi, eq_iff_standsAt.2 h]
  exact .inr rfl

theorem reads_decodeC (w lit : BitVec 32) : Reads w lit (decodeC w lit) := by
  have free : w &&& 0#32 = 0#32 := BitVec.and_zero
  unfold decodeC
  split
  case h_52 => exact reads_error w lit _
  case h_9 hm =>
    repeat' split
    case isFalse => exact reads_error w lit _
    case isTrue.isTrue hk hc =>
      refine (reads_short ..).2 fun _ => encodes_of_row rfl ?_
      rw [show 0x111#17 = 0#7 ++ 0x111#10 from rfl]
      simp (disch := decide) only [standsAt_append, standsAt_extractLsb', standsAt_ofBool, standsAt_of_toNat hm,
        standsAt_of_mask hk, standsAt_of_extractLsb' hc, and_self]
    case isTrue.isFalse hk _ =>
      refine (reads_short ..).2 fun _ => encodes_of_row rfl ?_
      simp (disch := decide) only [standsAt_append, standsAt_extractLsb', standsAt_ofBool, standsAt_of_toNat hm,
        standsAt_of_mask hk, and_self]
  case h_11 hm | h_12 hm | h_13 hm | h_14 hm | h_15 hm =>
    refine (reads_longCapable ..).2 ⟨fun hl ho => encodes_of_longRow rfl ?_, fun hl => encodes_of_row rfl ?_⟩
    · simp (disch := decide) only [standsAt_append, standsAt_extractLsb', standsAt_ofBool, standsAt_of_toNat hm,
        standsAt_of_getLsbD hl, standsAt_of_extractLsb' ho, and_self]
    · simp (disch := decide) only [standsAt_append, standsAt_extractLsb', standsAt_ofBool, standsAt_of_toNat hm,
        standsAt_of_getLsbD hl, and_self]
  case h_35 hm | h_51 hm =>
    repeat' split
    all_goals
      simp (disch := decide) only [Encodes, encode, Words.long.injEq, reduceCtorEq, false_or,
        eq_iff_standsAt, standsAt_append, standsAt_extractLsb', standsAt_ofBool, standsAt_of_toNat hm,
        standsAt_of_mask ‹w &&& _ = _›, and_true, reads_error, reads_longOnly]
    all_goals exact fun hl => standsAt_of_getLsbD hl (by decide)
  all_goals
    repeat' split
    all_goals
      simp (disch := decide) only [Encodes, encode, Words.c.injEq, reduceCtorEq, or_false,
        eq_iff_standsAt, standsAt_append, standsAt_extractLsb', standsAt_ofBool,
          standsAt_of_toNat ‹(w.extractLsb' 24 6).toNat = _›,
        standsAt_of_mask ‹w &&& _ = _›, and_true, implies_true, reads_error, reads_short]

/-- What the decoder answers for the A-word `w` encodes to `w`. -/
def ReadsA (w : BitVec 32) (r : Except DecodeError Instr) : Prop := ∀ i, r = .ok i → encode i = .a w

theorem readsA_error (w : BitVec 32) (e : DecodeError) : ReadsA w (.error e) :=
  fun _ h => absurd h (by simp only [reduceCtorEq, not_false_eq_true])

theorem readsA_ok (w : BitVec 32) (i : Instr) : ReadsA w (.ok i) ↔ encode i = .a w := by
  simp [ReadsA]

theorem readsA_decodeA (w : BitVec 32) : ReadsA w (decodeA w) := by
  have free : w &&& 0#32 = 0#32 := BitVec.and_zero
  unfold decodeA
  split
  case h_79 => exact readsA_error w _
  all_goals
    repeat' split
    all_goals
      simp (disch := decide) only [encode, Words.a.injEq, eq_iff_standsAt, standsAt_append, standsAt_extractLsb',
        standsAt_of_toNat ‹(w.extractLsb' 25 7).toNat = _›, standsAt_of_mask ‹w &&& _ = _›, and_self, readsA_error,
        readsA_ok]

/-- Settles O53: a word is the row of the fields that the decoder takes out of it and of those that it tests. -/
theorem everyWordHasOneMeaning : Obligations.EveryWordHasOneMeaning :=
  ⟨fun w lit => reads_decodeC w lit, fun w => readsA_decodeA w⟩

end Sys2Proof.Machine
end

section
/-!
Proofs: the words that the spec writes out.
-/

namespace Sys2Proof.Machine
open Sys2Proof

/-- Settles O54: each word is evaluated. -/
theorem wordsOfTheSpecDecode : Obligations.WordsOfTheSpecDecode := by
  unfold Obligations.WordsOfTheSpecDecode
  and_intros <;> rfl

end Sys2Proof.Machine
end

section
/-!
Proofs: the state after reset.
-/

namespace Sys2Proof.Machine
open Sys2Proof

theorem hearthRead_reset (slot i : Nat) : hearthRead State.reset slot i = 0 := by
  have hl : hearthValues State.reset.now (tabD (core State.reset (coreOf slot)).hearth i {}) = [0] := rfl
  simp only [hearthRead, hl, List.length_singleton, Nat.mod_one]
  rfl

theorem rd_reset (slot f : Nat) : rd State.reset slot f = 0 := by
  have ht : thr State.reset slot = {} := rfl
  have hs : (thr State.reset slot).arch.strm f = none := rfl
  have hr : (thr State.reset slot).arch.reg f = 0 := by
    rw [ht]
    simp [Arch.reg, Vector.getD, Array.getD]
  unfold rd
  split
  · rfl
  split
  · exact hearthRead_reset slot _
  split
  · rfl
  · rw [hs, hr]

/-- Settles O50: the reset state is evaluated; the reset's release is one stage of three changes. -/
theorem resetIsAsStated : Obligations.ResetIsAsStated := by
  unfold Obligations.ResetIsAsStated
  refine ⟨rfl, rfl, rfl, rfl, rfl, by decide, rfl, rfl, rfl, rfl, rfl, ⟨_, rfl, ?_⟩, fun a => rfl, rd_reset,
    rfl, List.pairwise_singleton _ _, rfl, List.forall_mem_nil _, rfl, rfl⟩
  simp only [resets, run_cons, run_nil, runStage_pick]
  rfl
end Sys2Proof.Machine
end

section
/-!
Proofs: a step. What a slot's position, an event, an answer of the shipped firmware and an empty agenda come to.
-/

namespace Sys2Proof.Machine
open Sys2Proof

/-- The state in which a slot takes its position. -/
def turnState (s : State) (due slot : Nat) : State := { s with now := Nat.max s.now due, cur := slot }

theorem step_turn_error {s : State} {due slot : Nat} {r : List (Nat × Act)} {l : List Stage}
    (h : s.agenda = (due, .turn slot) :: r) (f : fetch (turnState s due slot) slot = .error l) :
    step s = .next (run l (turnState s due slot)) := by
  obtain ⟨⟩ := s
  cases h
  unfold turnState at f
  simp only [step, turnState, f]

theorem step_turn_ok {s : State} {due slot : Nat} {r : List (Nat × Act)} {b : BitVec 64}
    (h : s.agenda = (due, .turn slot) :: r) (f : fetch (turnState s due slot) slot = .ok b) :
    step s = arbitrate (turnState s due slot) slot (issueBundle b) := by
  obtain ⟨⟩ := s
  cases h
  unfold turnState at f
  simp only [step, turnState, f]

theorem arbitrate_loses {s : State} {slot : Nat} {f : State → Host.Outcome State Fault Refusal}
    (h : losesBank s slot (bundleBanks s slot) = true) : arbitrate s slot f = .next (run (bubble slot) s) := by
  simp only [arbitrate, h, if_true]

theorem arbitrate_serves {s : State} {slot : Nat} {f : State → Host.Outcome State Fault Refusal}
    (h : losesBank s slot (bundleBanks s slot) = false) :
    arbitrate s slot f = f (takesBanks s slot (bundleBanks s slot)) := by
  simp only [arbitrate, h, Bool.false_eq_true, if_false]

theorem takesBanks_eq (s : State) (slot : Nat) (banks : List Nat) : takesBanks s slot banks =
    if banks = [] then s else { s with o := { s.o with quads := tabMod s.o.quads (quadOf slot) {} (fun q =>
      { q with banks := banks.foldl (fun t b => tabPut t b (s.now + 1, coreOf slot % 4)) q.banks }) } } := by
  cases banks <;> rfl

theorem issueBundle_lone {b : BitVec 64} {s : State} {c : Instr} (h : decodeBundle b = .ok (c, .ok .anop)) :
    issueBundle b s = exec c s := by
  simp only [issueBundle, h, if_true]

theorem issueBundle_beside_nop {b : BitVec 64} {s : State} {a : Instr}
    (h : decodeBundle b = .ok (.nop ⟨false, false⟩, .ok a)) (ha : a ≠ .anop) : issueBundle b s = exec a s := by
  simp only [issueBundle, h, ha, if_true, if_false]

theorem issueBundle_two {b : BitVec 64} {s : State} {c a : Instr} (h : decodeBundle b = .ok (c, .ok a))
    (hc : c ≠ .nop ⟨false, false⟩) (ha : a ≠ .anop) :
    issueBundle b s = .next (run (issue s s.cur (planOf c s) (planOf a s)) s) := by
  simp only [issueBundle, h, ha, hc, if_false]

theorem issueBundle_error_a {b : BitVec 64} {s : State} {c : Instr} {e : DecodeError}
    (h : decodeBundle b = .ok (c, .error e)) : issueBundle b s = exec (.encodingNotInstruction b) s := by
  simp only [issueBundle, h]

theorem issueBundle_error {b : BitVec 64} {s : State} {e : DecodeError} (h : decodeBundle b = .error e) :
    issueBundle b s = exec (.encodingNotInstruction b) s := by
  simp only [issueBundle, h]

/-- Each bank has served no other core in this cycle, and no other core of the quad has a position in it. -/
theorem losesBank_alone {s : State} {slot : Nat} {l : List Nat}
    (hb : ∀ b ∈ l, ∀ x : Nat × Nat, tabGet (quad s (quadOf slot)).banks b = some x →
      x.1 ≠ s.now + 1 ∨ x.2 = coreOf slot % 4)
    (ha : ∀ x ∈ s.agenda, ∀ y, x.2 = .turn y → s.now < x.1 ∨ quadOf y ≠ quadOf slot ∨ coreOf y = coreOf slot) :
    losesBank s slot l = false := by
  simp only [losesBank, Bool.and_eq_false_iff, Bool.or_eq_false_iff, List.any_eq_false]
  refine .inr ⟨fun b hm => ?_, fun x hm => ?_⟩
  · split
    next cy c e =>
      rcases hb b hm _ e with h | h
      · simp [show cy ≠ s.now + 1 from h]
      · simp [show c = coreOf slot % 4 from h]
    next => exact Bool.false_ne_true
  · split
    next y e =>
      rcases ha x hm y e with h | h | h
      · simp [Nat.not_le.mpr h]
      · simp [h]
      · simp [h]
    next => simp

theorem fetch_ok {s : State} {slot loc : Nat} {e : BitVec 128} (ho : occupied s slot = true)
    (hc : canIssue (thr s slot) = true) (hj : (thr s slot).joining = false) (hh : haltedAt s slot = false)
    (hf : (thr s slot).fault = none) (hp : (thr s slot).arch.priv ≠ .firmware) (ht : inText s slot = true)
    (hx : translate s slot (thr s slot).arch.pc.toNat .fetch = .hit loc e)
    (hl : (core s (coreOf slot)).lines.contains (textLine s slot) = true) :
    fetch s slot = .ok (bundleAt s slot) := by
  have hs : (thr s slot).st ≠ .shadow := by
    intro h
    simp [canIssue, h] at hc
  simp [fetch, hj, hs, ho, hc, hh, hf, hp, ht, hx, List.contains_iff_mem.1 hl]

/-- Settles O55, by what stands first in the agenda. -/
theorem aStepRunsWhatItsBytesDecodeTo : Obligations.AStepRunsWhatItsBytesDecodeTo := by
  unfold Obligations.AStepRunsWhatItsBytesDecodeTo
  refine ⟨?_, fun s slot l => losesBank_alone, fun s slot loc e => fetch_ok, ?_, ?_, ?_⟩
  · intro s due slot r h u
    refine ⟨fun l f => step_turn_error h f, fun b f k => (step_turn_ok h f).trans (arbitrate_loses k), ?_⟩
    intro b f k v
    have hv : takesBanks u slot (bundleBanks u slot) = v := takesBanks_eq u slot _
    have issues : step s = issueBundle b v := by rw [step_turn_ok h f, ← hv]; exact arbitrate_serves k
    have cur : v.cur = slot := by rw [← hv, takesBanks_eq]; split <;> rfl
    rw [issues]
    refine ⟨fun c d => issueBundle_lone d, fun a d ha => issueBundle_beside_nop d ha, ?_, fun c e d => issueBundle_error_a d,
      fun e d => issueBundle_error d⟩
    intro c a d hc ha
    rw [issueBundle_two d hc ha, cur]
  · intro s due i r h
    simp only [step, h]
  · intro s due r
    refine ⟨fun q p h => ?_, fun l i vs h => ?_, fun k tk x h => ?_⟩ <;>
    simp only [step, h]
  · intro s h
    simp only [step, h]

end Sys2Proof.Machine
end

section
/-!
Proofs: two words of a bundle. The first trap by the classes of R57, and CSRR beside ADD (R55 to R57).
-/

namespace Sys2Proof.Machine
open Sys2Proof

/-! ## The first trap of a bundle (R57) -/

section FirstTrap

variable {s : State} {slot : Nat} {c a : Plan}

theorem firstTrap_ill (h : c.ill = true) : firstTrap s slot c a = some (bTrap s slot .illegal) := by
  simp only [firstTrap, h, if_true]

theorem firstTrap_priv (hi : c.ill = false) (hp : c.priv = true) :
    firstTrap s slot c a = some (bTrap s slot .priv) := by
  simp only [firstTrap, hi, hp, Bool.false_eq_true, if_false, if_true]

theorem firstTrap_ill_a (hi : c.ill = false) (hp : c.priv = false) (ha : a.ill = true) :
    firstTrap s slot c a = some (bTrap s slot .illegal) := by
  simp only [firstTrap, hi, hp, ha, Bool.false_eq_true, if_false, if_true]

theorem firstTrap_clash (hi : c.ill = false) (hp : c.priv = false) (ha : a.ill = false) (hc : clash c a = true) :
    firstTrap s slot c a = some (bTrap s slot .bundle) := by
  simp only [firstTrap, hi, hp, ha, hc, Bool.false_eq_true, if_false, if_true]

variable (hi : c.ill = false) (hc : clash c a = false) (hp : c.priv = false) (ha : a.ill = false)
include hi hc hp ha

theorem firstTrap_priv_a (hq : a.priv = true) : firstTrap s slot c a = some (bTrap s slot .priv) := by
  simp only [firstTrap, hi, hp, ha, hc, hq, Bool.false_eq_true, if_false, if_true]

theorem firstTrap_own (hq : a.priv = false) (hh : c.hold = false) : firstTrap s slot c a =
    c.c2.or (a.c2.or (c.c3.or (if c.miss.isSome || a.hold then none else a.c3))) := by
  simp only [firstTrap, hi, hp, ha, hc, hq, hh, Bool.false_eq_true, if_false]

theorem firstTrap_held (hq : a.priv = false) (hh : c.hold = true) : firstTrap s slot c a = c.c2.or a.c2 := by
  simp only [firstTrap, hi, hp, ha, hc, hq, hh, Bool.false_eq_true, if_false, if_true, Option.or_none]

end FirstTrap

/-! ## CSRR beside ADD -/

theorem planCsrr_eq {s : State} (h : Clear s) (ls : LS) {d : BitVec 7} {c : BitVec 10} (hk : csrKnown c = true)
    (hd : Dest s d.toNat) : planCsrr ls d c s =
      { dests := destOf d.toNat, stages := [wr s.cur d.toNat (ext64 (csrValue s s.cur c.toNat))], mark := ls.s
        c3 := if determ s s.cur && (c == 0x010#10 || c == 0x011#10) then some (bTrap s s.cur .determinism) else none } := by
  simp only [planCsrr, hk, regPlan_dest h hd, cPlan, Plan.ownIf, Plan.own, Plan.does, Option.none_or, List.nil_append]

theorem valuePlan_eq {s : State} (h : Clear s) {d : BitVec 7} {srcs : List (BitVec 7)} (v : Word) (hd : Dest s d.toNat)
    (hs : ∀ x ∈ srcs, Plain s x.toNat) :
    valuePlan s true d srcs v = { dests := destOf d.toNat, stages := [wr s.cur d.toNat v] } := by
  simp only [valuePlan, aPlan_clear h, regPlan_dest_sources h hd hs, Plan.does, List.nil_append]

theorem planAdd_eq {s : State} (h : Clear s) {d a b : BitVec 7} (t : BitVec 2) (hd : Dest s d.toNat)
    (pa : Plain s a.toNat) (pb : Plain s b.toNat) : planAdd d a b t s =
      { dests := destOf d.toNat, stages := [wr s.cur d.toNat (Says.add t (rd s s.cur a.toNat) (rd s s.cur b.toNat))] } := by
  rw [planAdd, scalarPlan, valuePlan_eq h _ hd (by simp [pa, pb]), sOut_add]

/-- A write of one register binds no stream to another. -/
theorem strm_put {s : State} (h : occupied s s.cur = true) (f : Nat) (v : Word) (g : Nat) :
    (me (put s f v)).arch.strm g = (me s).arch.strm g := by
  rw [me_put f v h]
  split <;> rfl

theorem clash_dests {c a : Plan} {d e : Nat} (hc : c.dests = destOf d) (ha : a.dests = destOf e) :
    clash c a = decide (d = e ∧ d ≠ 0) := by
  simp only [clash, hc, ha, destOf]
  by_cases zd : d = 0 <;> by_cases ze : e = 0 <;> simp [zd, ze]

section Pair

variable {s : State} {ls : LS} {d e x y : BitVec 7} {c : BitVec 10} {t : BitVec 2} (hk : csrKnown c = true)
  (px : Plain s x.toNat) (py : Plain s y.toNat) (hd : Dest s d.toNat)
  (he : Dest s e.toNat)
include hk px py hd he

/-- The two plans ask for nothing but their destination and their value. -/
theorem issue_csrr_add (h : Clear s) (h10 : c ≠ 0x010#10) (h11 : c ≠ 0x011#10) (ne : d ≠ e ∨ d = 0) :
    run (issue s s.cur (planCsrr ls d c s) (planAdd e x y t s)) s =
      finished (put (put (taken s) d.toNat ((csrValue s s.cur c.toNat).setWidth 128)) e.toNat
        (Says.add t (rd s s.cur x.toNat) (rd s s.cur y.toNat))) ls.s := by
  have ec := planCsrr_eq h ls hk hd
  have ea := planAdd_eq h t he px py
  rw [beq_eq_false_iff_ne.mpr h10, beq_eq_false_iff_ne.mpr h11, Bool.or_self, Bool.and_false] at ec
  have qc : Runs s (planCsrr ls d c s) := by
    rw [ec]; exact ⟨rfl, rfl, rfl, rfl, rfl, rfl, rfl, rfl, rfl, rfl, rfl, rfl, rfl, rfl⟩
  have qa : Runs s (planAdd e x y t s) := by
    rw [ea]; exact ⟨rfl, rfl, rfl, rfl, rfl, rfl, rfl, rfl, rfl, rfl, rfl, rfl, rfl, rfl⟩
  have nc : clash (planCsrr ls d c s) (planAdd e x y t s) = false := by
    rw [clash_dests (by rw [ec]) (by rw [ea])]
    rw [decide_eq_false_iff_not]
    rintro ⟨same, nz⟩
    rcases ne with ne | z
    · exact ne (BitVec.eq_of_toNat_eq same)
    · exact nz (by rw [z]; rfl)
  have hu : run ((planCsrr ls d c s).stages ++ (planAdd e x y t s).stages) (taken s) =
      put (put (taken s) d.toNat ((csrValue s s.cur c.toNat).setWidth 128)) e.toNat
        (Says.add t (rd s s.cur x.toNat) (rd s s.cur y.toNat)) := by
    rw [ec, ea]
    simp only [List.cons_append, List.nil_append, run_cons, run_nil]
    have first := wr_put (s := taken s) ((csrValue s s.cur c.toNat).setWidth 128) hd.1.1
    have second := wr_put (s := put (taken s) d.toNat ((csrValue s s.cur c.toNat).setWidth 128)) (f := e.toNat)
      (Says.add t (rd s s.cur x.toNat) (rd s s.cur y.toNat)) (by rw [strm_put (s := taken s) h.held]; exact he.1.1)
    rw [cur_put] at second
    exact (congrArg (fun u => runStage u _) first).trans second
  rw [issue_runs h.alone qc.issues qa.issues nc (by rw [ec, ea]; rfl),
    effects_end qc qa hu ((h.fit_taken.put _ _).put _ _) (by rw [cur_put, cur_put]; rfl), ec, ea]
  simp

/-- Both words name one destination (R56). -/
theorem issue_csrr_add_clash (h : Deliverable s) (eq : d = e) (nz : d ≠ 0) :
    run (issue s s.cur (planCsrr ls d c s) (planAdd e x y t s)) s =
      delivered s (bTrap s s.cur .bundle) (me s).arch.pc := by
  have ec := planCsrr_eq h.clear ls hk hd
  have ea := planAdd_eq h.clear t he px py
  have clashes : clash (planCsrr ls d c s) (planAdd e x y t s) = true := by
    rw [clash_dests (by rw [ec]) (by rw [ea]), decide_eq_true_eq]
    exact ⟨congrArg _ eq, fun z => nz (BitVec.eq_of_toNat_eq z)⟩
  have trap := firstTrap_clash (s := s) (slot := s.cur) (by rw [ec]) (by rw [ec]) (by rw [ea]) clashes
  exact issue_raises h trap nofun

end Pair

/-- Settles O60. -/
theorem twoWordsIssueTogether : Obligations.TwoWordsIssueTogether := by
  constructor
  · intro s b ls d e x y c t db hk h10 h11 px py hd he
    have issues := issueBundle_two (s := s) db nofun nofun
    rw [show planOf (.csrr ls d c) s = planCsrr ls d c s from rfl,
      show planOf (.add e x y t) s = planAdd e x y t s from rfl] at issues
    rw [issues]
    exact ⟨fun h ne => congrArg _ (issue_csrr_add hk px py hd he h h10 h11 ne),
      fun h eq nz => congrArg _ (issue_csrr_add_clash hk px py hd he h eq nz)⟩
  · intro s slot c a
    exact ⟨firstTrap_ill, firstTrap_priv, firstTrap_ill_a, fun hi hp ha hc => firstTrap_clash hi hp ha hc,
      fun hi hc hp => ⟨fun ha hq => firstTrap_priv_a hi hc hp ha hq, fun ha hq hh => firstTrap_own hi hc hp ha hq hh,
        fun ha hq hh => firstTrap_held hi hc hp ha hq hh⟩⟩

end Sys2Proof.Machine
end

section
/-!
Proofs: what a bundle's trap comes to (R57, R65, R77, R78, R230): the entry into the handler, or containment.
-/

namespace Sys2Proof.Machine
open Sys2Proof

/-- The thread that has entered its handler, from the one that raised the trap. -/
theorem me_delivered {s : State} (h : occupied s s.cur = true) (tr : Trap) (pc : BitVec 64) :
    ∃ t : Thread, me (delivered s tr pc) = trapEntered tr pc t ∧ t.arch = (me s).arch ∧ t.st = (me s).st ∧
      t.back = (me s).back ∧ t.trapvec = (me s).trapvec := by
  unfold delivered
  generalize hw : onMe (taken s) (fun t => { t with grant := none, fault := none, after := .trap tr pc }) = w
  have cw : w.cur = s.cur := by rw [← hw]; rfl
  have ow : occupied w w.cur = true := by rw [← hw, cur_onMe, occupied_onMe]; exact h
  have mw : me w = { me s with grant := none, fault := none, after := .trap tr pc } := by
    rw [← hw]; exact me_onMe (taken s) _ h
  refine ⟨me (renewed w), me_onMe _ _ (by rw [cur_renewed, occupied_renewed]; exact ow), ?_⟩
  rw [me_renewed ow, mw]
  exact ⟨rfl, rfl, rfl, rfl⟩

theorem mem_delivered (s : State) (tr : Trap) (pc : BitVec 64) : (delivered s tr pc).mem = s.mem := rfl

/-- A bundle's trap is delivered with its own address, SOFT with the next one's (R85). -/
theorem issue_delivers {s : State} {c a : Plan} {tr : Trap} (h : Deliverable s) (f : firstTrap s s.cur c a = some tr) :
    run (issue s s.cur c a) s =
      delivered s tr (if tr.code = .soft then (me s).arch.pc + 8 else (me s).arch.pc) := by
  split
  next soft => exact issue_raises_soft h f soft
  next hard => exact issue_raises h f hard

theorem issue_contains {s : State} {c a : Plan} {tr : Trap} (n : nested s s.cur = true)
    (f : firstTrap s s.cur c a = some tr) : run (issue s s.cur c a) s = run [contain s.cur
      { code := tr.code, first := firstOf (me s), nested := true, info := tr.info
        pc := if tr.code = .soft then (me s).arch.pc + 8 else (me s).arch.pc }] (taken s) := by
  have n' : nested (taken s) s.cur = true := n
  simp only [issue, f, List.cons_append, List.nil_append, run_cons, run_nil, raiseTrap]
  rw [show runStage s (eff [.turnDone s.cur]) = taken s from rfl, runStage_pick]
  simp only [n', if_true, run_cons, run_nil]
  rfl

/-- Settles O57: the issue of a bundle with a trap is its delivery or the containment of its slot. -/
theorem trapsEnterTheHandlerOrContain : Obligations.TrapsEnterTheHandlerOrContain := by
  intro s c a tr f pc back u
  refine ⟨fun h user noShadow => ?_, fun n => issue_contains n f⟩
  have hu : u = delivered s tr back := issue_delivers h f
  obtain ⟨t, mu, arch, st, bk, vec⟩ := me_delivered h.clear.held tr back
  have nst : ¬ (t.st = .shadow ∨ t.back = .shadow) := by
    rw [st, bk]
    rintro (e | e)
    · rcases h.clear.turn with r | r <;> rw [r] at e <;> cases e
    · exact noShadow e
  have notFirmware : (me s).arch.priv ≠ .firmware := by rw [user]; nofun
  refine ⟨hu, ?_⟩
  rw [hu, mu]
  simp only [trapEntered, nst, notFirmware, if_false, vec, arch, mem_delivered, and_self]

end Sys2Proof.Machine
end

section
/-!
Proofs: the changes that a stage makes. A property of every change that a stage can make, of whatever state it meets,
and what a run keeps that each of its changes keeps.
-/

namespace Sys2Proof.Machine
open Sys2Proof

/-- Every change that a stage makes, of any state, has a property. -/
def Makes (P : Eff → Prop) (st : Stage) : Prop := ∀ s, ∀ e ∈ st s, P e

section
variable {P : Eff → Prop}

theorem makes_skip : Makes P skip := fun _ => List.forall_mem_nil _

theorem makes_eff {l : List Eff} (h : ∀ e ∈ l, P e) : Makes P (eff l) := fun _ => h

/-- The stage of one change for each element of a list. -/
theorem makes_eff_map {α : Type} {f : α → Eff} (l : List α) (h : ∀ x, P (f x)) : Makes P (eff (l.map f)) :=
  makes_eff (by simp [h])

theorem makes_seqS {l : List Stage} (h : ∀ st ∈ l, Makes P st) : Makes P (seqS l) := by
  induction l with
  | nil => exact fun _ => List.forall_mem_nil _
  | cons st r ih =>
    intro s e m
    rcases List.mem_append.1 m with m | m
    · exact h st (by simp) s e m
    · exact ih (fun x k => h x (by simp [k])) _ e m

theorem makes_pick {f : State → List Stage} (h : ∀ s, ∀ st ∈ f s, Makes P st) : Makes P (pick f) :=
  fun s => makes_seqS (h s) s

theorem makes_evNow {i : Instr} (h : ∀ n, P (.post n (.ev i))) : Makes P (evNow i) :=
  fun s => List.forall_mem_singleton.2 (h s.now)

/-- What each change of a kind keeps, a list of such changes keeps. -/
theorem foldl_keeps {Q : State → Prop} (keep : ∀ s e, P e → Q s → Q (Eff.apply s e)) {l : List Eff}
    (h : ∀ e ∈ l, P e) {s : State} (hs : Q s) : Q (l.foldl Eff.apply s) := by
  induction l generalizing s with
  | nil => exact hs
  | cons e r ih =>
    exact ih (fun x m => h x (by simp [m])) (keep s e (h e (by simp)) hs)

theorem runStage_makes {Q : State → Prop} (keep : ∀ s e, P e → Q s → Q (Eff.apply s e)) {st : Stage}
    (h : Makes P st) {s : State} (hs : Q s) : Q (runStage s st) := foldl_keeps keep (h s) hs

theorem run_makes {Q : State → Prop} (keep : ∀ s e, P e → Q s → Q (Eff.apply s e)) {l : List Stage}
    (h : ∀ st ∈ l, Makes P st) {s : State} (hs : Q s) : Q (run l s) := by
  induction l generalizing s with
  | nil => exact hs
  | cons st r ih =>
    exact ih (fun x m => h x (by simp [m])) (runStage_makes keep (h st (by simp)) hs)

end

end Sys2Proof.Machine
end

section
/-!
Proofs: what a commit does to memory, to the commit order and to the words' last writers (R146, R158): the buffer's
updates in program order, once; every other change of a commit is a change of an object.
-/

namespace Sys2Proof.Machine
open Sys2Proof

/-! ## Changes that are no write of memory -/

/-- Changes neither memory nor the commit order. -/
def Eff.sparesMemory : Eff → Bool
  | .store _ _ | .scrub _ _ | .commit _ | .restart => false
  | _ => true

/-- A stage whose changes spare memory and the commit order. -/
abbrev Spares (st : Stage) : Prop := Makes (fun e => e.sparesMemory = true) st

/-- Two states agree in memory, the commit order and the words' last writers. -/
def SameMemory (s t : State) : Prop := t.mem = s.mem ∧ t.commits = s.commits ∧ t.lastWrite = s.lastWrite

theorem SameMemory.refl (s : State) : SameMemory s s := ⟨rfl, rfl, rfl⟩

theorem SameMemory.trans {s t u : State} (h : SameMemory s t) (k : SameMemory t u) : SameMemory s u :=
  ⟨k.1.trans h.1, k.2.1.trans h.2.1, k.2.2.trans h.2.2⟩

theorem SameMemory.apply (s t : State) (e : Eff) (h : e.sparesMemory = true) (k : SameMemory s t) :
    SameMemory s (Eff.apply t e) := by
  refine k.trans ?_
  cases e with
  | store | scrub | commit | restart => simp [Eff.sparesMemory] at h
  | _ => exact ⟨rfl, rfl, rfl⟩

theorem foldl_spares {l : List Eff} (h : ∀ e ∈ l, Eff.sparesMemory e = true) (s : State) :
    SameMemory s (l.foldl Eff.apply s) := foldl_keeps (SameMemory.apply s) h (.refl s)

theorem runStage_spares {st : Stage} (h : Spares st) (s : State) : SameMemory s (runStage s st) :=
  runStage_makes (SameMemory.apply s) h (.refl s)

theorem run_spares {l : List Stage} (h : ∀ st ∈ l, Spares st) (s : State) : SameMemory s (run l s) :=
  run_makes (SameMemory.apply s) h (.refl s)

/-! ## The stages of a commit that spare memory -/

@[simp] theorem onTaskThr_sparesMemory (t : Nat) (f : Thread → Thread) : (onTaskThr t f).sparesMemory = true := rfl

theorem spares_mirrorAdd (n b : Nat) : Spares (mirrorAdd n b) := by
  intro s e m
  unfold mirrorAdd at m
  split at m
  · cases m
  · split at m
    · simp only [List.mem_singleton] at m; rw [m]; rfl
    · split at m <;> simp only [List.append_nil, List.mem_append, List.mem_singleton] at m
      · rcases m with m | m <;> rw [m] <;> rfl
      · rw [m]; rfl

theorem spares_mirrorFor (task : Nat) (l : List (Nat × Nat)) : Spares (mirrorFor task l) := by
  intro s e m
  unfold mirrorFor at m
  split at m
  · cases m
  · rcases List.mem_append.1 m with m | m
    · exact spares_mirrorAdd _ _ s e m
    · rw [List.mem_singleton.1 m, onTaskThr_sparesMemory]

theorem spares_countMoved (k n : Nat) : Spares (countMoved k n) := by
  intro s e m
  unfold countMoved at m
  split at m
  · rw [List.mem_singleton.1 m]; rfl
  · cases m

theorem spares_wakeCounters : Spares wakeCounters := by
  intro s e m
  obtain ⟨x, -, h⟩ := List.mem_filterMap.1 m
  split at h
  · split at h
    · cases h; rfl
    · cases h
  · cases h

theorem spares_newTask (t : Task) : Spares (newTask t) := by
  intro s e m
  unfold newTask at m
  rcases List.mem_append.1 m with m | m
  · simp only [List.mem_cons, List.not_mem_nil, or_false] at m
    rcases m with m | m <;> rw [m] <;> rfl
  · split at m
    · exact makes_evNow (P := fun e => e.sparesMemory = true) (fun _ => rfl) s e m
    · cases m

theorem spares_newIter (owner j : Nat) (carry : List Word) : Spares (newIter owner j carry) := by
  intro s e m
  unfold newIter at m
  split at m
  · rcases List.mem_append.1 m with m | m
    · rw [List.mem_singleton.1 m]; rfl
    · exact spares_newTask _ s e m
  · cases m

theorem spares_newWave (owner i : Nat) (carry : List Word) : Spares (newWave owner i carry) := by
  refine makes_seqS ?_
  intro st hst
  simp only [List.mem_cons, List.not_mem_nil, or_false] at hst
  rcases hst with rfl | rfl
  · exact spares_newIter owner i carry
  · intro s e m
    dsimp only at m
    split at m
    · rcases List.mem_append.1 m with m | m
      · rw [List.mem_singleton.1 m]; rfl
      · split at m
        · cases m
        · exact spares_newTask _ s e m
    · cases m

theorem spares_createLoop (slot : Nat) (req : GloopReq) (tau : Nat) : Spares (createLoop slot req tau) := by
  refine makes_seqS ?_
  intro st hst
  simp only [List.mem_cons, List.not_mem_nil, or_false] at hst
  rcases hst with rfl | rfl
  · intro s e m
    simp only [List.mem_cons, List.not_mem_nil, or_false] at m
    rcases m with m | m <;> rw [m] <;> rfl
  · refine makes_pick fun s st h => ?_
    rw [List.mem_singleton.1 h]
    exact spares_newWave _ _ _

theorem spares_commitSpawns (slot : Nat) (l : List Spawn) : Spares (commitSpawns slot l) := by
  refine makes_pick fun s st h => ?_
  split at h
  · cases h
  · split at h
    · rw [List.mem_singleton.1 h]
      exact makes_eff (by simp [onTask, Eff.sparesMemory])
    · rcases List.mem_append.1 h with h | h
      · obtain ⟨x, -, rfl⟩ := List.mem_map.1 h
        exact spares_newTask _
      · rw [List.mem_singleton.1 h]
        exact makes_eff (by simp [onTask, Eff.sparesMemory])

theorem spares_shadowsDone (slot : Nat) : Spares (shadowsDone slot) := by
  intro s e m
  simp only [shadowsDone, List.mem_cons, List.not_mem_nil, or_false] at m
  rcases m with m | m | m <;> rw [m] <;> rfl

/-! ## The buffer -/

/-- The stores of a buffer, applied one after another, update memory as its entries do (R146, R158). -/
theorem foldl_bufStores (buf : List BufOp) (s : State) :
    ((bufStores s.mem buf).map (fun x => Eff.store x.1 x.2)).foldl Eff.apply s =
      { s with mem := buf.foldl Says.update s.mem } := by
  induction buf generalizing s with
  | nil => rfl
  | cons b r ih =>
    cases b with
    | st loc bs => exact ih { s with mem := memWrite s.mem loc bs }
    | red loc op v =>
      exact ih { s with mem := memWrite s.mem loc (bytesOf 8 (atomOp op (memWord s.mem loc) v).toNat) }

theorem tabGet_putAll (ws : List Nat) (v : Nat) (t : Tab Nat) (w : Nat) :
    tabGet (ws.foldl (fun t w => tabPut t w v) t) w = if w ∈ ws then some v else tabGet t w := by
  induction ws generalizing t with
  | nil => simp
  | cons x r ih =>
    rw [List.foldl_cons, ih, tabGet_put]
    by_cases hr : w ∈ r
    · simp [hr]
    · by_cases hx : w = x <;> simp [hr, hx]

/-- A commit with an ended chunk, none of whose lines has flipped bits: the buffer's updates and one place in the
commit order. -/
theorem commitMem_committed (s : State) (slot : Nat) (ended : (thr s slot).chunk.st ≠ .opened) (hf : s.o.flips = []) :
    let c := (thr s slot).chunk
    SameMemory (Eff.apply { s with mem := c.buf.foldl Says.update s.mem } (.commit (setAddAll c.writes c.reds)))
      (runStage s (commitMem slot)) := by
  intro c
  unfold commitMem
  rw [runStage_pick]
  simp only [ended, if_false, hf, List.isEmpty_nil, if_true, List.nil_append, run_cons, run_nil]
  refine SameMemory.trans ?_ (runStage_spares spares_wakeCounters _)
  refine SameMemory.trans ?_ (runStage_spares (spares_countMoved _ _) _)
  simp only [runStage, List.foldl_append, List.foldl_cons, List.foldl_nil, foldl_bufStores]
  refine SameMemory.trans ?_ (foldl_spares ?_ _)
  · refine SameMemory.trans ?_ (foldl_spares (spares_mirrorFor _ _ s) _)
    refine foldl_spares ?_ _
    split <;> simp [Eff.sparesMemory]
  · intro e m
    obtain ⟨r, -, h⟩ := List.mem_flatMap.1 m
    simp only [List.mem_cons, List.not_mem_nil, or_false] at h
    rcases h with h | h <;> rw [h] <;> rfl

/-- What follows the chunk's stores in its commit spares memory, where no barrier operation goes with it. -/
theorem commitChunk_spares (s : State) (slot : Nat) (hb : (thr s slot).chunk.bar = none) :
    SameMemory (runStage s (commitMem slot)) (runStage s (commitChunk slot)) := by
  unfold commitChunk
  rw [runStage_pick, run_cons]
  refine run_spares ?_ _
  simp only [hb, List.forall_mem_cons]
  refine ⟨spares_mirrorFor _ _, ?_, spares_commitSpawns _ _, ?_, ?_, ?_, ?_, ?_, ?_, spares_shadowsDone _, ?_, makes_skip,
    List.forall_mem_nil _⟩
  · split
    · exact makes_eff (by simp [onTask, Eff.sparesMemory])
    · exact makes_skip
  · exact makes_eff_map _ fun _ => rfl
  · exact makes_eff_map _ fun _ => rfl
  · split
    · split
      · exact makes_skip
      · exact makes_eff (by simp [onLoop, Eff.sparesMemory])
    · exact makes_skip
  · split
    · exact makes_skip
    · exact makes_eff_map _ fun _ => rfl
  · split
    · exact spares_createLoop _ _ _
    · exact makes_skip
  · split
    · exact makes_eff (by simp [Eff.sparesMemory])
    · exact makes_skip
  · split
    · exact makes_evNow fun _ => rfl
    · exact makes_skip

/-- Settles O58: the stage that commits a chunk's stores updates memory as the buffer says and takes one place in the
commit order; the rest of a commit spares both. -/
theorem commitsApplyTheirBufferInOrder : Obligations.CommitsApplyTheirBufferInOrder := by
  intro s slot ended hf c t
  obtain ⟨hm, hc, hw⟩ := commitMem_committed s slot ended hf
  refine ⟨hm, hc, fun w => ?_, fun hb => (commitChunk_spares s slot hb).1⟩
  rw [show t.lastWrite = _ from hw]
  exact tabGet_putAll _ _ _ _

end Sys2Proof.Machine
end

section
/-!
Proofs: barriers count by phase (R217 to R219, R222). What a change makes of a barrier; the stages that come with an
arrival, and its register's write, leave the barrier to the arrival.
-/

namespace Sys2Proof.Machine
open Sys2Proof

/-! ## Changes that leave every barrier as it is -/

/-- A barrier of a listed kernel, and of a listed group where it is a quad barrier. -/
structure BarIs (s : State) (k home n : Nat) (b : Bar) : Prop where
  kernel : tabHas s.o.kernels k = true
  group : n < 16 → (group? s k home).isSome = true
  bar : barOf s k home n = b

/-- Leaves every barrier as it is. -/
def SparesBars (e : Eff) : Prop := ∀ s k home n b, BarIs s k home n b → BarIs (Eff.apply s e) k home n b

theorem BarIs.congr {s t : State} {k home n : Nat} {b : Bar} (h : BarIs s k home n b)
    (hk : t.o.kernels = s.o.kernels) : BarIs t k home n b := by
  obtain ⟨h1, h2, h3⟩ := h
  constructor
  · rwa [hk]
  · simpa only [group?, Machine.kernel, hk] using h2
  · simpa only [barOf, group?, Machine.kernel, hk] using h3

/-- A change of an object that is no kernel. -/
theorem sparesBars_obj {f : Objs → Objs} (h : ∀ o, (f o).kernels = o.kernels) : SparesBars (.obj f) :=
  fun s _ _ _ _ hb => hb.congr (h s.o)

theorem sparesBars_of_not_obj {e : Eff} (h : ∀ f, e ≠ .obj f) : SparesBars e := by
  cases e with
  | obj f => exact absurd rfl (h f)
  | _ => exact fun _ _ _ _ _ hb => hb.congr rfl

/-- A change of a kernel that leaves its groups and die barriers. -/
theorem sparesBars_onKernel (k : Nat) {f : Kernel → Kernel} (hg : ∀ x, (f x).groups = x.groups)
    (hd : ∀ x, (f x).dbars = x.dbars) : SparesBars (onKernel k f) := by
  intro s i home n b ⟨h1, h2, h3⟩
  have same : (Machine.kernel (Eff.apply s (onKernel k f)) i).groups = (Machine.kernel s i).groups ∧
      (Machine.kernel (Eff.apply s (onKernel k f)) i).dbars = (Machine.kernel s i).dbars := by
    obtain ⟨x, hx⟩ := Option.isSome_iff_exists.1 h1
    by_cases hi : i = k
    · subst hi; simp [Machine.kernel, onKernel, tabD, hx, hg, hd]
    · simp [Machine.kernel, onKernel, tabD, tabGet_upd, hi]
  refine ⟨?_, ?_, ?_⟩
  · simpa [onKernel] using h1
  · simpa only [group?, same] using h2
  · simpa only [barOf, group?, same] using h3

theorem sparesBars_post (n : Nat) (a : Act) : SparesBars (.post n a) := sparesBars_of_not_obj (by simp)
theorem sparesBars_draw (n : Nat) : SparesBars (.draw n) := sparesBars_of_not_obj (by simp)
theorem sparesBars_store (n : Nat) (l : List Byte) : SparesBars (.store n l) := sparesBars_of_not_obj (by simp)
theorem sparesBars_onThr (slot : Nat) (f : Thread → Thread) : SparesBars (onThr slot f) := sparesBars_obj fun _ => rfl

theorem sparesBars_onTaskThr (t : Nat) (f : Thread → Thread) : SparesBars (onTaskThr t f) := by
  refine sparesBars_obj fun o => ?_
  split
  · rfl
  · split <;> rfl

section
variable {s : State} {k home n : Nat} {b : Bar}

theorem BarIs.foldl (hb : BarIs s k home n b) {l : List Eff} (h : ∀ e ∈ l, SparesBars e) :
    BarIs (l.foldl Eff.apply s) k home n b :=
  foldl_keeps (Q := fun t => BarIs t k home n b) (fun t _ he hq => he t k home n b hq) h hb

theorem BarIs.runStage (hb : BarIs s k home n b) {st : Stage} (h : Makes SparesBars st) :
    BarIs (runStage s st) k home n b := hb.foldl (h s)

theorem BarIs.run (hb : BarIs s k home n b) {l : List Stage} (h : ∀ st ∈ l, Makes SparesBars st) :
    BarIs (run l s) k home n b :=
  run_makes (Q := fun t => BarIs t k home n b) (fun t _ he hq => he t k home n b hq) h hb

/-- What a change of a barrier makes of it. -/
theorem BarIs.onBar (hb : BarIs s k home n b) (f : Bar → Bar) : BarIs (Eff.apply s (onBar k home n f)) k home n (f b) := by
  obtain ⟨hk, hg, rfl⟩ := hb
  obtain ⟨x, hx⟩ := Option.isSome_iff_exists.1 hk
  by_cases hn : n < 16
  · obtain ⟨g, hg⟩ := Option.isSome_iff_exists.1 (hg hn)
    have hxg : tabGet x.groups home = some g := by simpa [group?, Machine.kernel, tabD, hx] using hg
    constructor <;> simp [barOf, group?, Machine.kernel, Machine.onBar, onGroup, onKernel, tabD, tabMod, hn, hx, hxg, hk]
  · constructor <;> simp [barOf, Machine.kernel, Machine.onBar, onKernel, tabD, tabMod, hn, hx, hk]

end

/-! ## Writes of registers leave the barriers -/

theorem lineRead_sparesBars (line : Nat) : Makes SparesBars (lineRead line) := by
  intro s
  unfold lineRead
  split
  · exact List.forall_mem_nil _
  · dsimp only
    split
    · exact List.forall_mem_singleton.2 (sparesBars_draw _)
    · simp only [List.forall_mem_cons]
      exact ⟨sparesBars_store _ _, sparesBars_obj fun _ => rfl, sparesBars_draw _, List.forall_mem_nil _⟩
    · simp only [List.forall_mem_cons]
      exact ⟨sparesBars_store _ _, sparesBars_obj fun _ => rfl, sparesBars_obj fun _ => rfl, sparesBars_draw _,
        List.forall_mem_nil _⟩
    · simp only [List.forall_mem_append, List.forall_mem_cons]
      refine ⟨⟨⟨sparesBars_store _ _, sparesBars_obj fun _ => rfl, List.forall_mem_nil _⟩, ?_⟩, sparesBars_draw _,
        List.forall_mem_nil _⟩
      split
      · split <;> simp only [List.forall_mem_cons]
        · exact ⟨sparesBars_obj fun _ => rfl, sparesBars_obj fun _ => rfl, List.forall_mem_nil _⟩
        · exact ⟨sparesBars_obj fun _ => rfl, sparesBars_obj fun _ => rfl, List.forall_mem_nil _⟩
      · exact List.forall_mem_nil _
    · simp only [List.forall_mem_cons]
      exact ⟨sparesBars_obj fun _ => rfl, sparesBars_obj fun _ => rfl, sparesBars_draw _, List.forall_mem_nil _⟩

theorem nearRead_sparesBars (loc n : Nat) : Makes SparesBars (nearRead loc n) := by
  intro s
  unfold nearRead
  split
  · exact List.forall_mem_nil _
  · refine makes_seqS (fun st m => ?_) s
    obtain ⟨line, -, rfl⟩ := List.mem_map.1 m
    exact lineRead_sparesBars line

theorem storeMarked_sparesBars (s : State) (loc : Nat) (bs : List Byte) : ∀ e ∈ storeMarked s loc bs, SparesBars e := by
  unfold storeMarked
  split
  · exact List.forall_mem_singleton.2 (sparesBars_store _ _)
  · simp only [List.forall_mem_cons]
    exact ⟨sparesBars_store _ _, sparesBars_obj fun _ => rfl, List.forall_mem_nil _⟩

theorem countMoved_sparesBars (k n : Nat) : Makes SparesBars (countMoved k n) := by
  intro s
  unfold countMoved
  split
  · exact List.forall_mem_singleton.2 (sparesBars_onKernel k (fun _ => rfl) fun _ => rfl)
  · exact List.forall_mem_nil _

theorem keepLanded_sparesBars (slot loc va : Nat) : Makes SparesBars (keepLanded slot loc va) := by
  intro s
  simp only [keepLanded, List.forall_mem_append, List.forall_mem_map]
  exact ⟨fun l _ => sparesBars_obj fun _ => rfl, fun q _ => sparesBars_obj fun _ => rfl⟩

theorem appendStore_sparesBars (slot loc va : Nat) (bs : List Byte) : Makes SparesBars (appendStore slot loc va bs) := by
  intro s
  simp only [appendStore, List.forall_mem_append, List.forall_mem_singleton]
  exact ⟨⟨⟨keepLanded_sparesBars slot loc va s, storeMarked_sparesBars s loc bs⟩, sparesBars_onThr _ _⟩,
    countMoved_sparesBars _ _ s⟩

theorem raceMark_sparesBars (slot loc n : Nat) (w : Bool) : Makes SparesBars (raceMark slot loc n w) := by
  intro s
  unfold raceMark
  split
  · exact List.forall_mem_singleton.2 (sparesBars_obj fun _ => rfl)
  · exact List.forall_mem_nil _

theorem sendNear_sparesBars (slot loc va : Nat) (op : NearOp) (dests : List Nat) (v : Bool) :
    Makes SparesBars (sendNear slot loc va op dests v) := by
  intro s
  simp only [sendNear, List.forall_mem_append, List.forall_mem_cons]
  refine ⟨?_, sparesBars_obj fun _ => rfl, sparesBars_post _ _, sparesBars_draw _, List.forall_mem_nil _⟩
  split
  · exact List.forall_mem_nil _
  · exact List.forall_mem_singleton.2 (sparesBars_onThr _ _)

theorem appendUnit_sparesBars (slot : Nat) (x : Strm) (v : Word) : Makes SparesBars (appendUnit slot x v) := by
  intro s
  unfold appendUnit
  dsimp only
  split
  · refine List.forall_mem_append.2 ⟨?_, List.forall_mem_singleton.2 (sparesBars_onThr _ _)⟩
    split
    · exact appendStore_sparesBars _ _ _ _ s
    · split
      · exact List.forall_mem_singleton.2 (sparesBars_onThr _ _)
      · refine List.forall_mem_append.2 ⟨raceMark_sparesBars _ _ _ _ s, ?_⟩
        split
        · exact sendNear_sparesBars _ _ _ _ _ _ s
        · exact List.forall_mem_append.2 ⟨nearRead_sparesBars _ _ s, storeMarked_sparesBars s _ _⟩
  · exact List.forall_mem_nil _

theorem wr_sparesBars (slot f : Nat) (v : Word) : Makes SparesBars (wr slot f v) := by
  intro s
  unfold wr
  split
  · exact List.forall_mem_nil _
  · split
    · exact List.forall_mem_singleton.2 (sparesBars_obj fun _ => rfl)
    · split
      · split
        · exact appendUnit_sparesBars _ _ _ s
        · exact List.forall_mem_nil _
      · exact List.forall_mem_singleton.2 (sparesBars_onThr _ _)

theorem wrTask_sparesBars (task f : Nat) (v : Word) : Makes SparesBars (wrTask task f v) := by
  intro s
  unfold wrTask
  split
  · exact List.forall_mem_nil _
  · split
    · split
      · exact wr_sparesBars _ _ _ s
      · exact List.forall_mem_singleton.2 (sparesBars_onTaskThr _ _)
    · exact List.forall_mem_singleton.2 (sparesBars_onTaskThr _ _)

/-! ## The end of a phase -/

theorem barRelease_sparesBars (w : BarWaiter) (met : Bool) : Makes SparesBars (barRelease w met) := by
  refine makes_seqS fun st m => ?_
  simp only [List.mem_cons, List.not_mem_nil, or_false] at m
  rcases m with rfl | rfl
  · split
    · exact wrTask_sparesBars _ _ _
    · exact makes_skip
  · exact makes_eff (List.forall_mem_singleton.2 (sparesBars_onTaskThr _ _))

/-- The completion of a phase starts the next one (R219). -/
def Bar.completed (b : Bar) (owed : Nat) : Bar :=
  { b with c := 0, phase := (b.phase + 1) % 2 ^ 16, phases := b.phases + 1, dl := none, late := owed, waiters := [] }

theorem newEpochs_sparesBars (s : State) (k home n : Nat) : ∀ e ∈ (barQuads s k home n).map (newEpoch s k), SparesBars e := by
  simp only [List.forall_mem_map]
  exact fun _ _ => sparesBars_obj fun _ => rfl

theorem BarIs.complete {s : State} {k home n : Nat} {b : Bar} (hb : BarIs s k home n b) (met : Bool) (owed : Nat) :
    BarIs (Machine.runStage s (barComplete k home n met owed)) k home n (b.completed owed) := by
  unfold barComplete
  rw [runStage_pick]
  simp only [List.cons_append, List.nil_append, run_cons, runStage_eff, List.foldl_cons, List.foldl_nil, run_append, run_nil]
  refine BarIs.runStage (BarIs.run (BarIs.foldl (hb.onBar _) (newEpochs_sparesBars _ k home n)) ?_) ?_
  · simp only [List.forall_mem_map]
    exact fun w _ => barRelease_sparesBars w met
  · intro t
    dsimp only
    split
    · simp only [List.forall_mem_map]
      exact fun c _ => sparesBars_post _ _
    · exact List.forall_mem_nil _

/-! ## INIT -/

theorem BarIs.init {s : State} {k home n : Nat} {b : Bar} (hb : BarIs s k home n b) (task v : Nat) :
    BarIs (Machine.runStage s (barEffect k home n task (.init v))) k home n
      (if b.p = 0 then { b with p := v, c := 0, late := 0 }
       else if v ≤ b.c then Bar.completed { b with p := v, late := 0 } 0 else { b with p := v, late := 0 }) := by
  unfold barEffect
  rw [runStage_pick]
  have h1 := hb.onBar (fun x => if x.p = 0 then { x with p := v, c := 0, late := 0 } else { x with p := v, late := 0 })
  obtain ⟨_, _, hbar⟩ := hb
  simp only [hbar, List.cons_append, List.nil_append, run_cons, runStage_eff, List.foldl_cons, List.foldl_nil]
  by_cases hp : b.p = 0
  · simpa [hp] using h1
  · by_cases hv : v ≤ b.c
    · simpa [hp, hv] using h1.complete true 0
    · simpa [hp, hv] using h1

/-! ## Arrivals -/

/-- A barrier that an arrival has counted at, its deadline as the arrival leaves it (R219, R222). -/
def Bar.arrived (b : Bar) (dl : Option Nat) : Bar :=
  if 0 < b.late then { b with late := b.late - 1, dl := dl } else { b with c := b.c + 1, dl := dl }

/-- A barrier after an arrival: counted, and completed by the last; a thread that waits is named in it. -/
theorem Arrival.of_counted {b b' : Bar} (hp : b'.p = b.p)
    (h : ¬(b.late = 0 ∧ b.p ≤ b.c + 1) → ∃ dl w, b' = { b.arrived dl with waiters := w })
    (hl : b.late = 0 → b.p ≤ b.c + 1 → ∃ dl, b' = (b.arrived dl).completed 0) : Says.Arrival b b' where
  participants := hp
  late := fun l => by
    obtain ⟨dl, w, rfl⟩ := h (by omega)
    simp [Bar.arrived, l]
  counted := fun l c => by
    obtain ⟨dl, w, rfl⟩ := h (by omega)
    simp [Bar.arrived, l]
  completed := fun l c => by
    obtain ⟨dl, rfl⟩ := hl l c
    simp [Bar.arrived, Bar.completed, l]

/-- The deadline that an arrival leaves: WAITD keeps the earlier of its own and the one that stands (R222). -/
def Bar.deadline (b : Bar) : BarKind → Option Nat
  | .waitd _ x => some (match b.dl with
    | some y => min x y
    | none => x)
  | _ => b.dl

/-- The changes that an arrival makes at its barrier and in its task, the thread's wake-up with them. -/
def arrivalEffs (k home n task : Nat) (b : Bar) (dl : Option Nat) (wake : Eff) : List Eff :=
  (if decide (0 < b.late) = true then [onBar k home n (fun x => { x with late := x.late - 1, dl := dl })]
    else [onBar k home n (fun x => { x with c := x.c + 1, dl := dl })]) ++
  (if n = 0 then [onTask task (fun t => { t with b0 := t.b0 + 1 })] else []) ++ [wake]

/-- A thread that waits for the answer of a die barrier wakes (R218). -/
def arrivalWake (task : Nat) : Eff := onTaskThr task (fun t => if t.awaits = some .reply then woken t else t)

section
variable {s : State} {k home n : Nat} {b : Bar}

theorem BarIs.counted (hb : BarIs s k home n b) (task : Nat) (dl : Option Nat) {wake : Eff} (hw : SparesBars wake) :
    BarIs ((arrivalEffs k home n task b dl wake).foldl Eff.apply s) k home n (b.arrived dl) := by
  unfold arrivalEffs
  rw [List.foldl_append, List.foldl_append]
  refine BarIs.foldl (BarIs.foldl (l := ite _ _ _) ?_ ?_) (List.forall_mem_singleton.2 hw)
  · by_cases hl : 0 < b.late
    · simpa [Bar.arrived, hl] using hb.onBar _
    · simpa [Bar.arrived, hl] using hb.onBar _
  · split
    · exact List.forall_mem_singleton.2 (sparesBars_obj fun _ => rfl)
    · exact List.forall_mem_nil _

/-- What follows an arrival at its barrier: the completion of the phase, or the deadline's event. -/
theorem BarIs.followed (hb : BarIs s k home n b) {last : Bool} (dl : Option Nat) :
    BarIs (Machine.run (if last = true then [barComplete k home n true 0] else match dl with
      | some x => [(fun s => [.post (max (x + s.o.mod.zero) s.now) (.ev (.barrierDeadline k home n))] : Stage)]
      | none => []) s) k home n (if last = true then b.completed 0 else b) := by
  cases last with
  | true => simpa using hb.complete true 0
  | false =>
    cases dl with
    | none => simpa using hb
    | some x => simpa using hb.runStage fun _ => List.forall_mem_singleton.2 (sparesBars_post _ _)

/-- A thread that goes to sleep at a barrier is named there (R219). -/
theorem BarIs.sleeps (hb : BarIs s k home n b) (leave : Option Stage) (hl : ∀ st ∈ leave, Makes SparesBars st)
    (w : BarWaiter) (sleep : Eff) (hs : SparesBars sleep) :
    BarIs (Machine.run [leave.getD skip,
      fun _ => [Machine.onBar k home n (fun x => { x with waiters := x.waiters ++ [w] }), sleep]] s) k home n
      { b with waiters := b.waiters ++ [w] } := by
  have h1 : BarIs (Machine.runStage s (leave.getD skip)) k home n b := by
    cases leave with
    | none => exact hb
    | some st => exact hb.runStage (hl st rfl)
  exact BarIs.foldl (h1.onBar _) (List.forall_mem_singleton.2 hs)

/-- Of two runs that each leave the barrier but for its waiters, either does. -/
theorem BarIs.either (c : Bool) {l r : List Stage} (hl : ∃ w, BarIs (Machine.run l s) k home n { b with waiters := w })
    (hr : ∃ w, BarIs (Machine.run r s) k home n { b with waiters := w }) :
    ∃ w, BarIs (Machine.run (if c = true then l else r) s) k home n { b with waiters := w } := by
  cases c with
  | true => exact hl
  | false => exact hr

theorem leaves_sparesBars (slot : Nat) : Makes SparesBars (leaves slot) := by
  intro s
  unfold leaves
  dsimp only
  split
  · exact List.forall_mem_cons.2 ⟨sparesBars_obj fun _ => rfl, List.forall_mem_singleton.2 (sparesBars_post _ _)⟩
  · exact List.forall_mem_nil _

/-- An arrival at a barrier (R218, R219, R222): it counts, and completes the phase as its last. -/
theorem BarIs.arrive (hb : BarIs s k home n b) (task : Nat) {kind : BarKind} (hk : ∀ v, kind ≠ .init v) :
    ∃ w, BarIs (Machine.runStage s (barEffect k home n task kind)) k home n
      (if !decide (0 < b.late) && decide (b.p ≤ b.c + 1) then (b.arrived (b.deadline kind)).completed 0
       else { b.arrived (b.deadline kind) with waiters := w }) := by
  have leave : ∀ st ∈ ((task? s task).bind (·.slot)).map leaves, Makes SparesBars st := by
    simp only [Option.mem_def, Option.map_eq_some_iff]
    rintro st ⟨sl, -, rfl⟩
    exact leaves_sparesBars sl
  have count := hb.counted task (b.deadline kind) (wake := arrivalWake task) (sparesBars_onTaskThr _ _)
  have answer : ∀ (d : Nat) (v : Word), Makes SparesBars (wrTask task d v) := wrTask_sparesBars task
  have sleeping : ∀ how, _ := fun how => count.sleeps _ leave ⟨task, how⟩
    (onTaskThr task (fun t => asleep (.barrier home n b.phase) { t with waited := 0 })) (sparesBars_onTaskThr _ _)
  have follow : ∀ {t : State} {w : List BarWaiter}, BarIs t k home n { b.arrived (b.deadline kind) with waiters := w } → _ :=
    fun h => h.followed (last := !decide (0 < b.late) && decide (b.p ≤ b.c + 1)) (b.deadline kind)
  have hbar := hb.bar
  unfold barEffect
  rw [runStage_pick]
  cases kind with
  | init v => exact absurd rfl (hk v)
  | arrive d =>
    simp only [hbar, run_append]
    exact ⟨_, follow (count.run (List.forall_mem_singleton.2 (answer d _)))⟩
  | sync =>
    simp only [hbar, run_append]
    obtain ⟨w, h⟩ := BarIs.either (b := b.arrived (b.deadline .sync)) (l := [])
      (decide (0 < b.late) || !decide (0 < b.late) && decide (b.p ≤ b.c + 1))
      ⟨_, count⟩ ⟨_, sleeping .sync⟩
    exact ⟨w, follow h⟩
  | waitd d x =>
    simp only [hbar, run_append]
    obtain ⟨w, h⟩ := BarIs.either (b := b.arrived (b.deadline (.waitd d x))) (decide (0 < b.late))
      ⟨_, count.run (List.forall_mem_singleton.2 (answer d 0))⟩
      (BarIs.either (!decide (0 < b.late) && decide (b.p ≤ b.c + 1))
        ⟨_, count.run (List.forall_mem_singleton.2 (answer d 1))⟩ ⟨_, sleeping (.waitd d)⟩)
    exact ⟨w, follow h⟩

end

/-! ## The token of ARRIVE -/

/-- Leaves every slot as it is. -/
def SparesSlots (e : Eff) : Prop := ∀ s : State, (Eff.apply s e).o.slots = s.o.slots

theorem slots_foldl {l : List Eff} (h : ∀ e ∈ l, SparesSlots e) (s : State) : (l.foldl Eff.apply s).o.slots = s.o.slots :=
  foldl_keeps (Q := fun t => t.o.slots = s.o.slots) (fun t _ he hq => (he t).trans hq) h rfl

theorem sparesSlots_onBar (k home n : Nat) (f : Bar → Bar) : SparesSlots (onBar k home n f) := by
  intro s
  unfold onBar
  split <;> rfl

/-- The completion of a phase without waiters leaves every slot (R219). -/
theorem slots_barComplete {s : State} {k home n : Nat} {b : Bar} (hb : BarIs s k home n b) (hw : b.waiters = [])
    (met : Bool) (owed : Nat) : (runStage s (barComplete k home n met owed)).o.slots = s.o.slots := by
  unfold barComplete
  rw [runStage_pick]
  simp only [hb.bar, hw, List.map_nil, List.append_nil, List.cons_append, List.nil_append, run_cons, runStage_eff,
    List.foldl_cons, List.foldl_nil, run_nil]
  refine (slots_foldl ?_ _).trans ((slots_foldl ?_ _).trans (sparesSlots_onBar _ _ _ _ _))
  · split
    · simp only [List.forall_mem_map]
      exact fun _ _ _ => rfl
    · exact List.forall_mem_nil _
  · simp only [List.forall_mem_map]
    exact fun _ _ _ => rfl

/-- A task stands in a slot, whose field d is no stream. -/
structure StandsIn (s : State) (task sl d : Nat) : Prop where
  task : ∃ x, task? s task = some x ∧ x.slot = some sl
  occupied : occupied s sl = true
  unbound : (thr s sl).arch.strm d = none

theorem StandsIn.congr {s t : State} {task sl d : Nat} (h : StandsIn s task sl d) (ht : t.o.tasks = s.o.tasks)
    (hs : t.o.slots = s.o.slots) : StandsIn t task sl d := by
  obtain ⟨h1, h2, h3⟩ := h
  constructor
  · simpa only [task?, ht] using h1
  · simpa only [Machine.occupied, hs] using h2
  · simpa only [thr, hs] using h3

theorem apply_onTaskThr {s : State} {task sl d : Nat} (h : StandsIn s task sl d) (f : Thread → Thread) :
    Eff.apply s (onTaskThr task f) = Eff.apply s (onThr sl f) := by
  obtain ⟨x, hx, hsl⟩ := h.task
  simp only [task?] at hx
  simp only [onTaskThr, onThr, Eff.apply, hx, hsl]

theorem StandsIn.onTaskThr {s : State} {task sl d : Nat} (h : StandsIn s task sl d) {f : Thread → Thread}
    (hf : ∀ t, (f t).arch = t.arch) : StandsIn (Eff.apply s (onTaskThr task f)) task sl d := by
  rw [apply_onTaskThr h]
  obtain ⟨h1, h2, h3⟩ := h
  refine ⟨h1, ?_, ?_⟩
  · simpa [Machine.occupied] using h2
  · rw [← h3]
    simp [thr, tabD_upd_self _ _ _ _ h2, hf]

theorem StandsIn.onTask {s : State} {task sl d : Nat} (h : StandsIn s task sl d) {f : Task → Task}
    (hf : ∀ t, (f t).slot = t.slot) : StandsIn (Eff.apply s (onTask task f)) task sl d := by
  obtain ⟨⟨x, hx, hsl⟩, h2, h3⟩ := h
  simp only [task?] at hx
  exact ⟨⟨f x, by simp [task?, Machine.onTask, hx], (hf x).trans hsl⟩, h2, h3⟩

theorem arch_woken (t : Thread) : (woken t).arch = t.arch := by
  unfold woken
  split <;> rfl

theorem StandsIn.arrivalEffs {s : State} {task sl d : Nat} (h : StandsIn s task sl d) (k home n : Nat) (b : Bar)
    (dl : Option Nat) : StandsIn ((Machine.arrivalEffs k home n task b dl (arrivalWake task)).foldl Eff.apply s) task sl d := by
  have onB : ∀ f, StandsIn (Eff.apply s (Machine.onBar k home n f)) task sl d := by
    refine fun f => h.congr ?_ (sparesSlots_onBar _ _ _ _ _)
    unfold Machine.onBar
    split <;> rfl
  unfold Machine.arrivalEffs
  rw [List.foldl_append, List.foldl_append]
  refine StandsIn.onTaskThr ?_ (fun t => ?_)
  · by_cases hl : 0 < b.late <;> by_cases hn : n = 0 <;> simp only [hl, hn, decide_true, decide_false, if_true, if_false,
      Bool.false_eq_true, List.foldl_cons, List.foldl_nil] <;> subst_vars
    · exact (onB _).onTask fun _ => rfl
    · exact onB _
    · exact (onB _).onTask fun _ => rfl
    · exact onB _
  · split
    · exact arch_woken t
    · rfl

theorem reg_setReg (a : Arch) {f : Nat} (h : f < 112) (v : Word) (g : Nat) :
    (a.setReg f v).reg g = if g = f then v else a.reg g := by
  by_cases hg : g < 112
  · by_cases e : g = f
    · subst e; simp [Arch.reg, Arch.setReg, Vector.getD, hg]
    · simp [Arch.reg, Arch.setReg, Vector.getD, hg, e, Ne.symm e]
  · simp [Arch.reg, Arch.setReg, Vector.getD, hg, show g ≠ f by omega]

/-- A register of the window of a task in a slot takes what is written to it. -/
theorem reg_wrTask {s : State} {task sl d : Nat} (h : StandsIn s task sl d) (h0 : d ≠ 0) (hd : d < 112) (v : Word) :
    (thr (runStage s (wrTask task d v)) sl).arch.reg d = v := by
  obtain ⟨x, hx, hsl⟩ := h.task
  have e : runStage s (wrTask task d v) = Eff.apply s (onThr sl (setBoth d v)) := by
    rw [← apply_onTaskThr h]
    simp [runStage, wrTask, hx, hsl, h.unbound, Nat.not_le.2 hd]
  rw [e]
  simp [thr, tabD_upd_self _ _ _ _ h.occupied, setBoth, fieldReg, hd, h0, reg_setReg _ hd]

/-- What follows an arrival at a barrier without waiters leaves every slot. -/
theorem slots_followed {s : State} {k home n : Nat} {b : Bar} (hb : BarIs s k home n b) (hw : b.waiters = []) (last : Bool)
    (dl : Option Nat) :
    (run (if last = true then [barComplete k home n true 0] else match dl with
      | some x => [(fun s => [.post (max (x + s.o.mod.zero) s.now) (.ev (.barrierDeadline k home n))] : Stage)]
      | none => []) s).o.slots = s.o.slots := by
  cases last with
  | true => exact slots_barComplete hb hw true 0
  | false => cases dl <;> rfl

/-- ARRIVE gives its task the token of the phase that it arrives at (R222). -/
theorem reg_arrive {s : State} {k home n task sl d : Nat} {b : Bar} (hb : BarIs s k home n b) (hw : b.waiters = [])
    (h : StandsIn s task sl d) (h0 : d ≠ 0) (hd : d < 112) :
    (thr (runStage s (barEffect k home n task (.arrive d))) sl).arch.reg d =
      token (if decide (0 < b.late) = true then (b.phase + 2 ^ 16 - 1) % 2 ^ 16 else b.phase) (decide (0 < b.late)) := by
  have count := hb.counted task b.dl (wake := arrivalWake task) (sparesBars_onTaskThr _ _)
  have waiters : (b.arrived b.dl).waiters = [] := by
    unfold Bar.arrived
    split <;> exact hw
  have stands := h.arrivalEffs k home n b b.dl
  unfold barEffect
  rw [runStage_pick]
  simp only [hb.bar, run_append]
  generalize token _ _ = v
  have hv := count.runStage (wrTask_sparesBars task d v)
  refine Eq.trans ?_ (reg_wrTask stands h0 hd v)
  exact congrArg (fun x => (tabD x sl {}).arch.reg d) (slots_followed hv waiters _ _)

/-- Settles O59: INIT and the arrivals as `BarIs.init` and `BarIs.arrive` have them, and ARRIVE's token. -/
theorem barriersCountByPhase : Obligations.BarriersCountByPhase := by
  intro s k home n task hk hg b after
  have hb : BarIs s k home n b := ⟨hk, hg, rfl⟩
  have arrival : ∀ kind, (∀ v, kind ≠ .init v) → ∃ w, after kind =
      if !decide (0 < b.late) && decide (b.p ≤ b.c + 1) then (b.arrived (b.deadline kind)).completed 0
      else { b.arrived (b.deadline kind) with waiters := w } := fun kind h => by
    obtain ⟨w, h⟩ := hb.arrive task h
    exact ⟨w, h.bar⟩
  have counts : ∀ kind, (∀ v, kind ≠ .init v) → Says.Arrival b (after kind) := fun kind h => by
    obtain ⟨w, h⟩ := arrival kind h
    rw [h]
    refine Arrival.of_counted ?_ (fun f => ⟨b.deadline kind, w, ?_⟩) (fun l p => ⟨b.deadline kind, ?_⟩)
    · unfold Bar.arrived Bar.completed
      split <;> split <;> rfl
    · rw [if_neg (by simpa using f)]
    · rw [if_pos (by simp [l, p])]
  refine ⟨fun v hp => ?_, fun v hp => ?_, fun hp => ⟨fun d => counts _ nofun, counts _ nofun, fun d x => ⟨counts _ nofun,
    fun open_ => ?_⟩⟩, fun d sl x hw hx hsl ho h0 hd hs => ?_⟩
  · have h := (hb.init task v).bar
    rw [show after (.init v) = _ from h]
    simp [hp]
  · have h := (hb.init task v).bar
    rw [show after (.init v) = _ from h]
    simp only [hp, if_false]
    refine ⟨?_, ?_, fun hv => ?_, fun hv => ?_⟩
    · split <;> rfl
    · split <;> rfl
    · simp [Nat.not_le.2 hv]
    · simp [hv, Bar.completed]
  · obtain ⟨w, h⟩ := arrival (.waitd d x) nofun
    have nf : (!decide (0 < b.late) && decide (b.p ≤ b.c + 1)) = false := by
      simp; omega
    rw [h, nf]
    unfold Bar.arrived
    simp only [Bool.false_eq_true, if_false]
    split <;> cases hdl : b.dl <;> simp [Bar.deadline, hdl]
  · rw [reg_arrive hb hw ⟨⟨x, hx, hsl⟩, ho, hs⟩ h0 hd]
    by_cases hl : 0 < b.late <;> simp [token, bit, hl]

end Sys2Proof.Machine
end

section
/-!
Proofs: the fields of a word in a slot that has nothing else under way (R53 to R56). What a word's names ask of its issue
is its destinations, and ILLEGAL where it is not well formed.
-/

namespace Sys2Proof.Machine
open Sys2Proof

/-! ## Fields that ask nothing of the issue -/

/-- A field that names a predicate, a plain register, writable where it is written, or a run of such registers in the
window. -/
inductive FieldOk (s : State) : Field → Prop
  | pred {x : Field} (h : x.pred = true) (n : x.n = none) : FieldOk s x
  | one {x : Field} (n : x.n = none) (p : Plain s x.f) (d : x.w = true → Dest s x.f) : FieldOk s x
  | run {x : Field} {n : Nat} (e : x.n = some n) (h : ∀ f ∈ upto x.f n, InWindow s f) : FieldOk s x

theorem InWindow.dest {s : State} {f : Nat} (h : InWindow s f) : Dest s f := ⟨h.1, .inl h.2.2⟩

theorem InWindow.limit {s : State} {f : Nat} (h : InWindow s f) : f < (me s).limit := by
  obtain ⟨⟨-, p⟩, h0, hw⟩ := h
  omega

theorem FieldOk.each {s : State} {x : Field} (h : FieldOk s x) :
    ∀ y ∈ x.each, Plain s y.f ∧ (y.w = true → Dest s y.f) := by
  cases h with
  | pred h _ => simp [Field.each, h]
  | one n p d =>
    intro y m
    unfold Field.each at m
    split at m
    · cases m
    · rw [n] at m
      rw [List.mem_singleton.1 m]
      exact ⟨p, d⟩
  | run e h =>
    intro y m
    unfold Field.each at m
    split at m
    · cases m
    · rw [e] at m
      obtain ⟨f, hf, rfl⟩ := List.mem_map.1 m
      exact ⟨(h f hf).1, fun _ => (h f hf).dest⟩

/-- The plan of a word over such fields (R55 to R57). -/
theorem regPlan_fields {s : State} (h : Clear s) (wf : Bool) {names : List Field} (ok : ∀ x ∈ names, FieldOk s x) :
    regPlan s s.cur wf names = { ill := !wf, dests := names.flatMap Field.dests } := by
  refine regPlan_plain h wf names (fun x hx n e f hf => ?_) (fun y m => ?_) (fun y m => ?_)
  · cases ok x hx with
    | pred _ n' => rw [n'] at e; cases e
    | one n' _ _ => rw [n'] at e; cases e
    | run e' r =>
      rw [e'] at e
      cases e
      obtain ⟨-, h0, hw⟩ := r f hf
      exact ⟨by simp [fieldReg, h0, hw], (r f hf).limit⟩
  · obtain ⟨x, hx, hy⟩ := List.mem_flatMap.1 m
    exact ((ok x hx).each y hy).1
  · obtain ⟨x, hx, hy⟩ := List.mem_flatMap.1 m
    exact ((ok x hx).each y hy).2

section
variable {s : State} {a : BitVec 7}

@[simp] theorem fieldOk_fr (p : Plain s a.toNat) : FieldOk s (fr a) := .one rfl p nofun
@[simp] theorem fieldOk_fw (d : Dest s a.toNat) : FieldOk s (fw a) := .one rfl d.1 fun _ => d
@[simp] theorem fieldOk_fx (d : Dest s a.toNat) : FieldOk s (fx a) := .one rfl d.1 fun _ => d
@[simp] theorem fieldOk_inF {f : Nat} (p : Plain s f) : FieldOk s (inF f) := .one rfl p nofun
@[simp] theorem fieldOk_outF {f : Nat} (d : Dest s f) : FieldOk s (outF f) := .one rfl d.1 fun _ => d
@[simp] theorem fieldOk_inPred (k : BitVec 3) : FieldOk s (inPred k) := .pred rfl rfl
@[simp] theorem fieldOk_outPred (k : BitVec 3) : FieldOk s (outPred k) := .pred rfl rfl

end

/-! ## Plans over such fields that take effect -/

/-- The issue of an A-word over such fields that asks for nothing but its effect. -/
theorem fireA_fields {s u : State} {P : State → Plan} {names : List Field} {l : List Stage} (h : Clear s)
    (ok : ∀ x ∈ names, FieldOk s x) (e : P s = aPlan s ((regPlan s s.cur true names).does l))
    (hu : run l (taken s) = u) (fu : Fit u) (cu : u.cur = s.cur) : fireA P s = .next (finished u false) :=
  fireA_does h (by rw [e, aPlan_clear h, regPlan_fields h true ok]; rfl) hu fu cu

/-- An A-word over such fields whose one effect is the value of d. -/
theorem fireA_fields_write {s : State} {P : State → Plan} {names : List Field} {d : BitVec 7} {v : Word} (h : Clear s)
    (hd : Dest s d.toNat) (ok : ∀ x ∈ names, FieldOk s x)
    (e : P s = aPlan s ((regPlan s s.cur true names).does [wr s.cur d.toNat v])) :
    fireA P s = .next (finished (put (taken s) d.toNat v) false) :=
  fireA_fields h ok e (wr_put (s := taken s) v hd.1.1) (h.fit_taken.put _ _) (cur_put _ _ _)

end Sys2Proof.Machine
end

section
/-!
Proofs: comparisons, predicate logic, selection and KMOV (R132 to R135) in a slot that has nothing else under way.
-/

namespace Sys2Proof.Machine
open Sys2Proof

/-- A word that writes a predicate and raises flags does just that. -/
theorem fireA_predPlan {s : State} {P : State → Plan} {k : BitVec 3} {srcs : List Field} {v : BitVec 16} {fl : BitVec 5}
    (h : Clear s) (ok : ∀ x ∈ srcs, FieldOk s x) (e : P s = predPlan s true k srcs v fl) :
    fireA P s = .next (finished (putFlags (putPred (taken s) k.toNat v) fl) false) := by
  refine fireA_fields (names := outPred k :: srcs) h (List.forall_mem_cons.2 ⟨fieldOk_outPred k, ok⟩) e ?_
    ((h.fit_taken.putPred _ _).putFlags _) (cur_putFlags _ _)
  rw [run_cons, run_cons, run_nil]
  have flags : (me (putPred (taken s) k.toNat v)).fxmask = (thr s s.cur).fxmask := by
    unfold putPred
    rw [me_onMe (taken s) _ h.held]
    rfl
  exact wrFlags_put (putPred (taken s) k.toNat v) _ fl flags

/-- No flags: the predicate is the one change. -/
theorem putFlags_zero (s : State) : putFlags s 0 = s := if_pos rfl

theorem fireA_predPlan_quiet {s : State} {P : State → Plan} {k : BitVec 3} {srcs : List Field} {v : BitVec 16}
    (h : Clear s) (ok : ∀ x ∈ srcs, FieldOk s x) (e : P s = predPlan s true k srcs v 0) :
    fireA P s = .next (finished (putPred (taken s) k.toNat v) false) := by
  rw [fireA_predPlan h ok e, putFlags_zero]

theorem allBits_eq (b : Bool) : allBits b = Says.all16 b := by cases b <;> rfl

/-- KOP's function by its code (R134). -/
theorem kop_value (c : BitVec 3) (x y : BitVec 16) :
    (match c.toNat with
      | 0 => x &&& y
      | 1 => x ||| y
      | 2 => x ^^^ y
      | 3 => x &&& ~~~y
      | 4 => ~~~x
      | 5 => x
      | 6 => 0xFFFF
      | _ => 0 : BitVec 16) = Says.kop c x y := by
  have code : c = 0 ∨ c = 1 ∨ c = 2 ∨ c = 3 ∨ c = 4 ∨ c = 5 ∨ c = 6 ∨ c = 7 := by revert c; decide
  rcases code with rfl | rfl | rfl | rfl | rfl | rfl | rfl | rfl <;> rfl

/-- Settles O4: each word's plan names a predicate or a register as destination and its value. -/
theorem predicateWordsCompareAndSelect : Obligations.PredicateWordsCompareAndSelect := by
  intro s d a b k c p q h hd pa pb x y pr
  refine ⟨fun t => ?_, fun t => ?_, fun wf => ?_, ?_, ?_, ?_⟩
  · intro
    rw [← allBits_eq]
    exact fireA_predPlan (P := planCmp k c a b t) h (by simp [pa, pb]) rfl
  · intro _ _
    rw [← allBits_eq]
    exact fireA_predPlan_quiet (P := planCmpi k c a b t) (srcs := [fr a]) h (by simp [pa]) rfl
  · rw [← kop_value]
    refine fireA_predPlan_quiet (P := planKop k c p q) (srcs := [inPred p, inPred q]) h (by simp) ?_
    rw [planKop, wf] <;> rfl
  · exact fireA_fields_write (P := planSel d a b p) (names := [fw d, fr a, fr b, inPred p]) h hd (by simp [hd, pa, pb]) rfl
  · exact fireA_fields_write (P := planKmovToReg d p) (names := [fw d, inPred p]) h hd (by simp [hd]) rfl
  · exact fireA_predPlan_quiet (P := planKmovToPred k a) (srcs := [fr a]) h (by simp [pa]) rfl

end Sys2Proof.Machine
end

section
/-!
Proofs: TRAP, ERET, EXIT and YIELD (R65, R78, R83 to R85) and the CSR words (R86, R87, R243) in a slot that has nothing
else under way. Before them, the traps of a C-word's plan, class by class.
-/

namespace Sys2Proof.Machine
open Sys2Proof

/-! ## The traps of a C-word's plan -/

section
variable {s : State} {P : State → Plan} (h : Deliverable s)
include h

theorem fireC_raises_ill (e : (P s).ill = true) :
    fireC P s = .next (delivered s (bTrap s s.cur .illegal) (me s).arch.pc) := fireC_raises h (firstTrap_ill e) nofun

theorem fireC_raises_priv (hi : (P s).ill = false) (e : (P s).priv = true) :
    fireC P s = .next (delivered s (bTrap s s.cur .priv) (me s).arch.pc) := fireC_raises h (firstTrap_priv hi e) nofun

/-- A trap of class 3, or of class 2 where the plan names one. -/
theorem fireC_raises_third {tr : Trap} (hi : (P s).ill = false) (hp : (P s).priv = false) (hh : (P s).hold = false)
    (e : (P s).c2.or (P s).c3 = some tr) (ns : tr.code ≠ .soft) :
    fireC P s = .next (delivered s tr (me s).arch.pc) := by
  refine fireC_raises h ?_ ns
  rw [firstTrap_own hi (clash_idle _) hp rfl rfl hh]
  cases h2 : (P s).c2 with
  | some x => simpa [h2, idle] using e
  | none =>
    rw [h2, Option.none_or] at e
    simp [e, idle]

end

/-! ## TRAP, ERET, EXIT and YIELD -/

theorem exec_trap {s : State} (h : Deliverable s) (ls : LS) (imm : BitVec 10) :
    exec (.trap ls imm) s = .next (delivered s (nTrap .soft imm.toNat) ((me s).arch.pc + 8)) := by
  show fireC (planTrap ls imm) s = _
  rw [fireC, if_pos h.clear.held, issue_raises_soft h (tr := nTrap .soft imm.toNat) rfl rfl]

theorem Fit.eret {u : State} (h : Fit u) : Fit (Machine.onMe u eretDone) := by
  refine h.onMe eretDone ⟨.inl ?_, h.alone, h.room, h.stores⟩
  rcases h.turn with t | t <;> simp [eretDone, t]

theorem exec_eret {s : State} (h : Clear s) (ls : LS) (m : mayEret (me s) = true) :
    exec (.eret ls) s = .next (finished (onMe (taken s) eretDone) ls.s (some (me s).trappc)) := by
  have e : planEret ls s = { npc := some (me s).trappc, stages := [eff [onThr s.cur eretDone]], mark := ls.s } := by
    simp only [planEret, cPlan, show thr s s.cur = me s from rfl, m, Bool.not_true]
  exact fireC_moves h e rfl h.fit_taken.eret rfl

theorem trapAndEret : Says.TrapAndEret := by
  refine fun s ls => ⟨fun imm h => exec_trap h ls imm, fun h m => exec_eret h ls m, fun h m => ?_⟩
  exact fireC_raises_priv (P := planEret ls) h rfl (by simp [planEret, cPlan, m])

theorem planExit_eq {s : State} (h : Clear s) (ls : LS) : planExit ls s =
    { ill := ((iterOf s s.cur).isSome && (me s).arch.carry.isNone) || loopOpen s s.cur
      ends := true, after := .exit, mark := ls.s } := by
  simp [planExit, cPlan, Plan.ownIf, Plan.own, h.idle]

theorem planYield_eq {s : State} (h : Clear s) (ls : LS) : planYield ls s =
    { ill := (me s).arch.priv == .handler, ends := true, after := .yield, mark := ls.s } := by
  simp [planYield, cPlan, h.idle]

theorem exitAndYield : Says.ExitAndYield := by
  refine fun s ls h => ⟨fun closed carried => ?_, fun bad d => ?_, fun user => ?_⟩
  · have legal : ((iterOf s s.cur).isSome && (me s).arch.carry.isNone) = false := by
      cases i : (iterOf s s.cur).isSome
      · rfl
      · simpa using carried i
    refine acts_of_issues (P := planExit ls) h rfl ((planExit_eq h ls).trans ?_)
      ⟨rfl, rfl, rfl, rfl, rfl, rfl, rfl, rfl, rfl, rfl, rfl, rfl⟩
    rw [closed, legal]
    rfl
  · refine fireC_raises_ill (P := planExit ls) d ?_
    rw [planExit_eq h]
    rcases bad with b | ⟨i, c⟩
    · simp [b]
    · simp [i, c]
  · refine acts_of_issues (P := planYield ls) h rfl ((planYield_eq h ls).trans ?_)
      ⟨rfl, rfl, rfl, rfl, rfl, rfl, rfl, rfl, rfl, rfl, rfl, rfl⟩
    rw [beq_eq_false_iff_ne.mpr user]

/-- Settles O6: TRAP and ERET by `trapAndEret`, EXIT and YIELD by `exitAndYield`. -/
theorem trapEretExitAndYield : Obligations.TrapEretExitAndYield := ⟨trapAndEret, exitAndYield⟩

/-! ## CSRs -/

theorem fireC_csrr {s : State} (h : Clear s) (ls : LS) {d : BitVec 7} {c : BitVec 10} (hk : csrKnown c = true)
    (hd : Dest s d.toNat) (det : ¬(determ s s.cur = true ∧ (c = 0x010 ∨ c = 0x011))) :
    fireC (planCsrr ls d c) s =
      .next (finished (put (taken s) d.toNat ((csrValue s s.cur c.toNat).setWidth 128)) ls.s) := by
  have e := planCsrr_eq h ls hk hd
  rw [if_neg (by simpa using det)] at e
  exact fireC_moves h e (wr_put (s := taken s) _ hd.1.1) (h.fit_taken.put _ _) (cur_put _ _ _)

/-- What CSRW asks of its issue: ILLEGAL where the CSR cannot be written or the value breaks its rules, then PRIV. -/
theorem planCsrw_eq {s : State} (h : Clear s) (ls : LS) {a : BitVec 7} (c : BitVec 10) (pa : Plain s a.toNat) :
    planCsrw ls a c s =
      { ill := !(csrWritable c && !csrBad c.toNat (rd64 s s.cur a.toNat))
        priv := csrHandler c && (me s).arch.priv == .user
        dests := [fr a].flatMap Field.dests
        stages := [eff [csrSet s.cur c.toNat (rd64 s s.cur a.toNat)]], mark := ls.s } := by
  simp only [planCsrw, pending_clear h, regPlan_fields h _ (List.forall_mem_singleton.2 (fieldOk_fr pa)), cPlan,
    Plan.does, List.nil_append, Bool.not_false, Bool.true_and]

/-- A change of the current thread that keeps what an issue looks at. -/
theorem Fit.apply_onThr {u : State} (h : Fit u) (f : Thread → Thread)
    (hf : ∀ t, (f t).st = t.st ∧ (f t).partner = t.partner ∧ (f t).chunk = t.chunk) :
    Fit (Eff.apply u (onThr u.cur f)) := by
  obtain ⟨st, al, ch⟩ := hf (me u)
  refine Fit.onMe h f ⟨?_, ?_, ?_, ?_⟩
  · rw [st]; exact h.turn
  · rw [al]; exact h.alone
  · rw [ch]; exact h.room
  · rw [ch]; exact h.stores

theorem Fit.apply_onCore {u : State} (h : Fit u) (c : Nat) (f : Core → Core) : Fit (Eff.apply u (onCore c f)) :=
  ⟨h.held, h.turn, h.alone, h.room, h.stores⟩

theorem Fit.csrSet {u : State} (h : Fit u) (c : Nat) (v : Dword) : Fit (Eff.apply u (csrSet u.cur c v)) := by
  unfold Machine.csrSet
  split
  case h_9 => exact h.apply_onCore _ _
  all_goals exact h.apply_onThr _ fun _ => ⟨rfl, rfl, rfl⟩

theorem cur_csrSet (u : State) (slot c : Nat) (v : Dword) : (Eff.apply u (csrSet slot c v)).cur = u.cur := by
  unfold Machine.csrSet
  split <;> rfl

theorem planL2pdataWrite_eq {s : State} (h : Clear s) (ls : LS) {a : BitVec 7} (pa : Plain s a.toNat) :
    planL2pdataWrite ls a s =
      { ill := !l2pOk s s.cur (rd64 s s.cur a.toNat)
        dests := [fr a].flatMap Field.dests
        stages := [eff [onChunk s.cur (fun c =>
          { c with l2p := c.l2p ++ [((me s).l2pidx, (rd64 s s.cur a.toNat).toNat % 2 ^ 18)] })]]
        mark := ls.s } := by
  simp only [planL2pdataWrite, pending_clear h, regPlan_fields h _ (List.forall_mem_singleton.2 (fieldOk_fr pa)), cPlan,
    Plan.does, List.nil_append, Bool.not_false, Bool.true_and, Bool.not_not]

/-- Settles O7: each CSR word by its plan, ILLEGAL before PRIV before DETERMINISM. -/
theorem csrWordsReadAndWrite : Obligations.CsrWordsReadAndWrite := by
  intro s ls d a c h
  refine ⟨fun hk det hd => fireC_csrr h ls hk hd det, fun hk hv hd => ?_, fun hdet hc hv hd => ?_, fun hw pa => ?_,
    fun hw pa hv => ?_, fun pa => ?_⟩
  · refine fireC_raises_ill (P := planCsrr ls d c) hv ?_
    simp only [planCsrr, hk, regPlan_fields h false (List.forall_mem_singleton.2 (fieldOk_fw hd))]
    rfl
  · have known : csrKnown c = true := by rcases hc with rfl | rfl <;> rfl
    have e := planCsrr_eq h ls known hd
    rw [if_pos (by simpa [hdet] using hc)] at e
    exact fireC_raises_own hv e nofun
  · have e := planCsrw_eq h ls c pa
    rw [hw] at e
    refine ⟨fun ok user => ?_, fun bad hv => ?_, fun ok hh user hv => ?_⟩
    · have high : (csrHandler c && (me s).arch.priv == .user) = false := by
        cases hh : csrHandler c
        · rfl
        · simpa using user hh
      rw [ok, high] at e
      exact fireC_moves h e rfl (h.fit_taken.csrSet _ _) (cur_csrSet _ _ _ _)
    · refine fireC_raises_ill (P := planCsrw ls a c) hv ?_
      rw [e, bad]
      rfl
    · refine fireC_raises_priv (P := planCsrw ls a c) hv ?_ ?_
      · rw [e, ok]; rfl
      · rw [e, hh, user]; rfl
  · refine fireC_raises_ill (P := planCsrw ls a c) hv ?_
    rw [planCsrw_eq h ls c pa, hw]
    rfl
  · refine ⟨fun ok => ?_, fun bad hv => ?_⟩
    · have e := planL2pdataWrite_eq h ls pa
      rw [ok] at e
      refine fireC_moves h e ?_ (h.fit_taken.onMe _ ⟨h.turn, h.alone, h.room, Nat.lt_succ_of_lt h.stores⟩) rfl
      exact onMe_congr (s := taken s) h.held rfl
    · refine fireC_raises_ill (P := planL2pdataWrite ls a) hv ?_
      rw [planL2pdataWrite_eq h ls pa, bad]
      rfl

end Sys2Proof.Machine
end

section
/-!
Proofs: the fences, CHUNK and the barrier words (R160, R161, R216 to R222) in a slot that has nothing else under way.
Before them, the destinations that a word's fields name, and plans that ask for nothing but their effect.
-/

namespace Sys2Proof.Machine
open Sys2Proof

/-! ## Destinations and quiet plans -/

@[simp] theorem dests_fr (a : BitVec 7) : (fr a).dests = [] := rfl
@[simp] theorem dests_inF (f : Nat) : (inF f).dests = [] := rfl
@[simp] theorem dests_inPred (k : BitVec 3) : (inPred k).dests = [] := rfl
@[simp] theorem dests_inRun (b n : Nat) : (inRun b n).dests = [] := rfl
@[simp] theorem dests_fw (a : BitVec 7) : (fw a).dests = destOf a.toNat := List.append_nil _
@[simp] theorem dests_fx (a : BitVec 7) : (fx a).dests = destOf a.toNat := List.append_nil _
@[simp] theorem dests_outF (f : Nat) : (outF f).dests = destOf f := List.append_nil _
@[simp] theorem dests_outPred (k : BitVec 3) : (outPred k).dests = if k.toNat = 0 then [] else [128 + k.toNat] := rfl

theorem destOf_ne_zero {f : Nat} (h : f ≠ 0) : destOf f = [f] := if_neg h

/-- A plan that asks for nothing but its effect, and perhaps for the end of the chunk. -/
theorem Issues.quiet (s : State) (ds : List Nat) (l first : List Stage) (m ends : Bool) (npc : Option (BitVec 64))
    (a : After) : Issues s { dests := ds, stages := l, first := first, mark := m, ends := ends, npc := npc, after := a } :=
  ⟨rfl, rfl, rfl, rfl, rfl, rfl, rfl, rfl, rfl, rfl, rfl, rfl⟩

/-- A C-word acts as its plan says, where the plan asks for nothing but its effect. -/
theorem acts_quiet {s : State} {i : Instr} {P : State → Plan} {ds : List Nat} {l first : List Stage} {m ends : Bool}
    {npc : Option (BitVec 64)} {a : After} (h : Clear s) (e : exec i s = fireC P s)
    (r : P s = { dests := ds, stages := l, first := first, mark := m, ends := ends, npc := npc, after := a }) :
    Acts s i { dests := ds, stages := l, first := first, mark := m, ends := ends, npc := npc, after := a } :=
  acts_of_issues h e r (.quiet s ds l first m ends npc a)

/-- A C-word whose plan sleeps, and asks for nothing else. -/
theorem sleeps_quiet {s : State} {i : Instr} {P : State → Plan} {ds : List Nat} {l first : List Stage} {m ends : Bool}
    {w : Wait} (h : Clear s) (e : exec i s = fireC P s)
    (r : P s = { dests := ds, stages := l, first := first, mark := m, ends := ends, sleep := some w }) :
    Sleeps s i w first := by
  have q := sleeps_of (i := i) (w := w) h e (by rw [r]; exact .quiet s ds l first m ends none .nothing)
    (by rw [r]; nofun) (by rw [r])
  rwa [r] at q

/-! ## Barrier words -/

section
variable {s : State} (h : Clear s) (sp : speculative s s.cur = false) (n : BitVec 5) {fs : List Field}
  (ok : ∀ x ∈ fs, FieldOk s x)
include h sp ok

/-- What the barrier words ask of their issue: ILLEGAL for a barrier that is not declared, or that an arrival finds
without participants (R221). -/
theorem barPlan_eq (arrives : Bool) (own : Option Trap) : barPlan s n arrives fs own =
    { ill := !(barDeclared s s.cur n.toNat && (!arrives || decide ((barAt s s.cur n.toNat).p ≠ 0)))
      dests := fs.flatMap Field.dests, c3 := own, ends := true } := by
  simp only [barPlan, regPlan_fields h _ ok, Plan.own, Plan.noSpec, Plan.ownIf, sp, Option.none_or, Option.or_none,
    Bool.false_eq_true, if_false]

variable (dec : barDeclared s s.cur n.toNat = true)
include dec

theorem barPlan_arrives (p : (barAt s s.cur n.toNat).p ≠ 0) : barPlan s n true fs none =
    { dests := fs.flatMap Field.dests, ends := true } := by
  rw [barPlan_eq h sp n ok, dec, decide_eq_true p]
  rfl

theorem barPlan_declared : barPlan s n false fs none = { dests := fs.flatMap Field.dests, ends := true } := by
  rw [barPlan_eq h sp n ok, dec]
  rfl

end

/-- INIT takes a count from 1 to the most that its barrier can have (R221). -/
theorem planBarInit_eq {s : State} (h : Clear s) (sp : speculative s s.cur = false) (ls : LS) {a : BitVec 7}
    (pa : Plain s a.toNat) (n : BitVec 5) (dec : barDeclared s s.cur n.toNat = true)
    (h1 : 1 ≤ (rd64 s s.cur a.toNat).toNat) (h2 : (rd64 s s.cur a.toNat).toNat ≤ if n.toNat < 16 then 256 else 36864) :
    planBarInit ls a n s = {
      mark := ls.s, ends := true, stages := [withBar s.cur n.toNat (.init (rd64 s s.cur a.toNat).toNat)] } := by
  have inside : ¬((rd64 s s.cur a.toNat).toNat = 0 ∨
      (if n.toNat < 16 then 256 else 36864) < (rd64 s s.cur a.toNat).toNat) := by omega
  simp only [planBarInit, if_neg inside, barPlan_declared h sp n (List.forall_mem_singleton.2 (fieldOk_fr pa)) dec, cPlan,
    Plan.does, List.nil_append, List.flatMap_cons, List.flatMap_nil, dests_fr, List.append_nil]

/-- WAIT sleeps until its token's phase is over, but for a late token and for a slot that its barrier has released. -/
theorem planBarWait_eq {s : State} (h : Clear s) (sp : speculative s s.cur = false) (ls : LS) {a : BitVec 7}
    (pa : Plain s a.toNat) (n : BitVec 5) (dec : barDeclared s s.cur n.toNat = true) : planBarWait ls a n s =
      { mark := ls.s, ends := true
        sleep := if ((me s).grant.isSome || (rd s s.cur a.toNat).getLsbD 16 ||
            decide ((barAt s s.cur n.toNat).phase ≠ bits (rd s s.cur a.toNat) 15 0)) = true then none
          else some (.barrier (barHome s s.cur n.toNat) n.toNat (barAt s s.cur n.toNat).phase)
        first := [eff [onBar (me s).kernel (barHome s s.cur n.toNat) n.toNat
          (fun b => { b with waiters := b.waiters ++ [⟨(me s).task, .wait⟩] })]] } := by
  simp only [planBarWait, barPlan_declared h sp n (List.forall_mem_singleton.2 (fieldOk_fr pa)) dec, cPlan,
    List.flatMap_cons, List.flatMap_nil, dests_fr, List.append_nil]

/-- Settles O16: the fences and CHUNK by their plans; the barrier words by `barPlan_eq`. -/
theorem fencesAndBarriersEndTheirChunk : Obligations.FencesAndBarriersEndTheirChunk := by
  intro s ls d a n h
  refine ⟨acts_quiet (P := planFenceNear ls) h rfl rfl, acts_quiet (P := planFenceGlobal ls) h rfl rfl,
    acts_quiet (P := planFenceEngine ls) h rfl rfl, acts_quiet (P := planFenceMirror ls) h rfl rfl,
    acts_quiet (P := planFenceSystem ls) h rfl rfl, acts_quiet (P := planChunk ls) h rfl rfl, fun sp hd pa => ?_⟩
  have okd : ∀ x ∈ [fw d], FieldOk s x := by simp [hd]
  have oka : ∀ x ∈ [fr a], FieldOk s x := by simp [pa]
  have okb : ∀ x ∈ [fw d, fr a], FieldOk s x := by simp [hd, pa]
  intro b home v tok
  refine ⟨fun dec => ⟨fun p => ⟨?_, ?_, fun det => ?_⟩, fun h1 h2 => ?_, fun ng go => ?_, fun ng early same => ?_⟩,
    fun undec hv => ⟨?_, ?_⟩⟩
  · refine acts_quiet (P := planBarArrive ls d n) h rfl ?_
    simp only [planBarArrive, barPlan_arrives h sp n okd dec p, cPlan, Plan.does, List.nil_append, List.flatMap_cons,
      List.flatMap_nil, dests_fw, List.append_nil]
  · refine acts_quiet (P := planBarSync ls n) h rfl ?_
    simp only [planBarSync, barPlan_arrives h sp n (List.forall_mem_nil _) dec p, cPlan, Plan.does, List.nil_append,
      List.flatMap_nil]
  · refine acts_quiet (P := planBarWaitd ls d a n) h rfl ?_
    simp only [planBarWaitd, barPlan_arrives h sp n okb dec p, cPlan, Plan.does, Plan.noDeterm, Plan.ownIf, Plan.own, det,
      List.nil_append, List.flatMap_cons, List.flatMap_nil, dests_fw, dests_fr, List.append_nil, Option.none_or,
      Bool.false_eq_true, if_false]
    rfl
  · exact acts_quiet (P := planBarInit ls a n) h rfl (planBarInit_eq h sp ls pa n dec h1 h2)
  · have leaves : ((me s).grant.isSome || tok.getLsbD 16 || decide (b.phase ≠ bits tok 15 0)) = true := by
      simpa [ng] using go
    have e := planBarWait_eq h sp ls pa n dec
    rw [if_pos leaves] at e
    have q := acts_quiet (i := .barWait ls a n) (P := planBarWait ls a n) h rfl e
    exact q
  · have stays : ((me s).grant.isSome || tok.getLsbD 16 || decide (b.phase ≠ bits tok 15 0)) = false := by
      rw [ng, early, same]
      simp
    have e := planBarWait_eq h sp ls pa n dec
    rw [stays] at e
    exact sleeps_quiet (P := planBarWait ls a n) h rfl e
  · refine fireC_raises_ill (P := planBarSync ls n) hv ?_
    simp only [planBarSync, barPlan_eq h sp n (List.forall_mem_nil _), undec]
    rfl
  · refine fireC_raises_ill (P := planBarInit ls a n) hv ?_
    simp only [planBarInit, barPlan_eq h sp n oka, undec]
    rfl

end Sys2Proof.Machine
end

section
/-!
Proofs: LATHE.OPEN, LWAIT and LABORT (R187, R188, R193).
-/

namespace Sys2Proof.Machine
open Sys2Proof

theorem planLatheOpen_eq {s : State} (h : Clear s) (user : (me s).arch.priv ≠ .handler) {d a : BitVec 7}
    (hd : d.toNat < (me s).limit) (pa : Plain s a.toNat) (ls : LS) (g : BitVec 3) (n : BitVec 4) :
    planLatheOpen ls d a g n s =
      { c3 := if decide (65535 < bits (rd s s.cur a.toNat) 31 0) then some (bTrap s s.cur .lathe) else none
        mark := ls.s
        stages := [eff [onArch s.cur (fun x => { x with lathe := { x.lathe with
          st := .capturing, n := n.toNat + 1, count := bits (rd s s.cur a.toNat) 31 0, stag := g.toNat, base := d.toNat
          words := [] } })]] } := by
  have legal : ((thr s s.cur).arch.priv != .handler) = true := bne_iff_ne.2 user
  have idle : ((thr s s.cur).arch.lathe.st != .idle) = false := by rw [show thr s s.cur = me s from rfl, h.idle]; rfl
  simp only [planLatheOpen, legal, idle, regPlan_fields h _ (List.forall_mem_singleton.2 (fieldOk_fr pa)),
    if_neg (Nat.not_le.2 hd), cPlan, Plan.ownIf, Plan.own, Plan.does, List.nil_append, List.flatMap_cons, List.flatMap_nil,
    dests_fr, Option.none_or, Bool.not_true, Bool.false_or]

theorem planLatheLwait_eq (ls : LS) {s : State} (nc : (me s).arch.lathe.st ≠ .capturing) : planLatheLwait ls s =
    { mark := ls.s, sleep := if (me s).arch.lathe.st = .idle then none else some .latheIdle } := by
  have captures : ((thr s s.cur).arch.lathe.st == .capturing) = false := beq_eq_false_iff_ne.2 nc
  simp only [planLatheLwait, captures, cPlan, Plan.ownIf, Plan.own, Bool.false_eq_true, if_false, Option.none_or]

theorem planLatheLabort_eq (ls : LS) {s : State} (nc : (me s).arch.lathe.st ≠ .capturing) : planLatheLabort ls s =
    { mark := ls.s, stages := [abortLathe s.cur] } := by
  have captures : ((thr s s.cur).arch.lathe.st == .capturing) = false := beq_eq_false_iff_ne.2 nc
  simp only [planLatheLabort, captures, cPlan, Plan.ownIf, Plan.own, Plan.does, Bool.false_eq_true, if_false,
    Option.none_or, List.nil_append]

/-- LABORT leaves the lathe of an occupied slot idle. -/
theorem abortLathe_idle {s : State} (h : occupied s s.cur = true) :
    (me (run [abortLathe s.cur] s)).arch.lathe.st = .idle := by
  rw [run_cons, run_nil]
  by_cases i : (thr s s.cur).arch.lathe.st = .idle
  · rw [runStage, abortLathe, if_pos i]
    exact i
  · rw [runStage, abortLathe, if_neg i]
    show (me (onMe s (fun t => { t with arch := latheAborted t.arch }))).arch.lathe.st = .idle
    rw [me_onMe s _ h]
    rfl

/-- Settles O20: each word by its plan. -/
theorem latheWordsOpenWaitAndAbort : Obligations.LatheWordsOpenWaitAndAbort := by
  intro s ls d a g n pa count
  refine ⟨fun h user hd => ?_, fun h => ⟨?_, ?_⟩, fun occ al running => ⟨?_, ?_, abortLathe_idle occ⟩⟩
  · have e := planLatheOpen_eq h user hd pa ls g n
    refine ⟨fun small => ?_, fun large hv => ?_⟩
    · rw [decide_eq_false (Nat.not_lt.2 small)] at e
      exact acts_quiet (P := planLatheOpen ls d a g n) h rfl e
    · rw [decide_eq_true large] at e
      exact fireC_raises_own (P := planLatheOpen ls d a g n) hv e nofun
  · have e := planLatheLwait_eq ls (s := s) (by rw [h.idle]; nofun)
    rw [if_pos h.idle] at e
    exact acts_quiet (P := planLatheLwait ls) h rfl e
  · have e := planLatheLabort_eq ls (s := s) (by rw [h.idle]; nofun)
    refine fireC_moves (P := planLatheLabort ls) h e ?_ h.fit_taken rfl
    rw [run_cons, run_nil, runStage, abortLathe, if_pos (show (thr (taken s) s.cur).arch.lathe.st = .idle from h.idle)]
    rfl
  · have e := planLatheLwait_eq ls (s := s) (by rw [running]; nofun)
    rw [if_neg (by rw [running]; nofun)] at e
    have q := sleeps_of_alone (i := .latheLwait ls) (P := planLatheLwait ls) (w := .latheIdle) occ al rfl
      (by rw [e]; exact .quiet s [] [] [] ls.s false none .nothing) (by rw [e]; nofun) (by rw [e])
    rwa [e] at q
  · have e := planLatheLabort_eq ls (s := s) (by rw [running]; nofun)
    exact acts_of_issues_alone (P := planLatheLabort ls) occ al rfl e (.quiet s [] _ [] ls.s false none .nothing)

end Sys2Proof.Machine
end

section
/-!
Proofs: the event latch, its signals and mailboxes (R88 to R92), and nest counters (R251 to R253).
-/

namespace Sys2Proof.Machine
open Sys2Proof

/-! ## Runs of registers -/

theorem mem_upto {f a n : Nat} : f ∈ upto a n ↔ a ≤ f ∧ f < a + n := by
  rw [upto_eq_range', List.mem_range'_1]

section
variable {s : State} {b n : Nat} (h : ∀ i < n, InWindow s (b + i))
include h

theorem inWindow_of_mem {f : Nat} (m : f ∈ upto b n) : InWindow s f := by
  obtain ⟨h1, h2⟩ := mem_upto.1 m
  have e : f = b + (f - b) := by omega
  rw [e]
  exact h _ (by omega)

theorem fieldOk_outRun : FieldOk s (outRun b n) := .run rfl fun _ m => inWindow_of_mem h m
theorem fieldOk_inRun : FieldOk s (inRun b n) := .run rfl fun _ m => inWindow_of_mem h m

theorem dests_outRun : (outRun b n).dests = upto b n := by
  have one : ∀ f ∈ upto b n, destOf f = [f] := fun f m => destOf_ne_zero (inWindow_of_mem h m).2.1
  show ((upto b n).map _).flatMap _ = _
  rw [List.flatMap_map, List.flatMap_congr one, List.flatMap_singleton']

end

/-! ## Chunk points that ask for nothing but their effect -/

/-- An irrevocable word is left to the lead of its loop, where the slot runs an iteration (R287). -/
theorem irrevocable_leads {s : State} (lead : speculative s s.cur = true → isLead s s.cur = true) :
    (speculative s s.cur && !isLead s s.cur) = false := by
  cases sp : speculative s s.cur
  · rfl
  · simp [lead sp]

theorem point_quiet {s : State} {i : Instr} {P : State → Plan} {ds : List Nat} {l : List Stage} {m irrev : Bool}
    (h : AtPoint s) (e : exec i s = fireC P s)
    (r : P s = { dests := ds, stages := l, mark := m, irrev := irrev, point := true })
    (lead : (irrev && (speculative s s.cur && !isLead s s.cur)) = false) :
    PointActs s i { dests := ds, stages := l, mark := m, irrev := irrev } :=
  point_of_issues h e r ⟨rfl, rfl, rfl, rfl, rfl, rfl, rfl, rfl, rfl, rfl, rfl, lead⟩

/-- A C-word that could have slept, and does not, ends its bundle with its effect. -/
theorem fireC_stays {s u : State} {P : State → Plan} {ds : List Nat} {l first : List Stage} {m : Bool} (h : Clear s)
    (e : P s = { dests := ds, stages := l, first := first, mark := m }) (hu : run l (taken s) = u) (fu : Fit u)
    (cu : u.cur = s.cur) : fireC P s = .next (finished u m) := by
  have q : Runs s (P s) := by rw [e]; exact ⟨rfl, rfl, rfl, rfl, rfl, rfl, rfl, rfl, rfl, rfl, rfl, rfl, rfl, rfl⟩
  rw [fireC_runs h q (by rw [e]; exact hu) fu cu, e]

/-! ## The latch -/

theorem planEvWaitt_eq {s : State} (h : Clear s) (det : determ s s.cur = false) (ng : (me s).grant = none) (ls : LS)
    {d a : BitVec 7} (hd : Dest s d.toNat) (pa : Plain s a.toNat) : planEvWaitt ls d a s =
      { dests := destOf d.toNat, mark := ls.s
        sleep := if ((me s).latch || bits (rd s s.cur a.toNat) 31 0 == 0) = true then none
          else some (.latchUntil (s.now + bits (rd s s.cur a.toNat) 31 0))
        first := [fun t => [.post (t.now + bits (rd s s.cur a.toNat) 31 0) (.ev (.waittTimeout s.cur))]]
        stages := [eff [onThr s.cur (fun t => { t with latch := false })], wr s.cur d.toNat (wd (bit (me s).latch))] } := by
  have ok : ∀ x ∈ [fw d, fr a], FieldOk s x := by simp [hd, pa]
  have ng' : (thr s s.cur).grant = none := ng
  simp only [planEvWaitt, ng', regPlan_fields h _ ok, cPlan, Plan.noDeterm, Plan.ownIf, Plan.own, Plan.does, det,
    List.nil_append, List.flatMap_cons, List.flatMap_nil, dests_fw, dests_fr, List.append_nil, Option.isSome_none,
    Bool.not_false, Bool.and_true, Bool.and_false, Bool.or_false, Bool.not_true, Option.none_or, Bool.false_eq_true, if_false]

/-- EV.WAITT that does not sleep clears the latch and gives what it was. -/
theorem run_evWaitt {s : State} (h : Clear s) {d : BitVec 7} (hd : Dest s d.toNat) (v : Word) :
    run [eff [onThr s.cur (fun t => { t with latch := false })], wr s.cur d.toNat v] (taken s) =
      put (onMe (taken s) (fun t => { t with latch := false })) d.toNat v := by
  have free : (me (onMe (taken s) (fun t => { t with latch := false }))).arch.strm d.toNat = none := by
    rw [me_onMe (taken s) _ h.held]
    exact hd.1.1
  exact wr_put v free

theorem Fit.latch {u : State} (h : Fit u) (b : Bool) : Fit (Machine.onMe u (fun t => { t with latch := b })) :=
  h.onMe _ ⟨h.turn, h.alone, h.room, h.stores⟩

theorem exec_evWaitt {s : State} (h : Clear s) (det : determ s s.cur = false) (ng : (me s).grant = none) (ls : LS)
    {d a : BitVec 7} (hd : Dest s d.toNat) (pa : Plain s a.toNat)
    (stays : ((me s).latch || bits (rd s s.cur a.toNat) 31 0 == 0) = true) : exec (.evWaitt ls d a) s =
      .next (finished (put (onMe (taken s) (fun t => { t with latch := false })) d.toNat (wd (bit (me s).latch))) ls.s) := by
  have e := planEvWaitt_eq h det ng ls hd pa
  rw [if_pos stays] at e
  exact fireC_stays h e (run_evWaitt h hd _) ((h.fit_taken.latch false).put _ _) (cur_put _ _ _)

theorem planEvWait_eq (s : State) (ls : LS) : planEvWait ls s =
    { mark := ls.s, sleep := if (me s).latch then none else some .latch
      stages := [eff [onThr s.cur (fun t => { t with latch := false })]] } := rfl

/-- EV.SIGNAL sends to the slot that X[a] names, in the context's partition (R90). -/
theorem planEvSignal_eq {s : State} (h : Clear s) (ng : guessing s s.cur = false) (ls : LS) {a : BitVec 7}
    (pa : Plain s a.toNat) : planEvSignal ls a s =
      { mark := ls.s, point := true, irrev := true
        c3 := if addrOutside s s.cur (slotAddr (rd64 s s.cur a.toNat).toNat) = true then some ⟨.perm, rd64 s s.cur a.toNat⟩ else none
        stages := [sendNear s.cur (scratchLoc (slotAddr (rd64 s s.cur a.toNat).toNat / 256) 0)
          (slotAddr (rd64 s s.cur a.toNat).toNat) (.signal (slotAddr (rd64 s s.cur a.toNat).toNat)) [] false] } := by
  simp only [planEvSignal, regPlan_fields h _ (List.forall_mem_singleton.2 (fieldOk_fr pa)), cPlan, Plan.noGuess, ng,
    Plan.ownIf, Plan.own, Plan.does, List.nil_append, List.flatMap_cons, List.flatMap_nil, dests_fr, Option.none_or,
    Bool.false_eq_true, if_false, Bool.not_true]

theorem slotAddr_eq_bits {w : Nat} (v : BitVec w) : slotAddr v.toNat = bits v 17 0 := by
  simp [slotAddr, bits]

/-- MSEND of an aligned box in a scratchpad, with a target of its signal, if any, in the partition (R92). -/
theorem planMsend_eq {s : State} (h : Clear s) (ng : guessing s s.cur = false) (ls : LS) {d a b : BitVec 7}
    (hd : Dest s d.toNat) (hw : d.toNat < 112) (pa : Plain s a.toNat) (pb : Plain s b.toNat) {p : NearAt}
    (hp : nearAt s s.cur (bits (rd64 s s.cur a.toNat) 31 0) = some p) (hs : locScratch p.loc = true)
    (al : bits (rd64 s s.cur a.toNat) 31 0 % 16 = 0)
    (inside : (rd64 s s.cur a.toNat).getLsbD 63 = true → addrOutside s s.cur (bits (rd64 s s.cur a.toNat) 49 32) = false) :
    planMsend ls d a b s = { dests := destOf d.toNat, mark := ls.s, point := true, irrev := true
                             stages := [sendNear s.cur p.loc (bits (rd64 s s.cur a.toNat) 31 0)
                               (.msend (rd s s.cur b.toNat) (if (rd64 s s.cur a.toNat).getLsbD 63 then
                                 some (bits (rd64 s s.cur a.toNat) 49 32) else none)) [d.toNat] true] } := by
  have ok : ∀ x ∈ [fw d, fr a, fr b], FieldOk s x := by simp [hd, pa, pb]
  have outside : ((rd64 s s.cur a.toNat).getLsbD 63 && addrOutside s s.cur (bits (rd64 s s.cur a.toNat) 49 32)) = false := by
    cases sig : (rd64 s s.cur a.toNat).getLsbD 63
    · rfl
    · rw [inside sig]; rfl
  simp only [planMsend, hp, hs, regPlan_fields h _ ok, longDest_window hw, alignTrap, al, outside, cPlan, Plan.noGuess, ng,
    Plan.ownIf, Plan.own, Plan.does, List.nil_append, List.flatMap_cons, List.flatMap_nil, dests_fr, dests_fw, Option.none_or,
    Bool.false_eq_true, if_false, if_true, Bool.not_true, List.append_nil]

theorem latchWords : Says.LatchWords := by
  intro s ls d a b h hd pa pb
  have hc := h.clear
  refine ⟨fun set => ?_, fun clear => ?_, fun det ng => ?_, fun ng lead => ?_⟩
  · have e := planEvWait_eq s ls
    rw [if_pos set] at e
    exact fireC_moves hc e rfl (hc.fit_taken.latch false) rfl
  · have e := planEvWait_eq s ls
    rw [if_neg (by rw [clear]; nofun)] at e
    exact sleeps_quiet (P := planEvWait ls) hc rfl e
  · have e := planEvWaitt_eq hc det ng ls hd pa
    refine ⟨fun set => ?_, fun clear zero => ?_, fun clear nz => ?_⟩
    · have q := exec_evWaitt hc det ng ls hd pa (by rw [set]; rfl)
      rwa [set] at q
    · have q := exec_evWaitt hc det ng ls hd pa (by rw [clear, zero]; rfl)
      rwa [clear] at q
    · rw [if_neg (by simpa [clear] using nz)] at e
      have q := sleeps_quiet (i := .evWaitt ls d a) (P := planEvWaitt ls d a) hc rfl e
      exact q
  · intro v target
    have e := planEvSignal_eq hc ng ls pa
    rw [slotAddr_eq_bits] at e
    refine ⟨fun inside => ?_, fun outside hv => ?_, fun p hw hp hs al inside => ?_⟩
    · rw [if_neg (ne_true_of_eq_false inside)] at e
      exact point_quiet (P := planEvSignal ls a) h rfl e (irrevocable_leads lead)
    · rw [if_pos outside] at e
      exact fireC_raises_third (P := planEvSignal ls a) hv (by rw [e]) (by rw [e]) (by rw [e]) (by rw [e]; rfl) nofun
    · exact point_quiet (P := planMsend ls d a b) h rfl (planMsend_eq hc ng ls hd hw pa pb hp hs al inside)
        (irrevocable_leads lead)

/-! ## Nest counters -/

theorem planNest_eq {s : State} (h : Clear s) (ls : LS) (n : BitVec 2) {a b : BitVec 7} (pa : Plain s a.toNat)
    (pb : Plain s b.toNat) (h0 : bits (rd64 s s.cur a.toNat) 20 0 ≠ 0)
    (h2 : bits (rd64 s s.cur a.toNat) 62 42 ≠ 0 → bits (rd64 s s.cur a.toNat) 41 21 ≠ 0)
    (h63 : (rd64 s s.cur a.toNat).getLsbD 63 = false) (h1 : 1 ≤ (rd64 s s.cur b.toNat).toNat)
    (h256 : (rd64 s s.cur b.toNat).toNat ≤ 256) : planNest ls n a b s =
      { mark := ls.s
        stages := [eff [onChunk s.cur (fun c => { c with nests := c.nests ++ [⟨n.toNat, bits (rd64 s s.cur a.toNat) 20 0,
          bits (rd64 s s.cur a.toNat) 41 21, bits (rd64 s s.cur a.toNat) 62 42, (rd64 s s.cur b.toNat).toNat⟩] })]] } := by
  have ok : ∀ x ∈ [fr a, fr b], FieldOk s x := by simp [pa, pb]
  have good : ¬(bits (rd64 s s.cur a.toNat) 20 0 = 0 ∨
      (bits (rd64 s s.cur a.toNat) 62 42 ≠ 0 ∧ bits (rd64 s s.cur a.toNat) 41 21 = 0) ∨
      (rd64 s s.cur a.toNat).getLsbD 63 = true ∨ (rd64 s s.cur b.toNat).toNat = 0 ∨
      256 < (rd64 s s.cur b.toNat).toNat) := by
    rw [h63]
    rintro (e | ⟨e2, e1⟩ | e | e | e)
    · exact h0 e
    · exact h2 e2 e1
    · cases e
    · omega
    · omega
  simp only [planNest, regPlan_fields h _ ok, if_neg good, cPlan, Plan.own, Plan.does, List.nil_append,
    List.flatMap_cons, List.flatMap_nil, dests_fr, Option.none_or, Bool.not_true]

/-- What NEXT claims from a counter (R252). -/
theorem newClaim_eq (n : Nat) (x : Nest) : newClaim n x =
    { n := n
      u := if (x.opened && x.remaining != 0) = true then x.next else 0
      c := if (x.opened && x.remaining != 0) = true then (x.remaining + 2 * x.p - 1) / (2 * x.p) else 0
      e0 := (if x.opened = true then (x.e0, x.e1, x.e2) else (0, 0, 0)).1
      e1 := (if x.opened = true then (x.e0, x.e1, x.e2) else (0, 0, 0)).2.1
      e2 := (if x.opened = true then (x.e0, x.e1, x.e2) else (0, 0, 0)).2.2 } := by
  unfold newClaim
  cases ho : x.opened
  · simp
  · cases hr : x.remaining != 0 <;> simp

/-- The indices that a claim gives: as many as its counter's depth, and the run's length. -/
theorem claimRegs_eq (c : Claim) : claimRegs c =
    if c.e1 = 0 then [c.u % c.e0, c.c] else if c.e2 = 0 then [c.u % c.e0, c.u / c.e0 % c.e1, c.c]
    else [c.u % c.e0, c.u / c.e0 % c.e1, c.u / (c.e0 * c.e1), c.c] := by
  unfold claimRegs nestDepth
  by_cases h1 : c.e1 = 0
  · simp [h1]
  · by_cases h2 : c.e2 = 0 <;> simp [h1, h2]

theorem length_claimRegs_le (c : Claim) : (claimRegs c).length ≤ 4 := by
  rw [claimRegs_eq]
  split
  · simp
  · split <;> simp

/-- NEXT of a slot that keeps no claim takes a new one. -/
theorem planNext_eq {s : State} (h : Clear s) (sp : speculative s s.cur = false) (nc : (me s).claims = [])
    (nu : (me s).used = 0) (ls : LS) {d : BitVec 7} (hw : ∀ i < 4, InWindow s (d.toNat + i)) (n : BitVec 2) (k : BitVec 3)
    {c : Claim} (hc : newClaim n.toNat (((group? s (me s).kernel (taskOf s s.cur).g).map
      (fun y => tabD y.nests n.toNat {})).getD {}) = c) :
    planNext ls d n k s =
      { dests := upto d.toNat (claimRegs c).length ++ (if k.toNat = 0 then [] else [128 + k.toNat]), mark := ls.s
        stages := [if c.c = 0 then skip else
            eff [onThr s.cur (fun t => { t with claims := t.claims ++ [c], used := t.used + 1 }),
              onGroup (me s).kernel (taskOf s s.cur).g (fun y => { y with nests := tabMod y.nests n.toNat {} (fun z =>
                { z with next := z.next + c.c, remaining := z.remaining - c.c }) })],
          pendIn s.cur (upto d.toNat (claimRegs c).length) (if k = 0 then none else some k.toNat)
            (.value ((claimRegs c).map wd) (some (allBits (c.c != 0))) 0) 96] } := by
  have w : ∀ i < (claimRegs c).length, InWindow s (d.toNat + i) :=
    fun i hi => hw i (Nat.lt_of_lt_of_le hi (length_claimRegs_le c))
  have ok : ∀ x ∈ [outRun d.toNat (claimRegs c).length, outPred k], FieldOk s x := by
    simp [fieldOk_outRun w]
  have long : longDest d = true := longDest_window (hw 0 (by decide)).2.2
  have nc' : (thr s s.cur).claims = [] := nc
  have nu' : (thr s s.cur).used = 0 := nu
  simp only [planNext, nc', nu', hc, long, regPlan_fields h _ ok, Plan.noSpec, sp, List.length_nil, Nat.lt_irrefl,
    decide_false, Bool.false_eq_true, if_false, Bool.not_false, Bool.true_and, show ¬ 16 ≤ 0 from by decide, Bool.and_false,
    cPlan, Plan.ownIf, Plan.own, Plan.does, List.nil_append, List.flatMap_cons, List.flatMap_nil, dests_outRun w,
    dests_outPred, List.append_nil, Option.none_or, Bool.not_true]

theorem nestWords : Says.NestWords := by
  intro s ls d a b n k h pa pb
  constructor
  · intro v p h0 h2 h63 h1 h256 r
    exact acts_quiet (P := planNest ls n a b) h rfl (planNest_eq h ls n pa pb h0 h2 h63 h1 h256)
  · intro sp nc nu hw g x any u m es c vs ds
    have hc : newClaim n.toNat x = c := newClaim_eq n.toNat x
    have hv : claimRegs c = vs := claimRegs_eq c
    have e := planNext_eq h sp nc nu ls hw n k hc
    rw [hv, allBits_eq] at e
    have hk : (if k.toNat = 0 then [] else [128 + k.toNat] : List Nat) = if k = 0 then [] else [128 + k.toNat] :=
      if_congr (BitVec.toNat_inj (y := 0)) rfl rfl
    rw [hk] at e
    exact acts_quiet (P := planNext ls d n k) h rfl e

/-- Settles O17: the latch words by `latchWords`, the nest counters by `nestWords`. -/
theorem latchAndNestWords : Obligations.LatchAndNestWords := ⟨latchWords, nestWords⟩

end Sys2Proof.Machine
end

section
/-!
Proofs: TLBW, TLBI and TLBR (R60, R346 to R348): at firmware privilege on a translation service core each acts as its
plan says; elsewhere each raises PRIV.
-/

namespace Sys2Proof.Machine
open Sys2Proof

/-- Does a firmware thread of a translation service core issue (R60)? -/
def Serves (s : State) : Prop := 2 ^ 18 ≤ s.cur ∧ s.cur < 2 ^ 19 ∧ (me s).arch.priv = .firmware

theorem serves_iff (s : State) :
    (!(decide (2 ^ 18 ≤ s.cur) && decide (s.cur < 2 ^ 19) && (thr s s.cur).arch.priv == .firmware)) = false ↔ Serves s := by
  simp [Serves, and_assoc]

/-- The issue of a word that only a service core takes: its fields, then PRIV, then its own trap. -/
theorem servicePlan_eq {s : State} (h : Clear s) {fs : List Field} (ok : ∀ x ∈ fs, FieldOk s x) (ls : LS)
    (own : Option Trap) (l : List Stage) :
    cPlan ls ((((regPlan s s.cur true fs).service s).own own).does l) =
      { dests := fs.flatMap Field.dests, c3 := own, mark := ls.s, stages := l
        priv := !(decide (2 ^ 18 ≤ s.cur) && decide (s.cur < 2 ^ 19) && (thr s s.cur).arch.priv == .firmware) } := by
  simp only [regPlan_fields h _ ok, cPlan, Plan.service, Plan.own, Plan.does, List.nil_append, Option.none_or, Bool.not_true]

section
variable {s : State} {P : State → Plan} {fs : List Field} {ls : LS} {own : Option Trap} {l : List Stage}
  (ok : ∀ x ∈ fs, FieldOk s x) (e : P s = cPlan ls ((((regPlan s s.cur true fs).service s).own own).does l))
include ok e

theorem service_priv (h : Deliverable s) (n : ¬ Serves s) :
    fireC P s = .next (delivered s (bTrap s s.cur .priv) (me s).arch.pc) := by
  rw [servicePlan_eq h.clear ok] at e
  refine fireC_raises_priv h (by rw [e]) ?_
  rw [e]
  exact Bool.eq_true_of_not_eq_false fun f => n ((serves_iff s).1 f)

variable (v : Serves s)
include v

theorem service_plan (h : Clear s) :
    P s = { dests := fs.flatMap Field.dests, c3 := own, mark := ls.s, stages := l } := by
  rw [e, servicePlan_eq h ok, (serves_iff s).2 v]

theorem service_acts {i : Instr} (h : Clear s) (x : exec i s = fireC P s) (good : own = none) :
    Acts s i { dests := fs.flatMap Field.dests, mark := ls.s, stages := l } := by
  have q := service_plan ok e v h
  rw [good] at q
  exact acts_quiet h x q

theorem service_raises {tr : Trap} (h : Deliverable s) (bad : own = some tr) (ns : tr.code ≠ .soft) :
    fireC P s = .next (delivered s tr (me s).arch.pc) := by
  have q := service_plan ok e v h.clear
  rw [bad] at q
  exact fireC_raises_own h q ns

end

/-! ## TLBW -/

/-- What TLBW does with a pending entry, by its response code (R346). -/
theorem planTlbw_of_miss {s : State} (ls : LS) (a b : BitVec 7) {x : PMiss}
    (m : tabGet (quad s (serviceQuad s.cur)).misses (bits (rd64 s s.cur b.toNat) 21 16) = some x) :
    planTlbw ls a b s = cPlan ls ((((regPlan s s.cur true [fr a, fr b]).service s).ownIf s s.cur
      (tlbwBad (quad s (serviceQuad s.cur)) (rd s s.cur a.toNat) (rd64 s s.cur b.toNat)) .illegal).does
      (match bits (rd64 s s.cur b.toNat) 25 24 with
        | 0 => [writeEntry (quadCore (serviceQuad s.cur) (bits (rd64 s s.cur b.toNat) 1 0)) (bits (rd64 s s.cur b.toNat) 13 8)
            (rd s s.cur a.toNat) false]
        | 1 => [writeEntry (quadCore (serviceQuad s.cur) (bits (rd64 s s.cur b.toNat) 1 0)) (bits (rd64 s s.cur b.toNat) 13 8)
            (rd s s.cur a.toNat) true, answerCore (serviceQuad s.cur) (bits (rd64 s s.cur b.toNat) 21 16)
            (bits (rd64 s s.cur b.toNat) 1 0) x]
        | 2 => [answerFault (serviceQuad s.cur) (bits (rd64 s s.cur b.toNat) 21 16) x .page]
        | _ => [answerFault (serviceQuad s.cur) (bits (rd64 s s.cur b.toNat) 21 16) x .perm])) := by
  simp only [planTlbw, m] <;> rfl

theorem planTlbw_writes {s : State} (ls : LS) (a b : BitVec 7) (r : bits (rd64 s s.cur b.toNat) 25 24 = 0) :
    planTlbw ls a b s = cPlan ls ((((regPlan s s.cur true [fr a, fr b]).service s).ownIf s s.cur
      (tlbwBad (quad s (serviceQuad s.cur)) (rd s s.cur a.toNat) (rd64 s s.cur b.toNat)) .illegal).does
      [writeEntry (quadCore (serviceQuad s.cur) (bits (rd64 s s.cur b.toNat) 1 0)) (bits (rd64 s s.cur b.toNat) 13 8)
        (rd s s.cur a.toNat) false]) := by
  simp only [planTlbw, r]
  cases tabGet (quad s (serviceQuad s.cur)).misses (bits (rd64 s s.cur b.toNat) 21 16) <;> rfl

/-! ## TLBI and TLBR -/

/-- TLBI clears what its scope names, on the cores that it names (R347). -/
def tlbiClears (s : State) (b : BitVec 7) (hit : BitVec 128 → Bool) : List Stage :=
  ((upto 0 4).filter (fun i => (rd64 s s.cur b.toNat).getLsbD i)).map (fun i =>
    clearEntries (quadCore (serviceQuad s.cur) i) (fun _ e => hit e))

/-- What TLBI refuses of a control word (R347) does not hold of one with a scope below 3. -/
theorem not_tlbiBad {c : Dword} (u1 : bits c 63 28 = 0) (u2 : bits c 15 6 = 0) (u3 : bits c 3 0 ≠ 0)
    (sc : bits c 5 4 ≠ 3) :
    ¬(bits c 63 28 ≠ 0 ∨ bits c 15 6 ≠ 0 ∨ bits c 5 4 = 3 ∨ bits c 3 0 = 0) := by
  rintro (e | e | e | e)
  · exact e u1
  · exact e u2
  · exact sc e
  · exact u3 e

/-- What TLBI's control word hits, by its scope (R347). -/
def tlbiHits (c : Dword) (va : Nat) (x : BitVec 128) : Bool :=
  match bits c 5 4 with
  | 0 => entryHas x (bits c 27 16) va
  | 1 => bits x 127 116 == bits c 27 16
  | _ => true

theorem tlbi_acts {s : State} {ls : LS} {a b : BitVec 7} (h : Clear s) (v : Serves s) (pa : Plain s a.toNat)
    (pb : Plain s b.toNat) (u1 : bits (rd64 s s.cur b.toNat) 63 28 = 0) (u2 : bits (rd64 s s.cur b.toNat) 15 6 = 0)
    (u3 : bits (rd64 s s.cur b.toNat) 3 0 ≠ 0) (sc : bits (rd64 s s.cur b.toNat) 5 4 ≠ 3) :
    Acts s (.tlbi ls a b)
      { mark := ls.s
        stages := tlbiClears s b (tlbiHits (rd64 s s.cur b.toNat) (bits (rd s s.cur a.toNat) 54 0)) } := by
  have ok : ∀ x ∈ (if bits (rd64 s s.cur b.toNat) 5 4 = 0 then [fr a] else []) ++ [fr b], FieldOk s x := by
    split <;> simp [pa, pb]
  have q := service_acts (i := .tlbi ls a b) (P := planTlbi ls a b) ok rfl v h rfl (if_neg (not_tlbiBad u1 u2 u3 sc))
  have nd : ((if bits (rd64 s s.cur b.toNat) 5 4 = 0 then [fr a] else []) ++ [fr b]).flatMap Field.dests = [] := by
    split <;> rfl
  rwa [nd] at q

theorem exec_tlbr {s : State} {ls : LS} {d b : BitVec 7} {x : Word} (h : Clear s) (v : Serves s)
    (hd : Dest s d.toNat) (pb : Plain s b.toNat) (e : planTlbr ls d b s =
      cPlan ls ((((regPlan s s.cur true [fw d, fr b]).service s).own none).does [wr s.cur d.toNat x])) :
    exec (.tlbr ls d b) s = .next (finished (put (taken s) d.toNat x) ls.s) :=
  fireC_moves h (service_plan (by simp [hd, pb]) e v h) (wr_put (s := taken s) _ hd.1.1) (h.fit_taken.put _ _) (cur_put _ _ _)

/-- Settles O30: what each word asks of its issue, on a service core and elsewhere. -/
theorem tlbWordsNeedFirmware : Obligations.TlbWordsNeedFirmware := by
  intro s ls d a b h hd pa pb e c q service m writes
  have ok : ∀ x ∈ [fr a, fr b], FieldOk s x := by simp [pa, pb]
  have okr : ∀ x ∈ [fw d, fr b], FieldOk s x := by simp [hd, pb]
  have oki : ∀ x ∈ (if bits c 5 4 = 0 then [fr a] else []) ++ [fr b], FieldOk s x := by
    split <;> simp [pa, pb]
  refine ⟨fun v => ⟨fun good => ⟨fun r => ?_, fun x mx => ⟨fun r => ?_, fun r => ?_, fun r => ?_⟩⟩, fun bad hv => ?_,
    fun u1 u2 some_ => ⟨fun sc => ?_, fun sc => ?_, fun sc => ?_⟩, fun pt u1 u2 => ?_, fun pt u1 u2 u3 => ?_⟩,
    fun n hv => ⟨?_, ?_, ?_⟩⟩
  · exact service_acts ok (planTlbw_writes ls a b r) v h rfl (if_neg (ne_true_of_eq_false good))
  · have p := planTlbw_of_miss ls a b mx
    rw [show bits (rd64 s s.cur b.toNat) 25 24 = 1 from r] at p
    exact service_acts ok p v h rfl (if_neg (ne_true_of_eq_false good))
  · have p := planTlbw_of_miss ls a b mx
    rw [show bits (rd64 s s.cur b.toNat) 25 24 = 2 from r] at p
    exact service_acts ok p v h rfl (if_neg (ne_true_of_eq_false good))
  · have p := planTlbw_of_miss ls a b mx
    rw [show bits (rd64 s s.cur b.toNat) 25 24 = 3 from r] at p
    exact service_acts ok p v h rfl (if_neg (ne_true_of_eq_false good))
  · exact service_raises (P := planTlbw ls a b) ok rfl v hv (if_pos bad) nofun
  · have q := tlbi_acts (ls := ls) h v pa pb u1 u2 some_ (show bits c 5 4 ≠ 3 by rw [sc]; nofun)
    have hits : tlbiHits c (bits e 54 0) = fun x => entryHas x (bits c 27 16) (bits e 54 0) := by
      funext x
      simp only [tlbiHits, sc]
    rwa [hits] at q
  · have q := tlbi_acts (ls := ls) h v pa pb u1 u2 some_ (show bits c 5 4 ≠ 3 by rw [sc]; nofun)
    have hits : tlbiHits c (bits e 54 0) = fun x => bits x 127 116 == bits c 27 16 := by
      funext x
      simp only [tlbiHits, sc]
    rwa [hits] at q
  · have q := tlbi_acts (ls := ls) h v pa pb u1 u2 some_ (show bits c 5 4 ≠ 3 by rw [sc]; nofun)
    have hits : tlbiHits c (bits e 54 0) = fun _ => true := by
      funext x
      simp only [tlbiHits, sc]
    rwa [hits] at q
  · refine exec_tlbr h v hd pb ?_
    have good : ¬(bits (rd64 s s.cur b.toNat) 63 14 ≠ 0 ∨ bits (rd64 s s.cur b.toNat) 7 2 ≠ 0) :=
      not_or.2 ⟨not_not.2 u1, not_not.2 u2⟩
    simp only [planTlbr, show (rd64 s s.cur b.toNat).getLsbD 31 = false from pt, if_neg good, Bool.false_eq_true, if_false]
    rfl
  · refine exec_tlbr h v hd pb ?_
    have good : ¬(bits (rd64 s s.cur b.toNat) 63 32 ≠ 0 ∨ bits (rd64 s s.cur b.toNat) 30 22 ≠ 0 ∨
        bits (rd64 s s.cur b.toNat) 15 0 ≠ 0) :=
      not_or.2 ⟨not_not.2 u1, not_or.2 ⟨not_not.2 u2, not_not.2 u3⟩⟩
    simp only [planTlbr, show (rd64 s s.cur b.toNat).getLsbD 31 = true from pt, if_true, if_neg good]
    rfl
  · exact service_priv (P := planTlbw ls a b) ok rfl hv n
  · exact service_priv (P := planTlbi ls a b) oki rfl hv n
  · exact service_priv (P := planTlbr ls d b) okr rfl hv n

end Sys2Proof.Machine
end

section
/-!
Proofs: near loads and stores (R137, R140, R152, R153) in a slot that has nothing else under way.
-/

namespace Sys2Proof.Machine
open Sys2Proof

/-! ## Operands -/

theorem alignTrap_aligned {ea n : Nat} (h : ea % n = 0) : alignTrap ea n = none := if_pos h
theorem alignTrap_misaligned {ea n : Nat} (h : ea % n ≠ 0) : alignTrap ea n = some (nTrap .align ea) := if_neg h

/-- A near address that is refused raises NEAR-RANGE (R137). -/
theorem nearOperand_error_code {s : State} {slot : Nat} {v : Dword} {ob : Int} {tr : Trap}
    (h : nearOperand s slot v ob = .error tr) : tr.code = .nearRange := by
  unfold nearOperand at h
  dsimp only at h
  split at h
  · cases h; rfl
  · split at h
    · cases h; rfl
    · split at h
      · cases h; rfl
      · cases h

theorem boundDest_plain {s : State} {d : BitVec 7} (h : Plain s d.toNat) (p : Plan) : p.boundDest s d = p := by
  simp [Plan.boundDest, h.1]

/-- A remote access may only have a window register as its destination (R105). -/
theorem farDest_near {s : State} {d : BitVec 7} {remote : Bool} (h : remote = true → d.toNat < 112) (p : Plan) :
    p.farDest s d remote = p := by
  have no : (remote && fieldHearth d) = false := by
    cases remote
    · rfl
    · simpa [fieldHearth] using h rfl
  simp only [Plan.farDest, Plan.ownIf, Plan.own, no, Bool.false_eq_true, if_false, Option.or_none]

/-! ## Loads -/

section Load

variable {s : State} {m : Bool} {d b : BitVec 7} {sz : BitVec 3} {ob : Int} {ea : Nat} {p : NearAt} (h : Clear s)
  (hd : Dest s d.toNat) (pb : Plain s b.toNat)
include h hd pb

/-- What a near load asks of its issue at a place of the own TCM or quad. -/
theorem nearLoadPlan_here (o : nearOperand s s.cur (rd64 s s.cur b.toNat) ob = .ok (ea, p)) (near : p.remote = false) :
    nearLoadPlan s m d b sz ob =
      { dests := destOf d.toNat, mark := m, near := [(p.loc, sizeBytes sz.toNat)]
        c3 := (alignTrap ea (sizeBytes sz.toNat)).or (raceTrap s s.cur p.loc ea (sizeBytes sz.toNat) false)
        poison := (nearPoison s p.loc (sizeBytes sz.toNat)).map (fun c => (c, BitVec.ofNat 64 ea))
        stages := [raceMark s.cur p.loc (sizeBytes sz.toNat) false, nearRead p.loc (sizeBytes sz.toNat),
          wr s.cur d.toNat (loadValue sz.toNat (lookBytes s p.loc (sizeBytes sz.toNat)))] } := by
  have ok : ∀ x ∈ [fw d, fr b], FieldOk s x := by simp [hd, pb]
  simp only [nearLoadPlan, o, near, regPlan_fields h _ ok, boundDest_plain hd.1, farDest_near, Plan.own, Plan.at, Plan.does,
    List.nil_append, List.flatMap_cons, List.flatMap_nil, dests_fw, dests_fr, List.append_nil, Option.none_or, Bool.not_true,
    Bool.false_eq_true, if_false, false_implies]

/-- What a near load asks of its issue at a place of another quad. -/
theorem nearLoadPlan_remote (o : nearOperand s s.cur (rd64 s s.cur b.toNat) ob = .ok (ea, p)) (far : p.remote = true)
    (hw : d.toNat < 112) : nearLoadPlan s m d b sz ob =
      { dests := destOf d.toNat, mark := m
        c3 := (alignTrap ea (sizeBytes sz.toNat)).or (raceTrap s s.cur p.loc ea (sizeBytes sz.toNat) false)
        stages := [raceMark s.cur p.loc (sizeBytes sz.toNat) false, sendNear s.cur p.loc ea (.load sz) [d.toNat] true] } := by
  have ok : ∀ x ∈ [fw d, fr b], FieldOk s x := by simp [hd, pb]
  simp only [nearLoadPlan, o, far, regPlan_fields h _ ok, boundDest_plain hd.1, farDest_near (fun _ => hw), Plan.own,
    Plan.does, List.nil_append, List.flatMap_cons, List.flatMap_nil, dests_fw, dests_fr, List.append_nil, Option.none_or,
    Bool.not_true, if_true]

theorem nearLoadPlan_refused {tr : Trap} (o : nearOperand s s.cur (rd64 s s.cur b.toNat) ob = .error tr) :
    nearLoadPlan s m d b sz ob = { dests := destOf d.toNat, mark := m, c3 := some tr } := by
  have ok : ∀ x ∈ [fw d, fr b], FieldOk s x := by simp [hd, pb]
  simp only [nearLoadPlan, o, regPlan_fields h _ ok, boundDest_plain hd.1, Plan.own,
    List.flatMap_cons, List.flatMap_nil, dests_fw, dests_fr, List.append_nil, Option.none_or, Bool.not_true]

end Load

/-- LD.N in either form (R152), by what its plan is. -/
theorem nearLoad {i : Instr} {m : Bool} {d b : BitVec 7} {sz : BitVec 3} {ob : Int}
    (e : ∀ s, exec i s = fireC (fun s => nearLoadPlan s m d b sz ob) s) : Says.NearLoad i m d b sz ob := by
  intro s ea p h hd pb o n
  refine ⟨fun al race => ⟨fun near clean => ?_, fun far hw => ?_⟩, fun hv mis far => ?_⟩
  · have q := nearLoadPlan_here (m := m) (sz := sz) h hd pb o near
    rw [alignTrap_aligned al, race, clean] at q
    exact acts_near [(p.loc, n)] (acts_of_issues h (e s) q ⟨rfl, rfl, rfl, rfl, rfl, rfl, rfl, rfl, rfl, rfl, rfl, rfl⟩)
  · have q := nearLoadPlan_remote (m := m) (sz := sz) h hd pb o far hw
    rw [alignTrap_aligned al, race] at q
    exact acts_quiet h (e s) q
  · rw [Raises, e]
    cases near : p.remote with
    | false =>
      have q := nearLoadPlan_here (m := m) (sz := sz) h hd pb o near
      rw [alignTrap_misaligned mis] at q
      exact fireC_raises_third hv (by rw [q]) (by rw [q]) (by rw [q]) (by rw [q]; rfl) nofun
    | true =>
      have q := nearLoadPlan_remote (m := m) (sz := sz) h hd pb o near (far near)
      rw [alignTrap_misaligned mis] at q
      exact fireC_raises_third hv (by rw [q]) (by rw [q]) (by rw [q]) (by rw [q]; rfl) nofun

theorem nearLoad_refused {i : Instr} {m : Bool} {d b : BitVec 7} {sz : BitVec 3} {ob : Int}
    (e : ∀ s, exec i s = fireC (fun s => nearLoadPlan s m d b sz ob) s) : Says.NearRefused i d b ob := by
  intro s tr hv hd pb o
  have q := nearLoadPlan_refused (m := m) (sz := sz) hv.clear hd pb o
  rw [Raises, e]
  exact fireC_raises_own hv q (by rw [nearOperand_error_code o]; nofun)

/-- Settles O8: both forms of LD.N by their plan. -/
theorem nearLoadsReadTheirBytes : Obligations.NearLoadsReadTheirBytes :=
  fun _ _ _ _ => ⟨fun _ => nearLoad fun _ => rfl, fun _ => nearLoad fun _ => rfl⟩

/-! ## Stores -/

section Store

variable {s : State} {m : Bool} {v b : BitVec 7} {sz : BitVec 3} {ob : Int} {ea : Nat} {p : NearAt} (h : Clear s)
  (pv : Plain s v.toNat) (pb : Plain s b.toNat)
include h pv pb

/-- What a near store asks of its issue, where a speculative iteration may store (R151). -/
theorem nearStorePlan_eq (o : nearOperand s s.cur (rd64 s s.cur b.toNat) ob = .ok (ea, p))
    (own : speculative s s.cur = true → locScratch p.loc = false) : nearStorePlan s m v b sz ob =
      { mark := m, point := true, near := if p.remote = true then [] else [(p.loc, sizeBytes sz.toNat)]
        c3 := (alignTrap ea (sizeBytes sz.toNat)).or (raceTrap s s.cur p.loc ea (sizeBytes sz.toNat) true)
        stages := [raceMark s.cur p.loc (sizeBytes sz.toNat) true,
          if p.remote then sendNear s.cur p.loc ea (.store (bytesOf (sizeBytes sz.toNat) (rd s s.cur v.toNat).toNat)) [] false
          else seqS [nearRead p.loc (sizeBytes sz.toNat),
            fun t => storeMarked t p.loc (bytesOf (sizeBytes sz.toNat) (rd s s.cur v.toNat).toNat)]] } := by
  have ok : ∀ x ∈ [fr v, fr b], FieldOk s x := by simp [pv, pb]
  have free : (locScratch p.loc && speculative s s.cur) = false := by
    cases sp : speculative s s.cur
    · exact Bool.and_false _
    · rw [own sp]; rfl
  cases near : p.remote <;>
    simp only [nearStorePlan, o, near, free, regPlan_fields h _ ok, Plan.ownIf, Plan.own, Plan.at, Plan.does, List.nil_append,
      List.flatMap_cons, List.flatMap_nil, dests_fr, List.append_nil, Option.none_or, Bool.not_true, Bool.false_eq_true,
      if_false, if_true]

theorem nearStorePlan_refused {tr : Trap} (o : nearOperand s s.cur (rd64 s s.cur b.toNat) ob = .error tr) :
    nearStorePlan s m v b sz ob = { mark := m, point := true, c3 := some tr } := by
  have ok : ∀ x ∈ [fr v, fr b], FieldOk s x := by simp [pv, pb]
  simp only [nearStorePlan, o, regPlan_fields h _ ok, Plan.own, List.flatMap_cons, List.flatMap_nil, dests_fr,
    List.append_nil, Option.none_or, Bool.not_true]

end Store

/-- ST.N in either form (R153), by what its plan is. -/
theorem nearStore {i : Instr} {m : Bool} {v b : BitVec 7} {sz : BitVec 3} {ob : Int}
    (e : ∀ s, exec i s = fireC (fun s => nearStorePlan s m v b sz ob) s) : Says.NearStore i m v b sz ob := by
  intro s ea p h pv pb o n bs own
  have q := nearStorePlan_eq (m := m) (sz := sz) h.clear pv pb o own
  refine ⟨fun al race => ?_, fun hv mis => ?_⟩
  · rw [alignTrap_aligned al, race] at q
    exact pointActs_near _ (point_of_issues h (e s) q ⟨rfl, rfl, rfl, rfl, rfl, rfl, rfl, rfl, rfl, rfl, rfl, rfl⟩)
  · rw [alignTrap_misaligned mis] at q
    rw [Raises, e]
    exact fireC_raises_third hv (by rw [q]) (by rw [q]) (by rw [q]) (by rw [q]; rfl) nofun

theorem nearStore_refused {i : Instr} {m : Bool} {v b : BitVec 7} {sz : BitVec 3} {ob : Int}
    (e : ∀ s, exec i s = fireC (fun s => nearStorePlan s m v b sz ob) s) : Says.NearRefused i v b ob := by
  intro s tr hv hd pb o
  have q := nearStorePlan_refused (m := m) (sz := sz) hv.clear hd.1 pb o
  rw [Raises, e]
  exact fireC_raises_third hv (by rw [q]) (by rw [q]) (by rw [q]) (by rw [q]; rfl) (by rw [nearOperand_error_code o]; nofun)

/-- Settles O9: both forms of ST.N by their plan, and what a refused near address raises. -/
theorem nearStoresAreChunkPoints : Obligations.NearStoresAreChunkPoints :=
  fun _ _ _ _ => ⟨
    fun _ => ⟨nearStore fun _ => rfl, nearStore_refused fun _ => rfl, nearLoad_refused fun _ => rfl⟩,
    fun _ => ⟨nearStore fun _ => rfl, nearStore_refused fun _ => rfl, nearLoad_refused fun _ => rfl⟩⟩

end Sys2Proof.Machine
end

section
/-!
Proofs: global loads and stores and RED.G (R146, R149, R152, R153, R158, R343) in a slot that has nothing else under way.
-/

namespace Sys2Proof.Machine
open Sys2Proof

/-! ## Addresses and translations -/

theorem globalOperand_error_code {v : Dword} {ob : Int} {tr : Trap} (h : globalOperand v ob = .error tr) :
    tr.code = .page := by
  unfold globalOperand at h
  dsimp only at h
  split at h
  · cases h; rfl
  · cases h

theorem translate_trap_code {s : State} {slot va : Nat} {acc : Acc} {tr : Trap} (h : translate s slot va acc = .trap tr) :
    tr.code = .perm := by
  unfold translate at h
  split at h
  · cases h
  · split at h
    · cases h
    · cases h; rfl

section
variable {s : State} {slot : Nat} {p : Plan} {ea n : Nat} {a : Acc} {f : Plan → Nat → Plan}

theorem globalAt_hit {loc : Nat} {e : BitVec 128} (t : translate s slot ea a = .hit loc e) :
    globalAt s slot p ea n a f = f (p.own (alignTrap ea n)) loc := by simp only [globalAt, t]

theorem globalAt_trap {tr : Trap} (t : translate s slot ea a = .trap tr) :
    globalAt s slot p ea n a f = (p.own (alignTrap ea n)).own (some tr) := by simp only [globalAt, t]

theorem globalAt_miss {va : Nat} {k : Acc} (t : translate s slot ea a = .miss va k) :
    globalAt s slot p ea n a f = { p.own (alignTrap ea n) with miss := p.miss.or (some (va, k)) } := by
  simp only [globalAt, t, Plan.own]

end

/-- A C-word whose translation misses sends the miss, and has no effect yet (R57, R344). -/
theorem fireC_misses {s : State} {P : State → Plan} {ds : List Nat} {m : Bool} {va : Nat} {k : Acc} (h : Clear s)
    (e : P s = { dests := ds, mark := m, miss := some (va, k) }) :
    fireC P s = .next (run [sendMiss s.cur va k] (taken s)) := by
  rw [fireC, if_pos h.held, e]
  congr 1
  simp only [issue, firstTrap, clash_idle]
  rfl

/-! ## Loads -/

section Load

variable {s : State} {m tracked : Bool} {d b : BitVec 7} {sz : BitVec 3} {ob : Int} (h : Clear s)
  (hd : Dest s d.toNat) (hw : d.toNat < 112) (pb : Plain s b.toNat)
include h hd hw pb

theorem globalLoadPlan_ok {ea : Nat} (o : globalOperand (rd64 s s.cur b.toNat) ob = .ok ea) :
    globalLoadPlan s m tracked d b sz ob =
      globalAt s s.cur { dests := destOf d.toNat, mark := m } ea (sizeBytes sz.toNat) .read (fun p loc =>
        ({ (p.own (regionLoadTrap ea (relOf s s.cur ea))).ownIf s s.cur
            ((tracked && tracks s s.cur (relOf s s.cur ea)) && reducedHere (me s).chunk loc (sizeBytes sz.toNat)) .illegal with
          sleep := regionWait s ea (relOf s s.cur ea) } : Plan).does
        [if tracked && tracks s s.cur (relOf s s.cur ea) then
            eff [onChunk s.cur (fun c => c.addRead loc (sizeBytes sz.toNat) (ea / 65536))] else skip,
          loadIn s.cur d.toNat loc sz (seenBytes s s.cur ea loc (sizeBytes sz.toNat)) ea
            (tracked && tracks s s.cur (relOf s s.cur ea))]) := by
  have ok : ∀ x ∈ [fw d, fr b], FieldOk s x := by simp [hd, pb]
  simp only [globalLoadPlan, o, longDest_window hw, regPlan_fields h _ ok, boundDest_plain hd.1, List.flatMap_cons,
    List.flatMap_nil, dests_fw, dests_fr, List.append_nil, Bool.not_true]

theorem globalLoadPlan_refused {tr : Trap} (o : globalOperand (rd64 s s.cur b.toNat) ob = .error tr) :
    globalLoadPlan s m tracked d b sz ob = { dests := destOf d.toNat, mark := m, c3 := some tr } := by
  have ok : ∀ x ∈ [fw d, fr b], FieldOk s x := by simp [hd, pb]
  simp only [globalLoadPlan, o, longDest_window hw, regPlan_fields h _ ok, boundDest_plain hd.1, List.flatMap_cons,
    List.flatMap_nil, dests_fw, dests_fr, List.append_nil, Bool.not_true, Plan.own, Option.none_or]

end Load

section
variable {i : Instr} {m tracked : Bool} {d b : BitVec 7} {sz : BitVec 3} {ob : Int}
  (e : ∀ s, exec i s = fireC (fun s => globalLoadPlan s m tracked d b sz ob) s)
include e

/-- A global load in either form (R149, R152), by what its plan is. -/
theorem globalLoad : Says.GlobalLoad tracked i m d b sz ob := by
  intro s ea loc te h hd hw pb o t n r sees
  have q := globalLoadPlan_ok (m := m) (tracked := tracked) (sz := sz) h hd hw pb o
  rw [globalAt_hit t] at q
  refine ⟨fun al region noWait clean => ?_, fun hv mis => ?_⟩
  · have red : (sees && reducedHere (me s).chunk loc n) = false := by
      cases hs : sees
      · rfl
      · simpa using clean hs
    simp only [alignTrap_aligned (n := sizeBytes sz.toNat) al, show regionLoadTrap ea (relOf s s.cur ea) = none from region,
      show regionWait s ea (relOf s s.cur ea) = none from noWait,
      show (tracked && tracks s s.cur (relOf s s.cur ea) && reducedHere (me s).chunk loc (sizeBytes sz.toNat)) = false from red,
      Plan.own, Plan.ownIf, Plan.does, Option.none_or, Bool.false_eq_true, if_false, List.nil_append] at q
    exact acts_quiet h (e s) q
  · simp only [alignTrap_misaligned (n := sizeBytes sz.toNat) mis, Plan.own, Plan.ownIf, Plan.does, Option.none_or, Option.some_or] at q
    rw [Raises, e]
    exact fireC_raises_third hv (by rw [q]) (by rw [q]) (by rw [q]) (by rw [q]; rfl) nofun

theorem globalLoad_refused : Says.GlobalRefused i (fun _ => True) d b ob (sizeBytes sz.toNat) (fun _ _ => .read) := by
  intro s h _ hd hw pb
  refine ⟨fun tr hv o => ?_, fun ea o al => ⟨fun tr hv t => ?_, fun t => ?_⟩⟩
  · have q := globalLoadPlan_refused (m := m) (tracked := tracked) (sz := sz) h hd hw pb o
    rw [Raises, e]
    exact fireC_raises_own hv q (by rw [globalOperand_error_code o]; nofun)
  · have q := globalLoadPlan_ok (m := m) (tracked := tracked) (sz := sz) h hd hw pb o
    rw [globalAt_trap t, alignTrap_aligned al] at q
    rw [Raises, e]
    exact fireC_raises_own hv q (by rw [translate_trap_code t]; nofun)
  · have q := globalLoadPlan_ok (m := m) (tracked := tracked) (sz := sz) h hd hw pb o
    rw [globalAt_miss t, alignTrap_aligned al] at q
    rw [e]
    exact fireC_misses h q

end

/-- Settles O10: the four forms by their plan. -/
theorem globalLoadsPendUntilServed : Obligations.GlobalLoadsPendUntilServed :=
  fun _ _ _ _ => ⟨
    fun _ => ⟨globalLoad fun _ => rfl, globalLoad fun _ => rfl, globalLoad_refused (m := _) (tracked := true) fun _ => rfl⟩,
    fun _ => ⟨globalLoad fun _ => rfl, globalLoad fun _ => rfl, globalLoad_refused (m := _) (tracked := false) fun _ => rfl⟩⟩

/-! ## Stores -/

section Store

variable {s : State} {m : Bool} {v b : BitVec 7} {sz : BitVec 3} {ob : Int} (h : Clear s)
  (ng : guessing s s.cur = false) (pv : Plain s v.toNat) (pb : Plain s b.toNat)
include h ng pv pb

theorem globalStorePlan_ok {ea : Nat} (o : globalOperand (rd64 s s.cur b.toNat) ob = .ok ea) :
    globalStorePlan s m v b sz ob =
      globalAt s s.cur { mark := m } ea (sizeBytes sz.toNat) (if relOf s s.cur ea = .mine then .append else .write)
        (fun p loc => (p.own (regionStoreTrap s s.cur ea (relOf s s.cur ea))).does
          [if relOf s s.cur ea = .mine then
              appendStore s.cur loc ea (bytesOf (sizeBytes sz.toNat) (rd s s.cur v.toNat).toNat)
            else eff [onChunk s.cur (fun c =>
              c.addStore loc (bytesOf (sizeBytes sz.toNat) (rd s s.cur v.toNat).toNat) (ea / 65536))]]) := by
  have ok : ∀ x ∈ [fr v, fr b], FieldOk s x := by simp [pv, pb]
  simp only [globalStorePlan, o, regPlan_fields h _ ok, Plan.noGuess, Plan.ownIf, Plan.own, ng, List.flatMap_cons,
    List.flatMap_nil, dests_fr, List.append_nil, Bool.not_true, Bool.false_eq_true, if_false, Option.none_or]

theorem globalStorePlan_refused {tr : Trap} (o : globalOperand (rd64 s s.cur b.toNat) ob = .error tr) :
    globalStorePlan s m v b sz ob = { mark := m, c3 := some tr } := by
  have ok : ∀ x ∈ [fr v, fr b], FieldOk s x := by simp [pv, pb]
  simp only [globalStorePlan, o, regPlan_fields h _ ok, Plan.noGuess, Plan.ownIf, Plan.own, ng, List.flatMap_cons,
    List.flatMap_nil, dests_fr, List.append_nil, Bool.not_true, Bool.false_eq_true, if_false, Option.none_or]

end Store

section
variable {i : Instr} {m : Bool} {v b : BitVec 7} {sz : BitVec 3} {ob : Int}
  (e : ∀ s, exec i s = fireC (fun s => globalStorePlan s m v b sz ob) s)
include e

/-- A global store in either form (R153), by what its plan is. -/
theorem globalStore : Says.GlobalStore i m v b sz ob := by
  intro s ea loc te h ng pv pb o r n bs t
  have q := globalStorePlan_ok (m := m) (sz := sz) h ng pv pb o
  rw [globalAt_hit t] at q
  refine ⟨fun al region => ?_, fun hv mis => ?_⟩
  · simp only [alignTrap_aligned (n := sizeBytes sz.toNat) al, show regionStoreTrap s s.cur ea (relOf s s.cur ea) = none from region,
      Plan.own, Plan.does, Option.none_or, List.nil_append] at q
    exact acts_quiet h (e s) q
  · simp only [alignTrap_misaligned (n := sizeBytes sz.toNat) mis, Plan.own, Plan.does, Option.none_or, Option.some_or] at q
    rw [Raises, e]
    exact fireC_raises_third hv (by rw [q]) (by rw [q]) (by rw [q]) (by rw [q]; rfl) nofun

theorem globalStore_refused : Says.GlobalRefused i (fun s => guessing s s.cur = false) v b ob (sizeBytes sz.toNat)
    (fun s ea => if relOf s s.cur ea = .mine then .append else .write) := by
  intro s h ng hd _ pb
  refine ⟨fun tr hv o => ?_, fun ea o al => ⟨fun tr hv t => ?_, fun t => ?_⟩⟩
  · have q := globalStorePlan_refused (m := m) (sz := sz) h ng hd.1 pb o
    rw [Raises, e]
    exact fireC_raises_own hv q (by rw [globalOperand_error_code o]; nofun)
  · have q := globalStorePlan_ok (m := m) (sz := sz) h ng hd.1 pb o
    rw [globalAt_trap t, alignTrap_aligned al] at q
    rw [Raises, e]
    exact fireC_raises_own hv q (by rw [translate_trap_code t]; nofun)
  · have q := globalStorePlan_ok (m := m) (sz := sz) h ng hd.1 pb o
    rw [globalAt_miss t, alignTrap_aligned al] at q
    rw [e]
    exact fireC_misses h q

end

/-- RED.G buffers its operation, where its word lies in no region (R158). -/
theorem redG_acts {s : State} (h : Clear s) (ng : guessing s s.cur = false) (ls : LS) {a b : BitVec 7} {op : BitVec 3}
    (pa : Plain s a.toNat) (pb : Plain s b.toNat) (hop : op.toNat ≤ 5) {ea loc : Nat} {e : BitVec 128}
    (o : globalOperand (rd64 s s.cur a.toNat) 0 = .ok ea) (t : translate s s.cur ea .write = .hit loc e) (al : ea % 8 = 0)
    (nl : loopRegion s s.cur ea = none) (nk : kvRegion s s.cur ea = none) :
    Acts s (.redG ls a b op) { mark := ls.s, stages := [
      eff [onChunk s.cur (fun c => c.addRed loc op.toNat (rd64 s s.cur b.toNat) (ea / 65536))]] } := by
  have ok : ∀ x ∈ [fr a, fr b], FieldOk s x := by simp [pa, pb]
  have wf : (Instr.redG ls a b op).wf = true := decide_eq_true hop
  refine acts_quiet (P := planRedG ls a b op) h rfl ?_
  simp only [planRedG, wf, o, globalAt_hit t, alignTrap_aligned al, nl, nk, regPlan_fields h _ ok, cPlan, Plan.noGuess,
    Plan.ownIf, Plan.own, Plan.does, ng, List.flatMap_cons, List.flatMap_nil, dests_fr, List.append_nil, List.nil_append,
    Bool.not_true, Bool.false_eq_true, if_false, Option.none_or, Option.isSome_none, Bool.or_self, Bool.false_and]

/-- Settles O11: both forms of ST.G by their plan, RED.G by `redG_acts`; text is no place to store. -/
theorem globalStoresAreBuffered : Obligations.GlobalStoresAreBuffered := by
  refine fun m v b sz => ⟨fun _ => ⟨globalStore fun _ => rfl, globalStore_refused (m := m) fun _ => rfl⟩,
    fun _ => globalStore fun _ => rfl, ?_, ?_⟩
  · intro s ls op ea loc e h ng pv pb hop o t al nl nk
    exact redG_acts h ng ls pv pb hop o t al nl nk
  · intro s ea e f t
    simp only [translate, f, t, Bool.not_true, Bool.and_false, Bool.false_eq_true, if_false]

end Sys2Proof.Machine
end

section
/-!
Proofs: LDTR (R209) and the atomics (R157, R159) in a slot that has nothing else under way.
-/

namespace Sys2Proof.Machine
open Sys2Proof

/-! ## Plans that access own near memory -/

/-- A C-word acts as its plan says, where the plan asks for nothing but its effect and the banks of its accesses. -/
theorem acts_quiet_near {s : State} {i : Instr} {P : State → Plan} {ds : List Nat} {l : List Stage} {m : Bool}
    {near : List (Nat × Nat)} (h : Clear s) (e : exec i s = fireC P s)
    (r : P s = { dests := ds, stages := l, mark := m, near := near }) :
    Acts s i { dests := ds, stages := l, mark := m } :=
  acts_near near (acts_of_issues h e r ⟨rfl, rfl, rfl, rfl, rfl, rfl, rfl, rfl, rfl, rfl, rfl, rfl⟩)

theorem point_quiet_near {s : State} {i : Instr} {P : State → Plan} {ds : List Nat} {l : List Stage} {m : Bool}
    {near : List (Nat × Nat)} (h : AtPoint s) (e : exec i s = fireC P s)
    (r : P s = { dests := ds, stages := l, mark := m, near := near, point := true }) :
    PointActs s i { dests := ds, stages := l, mark := m } :=
  pointActs_near near (point_of_issues h e r ⟨rfl, rfl, rfl, rfl, rfl, rfl, rfl, rfl, rfl, rfl, rfl, rfl⟩)

/-! ## LDTR -/

/-- Settles O12: LDTR's plan at a place of the own TCM or quad, and of another quad. -/
theorem ldtrTransposes : Obligations.LdtrTransposes := by
  intro s ls d b sz off ea p e h pb hw o last el al race rows
  have ok : ∀ x ∈ [outRun d.toNat 8, fr b], FieldOk s x := by simp [fieldOk_outRun hw, pb]
  have window : d.toNat < 112 := (hw 0 (by decide)).2.2
  have ends : (e.loc == p.loc + 127) = true := by simp [el]
  refine ⟨fun near clean => ?_, fun far => ?_⟩
  · refine acts_quiet_near (P := planLdtr ls d b sz off) (near := [(p.loc, 128)]) h rfl ?_
    simp only [planLdtr, o, last, ends, near, clean, race, regPlan_fields h _ ok, alignTrap_aligned al,
      farDest_near (fun _ => window), cPlan, Plan.own, Plan.at, Plan.does, List.flatMap_cons, List.flatMap_nil,
      dests_outRun hw, dests_fr, List.append_nil, List.nil_append, Option.none_or, Option.map_none, Bool.not_true,
      Bool.false_eq_true, if_false, if_true]
    rfl
  · refine acts_quiet (P := planLdtr ls d b sz off) h rfl ?_
    simp only [planLdtr, o, last, ends, far, race, regPlan_fields h _ ok, alignTrap_aligned al,
      farDest_near (fun _ => window), cPlan, Plan.own, Plan.does, List.flatMap_cons, List.flatMap_nil,
      dests_outRun hw, dests_fr, List.append_nil, List.nil_append, Option.none_or, Bool.not_true, if_true]

/-! ## Near atomics -/

section
variable {s : State} {ds : List Nat} {d a : BitVec 7} {op ea : Nat} {x cmp : Dword} {p : NearAt}
  (sp : speculative s s.cur = false) (o : nearOperand s s.cur (rd64 s s.cur a.toNat) 0 = .ok (ea, p)) (al : ea % 8 = 0)
  (det : locScratch p.loc = true → determ s s.cur = false)
include sp o al det

/-- What a near atomic asks of its issue at a word of the own TCM or quad: the word changes and X[d] takes the old one. -/
theorem nearAtomPlan_here (near : p.remote = false) (clean : nearPoison s p.loc 8 = none) :
    nearAtomPlan s { dests := ds } d a op x cmp =
      { dests := ds, point := true, near := [(p.loc, 8)]
        stages := [nearRead p.loc 8, (fun t => putWord t p.loc
            (if op = 7 then (if wordAt s p.loc = cmp then x else wordAt s p.loc) else atomOp op (wordAt s p.loc) x)),
          wr s.cur d.toNat ((wordAt s p.loc).setWidth 128)] } := by
  have free : (locScratch p.loc && determ s s.cur) = false := by
    cases c : locScratch p.loc
    · rfl
    · rw [det c]; rfl
  simp only [nearAtomPlan, o, near, clean, free, sp, alignTrap_aligned al, Plan.noSpec, Plan.farDest, Plan.ownIf, Plan.own,
    Plan.at, Plan.does, nearStep, List.nil_append, Option.none_or, Option.map_none, Bool.false_and, Bool.false_eq_true,
    if_false, List.headD_cons, List.cons_append]
  rfl

/-- At a word of another quad it sends a request, with X[d] pending. -/
theorem nearAtomPlan_remote (far : p.remote = true) (hw : d.toNat < 112) :
    nearAtomPlan s { dests := ds } d a op x cmp =
      { dests := ds, point := true, stages := [sendNear s.cur p.loc ea (.atom op x cmp) [d.toNat] true] } := by
  have free : (locScratch p.loc && determ s s.cur) = false := by
    cases c : locScratch p.loc
    · rfl
    · rw [det c]; rfl
  simp only [nearAtomPlan, o, far, free, sp, alignTrap_aligned al, Plan.noSpec, farDest_near (fun _ => hw), Plan.ownIf,
    Plan.own, Plan.does, List.nil_append, Option.none_or, Bool.false_eq_true, if_false, if_true]

end

theorem globalAtomPlan_hit {s : State} {ds : List Nat} {d a : BitVec 7} {op ea loc : Nat} {x cmp : Dword} {e : BitVec 128}
    (sp : speculative s s.cur = false) (det : determ s s.cur = false)
    (o : globalOperand (rd64 s s.cur a.toNat) 0 = .ok ea) (al : ea % 8 = 0)
    (t : translate s s.cur ea .atomic = .hit loc e) : globalAtomPlan s { dests := ds } d a op x cmp =
      { dests := ds, point := true, stages := [sendAtom s.cur d.toNat loc op x cmp (BitVec.ofNat 64 ea)] } := by
  simp only [globalAtomPlan, o, globalAt_hit t, alignTrap_aligned al, sp, det, Plan.noSpec, Plan.noDeterm, Plan.ownIf,
    Plan.own, Plan.does, List.nil_append, Option.none_or, Bool.false_eq_true, if_false]

/-- Settles O13: ATOM and CAS by their plans, near and global. -/
theorem atomicsAreOneStep : Obligations.AtomicsAreOneStep := by
  intro s ls d a b op h sp hd pa pb hop x c
  have hc := h.clear
  have okAtom : regPlan s s.cur (Instr.atomN ls d a b op).wf [fw d, fr a, fr b] = { dests := destOf d.toNat } := by
    rw [regPlan_fields hc _ (by simp [hd, pa, pb]), show (Instr.atomN ls d a b op).wf = true from decide_eq_true hop]
    simp
  have okCas : regPlan s s.cur true [fx d, fr a, fr b] = { dests := destOf d.toNat } := by
    rw [regPlan_fields hc _ (by simp [hd, pa, pb])]
    simp
  have ne : op.toNat ≠ 7 := by omega
  refine ⟨fun ea p o al det => ?_, fun ea loc e o al t det hw => ⟨?_, ?_⟩⟩
  intro w
  refine ⟨fun near clean => ⟨?_, ?_⟩, fun far hw => ⟨?_, ?_⟩⟩
  · refine point_quiet_near (P := planAtomN ls d a b op) (near := [(p.loc, 8)]) h rfl ?_
    rw [planAtomN, okAtom, nearAtomPlan_here sp o al det near clean, if_neg ne]
    rfl
  · refine point_quiet_near (P := planCasN ls d a b) (near := [(p.loc, 8)]) h rfl ?_
    rw [planCasN, okCas, nearAtomPlan_here sp o al det near clean, if_pos rfl]
    rfl
  · refine point_quiet (P := planAtomN ls d a b op) h rfl ?_ rfl
    rw [planAtomN, okAtom, nearAtomPlan_remote sp o al det far hw]
    rfl
  · refine point_quiet (P := planCasN ls d a b) h rfl ?_ rfl
    rw [planCasN, okCas, nearAtomPlan_remote sp o al det far hw]
    rfl
  · have okG : regPlan s s.cur (Instr.atomG ls d a b op).wf [fw d, fr a, fr b] = { dests := destOf d.toNat } := by
      have wf : (Instr.atomG ls d a b op).wf = true := by
        show (longDest d && decide (op.toNat ≤ 6)) = true
        rw [longDest_window hw, decide_eq_true hop]
        rfl
      rw [regPlan_fields hc _ (by simp [hd, pa, pb]), wf]
      simp
    refine point_quiet (P := planAtomG ls d a b op) h rfl ?_ rfl
    rw [planAtomG, okG, globalAtomPlan_hit sp det o al t]
    rfl
  · refine point_quiet (P := planCasG ls d a b) h rfl ?_ rfl
    rw [planCasG, longDest_window hw, okCas, globalAtomPlan_hit sp det o al t]
    rfl

end Sys2Proof.Machine
end

section
/-!
Proofs: full/empty words (R154, R155) and channel words (R223 to R226) at words of the own quad and of another.
-/

namespace Sys2Proof.Machine
open Sys2Proof

/-! ## The plan of a full/empty word -/

/-- What a full/empty word writes: X[d], where it names a destination. -/
def feWrite (s : State) (d : Option (BitVec 7)) (w : Word) : Stage :=
  match d with
  | some d => wr s.cur d.toNat w
  | none => skip

section
variable {s : State} {ds : List Nat} {d : Option (BitVec 7)} {a : BitVec 7} {kind ea : Nat} {v : Dword} {p : NearAt}
  (sp : speculative s s.cur = false) (o : wordOperand s s.cur (rd64 s s.cur a.toNat) = .ok (ea, p)) (al : ea % 8 = 0)
include sp o al

/-- At a word of another quad the word sends a request. -/
theorem fePlan_remote (far : p.remote = true) (hw : ∀ x ∈ d, x.toNat < 112) : fePlan s { dests := ds } d a kind v =
    { dests := ds, point := true
      stages := [sendNear s.cur p.loc ea (.fe kind v) ((d.map (fun x => [x.toNat])).getD []) d.isSome] } := by
  cases d with
  | none =>
    simp only [fePlan, o, far, sp, alignTrap_aligned al, Plan.noSpec, Plan.ownIf, Plan.own, Plan.does, List.nil_append,
      Option.none_or, Bool.true_or, Bool.false_eq_true, if_false, if_true]
  | some d =>
    have w : d.toNat < 112 := hw d rfl
    simp only [fePlan, o, far, sp, alignTrap_aligned al, farDest_near (fun _ => w), Plan.noSpec, Plan.ownIf, Plan.own,
      Plan.does, List.nil_append, Option.none_or, Bool.true_or, Bool.false_eq_true, if_false, if_true]

variable (ng : (me s).grant = none) (near : p.remote = false) (clean : nearPoison s p.loc 8 = none)
include ng near clean

/-- At a word of the own quad it steps, or sleeps in the word's queue. -/
theorem fePlan_here : fePlan s { dests := ds } d a kind v =
    match nearStep s p.loc (.fe kind v) with
    | some (st, vs) => { dests := ds, point := true, near := [(p.loc, 8)], stages := st ++ [feWrite s d (vs.headD 0)] }
    | none => { dests := ds, point := true, near := [(p.loc, 8)], sleep := some (.word p.loc)
                first := [joinQueue { loc := p.loc, kind := kind, slot := s.cur, req := none, value := v, chan := none }] } := by
  have ng' : (thr s s.cur).grant = none := ng
  cases d <;>
    simp only [fePlan, o, near, sp, ng', clean, alignTrap_aligned al, Plan.noSpec, Plan.farDest, Plan.ownIf, Plan.own, Plan.at,
      Plan.does, List.nil_append, Option.none_or, Option.map_none, Bool.false_and, Bool.false_or, Bool.false_eq_true, if_false,
      ite_self] <;>
    rfl

end

/-- A chunk point that waits sleeps, and its chunk stays open. -/
theorem sleeps_point {s : State} {i : Instr} {P : State → Plan} {ds : List Nat} {m : Bool} {near : List (Nat × Nat)}
    {w : Wait} {first : List Stage} (h : AtPoint s) (e : exec i s = fireC P s)
    (r : P s = { dests := ds, mark := m, near := near, point := true, sleep := some w, first := first }) :
    Sleeps s i w first := by
  have q := sleeps_of (i := i) (w := w) h.clear e
    (by rw [r]; exact ⟨rfl, rfl, rfl, rfl, rfl, rfl, rfl, rfl, rfl, rfl, rfl, rfl⟩)
    (fun _ => h.unarbitrated) (by rw [r])
  rwa [r] at q

section
variable {s : State} {i : Instr} {P : State → Plan} {ls : LS} {ds : List Nat} {d : Option (BitVec 7)} {a : BitVec 7}
  {kind ea : Nat} {v : Dword} {p : NearAt} (h : AtPoint s) (e : exec i s = fireC P s)
  (r : P s = cPlan ls (fePlan s { dests := ds } d a kind v)) (sp : speculative s s.cur = false)
  (o : wordOperand s s.cur (rd64 s s.cur a.toNat) = .ok (ea, p)) (al : ea % 8 = 0)
include h e r sp o al

theorem fe_sends (far : p.remote = true) (hw : ∀ x ∈ d, x.toNat < 112) : PointActs s i
    { dests := ds, mark := ls.s
      stages := [sendNear s.cur p.loc ea (.fe kind v) ((d.map (fun x => [x.toNat])).getD []) d.isSome] } := by
  rw [fePlan_remote sp o al far hw] at r
  exact point_quiet h e r rfl

variable (ng : (me s).grant = none) (near : p.remote = false) (clean : nearPoison s p.loc 8 = none)
include ng near clean

theorem fe_acts {l : List Stage} {vs : List Word} (st : nearStep s p.loc (.fe kind v) = some (l, vs)) :
    PointActs s i { dests := ds, mark := ls.s, stages := l ++ [feWrite s d (vs.headD 0)] } := by
  rw [fePlan_here sp o al ng near clean, st] at r
  exact point_quiet_near h e r

theorem fe_sleeps (st : nearStep s p.loc (.fe kind v) = none) : Sleeps s i (.word p.loc)
    [joinQueue { loc := p.loc, kind := kind, slot := s.cur, req := none, value := v, chan := none }] := by
  rw [fePlan_here sp o al ng near clean, st] at r
  exact sleeps_point h e r

end

/-! ## Steps at a word, by its tag (R154) -/

section
variable {s : State} {loc : Nat} (v : Dword)

theorem nearStep_take (h : isFull s loc = true) : nearStep s loc (.fe 0 v) =
    some ([nearRead loc 8, eff [setFull loc false], drain loc], [ext64 (wordAt s loc)]) := if_pos h

theorem nearStep_take_empty (h : isFull s loc = false) : nearStep s loc (.fe 0 v) = none :=
  if_neg (ne_true_of_eq_false h)

theorem nearStep_put (h : isFull s loc = false) : nearStep s loc (.fe 1 v) =
    some ([nearRead loc 8, fun s => putWord s loc v ++ [setFull loc true], drain loc], []) :=
  if_neg (ne_true_of_eq_false h)

theorem nearStep_put_full (h : isFull s loc = true) : nearStep s loc (.fe 1 v) = none := if_pos h

theorem nearStep_peek (h : isFull s loc = true) : nearStep s loc (.fe 2 v) =
    some ([nearRead loc 8], [ext64 (wordAt s loc)]) := if_pos h

theorem nearStep_peek_empty (h : isFull s loc = false) : nearStep s loc (.fe 2 v) = none :=
  if_neg (ne_true_of_eq_false h)

theorem nearStep_feset : nearStep s loc (.fe 3 v) = some ([eff [setFull loc (v.getLsbD 0)], drain loc], []) := rfl

theorem nearStep_feq : nearStep s loc (.fe 4 v) = some ([], [wd (bit (isFull s loc))]) := rfl

end

/-- Settles O14: each word by what a step at its place gives in the tag's state. -/
theorem fullEmptyWordsActOrSleep : Obligations.FullEmptyWordsActOrSleep := by
  intro s ls d a b f ea p h sp ng hd pa pb o al w v q
  have hc := h.clear
  have take : planTake ls d a s = cPlan ls (fePlan s { dests := destOf d.toNat } (some d) a 0 0) := by
    rw [planTake, regPlan_fields hc _ (by simp [hd, pa])]; simp
  have peek : planPeek ls d a s = cPlan ls (fePlan s { dests := destOf d.toNat } (some d) a 2 0) := by
    rw [planPeek, regPlan_fields hc _ (by simp [hd, pa])]; simp
  have feq : planFeq ls d a s = cPlan ls (fePlan s { dests := destOf d.toNat } (some d) a 4 0) := by
    rw [planFeq, regPlan_fields hc _ (by simp [hd, pa])]; simp
  have put : planPut ls a b s = cPlan ls (fePlan s { dests := [] } none a 1 v) := by
    rw [planPut, regPlan_fields hc _ (by simp [pa, pb])]; rfl
  have feset : planFeset ls a f s = cPlan ls (fePlan s { dests := [] } none a 3 (f.setWidth 64)) := by
    rw [planFeset, regPlan_fields hc _ (by simp [pa])]; rfl
  refine ⟨fun near clean => ⟨fun full => ⟨?_, ?_, ?_, ?_⟩, fun empty => ⟨?_, ?_, ?_, ?_⟩, ?_⟩,
    fun far => ⟨?_, ?_, fun hw => ⟨?_, ?_, ?_⟩⟩⟩
  · have q := fe_acts (i := .take ls d a) (P := planTake ls d a) h rfl take sp o al ng near clean (nearStep_take 0 full)
    exact q
  · have q := fe_acts (i := .peek ls d a) (P := planPeek ls d a) h rfl peek sp o al ng near clean (nearStep_peek 0 full)
    exact q
  · have q := fe_acts (i := .feq ls d a) (P := planFeq ls d a) h rfl feq sp o al ng near clean (nearStep_feq 0)
    rwa [full] at q
  · exact fe_sleeps (P := planPut ls a b) h rfl put sp o al ng near clean (nearStep_put_full v full)
  · have q := fe_acts (i := .put ls a b) (P := planPut ls a b) h rfl put sp o al ng near clean (nearStep_put v empty)
    exact q
  · have q := fe_acts (i := .feq ls d a) (P := planFeq ls d a) h rfl feq sp o al ng near clean (nearStep_feq 0)
    rwa [empty] at q
  · exact fe_sleeps (P := planTake ls d a) h rfl take sp o al ng near clean (nearStep_take_empty 0 empty)
  · exact fe_sleeps (P := planPeek ls d a) h rfl peek sp o al ng near clean (nearStep_peek_empty 0 empty)
  · have q := fe_acts (i := .feset ls a f) (P := planFeset ls a f) h rfl feset sp o al ng near clean (nearStep_feset _)
    rwa [BitVec.getLsbD_setWidth, decide_eq_true (by decide : 0 < 64), Bool.true_and] at q
  · have q := fe_sends (i := .put ls a b) (P := planPut ls a b) h rfl put sp o al far nofun
    exact q
  · have q := fe_sends (i := .feset ls a f) (P := planFeset ls a f) h rfl feset sp o al far nofun
    exact q
  · have q := fe_sends (i := .take ls d a) (P := planTake ls d a) h rfl take sp o al far (by simpa using hw)
    exact q
  · have q := fe_sends (i := .peek ls d a) (P := planPeek ls d a) h rfl peek sp o al far (by simpa using hw)
    exact q
  · have q := fe_sends (i := .feq ls d a) (P := planFeq ls d a) h rfl feq sp o al far (by simpa using hw)
    exact q

end Sys2Proof.Machine
end

section
/-!
Proofs: channel words at a ring of the own quad (R223 to R226).
-/

namespace Sys2Proof.Machine
open Sys2Proof

section
variable {s : State} {ds : List Nat} {d : Option (BitVec 7)} {a : BitVec 7} {kind ea : Nat} {v : Word} {p : NearAt}
  {extra : Nat → Option Trap}
  (sp : speculative s s.cur = false) (o : wordOperand s s.cur (rd64 s s.cur a.toNat) = .ok (ea, p)) (al : ea % 8 = 0)
  (ng : (me s).grant = none) (near : p.remote = false) (good : extra ea = none)
  (clean : kind = 2 → chanPoison s p.loc false = none)
include sp o al ng near good clean

/-- At a ring of the own quad a channel word does what its step there says. -/
theorem chPlan_here : chPlan s { dests := ds } d a kind v extra =
    match chanStep s p.loc kind (me s).task (me s).kernel v
      { loc := p.loc, kind := kind, slot := s.cur, req := none, value := 0, chan := none } with
    | .trap => { dests := ds, point := true, near := [(p.loc, 8)], c3 := some (nTrap .channel ea) }
    | .done st x => { dests := ds, point := true, near := [(p.loc, 8)], stages := st ++ [feWrite s d x] }
    | .wait w => { dests := ds, point := true, near := [(p.loc, 8)], sleep := some (.word w.loc), first := [joinQueue w] } := by
  have ng' : (thr s s.cur).grant = none := ng
  have bad : (if (false || kind != 2) = true then none else chanPoison s p.loc false) = none := by
    by_cases k : kind = 2
    · simp [k, clean k]
    · simp [k]
  cases d <;>
    simp only [chPlan, o, near, sp, ng', good, bad, alignTrap_aligned al, Plan.noSpec, Plan.farDest, Plan.ownIf, Plan.own,
      Plan.at, Plan.does, List.nil_append, Option.none_or, Option.map_none, Bool.false_and, Bool.false_eq_true, if_false] <;>
    rfl

end

section
variable {s : State} {i : Instr} {P : State → Plan} {ls : LS} {ds : List Nat} {d : Option (BitVec 7)} {a : BitVec 7}
  {kind ea : Nat} {v : Word} {p : NearAt} {extra : Nat → Option Trap} (h : AtPoint s) (e : exec i s = fireC P s)
  (r : P s = cPlan ls (chPlan s { dests := ds } d a kind v extra)) (sp : speculative s s.cur = false)
  (o : wordOperand s s.cur (rd64 s s.cur a.toNat) = .ok (ea, p)) (al : ea % 8 = 0)
  (ng : (me s).grant = none) (near : p.remote = false) (good : extra ea = none)
  (clean : kind = 2 → chanPoison s p.loc false = none)
include e r sp o al ng near good clean

theorem ch_raises (hv : Deliverable s) (st : chanStep s p.loc kind (me s).task (me s).kernel v
    { loc := p.loc, kind := kind, slot := s.cur, req := none, value := 0, chan := none } = .trap) :
    Raises s i (nTrap .channel ea) := by
  rw [chPlan_here sp o al ng near good clean, st] at r
  rw [Raises, e]
  exact fireC_raises_third hv (by rw [r]; rfl) (by rw [r]; rfl) (by rw [r]; rfl) (by rw [r]; rfl) nofun

include h

theorem ch_acts {l : List Stage} {x : Word} (st : chanStep s p.loc kind (me s).task (me s).kernel v
    { loc := p.loc, kind := kind, slot := s.cur, req := none, value := 0, chan := none } = .done l x) :
    PointActs s i { dests := ds, mark := ls.s, stages := l ++ [feWrite s d x] } := by
  rw [chPlan_here sp o al ng near good clean, st] at r
  exact point_quiet_near h e r

theorem ch_sleeps {w : Waiter} (st : chanStep s p.loc kind (me s).task (me s).kernel v
    { loc := p.loc, kind := kind, slot := s.cur, req := none, value := 0, chan := none } = .wait w) :
    Sleeps s i (.word w.loc) [joinQueue w] := by
  rw [chPlan_here sp o al ng near good clean, st] at r
  exact sleeps_point h e r

end

/-! ## Steps at a ring (R226) -/

section
variable {s : State} {ring task k : Nat} {v : Word} {w : Waiter} {e : Chan}
  (f : tabGet (quad s (locQuad ring)).chans ring = some e)
include f

theorem chanStep_send_trap (h : e.writer ≠ some task) : chanStep s ring 1 task k v w = .trap := by
  simp [chanStep, f, h]

theorem chanStep_send (h : e.writer = some task) (hw : e.wclose = false) (hr : e.rclose = false) :
    chanStep s ring 1 task k v w =
      if isFull s (ring + 8 * e.wp) then
        .wait { w with loc := ring + 8 * e.wp, kind := 3, value := lo64 v, chan := some ring }
      else .done [nearRead (ring + 8 * e.wp) 8, (fun s => putWord s (ring + 8 * e.wp) (lo64 v) ++
        [setFull (ring + 8 * e.wp) true, onChan ring (fun x => { x with wp := (x.wp + 1) % x.n })]),
        drain (ring + 8 * e.wp), eff [follow ring]] 0 := by
  simp [chanStep, f, h, hw, hr]

theorem chanStep_recv (h : e.reader = some task) (hr : e.rclose = false) :
    chanStep s ring 2 task k v w =
      if isFull s (ring + 8 * e.rp) then
        .done [nearRead (ring + 8 * e.rp) 8,
          eff [setFull (ring + 8 * e.rp) false, onChan ring (fun x => { x with rp := (x.rp + 1) % x.n })],
          drain (ring + 8 * e.rp), eff [follow ring]] (ext64 (wordAt s (ring + 8 * e.rp)) + wd (2 ^ 64))
      else if e.wclose then .done [] (wd (2 ^ 65))
      else .wait { w with loc := ring + 8 * e.rp, kind := 4, chan := some ring } := by
  simp [chanStep, f, h, hr]

theorem chanPoison_empty (h : isFull s (ring + 8 * e.rp) = false) : chanPoison s ring false = none := by
  simp [chanPoison, f, h]

theorem chanPoison_clean (h : nearPoison s (ring + 8 * e.rp) 8 = none) : chanPoison s ring false = none := by
  simp [chanPoison, f, h]

end

/-- Settles O15: each word by what a step at its ring gives. -/
theorem channelWordsSendInOrder : Obligations.ChannelWordsSendInOrder := by
  intro s ls d a b ea p h sp ng hd pa pb o al near v w0
  have hc := h.clear
  have bind : planChbind ls a b s = cPlan ls (chPlan s { dests := [] } none a 0 v (chbindTrap s s.cur v)) := by
    rw [planChbind, regPlan_fields hc _ (by simp [pa, pb])]; rfl
  have close : planChclose ls a s = cPlan ls (chPlan s { dests := [] } none a 3 0 (fun _ => none)) := by
    rw [planChclose, regPlan_fields hc _ (by simp [pa])]; rfl
  have send : planChsend ls a b s = cPlan ls (chPlan s { dests := [] } none a 1 v (fun _ => none)) := by
    rw [planChsend, regPlan_fields hc _ (by simp [pa, pb])]; rfl
  have recv : planChrecv ls d a s = cPlan ls (chPlan s { dests := destOf d.toNat } (some d) a 2 0 (fun _ => none)) := by
    rw [planChrecv, regPlan_fields hc _ (by simp [hd, pa])]; simp
  refine ⟨fun st x free step => ?_, fun st x step => ?_, fun e he => ⟨fun wr wc rc => ⟨fun empty => ?_, fun full => ?_⟩,
    fun other hv => ?_, fun rd rc => ⟨fun full clean => ?_, fun empty wc => ?_, fun empty wc => ?_⟩⟩⟩
  · exact ch_acts (i := .chbind ls a b) (P := planChbind ls a b) h rfl bind sp o al ng near free nofun step
  · exact ch_acts (i := .chclose ls a) (P := planChclose ls a) h rfl close sp o al ng near rfl nofun step
  · have step := chanStep_send (k := (me s).kernel) (v := v) (w := { w0 with kind := 1 }) he wr wc rc
    rw [if_neg (ne_true_of_eq_false empty)] at step
    have q := ch_acts (i := .chsend ls a b) (P := planChsend ls a b) h rfl send sp o al ng near rfl nofun step
    exact q
  · have step := chanStep_send (k := (me s).kernel) (v := v) (w := { w0 with kind := 1 }) he wr wc rc
    rw [if_pos full] at step
    have q := ch_sleeps (i := .chsend ls a b) (P := planChsend ls a b) h rfl send sp o al ng near rfl nofun step
    exact q
  · exact ch_raises (P := planChsend ls a b) rfl send sp o al ng near rfl nofun hv (chanStep_send_trap he other)
  · have step := chanStep_recv (k := (me s).kernel) (v := 0) (w := { w0 with kind := 2 }) he rd rc
    rw [if_pos full] at step
    have q := ch_acts (i := .chrecv ls d a) (P := planChrecv ls d a) h rfl recv sp o al ng near rfl
      (fun _ => chanPoison_clean he clean) step
    exact q
  · have step := chanStep_recv (k := (me s).kernel) (v := 0) (w := { w0 with kind := 2 }) he rd rc
    rw [if_neg (ne_true_of_eq_false empty), if_pos wc] at step
    have q := ch_acts (i := .chrecv ls d a) (P := planChrecv ls d a) h rfl recv sp o al ng near rfl
      (fun _ => chanPoison_empty he empty) step
    exact q
  · have step := chanStep_recv (k := (me s).kernel) (v := 0) (w := { w0 with kind := 2 }) he rd rc
    rw [if_neg (ne_true_of_eq_false empty), if_neg (ne_true_of_eq_false wc)] at step
    have q := ch_sleeps (i := .chrecv ls d a) (P := planChrecv ls d a) h rfl recv sp o al ng near rfl
      (fun _ => chanPoison_empty he empty) step
    exact q

end Sys2Proof.Machine
end

section
/-!
Proofs: the window words (R107, R109 to R119) and the stream words (R120 to R126). Before them, the checks of a register
that hold in a slot with nothing else under way.
-/

namespace Sys2Proof.Machine
open Sys2Proof

/-! ## Checks that name nothing -/

theorem rangeTrap_below {s : State} {f : Nat} (h : f = 0 ∨ f < (me s).limit ∨ 112 ≤ f) : rangeTrap (me s) f = none := by
  refine if_neg ?_
  simp only [fieldReg, Bool.and_eq_true, decide_eq_true_eq, bne_iff_ne]
  omega

theorem rangeTrap_plain {s : State} {f : Nat} (h : Plain s f) : rangeTrap (me s) f = none :=
  rangeTrap_below (by obtain ⟨-, h⟩ := h; omega)

theorem hazardW_clear {s : State} (h : Clear s) (f : Nat) : hazardW (me s) f = none := by
  rw [hazardW, pending_clear h]
  rfl

/-- The answer of the first element that has one. -/
theorem firstSome_upto {α : Type} {g : Nat → Option α} {x : α} {r lo n : Nat} (hl : lo ≤ r) (hr : r < lo + n)
    (below : ∀ q, lo ≤ q → q < r → g q = none) (e : g r = some x) : firstSome g (upto lo n) = some x := by
  induction n generalizing lo with
  | zero => omega
  | succ n ih =>
    rw [upto, firstSome]
    rcases Nat.eq_or_lt_of_le hl with rfl | lt
    · rw [e, Option.some_or]
    · rw [below lo le_rfl lt, Option.none_or, ih lt (by omega) fun q hq => below q (by omega)]

theorem firstSome_upto_none {α : Type} {g : Nat → Option α} {lo n : Nat} (h : ∀ r, lo ≤ r → r < lo + n → g r = none) :
    firstSome g (upto lo n) = none :=
  firstSome_none fun r m => h r (mem_upto.1 m).1 (mem_upto.1 m).2

/-- A C-word acts as its plan says, where the plan asks for its effect and for lost positions. -/
theorem acts_lost {s : State} {i : Instr} {P : State → Plan} {ds : List Nat} {l : List Stage} {m : Bool} {n : Nat}
    (h : Clear s) (e : exec i s = fireC P s) (r : P s = { dests := ds, stages := l, mark := m, lost := n }) :
    Acts s i { dests := ds, stages := l, mark := m, lost := n } :=
  acts_of_issues h e r ⟨rfl, rfl, rfl, rfl, rfl, rfl, rfl, rfl, rfl, rfl, rfl, rfl⟩

/-! ## Tags -/

/-- The checks that RXTAG and RXUNTAG make of a window register with no stream, and of a recipe's operands. -/
theorem tagPlan_eq {s : State} (h : Clear s) (wf : Bool) {d : BitVec 7} (hd : InWindow s d.toNat) {ws : List (BitVec 32)}
    (ops : ∀ r ∈ recipeRegs ws, dropped (me s) r = false ∧ (me s).arch.strm r = none) :
    tagPlan s wf d ws = { ill := !wf, lost := (recipeOps ws).length } := by
  have unbound : ∀ r, (me s).arch.strm r = none →
      (if ((me s).arch.strm r).isSome then some (nTrap .stream r) else none : Option Trap) = none := fun r e => by
    rw [e]; rfl
  have hz : firstSome (hazardW (me s)) (recipeRegs ws) = none := firstSome_none fun r _ => hazardW_clear h r
  have deep : firstSome (fun r => if dropped (me s) r then some (nTrap .recipeDepth r) else none) (recipeRegs ws) = none :=
    firstSome_none fun r m => if_neg (by rw [(ops r m).1]; nofun)
  have bound : firstSome (fun r => if ((me s).arch.strm r).isSome then some (nTrap .stream r) else none)
      (recipeRegs ws) = none := firstSome_none fun r m => unbound r (ops r m).2
  have kept : droppedTrap (me s) d.toNat = none := if_neg (by rw [dropped_plain hd.1]; nofun)
  simp only [tagPlan, rangeTrap_plain hd.1, hazardW_clear h, hz, kept, deep, unbound d.toNat hd.1.1, bound, Option.none_or]

section
variable {s : State} (ls : LS) {d : BitVec 7} (hd : InWindow s d.toNat)
include hd

theorem wf_tagged : (decide (d.toNat ≠ 0) && !fieldHearth d) = true := by
  obtain ⟨-, h0, hw⟩ := hd
  simp [fieldHearth, h0, hw]

variable (h : Clear s)
include h

theorem planRxtagVoid_eq : planRxtagVoid ls d s = { dests := destOf d.toNat, mark := ls.s
                                                    stages := [eff [onArch s.cur (fun a => a.setTag d.toNat .void)]] } := by
  rw [planRxtagVoid, tagPlan_eq h _ hd (List.forall_mem_nil _), show (Instr.rxtagVoid ls d).wf = true from wf_tagged hd]
  rfl

theorem planRxuntag_eq : planRxuntag ls d s = { dests := destOf d.toNat, mark := ls.s
                                                stages := [eff [onArch s.cur (fun a => a.setTag d.toNat .none)]] } := by
  rw [planRxuntag, tagPlan_eq h _ hd (List.forall_mem_nil _), show (Instr.rxuntag ls d).wf = true from wf_tagged hd]
  rfl

theorem planRxtag_eq (n : BitVec 5) (hn : n.toNat < (recOf s s.cur).recipes)
    (ops : ∀ r ∈ recipeRegs (recipeOf s s.cur n.toNat), dropped (me s) r = false ∧ (me s).arch.strm r = none) :
    planRxtag ls d n s = { dests := [d.toNat], mark := ls.s, lost := (recipeOps (recipeOf s s.cur n.toNat)).length
                           stages := [eff [onArch s.cur (fun a =>
                             (a.setReg d.toNat (recipeValue s s.cur (recipeOf s s.cur n.toNat))).setTag d.toNat
                               (.recipe n.toNat))]] } := by
  simp only [planRxtag, tagPlan_eq h _ hd ops, show (Instr.rxtag ls d n).wf = true from wf_tagged hd,
    decide_eq_true hn, destOf_ne_zero hd.2.1, cPlan, Bool.and_true, Bool.not_true]

end

theorem ill_rxtag {s : State} (ls : LS) (d : BitVec 7) {n : BitVec 5} (hn : (recOf s s.cur).recipes ≤ n.toNat) :
    (planRxtag ls d n s).ill = true := by
  simp [planRxtag, tagPlan, cPlan, Nat.not_lt.2 hn]

/-! ## Drops and regrowth -/

theorem lastTrap_below {s : State} {d : BitVec 7} (hl : d.toNat < (me s).limit) : lastTrap (me s) d = none :=
  if_neg (Nat.not_le.2 hl)

/-- What RXDROP finds first above its register (R111, R116). -/
def dropBar (s : State) (hi : Nat) : Option Trap := firstSome (keepTrap (me s)) (upto hi ((me s).arch.t - hi))

section
variable {s : State} (h : Clear s) {hi : Nat}
include h

theorem keepTrap_kept {q : Nat} (ht : (me s).arch.tag q ≠ .none) (hs : (me s).arch.strm q = none) :
    keepTrap (me s) q = none := by
  simp [keepTrap, pending_clear h, ht, hs]

theorem dropBar_none (kept : ∀ r, hi ≤ r → r < (me s).arch.t → (me s).arch.tag r ≠ .none ∧ (me s).arch.strm r = none) :
    dropBar s hi = none :=
  firstSome_upto_none fun r h1 h2 => keepTrap_kept h (kept r h1 (by omega)).1 (kept r h1 (by omega)).2

theorem dropBar_untagged {r : Nat} (h1 : hi ≤ r) (h2 : r < (me s).arch.t) (un : (me s).arch.tag r = .none)
    (below : ∀ q, hi ≤ q → q < r → (me s).arch.tag q ≠ .none ∧ (me s).arch.strm q = none) :
    dropBar s hi = some (nTrap .recipeDepth r) :=
  firstSome_upto h1 (by omega) (fun q hl hr => keepTrap_kept h (below q hl hr).1 (below q hl hr).2)
    (by simp [keepTrap, pending_clear h, un])

end

section
variable {s : State} (ls : LS) {d : BitVec 7} (hw : d.toNat % 8 = 7) (hl : d.toNat < (me s).limit)
include hw hl

theorem planRxdrop_same (low : (me s).arch.t ≤ d.toNat + 1) : planRxdrop ls d s = { mark := ls.s } := by
  simp only [planRxdrop, if_pos (show (thr s s.cur).arch.t ≤ d.toNat + 1 from low), lastTrap_below hl,
    show (Instr.rxdrop ls d).wf = true from decide_eq_true hw, cPlan, classTwo, Option.none_or, Bool.not_true]

theorem planRxdrop_eq (high : d.toNat + 1 < (me s).arch.t) : planRxdrop ls d s =
    { c2 := classTwo (dropBar s (d.toNat + 1)), c3 := dropBar s (d.toNat + 1), mark := ls.s
      stages := [eff [onThr s.cur (fun t => { t with
        cur := d.toNat + 1, heldRegs := t.heldRegs + (t.arch.t - (d.toNat + 1))
        arch := { t.arch with t := d.toNat + 1 } })]] } := by
  simp only [planRxdrop, if_neg (show ¬(thr s s.cur).arch.t ≤ d.toNat + 1 from Nat.not_le.2 high), lastTrap_below hl,
    show (Instr.rxdrop ls d).wf = true from decide_eq_true hw, cPlan, Option.none_or, Bool.not_true]
  rfl

theorem planRxkeep_same (low : d.toNat + 1 ≤ (me s).arch.t) : planRxkeep ls d s = { mark := ls.s } := by
  simp only [planRxkeep, if_pos (show d.toNat + 1 ≤ (thr s s.cur).arch.t from low), lastTrap_below hl,
    show (Instr.rxkeep ls d).wf = true from decide_eq_true hw, cPlan, Option.none_or, Bool.not_true]
  simp [firstSome, low, total]

/-- RXKEEP over registers whose tag is VOID replays nothing (R118). -/
theorem planRxkeep_void (high : (me s).arch.t < d.toNat + 1)
    (void : ∀ r, (me s).arch.t ≤ r → r < d.toNat + 1 → (me s).arch.tag r = .void) : planRxkeep ls d s =
    { mark := ls.s
      sleep := if d.toNat + 1 ≤ (me s).cur + entriesFree s (coreOf s.cur) then none else some (.window (d.toNat + 1))
      stages := [eff [onThr s.cur (fun t => { t with
        cur := d.toNat + 1, arch := { remat s s.cur (me s).arch.t (d.toNat + 1) t.arch with t := d.toNat + 1 } })]] } := by
  have ops : ∀ r, (me s).arch.t ≤ r → r < (me s).arch.t + (d.toNat + 1 - (me s).arch.t) → tagOperands s s.cur r = [] :=
    fun r h1 h2 => by rw [tagOperands, void r h1 (by omega)]
  have hz : firstSome (regrowHazard s s.cur) (upto (me s).arch.t (d.toNat + 1 - (me s).arch.t)) = none :=
    firstSome_upto_none fun r h1 h2 => by rw [regrowHazard, ops r h1 h2]; rfl
  have deep : firstSome (regrowDepth s s.cur (d.toNat + 1)) (upto (me s).arch.t (d.toNat + 1 - (me s).arch.t)) = none :=
    firstSome_upto_none fun r h1 h2 => by rw [regrowDepth, ops r h1 h2]; rfl
  have more : ¬d.toNat + 1 ≤ (thr s s.cur).arch.t := Nat.not_le.2 high
  have lost : ∀ f : Nat → Nat, (∀ r, (me s).arch.tag r = .void → f r = 0) →
      total ((upto (me s).arch.t (d.toNat + 1 - (me s).arch.t)).map f) = 0 := fun f z => total_zero fun x m => by
    obtain ⟨r, hr, rfl⟩ := List.mem_map.1 m
    obtain ⟨h1, h2⟩ := mem_upto.1 hr
    exact z r (void r h1 (by omega))
  simp only [planRxkeep, more, if_false, lastTrap_below hl, hz, deep, show (Instr.rxkeep ls d).wf = true from decide_eq_true hw,
    cPlan, Option.none_or, Bool.not_true, false_or]
  rw [lost _ fun r e => by rw [show (thr s s.cur).arch.tag r = .void from e]]

end

/-! ## Words that describe a register -/

/-- A word that describes x(a) reads nothing of it (R119, R126). -/
theorem fireC_describe {s : State} (h : Clear s) {P : State → Plan} {ls : LS} {d a : BitVec 7} {v : Word} (hd : Dest s d.toNat)
    (ha : rangeTrap (me s) a.toNat = none) (e : P s = cPlan ls (describePlan s d a v)) :
    fireC P s = .next (finished (put (taken s) d.toNat v) ls.s) := by
  refine fireC_stays h (ds := destOf d.toNat) (first := []) (l := [wr s.cur d.toNat v]) ?_
    (wr_put (s := taken s) v hd.1.1) (h.fit_taken.put _ _) (cur_put _ _ _)
  have ok : ∀ x ∈ [fw d], FieldOk s x := List.forall_mem_singleton.2 (fieldOk_fw hd)
  simp only [e, describePlan, regPlan_fields h _ ok, rangeTrap_plain hd.1, ha, cPlan, Plan.does, List.nil_append,
    List.flatMap_cons, List.flatMap_nil, dests_fw, List.append_nil, Option.none_or, Bool.not_true]

/-- Settles O18: each word by its plan. -/
theorem windowWordsTagDropAndKeep : Obligations.WindowWordsTagDropAndKeep := by
  intro s ls d a n h t hi ws last
  refine ⟨fun hd => ⟨?_, ?_⟩, fun hd hn ops => ?_, fun hd hn hv => ?_, fun ⟨hw, hl⟩ low => ?_, fun ⟨hw, hl⟩ high kept => ?_,
    fun ⟨hw, hl⟩ r h1 h2 un below hv => ?_, fun ⟨hw, hl⟩ low => ?_, fun ⟨hw, hl⟩ high void => ⟨fun room => ?_, fun full => ?_⟩,
    fun hd ha => ?_⟩
  · exact acts_quiet (P := planRxtagVoid ls d) h rfl (planRxtagVoid_eq ls hd h)
  · exact acts_quiet (P := planRxuntag ls d) h rfl (planRxuntag_eq ls hd h)
  · exact acts_lost (P := planRxtag ls d n) h rfl (planRxtag_eq ls hd h n hn ops)
  · exact fireC_raises_ill (P := planRxtag ls d n) hv (ill_rxtag ls d hn)
  · exact acts_quiet (P := planRxdrop ls d) h rfl (planRxdrop_same ls hw hl low)
  · have e := planRxdrop_eq ls hw hl high
    rw [dropBar_none h kept] at e
    exact acts_quiet (P := planRxdrop ls d) h rfl e
  · have e := planRxdrop_eq ls hw hl (Nat.lt_of_le_of_lt h1 h2)
    rw [dropBar_untagged h h1 h2 un below] at e
    refine fireC_raises_third (P := planRxdrop ls d) hv ?_ ?_ ?_ ?_ nofun <;> rw [e]
    rfl
  · exact acts_quiet (P := planRxkeep ls d) h rfl (planRxkeep_same ls hw hl low)
  · have e := planRxkeep_void ls hw hl high void
    rw [if_pos room] at e
    exact acts_quiet (P := planRxkeep ls d) h rfl e
  · have e := planRxkeep_void ls hw hl high void
    rw [if_neg (Nat.not_le.2 full)] at e
    exact sleeps_quiet (P := planRxkeep ls d) h rfl e
  · exact fireC_describe (P := planRxq ls d a) h hd (rangeTrap_below (ha.imp_left fun z => by rw [z]; rfl)) rfl

/-! ## Streams -/

section
variable {s : State} (h : Clear s) (ls : LS) {d a : BitVec 7} (pa : Plain s a.toNat) (hd : d.toNat < (me s).limit)
include h pa hd

/-- A pointer that leaves 32 bits is out of the near range (R121). -/
theorem planSbind_far (far : bits (rd s s.cur a.toNat) 54 32 ≠ 0) : planSbind ls d a s =
    { c3 := some ⟨.nearRange, rd64 s s.cur a.toNat⟩, mark := ls.s } := by
  have ok : ∀ x ∈ [fr a], FieldOk s x := List.forall_mem_singleton.2 (fieldOk_fr pa)
  rw [bits_lo64 _ (by decide)] at far
  simp only [planSbind, if_pos (show bits (rd64 s s.cur a.toNat) 54 32 ≠ 0 from far), regPlan_fields h _ ok,
    rangeTrap_below (.inr (.inl hd)), cPlan, Plan.own, List.flatMap_cons, List.flatMap_nil, dests_fr, List.append_nil,
    Option.none_or, Bool.not_true]

/-- The plan over a descriptor in reach, by what its checks say (R120 to R122). -/
theorem planSbind_at {loc : Nat} (near : bits (rd s s.cur a.toNat) 54 32 = 0)
    (at_ : nearOwn s s.cur (bits (rd s s.cur a.toNat) 31 0) 48 = some loc)
    (al : bits (rd s s.cur a.toNat) 31 0 % 16 = 0) (clean : nearPoison s loc 48 = none) : planSbind ls d a s =
    { c3 := bindTrap s s.cur d.toNat (lookBytes s loc 48), mark := ls.s, near := [(loc, 48)]
      stages := [
        nearRead loc 48,
        eff [onArch s.cur (fun a => { a with streams := a.streams ++ [streamOf d.toNat (lookBytes s loc 48)] })],
        if (streamOf d.toNat (lookBytes s loc 48)).write then skip
        else evIn (ctxOf s s.cur) (if (streamOf d.toNat (lookBytes s loc 48)).global then 640 else 12)
          (.streamUnitFetch s.cur d.toNat)] } := by
  have ok : ∀ x ∈ [fr a], FieldOk s x := List.forall_mem_singleton.2 (fieldOk_fr pa)
  rw [bits_lo64 _ (by decide)] at near at_ al
  have near' : bits (rd64 s s.cur a.toNat) 54 32 = 0 := near
  have at' : nearOwn s s.cur (bits (rd64 s s.cur a.toNat) 31 0) 48 = some loc := at_
  have al' : bits (rd64 s s.cur a.toNat) 31 0 % 16 = 0 := al
  simp only [planSbind, near', at', al', ne_eq, not_true, if_false, regPlan_fields h _ ok,
    rangeTrap_below (.inr (.inl hd)), clean, cPlan, Plan.own, Plan.at, Plan.does, List.flatMap_cons, List.flatMap_nil,
    dests_fr, List.append_nil, List.nil_append, Option.none_or, Option.map_none, Bool.not_true]

end

theorem planSunbind_eq (ls : LS) {s : State} {d : BitVec 7} (hd : d = 0 ∨ d.toNat < (me s).limit ∨ 112 ≤ d.toNat) :
    planSunbind ls d s = {
      mark := ls.s, stages := [eff [onArch s.cur (fun a => { a with
        streams := a.streams.filter (fun x => x.reg != d.toNat) })]] } := by
  rw [planSunbind, rangeTrap_below (hd.imp_left fun z => by rw [z]; rfl)]
  rfl

theorem bindTrap_code {s : State} {slot d : Nat} {bs : List Byte} {tr : Trap} (e : bindTrap s slot d bs = some tr) :
    tr.code ≠ .soft := by
  dsimp only [bindTrap] at e
  split_ifs at e <;> cases e <;> nofun

/-- Settles O19: SBIND by its plan over the descriptor, SSTAT as a word that describes its register. -/
theorem streamWordsBindAndReport : Obligations.StreamWordsBindAndReport := by
  intro s ls d a h pa
  refine ⟨?_, fun hd far hv => ?_, fun hd => ?_, fun hd => ?_, fun x hd r hr e => ?_⟩
  · intro loc ea hd near at_ al clean x
    have e := planSbind_at h ls pa hd.limit near at_ al clean
    refine ⟨fun fine => ?_, fun tr bad hv => ?_⟩
    · rw [fine] at e
      exact acts_quiet_near (P := planSbind ls d a) h rfl e
    · rw [bad] at e
      refine fireC_raises_third (P := planSbind ls d a) hv ?_ ?_ ?_ ?_ (bindTrap_code bad) <;> rw [e]
      rfl
  · exact fireC_raises_own (P := planSbind ls d a) hv (planSbind_far h ls pa hd far) nofun
  · exact acts_quiet (P := planSunbind ls d) h rfl (planSunbind_eq ls hd)
  · exact fireC_describe (P := planSstat ls d a) h hd (rangeTrap_plain pa)
      (by rw [planSstat, show (thr s s.cur).arch.strm a.toNat = none from pa.1])
  · exact fireC_describe (P := planSstat ls d r) (v := streamStatus x) h hd (rangeTrap_below (.inr (.inl hr)))
      (by rw [planSstat, show (thr s s.cur).arch.strm r.toNat = some x from e])

end Sys2Proof.Machine
end

section
/-!
Proofs: spawns, stamps and ordered atomics (R264, R265, R272), and the words of a carry loop (R277 to R288).
-/

namespace Sys2Proof.Machine
open Sys2Proof

/-! ## Spawns, stamps and ordered atomics -/

/-- May TSPAWN buffer the task that X[a] describes (R264)? -/
def spawnFits (s : State) (v : Word) : Prop :=
  bits v 127 96 = 0 ∧ bits v 95 64 % 8 = 0 ∧ bits v 95 64 < (recOf s s.cur).textlen ∧
    (taskOf s s.cur).ts ≤ bits v 63 0 ∧ (me s).chunk.spawns.length < 8

section
variable {s : State} (h : Clear s) (ls : LS) {d a b : BitVec 7}
include h

theorem planTspawn_eq (pa : Plain s a.toNat) (pb : Plain s b.toNat) (hd : Dest s d.toNat) (ng : guessing s s.cur = false)
    {own : Option Trap} (fits : own = none ∧ spawnFits s (rd s s.cur a.toNat) ∨
      own = some (bTrap s s.cur .illegal) ∧ ¬spawnFits s (rd s s.cur a.toNat)) :
    planTspawn ls d a b s = { c3 := own, dests := destOf d.toNat, mark := ls.s, stages := [
      eff [onChunk s.cur (fun c => { c with
        spawns := c.spawns ++ [⟨bits (rd s s.cur a.toNat) 95 64, bits (rd s s.cur a.toNat) 63 0, rd s s.cur b.toNat⟩] })],
      wr s.cur d.toNat (wd (me s).chunk.spawns.length)] } := by
  have ok : ∀ x ∈ [fw d, fr a, fr b], FieldOk s x := by simp [hd, pa, pb]
  have e : (if bits (rd s s.cur a.toNat) 127 96 ≠ 0 ∨ bits (rd s s.cur a.toNat) 95 64 % 8 ≠ 0 ∨
      (recOf s s.cur).textlen ≤ bits (rd s s.cur a.toNat) 95 64 ∨ bits (rd s s.cur a.toNat) 63 0 < (taskOf s s.cur).ts ∨
      8 ≤ (thr s s.cur).chunk.spawns.length then some (bTrap s s.cur .illegal) else none) = own := by
    rcases fits with ⟨rfl, f1, f2, f3, f4, f5⟩ | ⟨rfl, un⟩
    · exact if_neg (by simp only [not_or, not_not, not_le, not_lt]; exact ⟨f1, f2, f3, f4, f5⟩)
    · refine if_pos ?_
      by_contra c
      simp only [not_or, not_not, not_le, not_lt] at c
      exact un c
  simp only [planTspawn, e, regPlan_fields h _ ok, cPlan, Plan.noGuess, Plan.ownIf, Plan.own, Plan.does, ng,
    List.nil_append, List.flatMap_cons, List.flatMap_nil, dests_fw, dests_fr, List.append_nil, Option.none_or,
    Bool.not_true, Bool.false_eq_true, if_false]

theorem planTstamp_eq (pa : Plain s a.toNat) (sp : speculative s s.cur = false) {own : Option Trap}
    (e : (if (rd64 s s.cur a.toNat).toNat < (taskOf s s.cur).ts then some (bTrap s s.cur .illegal) else none) = own) :
    planTstamp ls a s = { c3 := own, mark := ls.s, stages := [
      eff [onChunk s.cur (fun c => { c with tstamp := some (rd64 s s.cur a.toNat).toNat })]] } := by
  have ok : ∀ x ∈ [fr a], FieldOk s x := by simp [pa]
  simp only [planTstamp, e, regPlan_fields h _ ok, cPlan, Plan.noSpec, Plan.ownIf, Plan.own, Plan.does, sp,
    List.nil_append, List.flatMap_cons, List.flatMap_nil, dests_fr, List.append_nil, Option.none_or,
    Bool.not_true, Bool.false_eq_true, if_false]

/-- ORDATOM queues its request with the channel and marks its register pending (R272). -/
theorem planOrdatom_eq (pb : Plain s b.toNat) (sp : speculative s s.cur = false) (hd : Dest s d.toNat) (near : d.toNat < 112)
    {n : BitVec 4} (hn : n.toNat < (recOf s s.cur).ordch) (gang : (recOf s s.cur).gang = true)
    (q : (recOf s s.cur).qbar ≠ 0) : planOrdatom ls d n b s = {
      dests := destOf d.toNat, mark := ls.s, point := true, stages := [
        fun u => [onThr s.cur (fun t => { t with pend := t.pend ++ [{ id := u.fresh, dests := [d.toNat] }] }),
          onKernel (me s).kernel (fun x => { x with ord := tabMod x.ord n.toNat [] (fun l => l ++
            [{ task := (thr u s.cur).task, pend := u.fresh, w := (taskOf s s.cur).w, ts := (taskOf s s.cur).keyTs
               cn := (taskOf s s.cur).cn, interval := (taskOf s s.cur).b0, addend := rd64 s s.cur b.toNat }]) }), .draw 1]] } := by
  have ok : ∀ x ∈ [fw d, fr b], FieldOk s x := by simp [hd, pb]
  have legal : (longDest d && decide (n.toNat < (recOf s s.cur).ordch) && (recOf s s.cur).gang &&
      (recOf s s.cur).qbar != 0) = true := by simp [longDest, fieldHearth, near, hn, gang, q]
  simp only [planOrdatom, legal, regPlan_fields h _ ok, cPlan, Plan.noSpec, Plan.ownIf, Plan.own, Plan.does, sp,
    List.nil_append, List.flatMap_cons, List.flatMap_nil, dests_fw, dests_fr, List.append_nil, Option.none_or,
    Bool.not_true, Bool.false_eq_true, if_false]

end

theorem spawnWords : Says.SpawnWords := by
  intro s ls d a b h pa pb
  refine ⟨fun hd ng => ?_, fun sp => ?_, fun n hp sp hd near hn gang q => ?_⟩
  · intro v held fits
    refine ⟨fun f => ?_, fun un hv => ?_⟩
    · exact acts_quiet (P := planTspawn ls d a b) h rfl (planTspawn_eq h ls pa pb hd ng (.inl ⟨rfl, f⟩))
    · exact fireC_raises_own (P := planTspawn ls d a b) hv (planTspawn_eq h ls pa pb hd ng (.inr ⟨rfl, un⟩)) nofun
  · intro v
    refine ⟨fun le => ?_, fun lt hv => ?_⟩
    · exact acts_quiet (P := planTstamp ls a) h rfl (planTstamp_eq h ls pa sp (if_neg (Nat.not_lt.2 le)))
    · exact fireC_raises_own (P := planTstamp ls a) hv (planTstamp_eq h ls pa sp (if_pos lt)) nofun
  · exact point_quiet (P := planOrdatom ls d n b) hp rfl (planOrdatom_eq h ls pb sp hd near hn gang q) rfl

/-! ## Carry loops -/

section
variable {s : State} (h : Clear s) {d a b : BitVec 7} {lit : BitVec 32}
include h

/-- GLOOP with a carry table in reach, whose descriptor breaks none of R277, R278 and R284. -/
theorem planGloop_eq (sb : Bool) (pa : Plain s a.toNat) (hd : Dest s d.toNat) (near : d.toNat < 112)
    (legal : ¬(bits lit 25 21 ≠ 0 ∨ speculative s s.cur = true ∨ loopOpen s s.cur = true ∨
      (recOf s s.cur).textlen ≤ 8 * bits lit 20 0 ∨ (bits lit 28 26 = 0 ∧ bits lit 20 0 ≠ 0)))
    (fits : ¬(bits (rd s s.cur a.toNat) 63 35 ≠ 0 ∨ bits (rd s s.cur a.toNat) 95 64 % 8 ≠ 0 ∨
      (recOf s s.cur).textlen ≤ bits (rd s s.cur a.toNat) 95 64 ∨ 4 < bits (rd s s.cur a.toNat) 34 32 ∨
      2 ^ 64 ≤ (taskOf s s.cur).ts + 2 ^ 33)) {l : Nat}
    (table : bits (rd s s.cur a.toNat) 34 32 ≠ 0 →
      nearOwn s s.cur (bits (rd s s.cur a.toNat) 127 96) (16 * bits (rd s s.cur a.toNat) 34 32) = some l ∧
      bits (rd s s.cur a.toNat) 127 96 % 16 = 0 ∧ nearPoison s l (16 * bits (rd s s.cur a.toNat) 34 32) = none)
    {regions : List (Nat × Nat × Nat)} (re : regions = if bits (rd s s.cur a.toNat) 34 32 = 0 then [] else
      regionsOf (bits (rd s s.cur a.toNat) 34 32) (lookBytes s l (16 * bits (rd s s.cur a.toNat) 34 32)))
    (good : regionsBad regions = false) (run : ∀ i ≤ bits lit 31 29, InWindow s (b.toNat + i)) :
    planGloop sb d a b lit s = {
      dests := destOf d.toNat, mark := sb, stages := [
        nearRead ((nearOwn s s.cur (bits (rd s s.cur a.toNat) 127 96) (16 * bits (rd s s.cur a.toNat) 34 32)).getD 0)
          (16 * bits (rd s s.cur a.toNat) 34 32),
        eff [onChunk s.cur (fun c => { c with gloop := some {
          d := d.toNat, b := b.toNat, nc := bits lit 31 29, wid := bits lit 28 26, goff := bits lit 20 0
          body := bits (rd s s.cur a.toNat) 95 64, n := bits (rd s s.cur a.toNat) 31 0, regions := regions } })],
        pendIn s.cur [d.toNat] none (.value [wd ((taskOf s s.cur).ts + 1)] none 0) 200] } := by
  have ok : ∀ x ∈ [fw d, fr a, inRun b.toNat (bits lit 31 29 + 1)], FieldOk s x := by
    simp [hd, pa, fieldOk_inRun fun i hi => run i (Nat.le_of_lt_succ hi)]
  subst re
  simp only [planGloop, decide_eq_false legal, decide_eq_false fits]
  by_cases z : bits (rd s s.cur a.toNat) 34 32 = 0
  · have none_bad : regionsBad (regionsOf 0 []) = false := rfl
    simp only [z, none_bad, regPlan_fields h _ ok, longDest,
      fieldHearth, decide_eq_false (Nat.not_le.2 near), Plan.own, Plan.does, List.nil_append, List.flatMap_cons,
      List.flatMap_nil, dests_fw, dests_fr, dests_inRun, List.append_nil, Option.none_or, Bool.not_true, Bool.not_false,
      Bool.and_true, Bool.and_false, Bool.false_eq_true, if_false, if_true, ne_eq, not_true, false_and, Option.getD_some]
    rfl
  · obtain ⟨at_, al, clean⟩ := table z
    rw [if_neg z] at good
    simp only [z, at_, al, clean, good, regPlan_fields h _ ok,
      longDest, fieldHearth, decide_eq_false (Nat.not_le.2 near), Plan.own, Plan.does, List.nil_append, List.flatMap_cons,
      List.flatMap_nil, dests_fw, dests_fr, dests_inRun, List.append_nil, Option.none_or, Bool.not_true, Bool.not_false,
      Bool.and_true, Bool.and_false, Bool.false_eq_true, if_false, ne_eq, not_true, and_false, Option.getD_some,
      Option.map_some, Option.bind_some, Option.map_none]

/-- The words that record an iteration's produced carry (R281). -/
theorem acceptPlan_eq {fs : List Field} (ok : ∀ x ∈ fs, FieldOk s x) (inputs : fs.flatMap Field.dests = []) {o : Nat}
    {lp : Loop} (at_ : loopAt s s.cur = some (o, lp)) (run : ∀ i ≤ lp.req.nc, InWindow s (lp.req.b + i)) (c : Cmp) :
    acceptPlan s fs c = {
      ill := !((iterOf s s.cur).isSome && (me s).arch.carry.isNone && (me s).arch.priv != .handler)
      stages := [eff [onArch s.cur (fun x => { x with carry := some (carried s s.cur lp.req, c) })]] } := by
  have ok' : ∀ x ∈ fs ++ [inRun lp.req.b (lp.req.nc + 1)], FieldOk s x := by
    intro x m
    rcases List.mem_append.1 m with m | m
    · exact ok x m
    · rw [List.mem_singleton.1 m]
      exact fieldOk_inRun fun i hi => run i (Nat.le_of_lt_succ hi)
  simp only [acceptPlan, at_, regPlan_fields h _ ok', Plan.does, List.nil_append, List.flatMap_append, inputs,
    List.flatMap_cons, List.flatMap_nil, dests_inRun, List.append_nil]

/-- A GPUT that is not its wave's last (R279). -/
theorem planGput_eq (ls : LS) {o l i : Nat} {lp : Loop} (at_ : loopAt s s.cur = some (o, lp))
    (run : ∀ i ≤ lp.req.nc, InWindow s (lp.req.b + i)) (kind : (taskOf s s.cur).kind = .guess l i)
    (more : lp.gputs + 1 ≠ lp.req.wid) :
    planGput ls s = { mark := ls.s, stages := [gputStage o i (carried s s.cur lp.req)] } := by
  have ok : ∀ x ∈ [inRun lp.req.b (lp.req.nc + 1)], FieldOk s x :=
    List.forall_mem_singleton.2 (fieldOk_inRun fun i hi => run i (Nat.le_of_lt_succ hi))
  simp only [planGput, at_, kind, beq_eq_false_iff_ne.2 more, regPlan_fields h _ ok, cPlan, Plan.ownIf, Plan.own, Plan.does,
    List.nil_append, List.flatMap_cons, List.flatMap_nil, dests_inRun, List.append_nil, Option.none_or, Bool.not_true,
    Bool.false_and, Bool.false_eq_true, if_false]

/-- GEND of a loop that the task has open (R288). -/
theorem planGend_eq (ls : LS) {lp : Loop} (open_ : tabGet s.o.loops (me s).task = some lp) (hd : Dest s d.toNat)
    (sp : speculative s s.cur = false) (run : ∀ i ≤ lp.req.nc, InWindow s (lp.req.b + i)) : planGend ls d s =
    { dests := destOf d.toNat ++ upto lp.req.b (lp.req.nc + 1), mark := ls.s
      sleep := if (lp.st == .done || lp.st == .failed) = true then none else some .loopEnd
      stages := ((upto lp.req.b (lp.req.nc + 1)).zip lp.final).map (fun x => wr s.cur x.1 x.2) ++
        [wr s.cur d.toNat (wd (lp.c % 2 ^ 32 + bit (lp.st == .failed) * 2 ^ 63)),
         eff [.obj (fun o => { o with loops := tabDel o.loops (me s).task })],
         evNow (.floorChange (me s).kernel), kick] } := by
  have in_ : ∀ i < lp.req.nc + 1, InWindow s (lp.req.b + i) := fun i hi => run i (Nat.le_of_lt_succ hi)
  have ok : ∀ x ∈ [fw d, outRun lp.req.b (lp.req.nc + 1)], FieldOk s x := by simp [hd, fieldOk_outRun in_]
  have has : tabHas s.o.loops (thr s s.cur).task = true := by
    rw [tabHas, show tabGet s.o.loops (thr s s.cur).task = some lp from open_]
    rfl
  simp only [planGend, show tabGet s.o.loops (thr s s.cur).task = some lp from open_, loopOpen, has, sp,
    regPlan_fields h _ ok, cPlan, Plan.does, List.nil_append, List.flatMap_cons, List.flatMap_nil, dests_fw,
    dests_outRun in_, List.append_nil, Bool.not_true, Bool.not_false, Bool.true_or, Bool.and_true]

end

theorem loopWords : Says.LoopWords := by
  intro s ls d a b h pa
  refine ⟨?_, fun o lp at_ run => ?_, fun lp open_ hd sp => ?_⟩
  · intro sb lit l v nc nreg atab regions body textlen ts hd near sp shut z1 g1 g2 z2 n4 b8 bt tl table good run
    refine acts_quiet (P := planGloop sb d a b lit) h rfl (planGloop_eq h sb pa hd near ?_ ?_ table rfl good run)
    · rw [sp, shut, z1]
      simp only [ne_eq, not_true, Bool.false_eq_true, false_or, not_or, not_le, not_and, not_not]
      exact ⟨g1, g2⟩
    · simp only [ne_eq, not_or, not_not, not_le, not_lt]
      exact ⟨z2, b8, bt, n4, tl⟩
  · have oka : ∀ x ∈ [fr a], FieldOk s x := by simp [pa]
    have e0 := acceptPlan_eq h (List.forall_mem_nil _) rfl at_ run
    have ea := acceptPlan_eq h oka rfl at_ run (.tol ((rd s s.cur a.toNat).setWidth 32))
    intro vs takes
    refine ⟨fun it fresh user => ?_, fun again hv => ⟨?_, ?_⟩, fun l i kind more => ?_⟩
    · have legal : ((iterOf s s.cur).isSome && (me s).arch.carry.isNone && (me s).arch.priv != .handler) = true := by
        rw [it, fresh, bne_iff_ne.2 user]
        rfl
      rw [legal] at e0 ea
      refine ⟨?_, ?_, fun det => ?_, fun det hv => ?_⟩
      · exact acts_quiet (P := planAcceptEq ls) h rfl (by rw [planAcceptEq, e0]; rfl)
      · exact acts_quiet (P := planGquit ls) h rfl (by rw [planGquit, e0]; rfl)
      · exact acts_quiet (P := planAcceptTol ls a) h rfl (by rw [planAcceptTol, ea, Plan.noDeterm, Plan.ownIf, det]; rfl)
      · exact fireC_raises_own (P := planAcceptTol ls a) hv
          (by rw [planAcceptTol, ea, Plan.noDeterm, Plan.ownIf, det]; rfl) nofun
    · exact fireC_raises_ill (P := planAcceptEq ls) hv (by rw [planAcceptEq, e0]; simp [cPlan, again])
    · exact fireC_raises_ill (P := planGquit ls) hv (by rw [planGquit, e0]; simp [cPlan, again])
    · exact acts_quiet (P := planGput ls) h rfl (planGput_eq h ls at_ run kind more)
  · intro regs run
    have e := planGend_eq h ls open_ hd sp run
    refine ⟨fun done => ?_, fun nd nf => ?_⟩
    · rw [if_pos (by rcases done with o | o <;> rw [o] <;> rfl)] at e
      have q := acts_quiet (i := .gend ls d) (P := planGend ls d) h rfl e
      exact q
    · rw [if_neg (by simp [nd, nf])] at e
      exact sleeps_quiet (P := planGend ls d) h rfl e

/-- Settles O21: spawns and stamps by `spawnWords`, the words of a loop by `loopWords`. -/
theorem spawnAndLoopWords : Obligations.SpawnAndLoopWords := ⟨spawnWords, loopWords⟩

end Sys2Proof.Machine
end

section
/-!
Proofs: the lanes of a register (R163, R164), and what a word of the vector pipe does in a slot that has nothing else
under way.
-/

namespace Sys2Proof.Machine
open Sys2Proof

/-! ## Lanes of a register -/

/-- The number whose digits to the base 2^w are the elements' low w bits. -/
def packed (w : Nat) (l : List Nat) : Nat := l.foldr (fun x acc => x % 2 ^ w + 2 ^ w * acc) 0

theorem packed_lt (w : Nat) (l : List Nat) : packed w l < 2 ^ (w * l.length) := by
  induction l with
  | nil => exact Nat.one_pos
  | cons x r ih =>
    have hx : x % 2 ^ w < 2 ^ w := Nat.mod_lt _ (Nat.two_pow_pos w)
    have e : 2 ^ (w * (r.length + 1)) = 2 ^ w * 2 ^ (w * r.length) := by rw [Nat.mul_succ, Nat.pow_add, Nat.mul_comm]
    rw [List.length_cons, e]
    calc packed w (x :: r) = x % 2 ^ w + 2 ^ w * packed w r := rfl
      _ < 2 ^ w * (packed w r + 1) := by rw [Nat.mul_succ]; omega
      _ ≤ 2 ^ w * 2 ^ (w * r.length) := Nat.mul_le_mul_left _ ih

theorem packed_digit (w : Nat) (l : List Nat) (j : Nat) : packed w l / 2 ^ (w * j) % 2 ^ w = l.getD j 0 % 2 ^ w := by
  induction l generalizing j with
  | nil => simp [packed]
  | cons x r ih =>
    have c : packed w (x :: r) = x % 2 ^ w + 2 ^ w * packed w r := rfl
    have hx : x % 2 ^ w < 2 ^ w := Nat.mod_lt _ (Nat.two_pow_pos w)
    cases j with
    | zero => rw [c, Nat.mul_zero, Nat.pow_zero, Nat.div_one, Nat.add_mul_mod_self_left, Nat.mod_mod]; rfl
    | succ j =>
      rw [c, Nat.mul_succ, Nat.add_comm (w * j), Nat.pow_add, ← Nat.div_div_eq_div_mul,
        Nat.add_mul_div_left _ _ (Nat.two_pow_pos w), Nat.div_eq_of_lt hx, Nat.zero_add, ih]
      rfl

section
variable {w : Nat} {l : List Nat} (fits : w * l.length ≤ 128)
include fits

theorem toNat_lanesWord : (lanesWord w l).toNat = packed w l := by
  have lt : packed w l < 2 ^ 128 := (packed_lt w l).trans_le (Nat.pow_le_pow_right (by decide) fits)
  exact Nat.mod_eq_of_lt lt

theorem lanesWord_lt : (lanesWord w l).toNat < 2 ^ (w * l.length) := by
  rw [toNat_lanesWord fits]
  exact packed_lt w l

theorem lane_lanesWord (j : Nat) : lane w (lanesWord w l) j = l.getD j 0 % 2 ^ w := by
  rw [lane, toNat_lanesWord fits]
  exact packed_digit w l j

end

theorem getD_map_upto {g : Nat → Nat} {n j : Nat} (h : j < n) : ((upto 0 n).map g).getD j 0 = g j := by
  simp [upto_zero_eq_range, h]

@[simp] theorem length_upto (a n : Nat) : (upto a n).length = n := by rw [upto_eq_range', List.length_range']

/-- Lane j of a register built from the values of a function is its j-th value. -/
theorem lane_lanesWord_map {w n j : Nat} (fits : w * n ≤ 128) (g : Nat → Nat) (h : j < n) :
    lane w (lanesWord w ((upto 0 n).map g)) j = g j % 2 ^ w := by
  rw [lane_lanesWord (by simpa using fits), getD_map_upto h]

/-! ## Results lane by lane -/

/-- Two results that a lane of a format cannot tell apart (R43, R163). -/
structure SameLane (f : Nat) (norm : Bool) (a b : Nat × BitVec 5) : Prop where
  value : a.1 % 2 ^ codeWidth f = b.1 % 2 ^ codeWidth f
  flags : a.2 = b.2
  subnormal : norm = true → isSubnormal f a.1 = isSubnormal f b.1

theorem SameLane.of_eq {f : Nat} {norm : Bool} {a b : Nat × BitVec 5} (e : a = b) : SameLane f norm a b := by
  subst e
  exact ⟨rfl, rfl, fun _ => rfl⟩

theorem lanewise_laneOut {s : State} {i : Instr} {d : BitVec 7} {f : Nat} {norm : Bool} {srcs : List Word} {r : BitVec 4}
    {g g' : Nat → Nat × BitVec 5} (v : Says.Vec s i d (laneOut f r norm srcs g)) (hr : norm = true → r = (me s).arch.round)
    (same : ∀ j < 128 / codeWidth f, SameLane f norm (g j) (g' j)) : Says.Lanewise s i d f norm srcs g' := by
  have each : ∀ j ∈ upto 0 (128 / codeWidth f), SameLane f norm (g j) (g' j) := fun j m =>
    same j (by have := (mem_upto.1 m).2; omega)
  refine ⟨_, v, fun j hj => ?_, ?_, ?_⟩
  · have out : (laneOut f r norm srcs g).out = lanesWord (codeWidth f) ((upto 0 (128 / codeWidth f)).map (fun j => (g j).1)) := by
      simp only [laneOut, List.map_map, laneCount]
      rfl
    rw [out, lane_lanesWord_map (Nat.mul_div_le 128 _) _ hj, (same j hj).value]
  · simp only [laneOut, List.map_map, laneCount]
    exact congrArg orFlags (List.map_congr_left fun j m => (each j m).flags)
  · cases norm with
    | false => rfl
    | true =>
      simp only [laneOut, laneCount, hr rfl, ftzOf, List.filter_map, List.length_map, Bool.true_and, true_and]
      have same' : (upto 0 (128 / codeWidth f)).filter (fun j =>
          isSubnormal f (g j).1 || srcs.any (fun x => isSubnormal f (laneElem f x j))) =
          (upto 0 (128 / codeWidth f)).filter (fun j =>
          isSubnormal f (g' j).1 || srcs.any (fun x => isSubnormal f (laneElem f x j))) :=
        List.filter_congr fun j m => by rw [(each j m).subnormal rfl]
      rw [← same']
      cases (me s).arch.round.getLsbD 3 <;> rfl

/-! ## Words of the pipe -/

@[simp] theorem fieldOk_ioF {s : State} {f : Nat} (d : Dest s f) : FieldOk s (ioF f) := .one rfl d.1 fun _ => d

/-- The plan of a word of the pipe over such fields, with the lathe idle: its writes and its flags. -/
theorem vecPlan_eq {s : State} {i : Instr} {v : VWord} {r : VRes} (h : Clear s) (w : vword id i = some v)
    (wf : i.wf = true) (ok : ∀ x ∈ v.fields, FieldOk s x)
    (ev : v.eval { round := (me s).arch.round, reg := rd s s.cur, pred := (me s).arch.pred } = r) :
    vecPlan i s = { dests := v.fields.flatMap Field.dests, vpipe := true, lost := r.slow
                    stages := r.writes.map (fun x => wr s.cur x.1 x.2) ++
                      [wrFlags s.cur (thr s s.cur).fxmask r.flags] } := by
  have idle : ¬(thr s s.cur).arch.lathe.st = .capturing := by
    rw [show thr s s.cur = me s from rfl, h.idle]
    nofun
  subst ev
  simp only [vecPlan, w, if_neg idle, wf, regPlan_fields h _ ok, Plan.does, List.nil_append, Nat.zero_add, Bool.not_true]

section
variable {s : State} {i : Instr} {v : VWord} (h : Clear s) (pipe : pipeBusy s s.cur = false)
  (e : exec i s = fireA (vecPlan i) s) (w : vword id i = some v) (wf : i.wf = true) (ok : ∀ x ∈ v.fields, FieldOk s x)
include h pipe e w wf ok

/-- A word of the pipe over such fields ends its bundle with its writes and flags, and with the normaliser's turns
lost. -/
theorem exec_vword {r : VRes} (ev : v.eval { round := (me s).arch.round, reg := rd s s.cur, pred := (me s).arch.pred } = r)
    {u : State} (hu : run (r.writes.map (fun x => wr s.cur x.1 x.2)) (taken s) = u) (fu : Fit u) (cu : u.cur = s.cur)
    (mask : (me u).fxmask = (me s).fxmask) :
    exec i s = .next (finished (putFlags u r.flags) false none r.slow) := by
  have plan := vecPlan_eq h w wf ok ev
  have q : Runs s (vecPlan i s) := by
    rw [plan]
    exact ⟨rfl, rfl, rfl, rfl, rfl, rfl, rfl, by rw [pipe]; rfl, rfl, rfl, rfl, rfl, rfl, rfl⟩
  rw [e, fireA_runs h q (u := putFlags u r.flags) ?_ (fu.putFlags _) (by rw [cur_putFlags, cu]), plan]
  rw [plan, run_append, hu, run_cons, run_nil, ← cu]
  exact wrFlags_put u _ _ (by rw [cu]; exact mask)

/-- A word of the pipe with one result. -/
theorem vec_of_oneRes {d : BitVec 7} {o : VOut} (hd : Dest s d.toNat)
    (ev : v.eval { round := (me s).arch.round, reg := rd s s.cur, pred := (me s).arch.pred } = oneRes d.toNat o) :
    Says.Vec s i d o := by
  refine exec_vword h pipe e w wf ok ev ?_ (h.fit_taken.put d.toNat o.out) (cur_put _ _ _) ?_
  · exact wr_put (s := taken s) o.out hd.1.1
  · rw [me_put d.toNat o.out (s := taken s) h.held]
    split <;> rfl

end

end Sys2Proof.Machine
end

section
/-!
Proofs: lane-wise arithmetic (R163, R165 to R168, R173). The model computes a lane's integers signed and wraps them; the
statement computes them modulo 2^w.
-/

namespace Sys2Proof.Machine
open Sys2Proof

/-! ## Integers modulo 2^w -/

theorem wrap_mod {w n : Nat} {i : Int} (h : BitVec.ofInt w i = BitVec.ofNat w n) : wrap w i % 2 ^ w = n % 2 ^ w := by
  rw [wrap, h, BitVec.toNat_ofNat, Nat.mod_mod]

theorem ofInt_laneInt (f : Nat) (x : Word) (j : Nat) :
    BitVec.ofInt (codeWidth f) (laneInt f x j) = BitVec.ofNat (codeWidth f) (lane (codeWidth f) x j) := by
  simp only [laneInt]
  split
  · rw [signed, BitVec.ofInt_toInt]
  · rw [BitVec.ofInt_natCast]

theorem ofNat_complement {w n : Nat} (h : n < 2 ^ w) : BitVec.ofNat w (2 ^ w - n) = -BitVec.ofNat w n := by
  apply BitVec.eq_of_toNat_eq
  rw [BitVec.toNat_neg, BitVec.toNat_ofNat, BitVec.toNat_ofNat, Nat.mod_eq_of_lt h]

theorem lane_lt (w : Nat) (x : Word) (j : Nat) : lane w x j < 2 ^ w := Nat.mod_lt _ (Nat.two_pow_pos w)

theorem isSubnormal_int {f : Nat} (h : isInt f = true) (x : Nat) : isSubnormal f x = false := by
  have none_ : floatFields f = none := by
    unfold floatFields
    split
    case h_8 => rfl
    all_goals exact absurd h (by decide)
  simp [isSubnormal, none_]

/-- A lane of an arithmetic word: integers alike modulo 2^w, other formats alike. -/
theorem sameLane_arith {f : Nat} {r : BitVec 4} {i : Int} {n : Nat} {x y : Num × BitVec 5}
    (int : BitVec.ofInt (codeWidth f) i = BitVec.ofNat (codeWidth f) n) (num : x = y) :
    SameLane f true (if isInt f then (wrap (codeWidth f) i, 0) else roundLane f r x)
      (if isInt f then (n, 0) else roundLane f r y) := by
  subst num
  cases h : isInt f with
  | true => exact ⟨wrap_mod int, rfl, fun _ => by rw [isSubnormal_int h, isSubnormal_int h]⟩
  | false => exact .of_eq rfl

/-! ## Order, absolute value and negation of one lane -/

theorem minmaxElem_eq (f : Nat) (r : BitVec 4) (least : Bool) (x y : Nat) :
    minmaxElem f r least x y = Says.extremum f r least x y := by
  simp only [minmaxElem, Says.extremum, Says.laneLe]
  by_cases h : (isInt f && !isSigned f) = true
  · simp only [h, if_true, Int.ofNat_le]
  · simp only [h, if_false, Bool.false_eq_true]

theorem xor_two_pow {x k : Nat} (h : x < 2 ^ k) : x ^^^ 2 ^ k = x + 2 ^ k := by
  have high : (x ^^^ 2 ^ k) / 2 ^ k = 1 := by
    rw [Nat.xor_div_two_pow, Nat.div_eq_of_lt h, Nat.div_self (Nat.two_pow_pos k), Nat.zero_xor]
  have low : (x ^^^ 2 ^ k) % 2 ^ k = x := by
    rw [Nat.xor_mod_two_pow, Nat.mod_eq_of_lt h, Nat.mod_self, Nat.xor_zero]
  rw [← Nat.div_add_mod (x ^^^ 2 ^ k) (2 ^ k), high, low, Nat.mul_one, Nat.add_comm]

/-- The top bit of a number of w bits. -/
theorem testBit_top {w x : Nat} (hw : 0 < w) (hx : x < 2 ^ w) : x.testBit (w - 1) = decide (2 ^ (w - 1) ≤ x) := by
  obtain ⟨k, rfl⟩ : ∃ k, w = k + 1 := ⟨w - 1, by omega⟩
  rw [Nat.add_sub_cancel]
  rw [Nat.pow_succ] at hx
  by_cases le : 2 ^ k ≤ x
  · have q : x / 2 ^ k = 1 := by
      rw [Nat.div_eq_iff (Nat.two_pow_pos k)]
      omega
    rw [Nat.testBit_eq_decide_div_mod_eq, q]
    simp [le]
  · rw [Nat.testBit_lt_two_pow (Nat.lt_of_not_le le)]
    simp [le]

theorem elemBits_pos (f : Nat) : 0 < elemBits f := by
  unfold elemBits
  split
  · decide
  · unfold codeWidth
    split <;> decide

section
variable {f x : Nat} (hx : x < 2 ^ elemBits f)
include hx

theorem absElem_eq : absElem f x = Says.absLane f x := by
  have hw := elemBits_pos f
  have top := testBit_top hw hx
  have half : 2 ^ elemBits f = 2 * 2 ^ (elemBits f - 1) := by
    rw [← Nat.pow_succ', Nat.succ_eq_add_one, Nat.sub_add_cancel hw]
  simp only [absElem, Says.absLane, top]
  split
  · cases isSigned f with
    | false => simp
    | true =>
      have v : signed (elemBits f) x = if 2 ^ (elemBits f - 1) ≤ x then (x : Int) - (2 ^ elemBits f : Nat) else x := by
        rw [signed, BitVec.toInt_eq_toNat_cond, BitVec.toNat_ofNat, Nat.mod_eq_of_lt hx, half]
        split <;> split <;> omega
      rw [v]
      have small : ∀ n : Nat, n < 2 ^ elemBits f → wrap (elemBits f) n = n := fun n h => by
        rw [wrap, BitVec.ofInt_natCast, BitVec.toNat_ofNat, Nat.mod_eq_of_lt h]
      by_cases le : 2 ^ (elemBits f - 1) ≤ x
      · simp only [le, if_true, decide_true, Bool.and_self]
        rw [small _ (by omega)]
        omega
      · simp only [le, if_false, if_true, decide_false, Bool.and_false, Bool.false_eq_true, Int.natAbs_natCast]
        exact small x hx
  · split
    · by_cases le : 2 ^ (elemBits f - 1) ≤ x
      · simp only [le, decide_true, if_true]
        exact Nat.mod_eq_of_lt (by omega)
      · simp [le]
    · rfl

theorem negElem_eq : negElem f x = Says.negLane f x % 2 ^ elemBits f := by
  have hw := elemBits_pos f
  have top := testBit_top hw hx
  have half : 2 ^ elemBits f = 2 * 2 ^ (elemBits f - 1) := by
    rw [← Nat.pow_succ', Nat.succ_eq_add_one, Nat.sub_add_cancel hw]
  simp only [negElem, Says.negLane, top]
  split
  · rfl
  · show _ = (x ^^^ 2 ^ (elemBits f - 1)) % _
    by_cases le : 2 ^ (elemBits f - 1) ≤ x
    · obtain ⟨y, rfl⟩ : ∃ y, x = y + 2 ^ (elemBits f - 1) := ⟨x - 2 ^ (elemBits f - 1), by omega⟩
      have hy : y < 2 ^ (elemBits f - 1) := by omega
      rw [← xor_two_pow hy, Nat.xor_assoc, Nat.xor_self, Nat.xor_zero, xor_two_pow hy, Nat.mod_eq_of_lt (by omega)]
      simp
    · rw [xor_two_pow (Nat.lt_of_not_le le), Nat.mod_eq_of_lt (by omega)]
      simp [le]

end

theorem max_min_eq_between {low high : Int} (h : low ≤ high) (x : Int) : max low (min high x) = Says.between low high x := by
  unfold Says.between
  split
  · omega
  · split <;> omega

/-! ## The words -/

/-- A vector word with sources a and b (R164). -/
theorem lanewise_vword3 {s : State} {i : Instr} {d a b : BitVec 7} {F : BitVec 4 → Word → Word → VOut} {f : Nat} {norm : Bool}
    {srcs : List Word} {r : BitVec 4} {g g' : Nat → Nat × BitVec 5} (h : Clear s) (pipe : pipeBusy s s.cur = false)
    (hd : Dest s d.toNat) (pa : Plain s a.toNat) (pb : Plain s b.toNat) (e : exec i s = fireA (vecPlan i) s)
    (w : vword id i = some (vword3 d.toNat a.toNat b.toNat F)) (wf : i.wf = true)
    (out : F (me s).arch.round (rd s s.cur a.toNat) (rd s s.cur b.toNat) = laneOut f r norm srcs g)
    (hr : norm = true → r = (me s).arch.round) (same : ∀ j, SameLane f norm (g j) (g' j)) :
    Says.Lanewise s i d f norm srcs g' := by
  refine lanewise_laneOut (g := g) (vec_of_oneRes h pipe e w wf ?_ hd (out ▸ rfl)) hr fun j _ => same j
  simp [vword3, hd, pa, pb]

/-- A vector word with one source. -/
theorem lanewise_vword2 {s : State} {i : Instr} {d a : BitVec 7} {F : BitVec 4 → Word → VOut} {f : Nat} {norm : Bool}
    {srcs : List Word} {r : BitVec 4} {g g' : Nat → Nat × BitVec 5} (h : Clear s) (pipe : pipeBusy s s.cur = false)
    (hd : Dest s d.toNat) (pa : Plain s a.toNat) (e : exec i s = fireA (vecPlan i) s)
    (w : vword id i = some (vword2 d.toNat a.toNat F)) (wf : i.wf = true)
    (out : F (me s).arch.round (rd s s.cur a.toNat) = laneOut f r norm srcs g)
    (hr : norm = true → r = (me s).arch.round) (same : ∀ j, SameLane f norm (g j) (g' j)) :
    Says.Lanewise s i d f norm srcs g' := by
  refine lanewise_laneOut (g := g) (vec_of_oneRes h pipe e w wf ?_ hd (out ▸ rfl)) hr fun j _ => same j
  simp [vword2, hd, pa]

/-- A vector word that reads its destination too. -/
theorem lanewise_vwordAcc {s : State} {i : Instr} {d a b : BitVec 7} {F : BitVec 4 → Word → Word → Word → VOut} {f : Nat}
    {norm : Bool} {srcs : List Word} {r : BitVec 4} {g g' : Nat → Nat × BitVec 5} (h : Clear s)
    (pipe : pipeBusy s s.cur = false) (hd : Dest s d.toNat) (pa : Plain s a.toNat) (pb : Plain s b.toNat)
    (e : exec i s = fireA (vecPlan i) s) (w : vword id i = some (vwordAcc d.toNat a.toNat b.toNat F)) (wf : i.wf = true)
    (out : F (me s).arch.round (rd s s.cur a.toNat) (rd s s.cur b.toNat) (rd s s.cur d.toNat) = laneOut f r norm srcs g)
    (hr : norm = true → r = (me s).arch.round) (same : ∀ j, SameLane f norm (g j) (g' j)) :
    Says.Lanewise s i d f norm srcs g' := by
  refine lanewise_laneOut (g := g) (vec_of_oneRes h pipe e w wf ?_ hd (out ▸ rfl)) hr fun j _ => same j
  simp [vwordAcc, hd, pa, pb]

/-- A vector word that moves bits. -/
theorem vec_moved {s : State} {i : Instr} {d a b : BitVec 7} {F : Word → Word → Word} (h : Clear s)
    (pipe : pipeBusy s s.cur = false) (hd : Dest s d.toNat) (pa : Plain s a.toNat) (pb : Plain s b.toNat)
    (e : exec i s = fireA (vecPlan i) s)
    (w : vword id i = some (vword3 d.toNat a.toNat b.toNat (fun _ x y => moved (F x y)))) (wf : i.wf = true) :
    Says.Vec s i d { out := F (rd s s.cur a.toNat) (rd s s.cur b.toNat) } :=
  vec_of_oneRes h pipe e w wf (by simp [vword3, hd, pa, pb]) hd rfl

/-- Settles O22: each word is `laneOut` of a function of its lanes, which is the statement's up to 2^w. -/
theorem vectorArithmeticIsLanewise : Obligations.VectorArithmeticIsLanewise := by
  intro s d a b h pipe hd pa pb x y z r
  have el : ∀ (f : Nat) (v : Word) (j : Nat), laneElem f v j < 2 ^ elemBits f := fun f v j => Nat.mod_lt _ (Nat.two_pow_pos _)
  refine ⟨fun t => ?_, fun t => ?_, ?_, ?_, ?_⟩
  · intro f w on u v
    have hu := ofInt_laneInt f
    refine ⟨?_, ?_, ?_, ?_, ?_, ?_, ?_, ?_⟩
    · refine lanewise_vword3 h pipe hd pa pb rfl rfl rfl (rfl : valVadd t.toNat r x y = _) (fun _ => rfl) fun j =>
        sameLane_arith ?_ rfl
      rw [BitVec.ofInt_add, hu, hu, BitVec.ofNat_add]
    · refine lanewise_vword3 h pipe hd pa pb rfl rfl rfl (rfl : valVsub t.toNat r x y = _) (fun _ => rfl) fun j =>
        sameLane_arith ?_ rfl
      rw [ofInt_sub, hu, hu, BitVec.ofNat_add, ofNat_complement (lane_lt _ _ _), ← BitVec.sub_eq_add_neg]
    · refine lanewise_vword3 h pipe hd pa pb rfl rfl rfl (rfl : valVmul t.toNat r x y = _) (fun _ => rfl) fun j =>
        sameLane_arith ?_ rfl
      rw [BitVec.ofInt_mul, hu, hu, BitVec.ofNat_mul]
    · refine lanewise_vwordAcc h pipe hd pa pb rfl rfl rfl (rfl : valVfma t.toNat r x y z = _) (fun _ => rfl) fun j =>
        sameLane_arith ?_ rfl
      rw [BitVec.ofInt_add, BitVec.ofInt_mul, hu, hu, hu, BitVec.ofNat_add, BitVec.ofNat_mul]
    · exact lanewise_vword3 h pipe hd pa pb rfl rfl rfl (rfl : valMinmax true t.toNat r x y = _) (fun _ => rfl) fun j =>
        .of_eq (minmaxElem_eq _ _ _ _ _)
    · exact lanewise_vword3 h pipe hd pa pb rfl rfl rfl (rfl : valMinmax false t.toNat r x y = _) (fun _ => rfl) fun j =>
        .of_eq (minmaxElem_eq _ _ _ _ _)
    · exact lanewise_vword2 h pipe hd pa rfl rfl rfl (rfl : valVabs t.toNat x = _) nofun fun j =>
        .of_eq (Prod.ext (absElem_eq (el _ _ _)) rfl)
    · exact lanewise_vword2 h pipe hd pa rfl rfl rfl (rfl : valVneg t.toNat x = _) nofun fun j =>
        .of_eq (Prod.ext (negElem_eq (el _ _ _)) rfl)
  · intro f w n top low
    refine ⟨?_, ?_, ?_, ?_⟩
    · refine lanewise_vword3 h pipe hd pa pb rfl rfl rfl (rfl : valVshl t.toNat x y = _) nofun fun j => ⟨?_, rfl, nofun⟩
      rw [Nat.mod_mod, Nat.shiftLeft_eq]
    · refine lanewise_vword3 h pipe hd pa pb rfl rfl rfl (rfl : valVshr t.toNat x y = _) nofun fun j => .of_eq ?_
      rw [Int.shiftRight_eq_div_pow]
      rfl
    · refine lanewise_vword3 h pipe hd pa pb rfl rfl rfl (rfl : valVadds t.toNat x y = _) nofun fun j => .of_eq ?_
      have range : intRange f = (low, top) := by
        simp only [intRange, low, top, w]
        split <;> simp
      have le : low ≤ top := by
        have pos : (0 : Int) < 2 ^ (w - 1) := by positivity
        have pos' : (0 : Int) < 2 ^ w := by positivity
        simp only [low, top]
        split <;> omega
      show (wrap w (max (intRange f).1 (min (intRange f).2 (n x j + n y j))), 0) = _
      rw [range, max_min_eq_between le]
    · intro f w
      refine lanewise_vword3 h pipe hd pa pb rfl rfl rfl (rfl : valVscale (8 + t.toNat) r x y = _) (fun _ => rfl) fun j =>
        .of_eq ?_
      simp only [max_min_eq_between (show (-(2 ^ 15) : Int) ≤ 2 ^ 15 by decide)]
      rfl
  · exact vec_moved h pipe hd pa pb rfl rfl rfl
  · exact vec_moved h pipe hd pa pb rfl rfl rfl
  · exact vec_moved h pipe hd pa pb rfl rfl rfl

end Sys2Proof.Machine
end

section
/-!
Proofs: vector comparison, selection, shuffle, broadcast, reduction and the grouped dot product (R169 to R172).
-/

namespace Sys2Proof.Machine
open Sys2Proof

/-! ## Comparison -/

/-- Bit j of a number whose bits are a list's. -/
theorem testBit_foldr_bit {α : Type} (p : α → Bool) (l : List α) (j : Nat) :
    (l.foldr (fun x acc => bit (p x) + 2 * acc) 0).testBit j = ((l.map p).getD j false) := by
  induction l generalizing j with
  | nil => simp
  | cons x r ih =>
    rw [List.foldr_cons, List.map_cons]
    have b : bit (p x) < 2 := by cases p x <;> decide
    cases j with
    | zero =>
      rw [Nat.testBit_zero, Nat.add_mul_mod_self_left, Nat.mod_eq_of_lt b]
      cases h : p x <;> simp [bit]
    | succ j =>
      rw [Nat.testBit_succ, Nat.add_mul_div_left _ _ (by decide), Nat.div_eq_of_lt b, Nat.zero_add, ih]
      rfl

/-- VCMP's predicate: bit j is the outcome of lane j (R169). -/
theorem getLsbD_valVcmp {t cond : Nat} {r : BitVec 4} {a b : Word} {j : Nat} (hj : j < 16) :
    (valVcmp t cond r a b).1.getLsbD j = (decide (j < 128 / codeWidth (typeFmt t)) &&
      (compareElem (typeFmt t) (ftzOf r) cond (laneElem (typeFmt t) a j) (laneElem (typeFmt t) b j)).1) := by
  simp only [valVcmp, BitVec.getLsbD_ofNat, hj, decide_true, Bool.true_and, testBit_foldr_bit, List.map_map, laneCount]
  by_cases lt : j < 128 / codeWidth (typeFmt t)
  · simp [upto_zero_eq_range, lt]
  · simp [upto_zero_eq_range, lt]

/-- A comparison's issue: its predicate, its flags and its lost positions. -/
theorem exec_vcmp {s : State} (h : Clear s) (pipe : pipeBusy s s.cur = false) (k c : BitVec 3) {a b : BitVec 7}
    (pa : Plain s a.toNat) (pb : Plain s b.toNat) (t : BitVec 4) {x : BitVec 16 × BitVec 5 × Nat}
    (e : valVcmp t.toNat c.toNat (me s).arch.round (rd s s.cur a.toNat) (rd s s.cur b.toNat) = x) :
    exec (.vcmp k c a b t) s = .next (finished (putFlags (putPred (taken s) k.toNat x.1) x.2.1) false none x.2.2) := by
  have ok : ∀ y ∈ outPred k :: [fr a, fr b], FieldOk s y := by simp [pa, pb]
  have plan : planVcmp k c a b t s = {
      dests := (outPred k :: [fr a, fr b]).flatMap Field.dests, vpipe := true, lost := x.2.2
      stages := [wrPred s.cur k.toNat x.1, wrFlags s.cur (thr s s.cur).fxmask x.2.1] } := by
    subst e
    simp only [planVcmp, predPlan, aPlan_clear h, regPlan_fields h true ok, Plan.does, List.nil_append, Nat.zero_add,
      Bool.not_true]
  have q : Runs s (planVcmp k c a b t s) := by
    rw [plan]
    exact ⟨rfl, rfl, rfl, rfl, rfl, rfl, rfl, by rw [pipe]; rfl, rfl, rfl, rfl, rfl, rfl, rfl⟩
  have flags : (me (putPred (taken s) k.toNat x.1)).fxmask = (thr s s.cur).fxmask := by
    unfold putPred
    rw [me_onMe (taken s) _ h.held]
    rfl
  have effect : run (planVcmp k c a b t s).stages (taken s) = putFlags (putPred (taken s) k.toNat x.1) x.2.1 := by
    rw [plan, run_cons, run_cons, run_nil]
    exact wrFlags_put (putPred (taken s) k.toNat x.1) _ x.2.1 flags
  show fireA (planVcmp k c a b t) s = _
  rw [fireA_runs h q effect ((h.fit_taken.putPred _ _).putFlags _) (cur_putFlags _ _), plan]

/-! ## Reduction -/

theorem drop_upto (n : Nat) : (upto 0 n).drop 1 = upto 1 (n - 1) := by
  cases n <;> rfl

section
variable {s : State} {d a : BitVec 7} (h : Clear s) (pipe : pipeBusy s s.cur = false) (hd : Dest s d.toNat)
  (pa : Plain s a.toNat)
include h pipe hd pa

theorem vec_vred (b : BitVec 7) (t : BitVec 4) (wf : (Instr.vred d a b t).wf = true) {o : VOut}
    (e : valVred t.toNat b.toNat (me s).arch.round (rd s s.cur a.toNat) = o) : Says.Vec s (.vred d a b t) d o :=
  vec_of_oneRes h pipe rfl rfl wf (by simp [vword2, hd, pa]) hd (e ▸ rfl)

theorem vec_vdot {b : BitVec 7} (pb : Plain s b.toNat) (t : BitVec 4) (wf : (Instr.vdot d a b t).wf = true) {o : VOut}
    (e : valVdot t.toNat (me s).arch.round (rd s s.cur a.toNat) (rd s s.cur b.toNat) (rd s s.cur d.toNat) = o) :
    Says.Vec s (.vdot d a b t) d o :=
  vec_of_oneRes h pipe rfl rfl wf (by simp [vwordAcc, hd, pa, pb]) hd (e ▸ rfl)

end

/-- Integers of a reduction cost no turn of the normaliser. -/
theorem valVred_int {t : Nat} (int : isInt (typeFmt t) = true) (r : BitVec 4) (a : Word) : valVred t 0 r a =
    { out := wd (wrap (codeWidth (typeFmt t))
        (Says.sum ((upto 0 (128 / codeWidth (typeFmt t))).map (laneInt (typeFmt t) a)))) } := by
  have lt : ∀ i : Int, wrap (codeWidth (typeFmt t)) i % 2 ^ codeWidth (typeFmt t) = wrap (codeWidth (typeFmt t)) i :=
    fun i => Nat.mod_eq_of_lt (BitVec.isLt _)
  simp only [valVred, int, if_true, lt, isSubnormal_int int, Bool.and_false, Bool.or_self]
  simp [laneCount, Says.sum]

/-- With FTZ no lane meets the normaliser (R43). -/
theorem valVred_slow (t op : Nat) {r : BitVec 4} (ftz : r.getLsbD 3 = true) (a : Word) : (valVred t op r a).slow = 0 :=
  if_pos ftz

theorem valVred_sum {t : Nat} (num : isInt (typeFmt t) = false) (r : BitVec 4) (a : Word) : valVred t 0 r a =
    (let e := roundLane (typeFmt t) r (redSum r ((upto 0 (128 / codeWidth (typeFmt t))).map (laneNum (typeFmt t) r a)))
     ⟨wd (e.1 % 2 ^ codeWidth (typeFmt t)), e.2, (valVred t 0 r a).slow⟩) := by
  simp only [valVred, num, if_true, if_false, Bool.false_eq_true, laneCount]

theorem valVred_extremum (t : Nat) (least : Bool) (r : BitVec 4) (a : Word) :
    valVred t (if least then 1 else 2 : BitVec 7).toNat r a =
      (let f := typeFmt t
       let e := ((upto 1 (128 / codeWidth f - 1)).map (laneElem f a)).foldl (fun acc v =>
        ((Says.extremum f r least acc.1 v).1, acc.2 ||| (Says.extremum f r least acc.1 v).2)) (laneElem f a 0, 0)
       ⟨wd (e.1 % 2 ^ codeWidth f), e.2, (valVred t (if least then 1 else 2 : BitVec 7).toNat r a).slow⟩) := by
  have op : (if least then 1 else 2 : BitVec 7).toNat ≠ 0 := by cases least <;> decide
  have one : ((if least then 1 else 2 : BitVec 7).toNat == 1) = least := by cases least <;> rfl
  simp only [valVred, if_neg op, one, drop_upto, minmaxElem_eq, List.foldl_map, laneCount]

/-! ## The grouped dot product -/

theorem foldl_add_int (l : List Int) (z : Int) : l.foldl (· + ·) z = z + Says.sum l := by
  unfold Says.sum
  induction l generalizing z with
  | nil => simp
  | cons x r ih => rw [List.foldl_cons, List.foldl_cons, ih, ih (0 + x), Int.zero_add, Int.add_assoc]

/-- The value of integer group g (R172). -/
def dotInt (f : Nat) (a b d : Word) (g : Nat) : Nat :=
  wrap 32 (lane 32 d g + Says.sum ((upto (32 / codeWidth f * g) (32 / codeWidth f)).map (fun j =>
    laneInt f a j * laneInt f b j)))

theorem orFlags_zero (l : List (BitVec 5)) (h : ∀ x ∈ l, x = 0) : orFlags l = 0 := by
  unfold orFlags
  induction l with
  | nil => rfl
  | cons x r ih => rw [List.foldl_cons, h x (by simp), BitVec.or_self, ih fun y m => h y (by simp [m])]

theorem valVdot_int {t : Nat} (int : isInt (typeFmt t) = true) (r : BitVec 4) (a b d : Word) : valVdot t r a b d =
    { out := lanesWord 32 ((upto 0 4).map (dotInt (typeFmt t) a b d)) } := by
  simp only [valVdot, int, if_true, foldl_add_int, List.map_map, List.filter_map, List.length_map]
  rw [orFlags_zero _ (by simp)]
  simp only [Function.comp_def, List.filter_false, List.length_nil]
  rfl

/-- A floating or taper group, rounded once (R172). -/
def dotNum (f : Nat) (r : BitVec 4) (a b d : Word) (g : Nat) : Nat × BitVec 5 :=
  roundLane 11 r (dotGroup r ((upto (32 / codeWidth f * g) (32 / codeWidth f)).map (fun j => (laneNum f r a j, laneNum f r b j)))
    (decodeNum 11 (lane 32 d g) (ftzOf r)))

theorem valVdot_num {t : Nat} (num : isInt (typeFmt t) = false) (r : BitVec 4) (a b d : Word) : valVdot t r a b d =
    ⟨lanesWord 32 ((upto 0 4).map (fun g => (dotNum (typeFmt t) r a b d g).1)),
     orFlags ((upto 0 4).map (fun g => (dotNum (typeFmt t) r a b d g).2)), (valVdot t r a b d).slow⟩ := by
  simp only [valVdot, num, if_false, Bool.false_eq_true, List.map_map, dotNum, Function.comp_def]

theorem valVdot_slow {t : Nat} (num : isInt (typeFmt t) = false) {r : BitVec 4} (ftz : ftzOf r = true) (a b d : Word) :
    (valVdot t r a b d).slow = 0 := by
  simp [valVdot, num, ftz, List.filter_map, Function.comp_def]

/-- Settles O23: comparison by `exec_vcmp`, selections lane by lane, sums and extrema by the values of VRED and VDOT. -/
theorem vectorWordsSelectAndReduce : Obligations.VectorWordsSelectAndReduce := by
  intro s d a b k c t h pipe hd pa pb x y z r f w lanes el num
  refine ⟨?_, ?_, ?_, ?_, fun int => ?_, fun fl => ?_, fun least => ?_⟩
  · refine ⟨(valVcmp t.toNat c.toNat r x y).1, fun j hj => getLsbD_valVcmp hj, ?_⟩
    rw [exec_vcmp h pipe k c pa pb t rfl]
    simp only [valVcmp, List.map_map]
    rfl
  · refine lanewise_laneOut (r := 0) (g := fun j => (if ((me s).arch.pred k.toNat).getLsbD j then el x j else el z j, 0))
      (vec_of_oneRes h pipe rfl rfl rfl (by simp [hd, pa]) hd rfl) nofun fun j _ => .of_eq rfl
  · exact lanewise_vwordAcc h pipe hd pa pb rfl rfl rfl (rfl : valVshuf t.toNat x y = _) nofun fun j => .of_eq rfl
  · exact lanewise_vword2 h pipe hd pa rfl rfl rfl (rfl : valVbcast t.toNat x = _) nofun fun j => .of_eq rfl
  · intro n
    refine ⟨vec_vred h pipe hd pa 0 t rfl (valVred_int int r x), fun wf => ?_⟩
    refine ⟨_, vec_vdot h pipe hd pa pb t wf (valVdot_int int r x y z), fun g hg => ?_⟩
    rw [lane_lanesWord_map (by decide) _ hg]
    exact Nat.mod_eq_of_lt (BitVec.isLt _)
  · refine ⟨⟨_, fun ftz => valVred_slow _ _ ftz _, vec_vred h pipe hd pa 0 t rfl (valVred_sum fl r x)⟩, fun wf => ?_⟩
    refine ⟨_, _, fun ftz => valVdot_slow fl ftz _ _ _, vec_vdot h pipe hd pa pb t wf (valVdot_num fl r x y z), fun g hg => ?_⟩
    rw [lane_lanesWord_map (by decide) _ hg]
    rfl
  · exact ⟨_, fun ftz => valVred_slow _ _ ftz _,
      vec_vred h pipe hd pa _ t (by cases least <;> rfl) (valVred_extremum t.toNat least r x)⟩

end Sys2Proof.Machine
end

section
/-!
Proofs: conversions (R179 to R182) and the words of the special-function unit (R174 to R178, R183).
-/

namespace Sys2Proof.Machine
open Sys2Proof

/-! ## Converted elements -/

section
variable (e f n : Nat) (r : BitVec 4) (a : Word) (g : Nat → Nat → Nat × BitVec 5)

theorem convElems_values : (convElems e f n r a g).1 = (upto 0 n).map (fun j => (g j (laneElem f a j)).1) := by
  simp only [convElems, List.map_map, Function.comp_def]

theorem convElems_flags : (convElems e f n r a g).2.1 = orFlags ((upto 0 n).map (fun j => (g j (laneElem f a j)).2)) := by
  simp only [convElems, List.map_map, Function.comp_def]

theorem convElems_slow :
    (convElems e f n r a g).2.2 ≤ n ∧ (r.getLsbD 3 = true → (convElems e f n r a g).2.2 = 0) := by
  refine ⟨?_, fun ftz => if_pos ftz⟩
  simp only [convElems]
  split
  · exact Nat.zero_le n
  · exact (List.length_filter_le _ _).trans (by simp)

variable {n} (fits : codeWidth e * n ≤ 128)
include fits

/-- The elements as a register: each in its place, and nothing above them. -/
theorem lanesWord_convElems : (lanesWord (codeWidth e) (convElems e f n r a g).1).toNat < 2 ^ (codeWidth e * n) ∧
    ∀ j < n, lane (codeWidth e) (lanesWord (codeWidth e) (convElems e f n r a g).1) j =
      (g j (laneElem f a j)).1 % 2 ^ codeWidth e := by
  rw [convElems_values]
  refine ⟨?_, fun j hj => lane_lanesWord_map fits _ hj⟩
  have lt := lanesWord_lt (w := codeWidth e) (l := (upto 0 n).map (fun j => (g j (laneElem f a j)).1)) (by simpa using fits)
  simpa using lt

end

theorem convCount_fits (e f : Nat) : codeWidth e * convCount e f ≤ 128 :=
  (Nat.mul_le_mul_right _ (Nat.le_max_left (codeWidth e) (codeWidth f))).trans (Nat.mul_div_le 128 _)

theorem fmtWidth_eq {f : BitVec 5} (h : fmtOk f = true) : fmtWidth f = codeWidth f.toNat := by
  revert h
  revert f
  decide

/-- Two writes of fields with no stream. -/
theorem run_wr_two {s : State} (h : occupied s s.cur = true) {f g : Nat} (v w : Word) (hf : (me s).arch.strm f = none)
    (hg : (me s).arch.strm g = none) : run [wr s.cur f v, wr s.cur g w] s = put (put s f v) g w := by
  rw [run_cons, run_cons, run_nil, wr_put v hf]
  have free : (me (put s f v)).arch.strm g = none := by
    rw [me_put f v h]
    split <;> exact hg
  have q := wr_put (s := put s f v) w free
  rwa [cur_put] at q

/-- Settles O24: each word over its converted elements. -/
theorem conversionsRoundOnce : Obligations.ConversionsRoundOnce := by
  intro s d a e f h pipe hd pa x r dw sw conv flags fits
  refine ⟨fun wf => ?_, fun wf ha => ?_, fun wf => ?_, fun wf ha => ?_⟩
  · refine ⟨_, _, convElems_slow e.toNat f.toNat _ r x (fun _ => convElem e.toNat f.toNat r), ?_,
      lanesWord_convElems e.toNat f.toNat r x (fun _ => convElem e.toNat f.toNat r) (convCount_fits e.toNat f.toNat)⟩
    refine vec_of_oneRes h pipe rfl rfl wf (by simp [vword2, hd, pa]) hd ?_
    show oneRes d.toNat (valCvt e.toNat f.toNat r x) = _
    rw [valCvt, convElems_flags]
    rfl
  · intro n draw
    let g := fun j w => encodeDraw e.toNat (lane 32 (rd s s.cur (a.toNat + 1)) j) (ftzOf r) (decodeNum f.toNat w (ftzOf r))
    have run : FieldOk s (inRun (a.toNat + 1) 1) := fieldOk_inRun fun i hi => by
      obtain rfl : i = 0 := by omega
      exact ha
    refine ⟨_, _, convElems_slow e.toNat f.toNat _ r x g, ?_,
      lanesWord_convElems e.toNat f.toNat r x g (convCount_fits e.toNat f.toNat)⟩
    refine vec_of_oneRes h pipe rfl rfl wf (by simp [hd, pa, run]) hd ?_
    show oneRes d.toNat (valCvtsr e.toNat f.toNat r x (rd s s.cur (a.toNat + 1))) = _
    rw [valCvtsr, convElems_flags]
    rfl
  · intro n
    have fit : codeWidth e.toNat * n ≤ 128 := by
      simp only [Instr.wf, Bool.and_eq_true, decide_eq_true_eq] at wf
      obtain ⟨⟨he, hf⟩, lt⟩ := wf
      rw [fmtWidth_eq he, fmtWidth_eq hf] at lt
      exact (Nat.mul_le_mul_right _ lt.le).trans (Nat.mul_div_le 128 _)
    obtain ⟨lt, lanes⟩ := lanesWord_convElems e.toNat f.toNat r x (fun _ => convElem e.toNat f.toNat r) fit
    refine ⟨_, _, convElems_slow e.toNat f.toNat _ r x (fun _ => convElem e.toNat f.toNat r), lt, lanes, ?_⟩
    refine vec_of_oneRes h pipe rfl rfl wf (by simp [hd, pa]) hd ?_
    show oneRes d.toNat (valPack e.toNat f.toNat r x (rd s s.cur d.toNat)) = _
    rw [valPack, convElems_flags]
    rfl
  · intro n
    have fit : codeWidth e.toNat * n ≤ 128 := Nat.mul_div_le 128 _
    refine ⟨_, _, convElems_slow e.toNat f.toNat _ r x (fun _ => convElem e.toNat f.toNat r),
      (lanesWord_convElems e.toNat f.toNat r x (fun _ => convElem e.toNat f.toNat r) fit).2, ?_⟩
    refine exec_vword (r := { writes := [(d.toNat, _), (a.toNat, _)], flags := flags n, slow := _ }) h pipe rfl rfl wf
      (by simp [hd, ha]) ?_ (run_wr_two (s := taken s) h.held _ _ hd.1.1 pa.1) ((h.fit_taken.put _ _).put _ _)
      ((cur_put _ _ _).trans (cur_put _ _ _)) ?_
    · show ({ writes := [(d.toNat, (valUnpack e.toNat f.toNat r x).1.out), (a.toNat, (valUnpack e.toNat f.toNat r x).2)]
              flags := (valUnpack e.toNat f.toNat r x).1.flags, slow := (valUnpack e.toNat f.toNat r x).1.slow } : VRes) = _
      rw [valUnpack, convElems_flags]
      rfl
    · rw [me_put (s := put (taken s) d.toNat _) a.toNat _ (by rw [cur_put, occupied_put]; exact h.held),
        me_put (s := taken s) d.toNat _ h.held]
      split <;> split <;> rfl

/-! ## Special functions and RNG -/

/-- A long word of the pipe: its result arrives within 12 cy (R174). -/
theorem fireA_sfu {s : State} {P : State → Plan} {d : BitVec 7} {srcs : List (BitVec 7)} {x : VOut} (h : Clear s)
    (pipe : pipeBusy s s.cur = false) (hd : Dest s d.toNat) (near : d.toNat < 112) (hs : ∀ a ∈ srcs, Plain s a.toNat)
    (e : P s = sfuPlan s d srcs x) : fireA P s =
      .next (finished (pended (taken s) [d.toNat] none (.value [x.out] none x.flags) 12) false) := by
  have ok : ∀ y ∈ fw d :: srcs.map fr, FieldOk s y :=
    List.forall_mem_cons.2 ⟨fieldOk_fw hd, List.forall_mem_map.2 fun a m => fieldOk_fr (hs a m)⟩
  have legal : longDest d = true := by simp [longDest, fieldHearth, near]
  have plan : P s = { dests := (fw d :: srcs.map fr).flatMap Field.dests, vpipe := true
                      stages := [pendIn s.cur [d.toNat] none (.value [x.out] none x.flags) 12] } := by
    rw [e]
    simp only [sfuPlan, legal, regPlan_fields h _ ok, aPlan_clear h, Plan.does, List.nil_append, Bool.not_true]
  have q : Runs s (P s) := by
    rw [plan]
    exact ⟨rfl, rfl, rfl, rfl, rfl, rfl, rfl, by rw [pipe]; rfl, rfl, rfl, rfl, rfl, rfl, rfl⟩
  rw [fireA_runs h q (u := pended (taken s) [d.toNat] none (.value [x.out] none x.flags) 12) (by rw [plan]; rfl)
    (h.fit_taken.pended _ _ _ _) rfl, plan]

theorem sfu_of_lanes {s : State} {i : Instr} {P : State → Plan} {d : BitVec 7} {srcs : List (BitVec 7)}
    {g : Nat → Nat × BitVec 5} (h : Clear s) (pipe : pipeBusy s s.cur = false) (hd : Dest s d.toNat) (near : d.toNat < 112)
    (hs : ∀ a ∈ srcs, Plain s a.toNat) (ei : exec i s = fireA P s) (e : P s = sfuPlan s d srcs (sfuLanes g)) :
    Says.Sfu s i d g := by
  refine ⟨(sfuLanes g).out, fun j hj => ?_, ?_⟩
  · simp only [sfuLanes, List.map_map]
    exact lane_lanesWord_map (by decide) _ hj
  · rw [ei, fireA_sfu h pipe hd near hs e]
    simp only [sfuLanes, List.map_map]
    rfl

/-- Settles O25: six words by their lanes, RNG by its one value. -/
theorem specialFunctionsAreLong : Obligations.SpecialFunctionsAreLong := by
  intro s d a b h pipe hd near pa pb x y r
  have one : ∀ c ∈ [a], Plain s c.toNat := by simp [pa]
  have two : ∀ c ∈ [a, b], Plain s c.toNat := by simp [pa, pb]
  exact ⟨sfu_of_lanes (P := planRcp d a) h pipe hd near one rfl rfl,
    sfu_of_lanes (P := planRsq d a) h pipe hd near one rfl rfl,
    sfu_of_lanes (P := planRcpnr d a b) h pipe hd near two rfl rfl,
    sfu_of_lanes (P := planRsqnr d a b) h pipe hd near two rfl rfl,
    sfu_of_lanes (P := planExp2 d a) h pipe hd near one rfl rfl,
    sfu_of_lanes (P := planLog2 d a) h pipe hd near one rfl rfl,
    fireA_sfu (P := planRng d a b) (x := moved (zmix (y.extractLsb' 0 32) (y.extractLsb' 32 32) x)) h pipe hd near two rfl⟩

end Sys2Proof.Machine
end

section
/-!
Proofs: the words of the matrix queue (R195 to R199, R202, R204 to R208) in a slot that has nothing else under way.
-/

namespace Sys2Proof.Machine
open Sys2Proof

/-! ## Plans that ask for a place in the queue -/

/-- An A-word that asks for a place in its core's queue, and finds it, acts as its plan says. -/
theorem actsA_queued {s : State} {i : Instr} {P : State → Plan} {ds : List Nat} {l : List Stage} (h : Clear s)
    (room : mqOver s s.cur 1 = false) (e : exec i s = fireA P s) (r : P s = { dests := ds, mxs := 1, stages := l }) :
    ActsA s i { dests := ds, stages := l } := by
  have q := actsA_of_issues h e r ⟨rfl, rfl, rfl, rfl, rfl, rfl, rfl, rfl, room, rfl, rfl, rfl⟩
  exact q

/-- Without room its position is lost, and the bundle has no effect (R69). -/
theorem fireA_full {s : State} {P : State → Plan} {ds : List Nat} {l : List Stage} (h : Clear s)
    (full : mqOver s s.cur 1 = true) (e : P s = { dests := ds, mxs := 1, stages := l }) :
    fireA P s = .next { taken s with fresh := s.fresh + 256 } := by
  have tight : mqOver s s.cur (idle.mxs + 1) = true := full
  rw [fireA, if_pos h.held, e]
  congr 1
  simp only [issue, firstTrap, idle_clash, tight, Bool.or_true]
  rfl

/-- An A-word that asks for nothing but a trap of class 3, and for a place, raises the trap. -/
theorem fireA_raises_queued {s : State} {P : State → Plan} {ds : List Nat} {l : List Stage} {n : Nat} {tr : Trap}
    (h : Deliverable s) (e : P s = { dests := ds, stages := l, mxs := n, c3 := some tr }) (ns : tr.code ≠ .soft) :
    fireA P s = .next (delivered s tr (me s).arch.pc) := by
  refine fireA_raises h ?_ ns
  simp only [firstTrap, idle_clash, e]
  rfl

/-! ## The words -/

section
variable {s : State} (h : Clear s)
include h

theorem matrixPlan_eq (wf : Bool) {fs : List Field} (ok : ∀ x ∈ fs, FieldOk s x) (anvils : List Nat) (own : Option Trap)
    (dests : List Nat) (k : MxKind) : matrixPlan s wf fs anvils own dests k =
    { ill := !wf, dests := fs.flatMap Field.dests, c3 := (anvilTrap s s.cur anvils).or own, mxs := 1
      stages := [enqueueOwn s.cur k dests] } := by
  simp only [matrixPlan, regPlan_fields h _ ok, aPlan_clear h, Plan.own, Plan.does, List.nil_append, Option.none_or]

/-- A matrix word of claimed anvils, with no trap of its own. -/
theorem matrixPlan_enters {fs : List Field} (ok : ∀ x ∈ fs, FieldOk s x) {anvils : List Nat}
    (claimed : ∀ n ∈ anvils, n < (recOf s s.cur).anvils) (dests : List Nat) (k : MxKind) :
    matrixPlan s true fs anvils none dests k =
      { dests := fs.flatMap Field.dests, mxs := 1, stages := [enqueueOwn s.cur k dests] } := by
  have free : anvilTrap s s.cur anvils = none := firstSome_none fun n m => if_neg (Nat.not_le.2 (claimed n m))
  rw [matrixPlan_eq h true ok, free]
  rfl

end

theorem anvilTrap_first {s : State} {n : Nat} (l : List Nat) (un : ¬n < (recOf s s.cur).anvils) :
    anvilTrap s s.cur (n :: l) = some (nTrap .anvil n) := by
  rw [anvilTrap, firstSome, if_pos (Nat.not_lt.1 un), Option.some_or]

/-- A matrix word with a trap of its own, or of its anvils, raises it. -/
theorem fireA_matrix_raises {s : State} {P : State → Plan} {fs : List Field} {anvils dests : List Nat} {own : Option Trap}
    {k : MxKind} {tr : Trap} (h : Deliverable s) (ok : ∀ x ∈ fs, FieldOk s x)
    (e : P s = matrixPlan s true fs anvils own dests k) (t : (anvilTrap s s.cur anvils).or own = some tr)
    (ns : tr.code ≠ .soft) : fireA P s = .next (delivered s tr (me s).arch.pc) := by
  rw [matrixPlan_eq h.clear true ok, t] at e
  exact fireA_raises_queued h e ns

theorem bits_whole (v : Dword) : bits v 63 0 = v.toNat := by
  rw [bits, Nat.shiftRight_zero, Nat.mod_eq_of_lt v.isLt]

/-- The operands that MMA names: a scaled left operand is a pair of registers (R205). -/
theorem mma_fields {s : State} {a b : BitVec 7} (pa : Plain s a.toNat) (pb : Plain s b.toNat) {blog : Nat}
    (pair : blog ≠ 0 → InWindow s a.toNat ∧ InWindow s (a.toNat + 1)) :
    ∀ x ∈ [if blog = 0 then fr a else inRun a.toNat 2, fr b], FieldOk s x := by
  refine List.forall_mem_cons.2 ⟨?_, List.forall_mem_singleton.2 (fieldOk_fr pb)⟩
  split
  · exact fieldOk_fr pa
  next n =>
    refine fieldOk_inRun fun i hi => ?_
    obtain rfl | rfl : i = 0 ∨ i = 1 := by omega
    · exact (pair n).1
    · exact (pair n).2

/-- Settles O26: each word by `matrixPlan_enters`, or by the trap that its anvil or its bias names. -/
theorem matrixWordsEnterTheQueue : Obligations.MatrixWordsEnterTheQueue := by
  intro s d a x y h pa claimed enters v c
  have oka : ∀ z ∈ [fr a], FieldOk s z := by simp [pa]
  have none_ : ∀ z ∈ ([] : List Field), FieldOk s z := List.forall_mem_nil _
  refine ⟨fun room cx => ?_, fun un hv => ⟨?_, ?_, ?_, fun hd near => ?_⟩, fun full cx cy => ?_⟩
  · have one : ∀ n ∈ [x.toNat], n < (recOf s s.cur).anvils := List.forall_mem_singleton.2 cx
    refine ⟨fun lo hi => ?_, fun out hv => ?_, fun cy => ?_, fun hd d0 near => ?_, fun sh b q pb hk => ?_⟩
    · have ok : biasOk v.toInt = true := by simp [biasOk, lo, hi]
      refine actsA_queued (P := planAclr x a) h room rfl ?_
      rw [planAclr, if_pos ok, matrixPlan_enters h oka one]
      rfl
    · have bad : ¬biasOk v.toInt = true := by
        simp only [biasOk, Bool.and_eq_true, decide_eq_true_eq]
        omega
      have free : anvilTrap s s.cur [x.toNat] = none := firstSome_none fun n m => if_neg (Nat.not_le.2 (one n m))
      exact fireA_matrix_raises (P := planAclr x a) hv oka rfl (by rw [free, if_neg bad]; rfl) nofun
    · have both : ∀ n ∈ [x.toNat, y.toNat], n < (recOf s s.cur).anvils :=
        List.forall_mem_cons.2 ⟨cx, List.forall_mem_singleton.2 cy⟩
      exact ⟨actsA_queued (P := planAmov x y) h room rfl (matrixPlan_enters h none_ both _ _),
        actsA_queued (P := planAadd x y) h room rfl (matrixPlan_enters h none_ both _ _)⟩
    · have legal : longDest d = true := by simp [longDest, fieldHearth, near]
      have okd : ∀ z ∈ [fw d], FieldOk s z := by simp [hd]
      have okda : ∀ z ∈ [fw d, fr a], FieldOk s z := by simp [hd, pa]
      have dest : destOf d.toNat = [d.toNat] := destOf_ne_zero fun z => d0 (BitVec.eq_of_toNat_eq z)
      refine ⟨?_, fun z => ?_, fun t ht hc => ?_⟩
      · refine actsA_queued (P := planAmovSt d x) h room rfl ?_
        rw [planAmovSt, legal, matrixPlan_enters h okd one, List.flatMap_singleton, dests_fw, dest]
      · refine actsA_queued (P := planAmovRaw d x a) h room rfl ?_
        rw [planAmovRaw, if_pos z, legal, matrixPlan_enters h okda one, List.flatMap_cons, List.flatMap_singleton, dests_fw,
          dests_fr, List.append_nil, dest]
      · refine actsA_queued (P := planArnd d x a t) h room rfl ?_
        rw [planArnd, if_pos hc, show (Instr.arnd d x a t).wf = true by simp [Instr.wf, legal, ht],
          matrixPlan_enters h okda one, List.flatMap_cons, List.flatMap_singleton, dests_fw, dests_fr, List.append_nil, dest]
    · intro pb' blog sc f m n k pair sound op
      have legal : (Instr.mma sh x a b q).wf = true := decide_eq_true hk
      have at_ : scaleAddr blog (rd64 s s.cur (a.toNat + 1)) = sc := by
        rw [scaleAddr, bits_whole]
      have free : (if pending (thr s s.cur) a.toNat then 0 else ptrBlog (rd64 s s.cur a.toNat)) = blog := by
        rw [show pending (thr s s.cur) a.toNat = false from pending_clear h _]
        rfl
      have plan : planMma sh x a b q s = matrixPlan s true [if blog = 0 then fr a else inRun a.toNat 2, fr b] [x.toNat] none []
          op := by
        simp only [planMma, free, at_, legal]
        show matrixPlan s true _ _ (mmaTrap s s.cur (bTrap s s.cur .illegal) m n k v pb' sc) [] op = _
        rw [sound]
      refine actsA_queued (P := planMma sh x a b q) h room rfl ?_
      rw [plan, matrixPlan_enters h (mma_fields pa pb pair) one, List.flatMap_cons, List.flatMap_singleton, dests_fr,
        List.append_nil]
      split <;> rfl
  · exact fireA_matrix_raises (P := planAclr x a) hv oka rfl (by rw [anvilTrap_first _ un]; rfl) nofun
  · exact fireA_matrix_raises (P := planAmov x y) hv none_ rfl (by rw [anvilTrap_first _ un]; rfl) nofun
  · exact fireA_matrix_raises (P := planAadd x y) hv none_ rfl (by rw [anvilTrap_first _ un]; rfl) nofun
  · have legal : longDest d = true := by simp [longDest, fieldHearth, near]
    exact fireA_matrix_raises (P := planAmovSt d x) (fs := [fw d]) hv (by simp [hd]) (by rw [planAmovSt, legal])
      (by rw [anvilTrap_first _ un]; rfl) nofun
  · have both : ∀ n ∈ [x.toNat, y.toNat], n < (recOf s s.cur).anvils :=
      List.forall_mem_cons.2 ⟨cx, List.forall_mem_singleton.2 cy⟩
    exact fireA_full (P := planAmov x y) h full (matrixPlan_enters h none_ both _ _)

end Sys2Proof.Machine
end

section
/-!
Proofs: PLANE and UNPLANE (R31, R197, R198).
-/

namespace Sys2Proof.Machine
open Sys2Proof

/-- The fields that PLANE and UNPLANE name: a scaled source is a pair of registers. -/
def planeFields (d a b : BitVec 7) (blog : Nat) : List Field := [fx d, fr a, if blog = 0 then fr b else inRun b.toNat 2]

theorem planeFields_ok {s : State} {d a b : BitVec 7} (hd : Dest s d.toNat) (pa : Plain s a.toNat) (pb : Plain s b.toNat)
    {blog : Nat} (pair : blog ≠ 0 → InWindow s b.toNat ∧ InWindow s (b.toNat + 1)) :
    ∀ x ∈ planeFields d a b blog, FieldOk s x := by
  have scaled : FieldOk s (if blog = 0 then fr b else inRun b.toNat 2) := by
    split
    · exact fieldOk_fr pb
    next n =>
      refine fieldOk_inRun fun i hi => ?_
      obtain rfl | rfl : i = 0 ∨ i = 1 := by omega
      · exact (pair n).1
      · exact (pair n).2
  simp [planeFields, hd, pa, scaled]

theorem planeFields_dests (d a b : BitVec 7) (blog : Nat) : (planeFields d a b blog).flatMap Field.dests = destOf d.toNat := by
  have inputs : (if blog = 0 then fr b else inRun b.toNat 2).dests = [] := by split <;> rfl
  simp [planeFields, inputs]

/-- The traps of the shape and of the pointers' tags are no software traps. -/
theorem planeTrap_code {s : State} {x : Word} {p dst src : Dword} {un : Bool} {tr : Trap}
    (e : (planeShape (bTrap s s.cur .illegal) x p).or (planeTags un dst src) = some tr) : tr.code ≠ .soft := by
  rcases Option.or_eq_some_iff.1 e with e | ⟨-, e⟩
  · dsimp only [planeShape] at e
    rw [← Option.some.inj (Option.ite_none_right_eq_some.1 e).2]
    nofun
  · unfold planeTags at e
    split_ifs at e <;> cases e <;> nofun

/-- What PLANE and UNPLANE name, with the traps of their shape and tags. -/
def planeBase (s : State) (un : Bool) (d a b : BitVec 7) (blog : Nat) : Plan :=
  let dst := rd64 s s.cur a.toNat
  let src := rd64 s s.cur b.toNat
  ((({ regPlan s s.cur (longDest d) (planeFields d a b blog) with point := true } : Plan).own
    (planeShape (bTrap s s.cur .illegal) (rd s s.cur d.toNat) (if un then src else dst))).own (planeTags un dst src))

/-- The checks of their places, one after the other. -/
def planeChecks (s : State) (un : Bool) (dst src : Dword) (lens : Nat × Nat) (sc sb : Nat) : List (Option Trap) :=
  let rs := nearPtr s s.cur (ptrAddr src) lens.1
  let rd' := nearPtr s s.cur (ptrAddr dst) lens.2
  let el := if un then dst else src
  let pl := if un then src else dst
  [trapOf rd', trapOf rs, if sb = 0 then none else trapOf (nearPtr s s.cur sc sb),
   if ptrAddr pl % 16 ≠ 0 then some (nTrap .align (ptrAddr pl)) else none, elemAlign el,
   if speculative s s.cur && locScratch (locOf rd') then some (bTrap s s.cur .guess) else none,
   raceTrap s s.cur (locOf rs) (ptrAddr src) lens.1 false,
   if sb = 0 then none else raceTrap s s.cur (locOf (nearPtr s s.cur sc sb)) sc sb false,
   raceTrap s s.cur (locOf rd') (ptrAddr dst) lens.2 true]

/-- Their effect, at the places l and m. -/
def planeStages (s : State) (un : Bool) (d : BitVec 7) (dst src : Dword) (k n l m sc sb : Nat) : List Stage :=
  let lens := planeLens un k n dst src
  let z := locOf (nearPtr s s.cur sc sb)
  [raceMark s.cur l lens.1 false, if sb = 0 then skip else raceMark s.cur z sb false, raceMark s.cur m lens.2 true,
   pendIn s.cur [d.toNat] none (.plane un k n dst src sc (me s).arch.round
     (wordsNow s l lens.1 ++ (if sb = 0 then [] else wordsNow s z sb))) 64]

section
variable {s : State} (ls : LS) (d a b : BitVec 7) (un : Bool) {blog sc : Nat}
  (hb : (if un || pending (me s) b.toNat then 0 else ptrBlog (rd64 s s.cur b.toNat)) = blog)
  (hsc : scaleAddr blog (rd64 s s.cur (b.toNat + 1)) = sc)
include hb hsc

/-- The plan in its two parts: what the shape and the tags refuse, and the checks and effect of the rest. -/
theorem planePlan_parts : planePlan s ls un d a b =
    (let dst := rd64 s s.cur a.toNat
     let src := rd64 s s.cur b.toNat
     let k := bits (rd s s.cur d.toNat) 15 0
     let n := bits (rd s s.cur d.toNat) 31 16
     let lens := planeLens un k n dst src
     let sb := scaleBytes blog (k * n)
     cPlan ls (if (planeBase s un d a b blog).c3.isSome then planeBase s un d a b blog else
       ((planeChecks s un dst src lens sc sb).foldl Plan.own (planeBase s un d a b blog)).does
         (planeStages s un d dst src k n (locOf (nearPtr s s.cur (ptrAddr src) lens.1))
           (locOf (nearPtr s s.cur (ptrAddr dst) lens.2)) sc sb))) := by
  subst hb
  subst hsc
  rfl

end

/-- Places of the own TCM and quad, aligned and free of races, pass every check. -/
theorem planeChecks_none {s : State} {un : Bool} {dst src : Dword} {lens : Nat × Nat} {sc sb l m : Nat}
    (hm : nearPtr s s.cur (ptrAddr dst) lens.2 = .ok m) (hl : nearPtr s s.cur (ptrAddr src) lens.1 = .ok l)
    (hz : sb ≠ 0 → ∃ z, nearPtr s s.cur sc sb = .ok z) (al : ptrAddr (if un then src else dst) % 16 = 0)
    (el : elemAlign (if un then dst else src) = none) (sp : speculative s s.cur = true → locScratch m = false)
    (r1 : raceTrap s s.cur l (ptrAddr src) lens.1 false = none) (r2 : raceTrap s s.cur m (ptrAddr dst) lens.2 true = none)
    (r3 : sb ≠ 0 → raceTrap s s.cur (locOf (nearPtr s s.cur sc sb)) sc sb false = none) :
    ∀ t ∈ planeChecks s un dst src lens sc sb, t = none := by
  have quiet : (speculative s s.cur && locScratch m) = false := by
    cases q : speculative s s.cur with
    | false => rfl
    | true => exact sp q
  have scale : (if sb = 0 then none else trapOf (nearPtr s s.cur sc sb)) = none := by
    split
    · rfl
    next n =>
      obtain ⟨z, e⟩ := hz n
      rw [e]
      rfl
  have race : (if sb = 0 then none else raceTrap s s.cur (locOf (nearPtr s s.cur sc sb)) sc sb false) = none := by
    split
    · rfl
    next n => exact r3 n
  have there : trapOf (.ok m : Except Trap Nat) = none ∧ trapOf (.ok l : Except Trap Nat) = none := ⟨rfl, rfl⟩
  have at_ : locOf (.ok m) = m ∧ locOf (.ok l) = l := ⟨rfl, rfl⟩
  simp only [planeChecks, hm, hl, there, at_, scale, race, al, el, quiet, r1, r2]
  simp

theorem foldl_own_none (p : Plan) {l : List (Option Trap)} (h : ∀ t ∈ l, t = none) : l.foldl Plan.own p = p := by
  induction l with
  | nil => rfl
  | cons t r ih =>
    have q : p.own t = p := by
      rw [h t (by simp), Plan.own, Option.or_none]
    rw [List.foldl_cons, q, ih fun x m => h x (by simp [m])]

section
variable {s : State} (h : Clear s) {d a b : BitVec 7} (hd : Dest s d.toNat) (near : d.toNat < 112)
  (pa : Plain s a.toNat) (pb : Plain s b.toNat) (un : Bool) {blog : Nat}
  (pair : blog ≠ 0 → InWindow s b.toNat ∧ InWindow s (b.toNat + 1))
include h hd near pa pb pair

theorem planeBase_eq : planeBase s un d a b blog = {
    dests := destOf d.toNat, point := true, c3 := (planeShape (bTrap s s.cur .illegal) (rd s s.cur d.toNat)
      (if un then rd64 s s.cur b.toNat else rd64 s s.cur a.toNat)).or
      (planeTags un (rd64 s s.cur a.toNat) (rd64 s s.cur b.toNat)) } := by
  have legal : longDest d = true := by simp [longDest, fieldHearth, near]
  simp only [planeBase, regPlan_fields h _ (planeFields_ok hd pa pb pair), planeFields_dests, legal, Plan.own, Option.none_or,
    Bool.not_true]

variable (ls : LS) {sc : Nat} (hb : (if un then 0 else ptrBlog (rd64 s s.cur b.toNat)) = blog)
  (hsc : (if blog = 0 then 0 else (rd64 s s.cur (b.toNat + 1)).toNat) = sc)
include hb hsc

theorem planePlan_refused {tr : Trap} (e : (planeShape (bTrap s s.cur .illegal) (rd s s.cur d.toNat)
      (if un then rd64 s s.cur b.toNat else rd64 s s.cur a.toNat)).or
      (planeTags un (rd64 s s.cur a.toNat) (rd64 s s.cur b.toNat)) = some tr) :
    planePlan s ls un d a b = { dests := destOf d.toNat, c3 := some tr, mark := ls.s, point := true } := by
  have base := planeBase_eq h hd near pa pb un pair
  rw [e] at base
  rw [planePlan_parts ls d a b un (blog := blog) (sc := sc) (by rw [pending_clear h, Bool.or_false, hb])
    (by rw [scaleAddr, bits_whole, hsc])]
  dsimp only
  rw [base, if_pos Option.isSome_some]
  rfl

theorem planePlan_fits {l m sb k n : Nat} {lens : Nat × Nat}
    (shape : planeShape (bTrap s s.cur .illegal) (rd s s.cur d.toNat)
      (if un then rd64 s s.cur b.toNat else rd64 s s.cur a.toNat) = none)
    (tags : planeTags un (rd64 s s.cur a.toNat) (rd64 s s.cur b.toNat) = none)
    (hk : bits (rd s s.cur d.toNat) 15 0 = k) (hn : bits (rd s s.cur d.toNat) 31 16 = n)
    (hl : planeLens un k n (rd64 s s.cur a.toNat) (rd64 s s.cur b.toNat) = lens) (hsb : scaleBytes blog (k * n) = sb)
    (checks : ∀ t ∈ planeChecks s un (rd64 s s.cur a.toNat) (rd64 s s.cur b.toNat) lens sc sb, t = none)
    (src : nearPtr s s.cur (ptrAddr (rd64 s s.cur b.toNat)) lens.1 = .ok l)
    (dst : nearPtr s s.cur (ptrAddr (rd64 s s.cur a.toNat)) lens.2 = .ok m) :
    planePlan s ls un d a b = {
      dests := destOf d.toNat, mark := ls.s, point := true
      stages := planeStages s un d (rd64 s s.cur a.toNat) (rd64 s s.cur b.toNat) k n l m sc sb } := by
  have base := planeBase_eq h hd near pa pb un pair
  rw [shape, tags] at base
  subst hk hn hl hsb
  rw [planePlan_parts ls d a b un (blog := blog) (sc := sc) (by rw [pending_clear h, Bool.or_false, hb])
    (by rw [scaleAddr, bits_whole, hsc])]
  dsimp only
  rw [base, if_neg (by simp), foldl_own_none _ checks, src, dst]
  rfl

end

/-- Settles O27: the plan in its two parts, by `planePlan_refused` and `planePlan_fits`. -/
theorem planeWordsPendTheirTransposition : Obligations.PlaneWordsPendTheirTransposition := by
  intro s ls d a b un hp hd near pa pb x dst src blog sc k n lens sb word pair
  have runs : exec word s = fireC (fun s => planePlan s ls un d a b) s := by cases un <;> rfl
  refine ⟨fun tr e hv => ?_, fun l m shape tags hm hl hz al el sp r1 r2 r3 => ?_⟩
  · have plan := planePlan_refused hp.clear hd near pa pb un pair ls rfl rfl e
    rw [Raises, runs]
    refine fireC_raises_third hv ?_ ?_ ?_ ?_ (planeTrap_code e) <;> rw [plan]
    rfl
  · refine point_quiet (irrev := false) hp runs (planePlan_fits hp.clear hd near pa pb un pair ls rfl rfl shape tags rfl rfl rfl
      rfl ?_ hl hm) rfl
    exact planeChecks_none hm hl hz al el sp r1 r2 r3

end Sys2Proof.Machine
end

section
/-!
Proofs: SWAPT, MXSEND and MXSEND.ADD (R210 to R213).
-/

namespace Sys2Proof.Machine
open Sys2Proof

/-- A chunk point that asks for a place in its core's queue, and finds it, acts as its plan says. -/
theorem point_queued {s : State} {i : Instr} {P : State → Plan} {ds : List Nat} {l : List Stage} {m irrev : Bool}
    (h : AtPoint s) (room : mqOver s s.cur 1 = false) (e : exec i s = fireC P s)
    (r : P s = { dests := ds, stages := l, mark := m, irrev := irrev, mxs := 1, point := true })
    (lead : (irrev && (speculative s s.cur && !isLead s s.cur)) = false) :
    PointActs s i { dests := ds, stages := l, mark := m, irrev := irrev } := by
  have q := point_of_issues (p := { dests := ds, stages := l, mark := m, irrev := irrev, mxs := 1 }) h e r ⟨rfl, rfl, rfl, rfl, rfl, rfl, rfl, rfl, room, rfl, rfl, lead⟩
  exact q

section
variable {s : State} (h : Clear s) (ls : LS) {d a b : BitVec 7} (hd : Dest s d.toNat) (near : d.toNat < 112)
  (pa : Plain s a.toNat) (pb : Plain s b.toNat)
include h hd near pa pb

/-- What the three words name. -/
theorem regPlan_swap : regPlan s s.cur (longDest d) [fw d, fr a, fr b] = { dests := destOf d.toNat } := by
  have ok : ∀ x ∈ [fw d, fr a, fr b], FieldOk s x := by simp [hd, pa, pb]
  have legal : longDest d = true := by simp [longDest, fieldHearth, near]
  simp only [regPlan_fields h _ ok, legal, List.flatMap_cons, List.flatMap_nil, dests_fw, dests_fr, List.append_nil,
    Bool.not_true]

theorem planSwapt_eq (sp : speculative s s.cur = false)
    (len : 16 ≤ (rd64 s s.cur b.toNat).toNat ∧ (rd64 s s.cur b.toNat).toNat ≤ 4096 ∧ (rd64 s s.cur b.toNat).toNat % 16 = 0)
    (own : (nearOwn s s.cur (bits (rd64 s s.cur a.toNat) 31 0) (rd64 s s.cur b.toNat).toNat).isSome = true)
    (al : bits (rd64 s s.cur a.toNat) 31 0 % 16 = 0)
    (group : (groupOn (kernelOf s s.cur) (quadOf (partnerSlot s.cur))).isSome = true) : planSwapt ls d a b s = {
      dests := destOf d.toNat, mark := ls.s, point := true, stages := [
        (fun u => [onThr s.cur (fun t => { t with pend := t.pend ++ [
            { id := u.fresh, dests := [d.toNat]
              op := .swapt (bits (rd64 s s.cur a.toNat) 31 0) (rd64 s s.cur b.toNat).toNat }] }), .draw 1]),
        swapPost s.cur] } := by
  have good : ¬((rd64 s s.cur b.toNat).toNat < 16 ∨ 4096 < (rd64 s s.cur b.toNat).toNat ∨
      (rd64 s s.cur b.toNat).toNat % 16 ≠ 0) := by omega
  have own' : (nearOwn s s.cur (bits (rd64 s s.cur a.toNat) 31 0) (rd64 s s.cur b.toNat).toNat).isNone = false := by
    rw [← Option.not_isSome, own]
    rfl
  have group' : (groupOn (kernelOf s s.cur) (quadOf (partnerSlot s.cur))).isNone = false := by
    rw [← Option.not_isSome, group]
    rfl
  simp only [planSwapt, regPlan_swap h hd near pa pb, if_neg good, own', group', alignTrap_aligned al, sp, cPlan, Plan.noSpec,
    Plan.ownIf, Plan.own, Plan.does, List.nil_append, Option.none_or, Bool.false_eq_true, if_false]

theorem planSwapt_badLength (sp : speculative s s.cur = false)
    (bad : ¬(16 ≤ (rd64 s s.cur b.toNat).toNat ∧ (rd64 s s.cur b.toNat).toNat ≤ 4096 ∧
      (rd64 s s.cur b.toNat).toNat % 16 = 0)) :
    (planSwapt ls d a b s).ill = false ∧ (planSwapt ls d a b s).priv = false ∧ (planSwapt ls d a b s).hold = false ∧
      (planSwapt ls d a b s).c2.or (planSwapt ls d a b s).c3 = some (bTrap s s.cur .illegal) := by
  have bad' : (rd64 s s.cur b.toNat).toNat < 16 ∨ 4096 < (rd64 s s.cur b.toNat).toNat ∨
      (rd64 s s.cur b.toNat).toNat % 16 ≠ 0 := by omega
  simp only [planSwapt, regPlan_swap h hd near pa pb, if_pos bad', sp, cPlan, Plan.noSpec, Plan.ownIf, Plan.own, Plan.does,
    Option.none_or, Option.some_or, Bool.false_eq_true, if_false, and_self]

section
variable (ng : guessing s s.cur = false) (hq : ¬143 < addrQuad (bits (rd s s.cur b.toNat) 17 0))
include ng hq

/-- The shared part of the two requests: a capability that does not fit is refused (R211). -/
theorem mxPlan_eq {right : Nat} (det : right = 38 → determ s s.cur = false) (anvils : List Nat) {own : Option Trap}
    (e : (if capBad s s.cur (rd64 s s.cur a.toNat) (bits (rd s s.cur b.toNat) 17 0) right anvils = true then
      some ⟨.capability, rd64 s s.cur a.toNat⟩ else none) = own) : mxPlan s d a b right anvils =
      { dests := destOf d.toNat, point := true, irrev := true, c3 := own } := by
  have q : (if right = 38 then Plan.noDeterm { dests := destOf d.toNat, point := true, irrev := true } s s.cur
      else { dests := destOf d.toNat, point := true, irrev := true }) =
      ({ dests := destOf d.toNat, point := true, irrev := true } : Plan) := by
    split
    next r => rw [Plan.noDeterm, Plan.ownIf, det r]; rfl
    · rfl
  simp only [mxPlan, slotAddr_eq_bits, regPlan_swap h hd near pa pb, Plan.noGuess, Plan.ownIf, ng, Plan.own, Option.none_or,
    Bool.false_eq_true, if_false, q, if_neg hq, e]

end
end

/-- Settles O28: each word by its plan. -/
theorem exchangesAndCommandsSetOut : Obligations.ExchangesAndCommandsSetOut := by
  intro s ls d a b hp hd near pa pb
  have h := hp.clear
  refine ⟨fun sp => ?_, fun ng lead => ?_⟩
  · intro ea len
    refine ⟨fun good own al group => ?_, fun bad hv => ?_⟩
    · exact point_quiet (P := planSwapt ls d a b) hp rfl (planSwapt_eq h ls hd near pa pb sp good own al group) rfl
    · obtain ⟨hi, hpr, hh, e⟩ := planSwapt_badLength h ls hd near pa pb sp bad
      exact fireC_raises_third (P := planSwapt ls d a b) hv hi hpr hh e nofun
  · intro cap pay target quad
    have hq : ¬143 < addrQuad (bits (rd s s.cur b.toNat) 17 0) := Nat.not_lt.2 quad
    have leads : (true && (speculative s s.cur && !isLead s s.cur)) = false := irrevocable_leads lead
    refine ⟨fun det i an cmd => ⟨fun fits clean sound => ?_, fun bad hv => ?_⟩, ?_⟩
    · have e := mxPlan_eq h hd near pa pb ng hq (right := 38) (fun _ => det) an (if_neg (by rw [fits]; nofun))
      refine point_quiet (P := planMxsend ls d a b) hp rfl ?_ leads
      simp only [planMxsend, show commandOf ((rd s s.cur b.toNat).extractLsb' 32 32) = some (i, an) from cmd, e,
        show bits (rd s s.cur b.toNat) 21 18 = 0 from clean, slotAddr_eq_bits, Plan.ownIf, Plan.own, Plan.does, cPlan,
        List.nil_append, Option.none_or, bne_self_eq_false, Bool.false_eq_true, if_false]
      rw [sound]
    · have e := mxPlan_eq h hd near pa pb ng hq (right := 38) (fun _ => det) an (if_pos bad)
      refine fireC_raises_third (P := planMxsend ls d a b) (tr := ⟨.capability, rd64 s s.cur a.toNat⟩) hv ?_ ?_ ?_ ?_ nofun
      all_goals
        simp only [planMxsend, show commandOf ((rd s s.cur b.toNat).extractLsb' 32 32) = some (i, an) from cmd, e, Plan.ownIf,
          Plan.own, Plan.does, cPlan, Option.none_or, Option.some_or]
    · intro l r fits clean claimed room
      have e := mxPlan_eq h hd near pa pb ng hq (right := 39) nofun [r] (if_neg (by rw [fits]; nofun))
      have free : anvilTrap s s.cur [bits (rd s s.cur b.toNat) 20 18] = none :=
        firstSome_none fun n m => if_neg (Nat.not_le.2 (by rw [List.mem_singleton.1 m]; exact claimed))
      refine point_queued (P := planMxsendAdd ls d a b) hp room rfl ?_ leads
      simp only [planMxsendAdd, show mxPlan s d a b 39 [bits (rd s s.cur b.toNat) 23 21] = _ from e, free,
        show bits (rd s s.cur b.toNat) 127 24 = 0 from clean, slotAddr_eq_bits, Plan.ownIf, Plan.own, Plan.does, cPlan,
        List.nil_append, Option.none_or, bne_self_eq_false, Bool.false_eq_true, if_false]
      rfl

end Sys2Proof.Machine
end

section
/-!
Proofs: WID, LAUNCH and the job words (R232, R233, R238, R365 to R367).
-/

namespace Sys2Proof.Machine
open Sys2Proof

/-! ## WID -/

/-- WID of a field that its launch has reads it. -/
theorem exec_wid {s : State} (h : Clear s) (ls : LS) {d n : BitVec 7} (hd : Dest s d.toNat) {x : Nat}
    (e : widValue s s.cur n.toNat = some x) :
    exec (.wid ls d n) s = .next (finished (put (taken s) d.toNat ((BitVec.ofNat 64 x).setWidth 128)) ls.s) := by
  have ok : ∀ y ∈ [fw d], FieldOk s y := by simp [hd]
  refine fireC_stays (P := planWid ls d n) (ds := destOf d.toNat) (first := []) (l := [wr s.cur d.toNat ((BitVec.ofNat 64 x).setWidth 128)]) h ?_
    (wr_put (s := taken s) _ hd.1.1) (h.fit_taken.put _ _) (cur_put _ _ _)
  simp only [planWid, e, regPlan_fields h _ ok, cPlan, Plan.does, List.nil_append, Option.isSome_some, Bool.not_true,
    Option.getD_some, List.flatMap_cons, List.flatMap_nil, dests_fw, List.append_nil]
  rfl

theorem wid_unknown {s : State} (h : Deliverable s) (ls : LS) (d : BitVec 7) {n : BitVec 7}
    (e : widValue s s.cur n.toNat = none) : Raises s (.wid ls d n) (bTrap s s.cur .illegal) := by
  refine fireC_raises_ill (P := planWid ls d n) h ?_
  simp only [planWid, e, regPlan, cPlan, Plan.does, Option.isSome_none, Bool.not_false]

theorem widValue_field {s : State} {n : Nat} (small : n < 6) : widValue s s.cur n =
    if n < (recOf s s.cur).widths.length then some (widField (recOf s s.cur) (taskOf s s.cur).w n) else none := by
  obtain rfl | rfl | rfl | rfl | rfl | rfl : n = 0 ∨ n = 1 ∨ n = 2 ∨ n = 3 ∨ n = 4 ∨ n = 5 := by omega
  all_goals simp [widValue]

theorem widValue_above {s : State} {n : Nat} (large : 8 < n) : widValue s s.cur n = none := by
  unfold widValue
  split
  · omega
  · omega
  · omega
  · exact if_neg (by omega)

/-! ## Submissions -/

section
variable {s : State} (h : Clear s) (ls : LS) {d a : BitVec 7} (hd : Dest s d.toNat) (near : d.toNat < 112)
  (pa : Plain s a.toNat)
include h hd near pa

theorem regPlan_job : regPlan s s.cur (longDest d) [fw d, fr a] = { dests := destOf d.toNat } := by
  have ok : ∀ x ∈ [fw d, fr a], FieldOk s x := by simp [hd, pa]
  have legal : longDest d = true := by simp [longDest, fieldHearth, near]
  simp only [regPlan_fields h _ ok, legal, List.flatMap_cons, List.flatMap_nil, dests_fw, dests_fr, List.append_nil,
    Bool.not_true]

theorem submitPlan_eq (ng : guessing s s.cur = false) (align : Nat) : submitPlan ls d a align s =
    { dests := destOf d.toNat, mark := ls.s, point := true, irrev := true
      c3 := if bits (rd64 s s.cur a.toNat) 54 0 % align = 0 then none else some ⟨.align, rd64 s s.cur a.toNat⟩ } := by
  simp only [submitPlan, regPlan_job h hd near pa, cPlan, Plan.noGuess, Plan.ownIf, Plan.own, ng, Option.none_or,
    Bool.false_eq_true, if_false]

theorem planJobq_eq : planJobq ls d a s =
    { dests := destOf d.toNat, mark := ls.s, stages := [submit s.cur d.toNat 3 (bits (rd64 s s.cur a.toNat) 54 0) (some [])]
      c3 := if determ s s.cur then some (bTrap s s.cur .determinism) else none } := by
  simp only [planJobq, regPlan_job h hd near pa, cPlan, Plan.noDeterm, Plan.ownIf, Plan.own, Plan.does, Option.none_or,
    List.nil_append]

end
/-! ## LAUNCH -/

/-- A LAUNCH whose record is misaligned traps whatever its translation gives (R238). -/
theorem launch_misaligned {s : State} (h : Deliverable s) (ls : LS) {d a : BitVec 7} (hd : Dest s d.toNat)
    (near : d.toNat < 112) (pa : Plain s a.toNat) (ng : guessing s s.cur = false)
    (mis : bits (rd64 s s.cur a.toNat) 54 0 % 256 ≠ 0) : Raises s (.launch ls d a) ⟨.align, rd64 s s.cur a.toNat⟩ := by
  have e := submitPlan_eq h.clear ls hd near pa ng 256
  rw [if_neg mis] at e
  have c3 : (planLaunch ls d a s).ill = false ∧ (planLaunch ls d a s).priv = false ∧ (planLaunch ls d a s).hold = false ∧
      (planLaunch ls d a s).c2.or (planLaunch ls d a s).c3 = some ⟨.align, rd64 s s.cur a.toNat⟩ := by
    rw [planLaunch, e]
    cases q : translate s s.cur (bits (rd64 s s.cur a.toNat) 54 0) .read with
    | hit loc x => rw [globalAt_hit q]; exact ⟨rfl, rfl, rfl, rfl⟩
    | trap tr => rw [globalAt_trap q]; exact ⟨rfl, rfl, rfl, rfl⟩
    | miss va k => rw [globalAt_miss q]; exact ⟨rfl, rfl, rfl, rfl⟩
  obtain ⟨hi, hp, hh, hc⟩ := c3
  exact fireC_raises_third (P := planLaunch ls d a) h hi hp hh hc nofun

/-! ## JOBW -/

theorem planJobw_eq {s : State} (h : Clear s) (ls : LS) {a b : BitVec 7} (pa : Plain s a.toNat) (pb : Plain s b.toNat)
    {loc : Nat} {e : BitVec 128} (al : bits (rd64 s s.cur a.toNat) 54 0 % 8 = 0)
    (hit : translate s s.cur (bits (rd64 s s.cur a.toNat) 54 0) .read = .hit loc e) (clean : globalPoison s loc 8 = none)
    (ng : (me s).grant = none) : planJobw ls a b s =
    { mark := ls.s
      sleep := if (rd64 s s.cur b.toNat).toNat ≤ ofBytes (overlay (ownBytes (me s).chunk loc 8) (lookBytes s loc 8)) then none
        else some (.counter loc (rd64 s s.cur b.toNat).toNat) } := by
  have ok : ∀ y ∈ [fr a, fr b], FieldOk s y := by simp [pa, pb]
  have ng' : (thr s s.cur).grant = none := ng
  simp only [planJobw, globalAt_hit hit, alignTrap_aligned al, regPlan_fields h _ ok, cPlan, Plan.own, clean, ng',
    Option.none_or, Option.map_none, Option.isSome_none, Bool.false_or, decide_eq_true_eq, List.flatMap_cons, List.flatMap_nil,
    dests_fr, List.append_nil, Bool.not_true]

/-- Settles O29: WID by its value, submissions by `submitPlan_eq`, JOBW by its plan. -/
theorem workAndJobWordsSubmitAndWait : Obligations.WorkAndJobWordsSubmitAndWait := by
  intro s ls d a b h hd pa pb t r v p
  refine ⟨fun n => ?_, fun near hp ng lead => ?_, fun near => ⟨fun det => ?_, fun det hv => ?_⟩,
    fun loc e al hit clean ngr => ?_⟩
  · intro reads
    refine ⟨fun n6 fits => ?_, fun n6 => ?_, fun n7 => ?_, fun n8 => ?_, fun bad hv => ?_⟩
    · exact exec_wid h ls hd ((widValue_field n6).trans (if_pos fits))
    · exact exec_wid h ls hd (by rw [n6]; rfl)
    · exact exec_wid h ls hd (by rw [n7]; rfl)
    · exact exec_wid h ls hd (by rw [n8]; rfl)
    · refine wid_unknown hv ls d ?_
      rcases bad with large | ⟨n6, short⟩
      · exact widValue_above large
      · exact (widValue_field n6).trans (if_neg (Nat.not_lt.2 short))
  · intro submits
    have leads : (true && (speculative s s.cur && !isLead s s.cur)) = false := irrevocable_leads lead
    have plan := fun align => submitPlan_eq h ls hd near pa ng align
    have sound : ∀ align, p % align = 0 → submitPlan ls d a align s =
        { dests := destOf d.toNat, mark := ls.s, point := true, irrev := true } := fun align z => by
      rw [plan, if_pos z]
    refine ⟨fun z loc e hit => ?_, fun z tr bad hv => ?_, fun z => ?_, ?_, fun z hv => ?_, fun z hv => ?_⟩
    · refine point_quiet (P := planLaunch ls d a) hp rfl ?_ leads
      rw [planLaunch, sound 256 z, globalAt_hit hit, alignTrap_aligned z]
      rfl
    · have ns : tr.code ≠ .soft := by rw [translate_trap_code bad]; nofun
      refine fireC_raises_third (P := planLaunch ls d a) hv ?_ ?_ ?_ ?_ ns <;>
        rw [planLaunch, sound 256 z, globalAt_trap bad, alignTrap_aligned z] <;> rfl
    · refine point_quiet (P := planJob ls d a) hp rfl ?_ leads
      rw [planJob, sound 128 z]
      rfl
    · refine point_quiet (P := planJobResume ls d a) hp rfl ?_ leads
      rw [planJobResume, sound 1 (Nat.mod_one p)]
      rfl
    · exact launch_misaligned hv ls hd near pa ng z
    · have e := plan 128
      rw [if_neg z] at e
      refine fireC_raises_third (P := planJob ls d a) (tr := ⟨.align, rd64 s s.cur a.toNat⟩) hv ?_ ?_ ?_ ?_ nofun <;>
        rw [planJob, e] <;> rfl
  · have e := planJobq_eq h ls hd near pa
    rw [det] at e
    exact acts_quiet (P := planJobq ls d a) h rfl e
  · have e := planJobq_eq h ls hd near pa
    rw [det] at e
    exact fireC_raises_own (P := planJobq ls d a) hv e nofun
  · intro have_ n
    have e := planJobw_eq h ls pa pb al hit clean ngr
    refine ⟨fun reached => ?_, fun below => ?_⟩
    · rw [if_pos reached] at e
      exact fireC_stays (P := planJobw ls a b) h e (run_nil _) h.fit_taken rfl
    · rw [if_neg (Nat.not_le.2 below)] at e
      exact sleeps_quiet (P := planJobw ls a b) h rfl e

end Sys2Proof.Machine
end

section
/-!
Proofs: the words of a cached sequence (R281, R293, R300 to R311).
-/

namespace Sys2Proof.Machine
open Sys2Proof

/-! ## A cached sequence -/

/-- A reference to a sequence that the core has cached asks for nothing of its own (R293). -/
theorem seqPlan_cached {s : State} {v : Dword} {key : Nat} {q : Seq} (c : Says.Cached s v key q) (p : Plan)
    (f : Plan → Nat → Seq → Plan) : seqPlan s p v f = f p key q := by
  obtain ⟨al, ⟨loc, e, hit⟩, rfl, held, bound⟩ := c
  have own : p.own none = p := by rw [Plan.own, Option.or_none]
  simp only [seqPlan, alignTrap_aligned al, own, hit, held, bound, if_true]

section
variable {s : State} {q : Seq} {pos : Nat}

/-- An ended position: the sequence is ENDED, KEEP is passed, or the version is final (R300, R304). -/
def refEnded (s : State) (q : Seq) (pos : Nat) : Prop :=
  q.st = 3 ∨ q.keep ≤ pos ∨ (hasVer q pos = true ∧ verFinal s q pos = true)

theorem refAt_ended (h : refEnded s q pos) : refAt s s.cur q pos = .kind 4 := if_pos h

theorem refAt_ver (h : ¬refEnded s q pos) (v : hasVer q pos = true) : refAt s s.cur q pos = .ver (verAt s q pos) :=
  (if_neg h).trans (if_pos v)

theorem refAt_wait (h : ¬refEnded s q pos) (v : hasVer q pos = false)
    (comes : q.cp ≤ pos ∧ (iterOf s s.cur).isSome = true) : refAt s s.cur q pos = .wait :=
  ((if_neg h).trans (if_neg (by rw [v]; nofun))).trans (if_pos comes)

theorem refAt_never (h : ¬refEnded s q pos) (v : hasVer q pos = false)
    (never : ¬(q.cp ≤ pos ∧ (iterOf s s.cur).isSome = true)) : refAt s s.cur q pos = .kind 7 :=
  ((if_neg h).trans (if_neg (by rw [v]; nofun))).trans (if_neg never)

end

/-- No DETERM kernel meets a sequence with a mask deadline (R305). -/
theorem maskDeterm_eq {s : State} {q : Seq} (det : determ s s.cur = true → q.maskreq = true → q.dlcy = 0) (p : Plan) :
    p.maskDeterm s q = p := by
  have quiet : (determ s s.cur && q.maskreq && q.dlcy != 0) = false := by
    cases h1 : determ s s.cur with
    | false => rfl
    | true =>
      cases h2 : q.maskreq with
      | false => rfl
      | true => rw [det h1 h2]; rfl
  rw [Plan.maskDeterm, Plan.ownIf, quiet, if_neg nofun, Plan.own, Option.or_none]

/-- A slice in place, aligned and clean (R307). -/
structure SliceFits (s : State) (x : SliceArg) (loc : Nat) : Prop where
  some_ : x.count ≠ 0
  quads : x.count % 4 = 0
  small : x.count ≤ 262144
  at_ : nearOwn s s.cur x.naddr (4 * x.count) = some loc
  aligned : x.naddr % 16 = 0
  clean : nearPoison s loc (4 * x.count) = none

theorem slicePlan_fits {s : State} {x : SliceArg} {loc : Nat} (h : SliceFits s x loc) (ds : List Nat) (pt : Bool) :
    slicePlan s { dests := ds, point := pt } x = { dests := ds, point := pt } := by
  obtain ⟨h0, h4, hl, at_, al, clean⟩ := h
  have good : ¬(x.count = 0 ∨ x.count % 4 ≠ 0 ∨ 262144 < x.count) := by omega
  simp only [slicePlan, if_neg good, Plan.own, at_, alignTrap_aligned al, clean, Option.isSome_none, Option.map_none,
    Option.or_none, Bool.false_eq_true, if_false]

theorem sliceLoc_fits {s : State} {x : SliceArg} {loc : Nat} (h : SliceFits s x loc) : sliceLoc s s.cur x = loc := by
  rw [sliceLoc, h.at_, Option.getD_some]

section
variable {s : State} (h : Clear s) (ls : LS) {d a b : BitVec 7} {key : Nat} {q : Seq} (hd : Dest s d.toNat)
  (near : d.toNat < 112) (pa : Plain s a.toNat) (pb : Plain s b.toNat)
  (c : Says.Cached s (rd64 s s.cur a.toNat) key q)
include h hd near pa pb c

/-! ## DRAW -/

section
variable (z : bits (rd s s.cur b.toNat) 127 32 = 0) (det : determ s s.cur = true → q.maskreq = true → q.dlcy = 0)
include z det

theorem planDraw_kind {k : Nat} (r : refAt s s.cur q (bits (rd s s.cur b.toNat) 31 0) = .kind k) : planDraw ls d a b s =
    { dests := destOf d.toNat, mark := ls.s, stages := [known s.cur d.toNat (k * 2 ^ 32 + 0xFFFFFFFF) 2280] } := by
  simp only [planDraw, seqPlan_cached c, regPlan_swap h hd near pa pb, maskDeterm_eq det, r, z, cPlan, Plan.ownIf, Plan.own,
    Plan.does, List.nil_append, Option.none_or, bne_self_eq_false, Bool.false_eq_true, if_false]

theorem planDraw_wait (r : refAt s s.cur q (bits (rd s s.cur b.toNat) 31 0) = .wait) : planDraw ls d a b s =
    { dests := destOf d.toNat, mark := ls.s, sleep := some (.version key (bits (rd s s.cur b.toNat) 31 0) false) } := by
  simp only [planDraw, seqPlan_cached c, regPlan_swap h hd near pa pb, maskDeterm_eq det, r, z, cPlan, Plan.ownIf, Plan.own,
    Plan.awaitVer, Option.none_or, bne_self_eq_false, Bool.false_eq_true, if_false]

theorem planDraw_ver (r : refAt s s.cur q (bits (rd s s.cur b.toNat) 31 0) = .ver (verAt s q (bits (rd s s.cur b.toNat) 31 0)))
    (clean : verPoison s q (bits (rd s s.cur b.toNat) 31 0) = none) {l : List Stage}
    (e : (if (verAt s q (bits (rd s s.cur b.toNat) 31 0)).fqn ≠ 0 then
        [known s.cur d.toNat (2 ^ 32 + (verAt s q (bits (rd s s.cur b.toNat) 31 0)).fq.headD 0) 2280]
      else ((tabGet q.steps (bits (rd s s.cur b.toNat) 31 0)).bind (·.result)).elim
        [awaitDraw s.cur d.toNat key (bits (rd s s.cur b.toNat) 31 0) (genOf q (bits (rd s s.cur b.toNat) 31 0))]
        (fun x => [known s.cur d.toNat (x.1 * 2 ^ 32 + x.2) 2280])) = l) : planDraw ls d a b s =
    { dests := destOf d.toNat, mark := ls.s, stages :=
        markRef s.cur key (bits (rd s s.cur b.toNat) 31 0) (genOf q (bits (rd s s.cur b.toNat) 31 0)) :: l } := by
  subst e
  simp only [planDraw, seqPlan_cached c, regPlan_swap h hd near pa pb, maskDeterm_eq det, r, z, cPlan, Plan.ownIf, Plan.own,
    Plan.tainted, clean, Option.none_or, bne_self_eq_false, Bool.false_eq_true, if_false]
  split
  · rfl
  · cases (tabGet q.steps (bits (rd s s.cur b.toNat) 31 0)).bind (·.result) <;> rfl

end

/-! ## SLICEMASS and PENAL -/

section
variable {loc : Nat} (fits : SliceFits s (sliceArg (rd s s.cur b.toNat)) loc)
include fits

section
variable (det : determ s s.cur = true → q.maskreq = true → q.dlcy = 0)
include det

theorem planSlicemass_kind {k : Nat} (r : refAt s s.cur q (sliceArg (rd s s.cur b.toNat)).pos = .kind k) :
    planSlicemass ls d a b s =
      { dests := destOf d.toNat, mark := ls.s, stages := [known s.cur d.toNat (k * 2 ^ 32) 40] } := by
  simp only [planSlicemass, seqPlan_cached c, regPlan_swap h hd near pa pb, maskDeterm_eq det, r, cPlan, Plan.does,
    slicePlan_fits fits, List.nil_append]

theorem planSlicemass_ver (r : refAt s s.cur q (sliceArg (rd s s.cur b.toNat)).pos =
      .ver (verAt s q (sliceArg (rd s s.cur b.toNat)).pos))
    (clean : verPoison s q (sliceArg (rd s s.cur b.toNat)).pos = none)
    (free : (verAt s q (sliceArg (rd s s.cur b.toNat)).pos).fqn = 0)
    (unmasked : (sliceArg (rd s s.cur b.toNat)).first + (sliceArg (rd s s.cur b.toNat)).count ≤ q.vocab →
      tabGet q.masks (sliceArg (rd s s.cur b.toNat)).pos = none) :
    planSlicemass ls d a b s =
      { dests := destOf d.toNat, mark := ls.s, stages :=
          markRef s.cur key (sliceArg (rd s s.cur b.toNat)).pos (genOf q (sliceArg (rd s s.cur b.toNat)).pos) ::
          (if q.vocab < (sliceArg (rd s s.cur b.toNat)).first + (sliceArg (rd s s.cur b.toNat)).count then
            [known s.cur d.toNat (5 * 2 ^ 32) 40]
          else [nearRead loc (4 * (sliceArg (rd s s.cur b.toNat)).count), fun u => seqS [pendAwait s.cur [d.toNat],
            contribute key (sliceArg (rd s s.cur b.toNat)).pos
              { first := (sliceArg (rd s s.cur b.toNat)).first, count := (sliceArg (rd s s.cur b.toNat)).count, loc := loc
                task := (thr u s.cur).task, pend := u.fresh
                logits := (words32 (lookBytes u loc (4 * (sliceArg (rd s s.cur b.toNat)).count))).map (BitVec.ofNat 32) },
            eff [.draw 512]] u]) } := by
  have unforced : ¬(verAt s q (sliceArg (rd s s.cur b.toNat)).pos).fqn ≠ 0 := not_not.2 free
  simp only [planSlicemass, seqPlan_cached c, regPlan_swap h hd near pa pb, maskDeterm_eq det, r, cPlan, Plan.does,
    slicePlan_fits fits, sliceLoc_fits fits, Plan.tainted, clean, Option.none_or, if_neg unforced, List.nil_append]
  split
  · rfl
  next le =>
    simp only [Plan.masked, unmasked (Nat.not_lt.1 le)]
    rfl

end

variable (sp : speculative s s.cur = true → locScratch loc = false)
include sp

theorem planPenal_ended (ended : q.st = 3) : planPenal ls d a b s =
    { dests := destOf d.toNat, mark := ls.s, point := true, stages := [known s.cur d.toNat (4 * 2 ^ 32) 60] } := by
  have quiet : (speculative s s.cur && locScratch loc) = false := by
    cases q : speculative s s.cur with
    | false => rfl
    | true => exact sp q
  simp only [planPenal, seqPlan_cached c, regPlan_swap h hd near pa pb, slicePlan_fits fits, sliceLoc_fits fits, quiet, cPlan,
    Plan.ownIf, Plan.own, Plan.does, if_pos ended, List.nil_append, Option.none_or, Bool.false_eq_true, if_false]

theorem planPenal_ver (going : q.st ≠ 3) (v : hasVer q (sliceArg (rd s s.cur b.toNat)).pos = true)
    (clean : ringPoison s q ((sliceArg (rd s s.cur b.toNat)).pos - q.hist)
      ((sliceArg (rd s s.cur b.toNat)).pos - ((sliceArg (rd s s.cur b.toNat)).pos - q.hist)) = none) :
    planPenal ls d a b s =
      { dests := destOf d.toNat, mark := ls.s, point := true, stages := [
          markRef s.cur key (sliceArg (rd s s.cur b.toNat)).pos (genOf q (sliceArg (rd s s.cur b.toNat)).pos),
          pendIn s.cur [d.toNat] none (.penal (sliceArg (rd s s.cur b.toNat)).naddr (sliceArg (rd s s.cur b.toNat)).first
            (sliceArg (rd s s.cur b.toNat)).count q.pfreq q.ppres (history s q (sliceArg (rd s s.cur b.toNat)).pos))
            (4 * q.hist + 60)] } := by
  have quiet : (speculative s s.cur && locScratch loc) = false := by
    cases q : speculative s s.cur with
    | false => rfl
    | true => exact sp q
  simp only [planPenal, seqPlan_cached c, regPlan_swap h hd near pa pb, slicePlan_fits fits, sliceLoc_fits fits, quiet, cPlan,
    Plan.ownIf, Plan.own, Plan.does, if_neg going, v, Plan.tainted, clean, List.nil_append, Option.none_or,
    Bool.false_eq_true, if_false, if_true]

end

/-! ## GMASK -/

section
variable (sp : speculative s s.cur = false) (z1 : bits (rd s s.cur b.toNat) 63 32 = 0)
  (z2 : bits (rd s s.cur b.toNat) 127 119 = 0) (al : bits (rd s s.cur b.toNat) 118 64 % 64 = 0)
include sp z1 z2 al

theorem planGmask_ended (ended : q.st = 3) : planGmask ls d a b s =
    { dests := destOf d.toNat, mark := ls.s, stages := [known s.cur d.toNat (4 * 2 ^ 32) 420] } := by
  simp only [planGmask, seqPlan_cached c, regPlan_swap h hd near pa pb, sp, z1, z2, alignTrap_aligned al, if_pos ended, cPlan,
    Plan.noSpec, Plan.ownIf, Plan.own, Plan.does, List.nil_append, Option.none_or, bne_self_eq_false, Bool.or_self,
    Bool.false_eq_true, if_false]

theorem planGmask_ver (going : q.st ≠ 3) (v : hasVer q (bits (rd s s.cur b.toNat) 31 0) = true)
    (undrawn : (tabGet q.steps (bits (rd s s.cur b.toNat) 31 0)).bind (·.result) = none) : planGmask ls d a b s =
    { dests := destOf d.toNat, mark := ls.s, stages := [
        eff [onSeq key (fun q => { q with
          masks := tabPut q.masks (bits (rd s s.cur b.toNat) 31 0) (bits (rd s s.cur b.toNat) 118 64) })],
        fullCheck key (bits (rd s s.cur b.toNat) 31 0), known s.cur d.toNat 0 420] } := by
  simp only [planGmask, seqPlan_cached c, regPlan_swap h hd near pa pb, sp, z1, z2, alignTrap_aligned al, if_neg going, v,
    undrawn, cPlan, Plan.noSpec, Plan.ownIf, Plan.own, Plan.does, List.nil_append, Option.none_or, bne_self_eq_false,
    Bool.or_self, Option.isSome_none, Bool.not_true, Bool.false_eq_true, if_false]

end

/-! ## TOKAPP -/

section
variable (z : bits (rd s s.cur b.toNat) 127 64 = 0)
include z

theorem planTokapp_kind {k : Nat} (r : refAt s s.cur q (bits (rd s s.cur b.toNat) 31 0) = .kind k) : planTokapp ls d a b s =
    { dests := destOf d.toNat, mark := ls.s, point := true
      stages := [known s.cur d.toNat (k * 2 ^ 32 + 0xFFFFFFFF) 60] } := by
  simp only [planTokapp, seqPlan_cached c, regPlan_swap h hd near pa pb, r, z, cPlan, Plan.ownIf, Plan.own, Plan.does,
    List.nil_append, Option.none_or, bne_self_eq_false, Bool.false_eq_true, if_false]

section
variable (r : refAt s s.cur q (bits (rd s s.cur b.toNat) 31 0) = .ver (verAt s q (bits (rd s s.cur b.toNat) 31 0)))
  (clean : verPoison s q (bits (rd s s.cur b.toNat) 31 0) = none) (within : bits (rd s s.cur b.toNat) 31 0 ≤ q.cp + 62)
  {forced : Bool} (hf : decide ((verAt s q (bits (rd s s.cur b.toNat) 31 0)).fqn ≠ 0) = forced)
include r clean within hf

/-- A token that is neither forced nor in the vocabulary is refused (R310). -/
theorem planTokapp_range (refused : (!forced && decide (q.vocab ≤ bits (rd s s.cur b.toNat) 63 32)) = true) :
    planTokapp ls d a b s =
      { dests := destOf d.toNat, mark := ls.s, point := true, stages := [
          markRef s.cur key (bits (rd s s.cur b.toNat) 31 0) (genOf q (bits (rd s s.cur b.toNat) 31 0)),
          known s.cur d.toNat (7 * 2 ^ 32 + 0xFFFFFFFF) 60] } := by
  simp only [planTokapp, seqPlan_cached c, regPlan_swap h hd near pa pb, r, z, hf, refused, if_neg (Nat.not_lt.2 within), clean,
    cPlan, Plan.ownIf, Plan.own, Plan.does, Plan.tainted, List.nil_append, List.cons_append, Option.none_or, bne_self_eq_false,
    Bool.false_eq_true, if_false, if_true]

theorem planTokapp_appends (taken_ : (!forced && decide (q.vocab ≤ bits (rd s s.cur b.toNat) 63 32)) = false) {t : Nat}
    (ht : (if forced = true then (verAt s q (bits (rd s s.cur b.toNat) 31 0)).fq.headD 0
      else bits (rd s s.cur b.toNat) 63 32) = t) {w : Ver × Bool × Bool}
    (hw : (if forced = true then (verAt s q (bits (rd s s.cur b.toNat) 31 0)).advance
      else verAt s q (bits (rd s s.cur b.toNat) 31 0)).decode q t = w) : planTokapp ls d a b s =
      { dests := destOf d.toNat, mark := ls.s, point := true, stages := [
          markRef s.cur key (bits (rd s s.cur b.toNat) 31 0) (genOf q (bits (rd s s.cur b.toNat) 31 0)),
          appendToken s.cur key (bits (rd s s.cur b.toNat) 31 0) t (q.lastGen + 1) w.1,
          known s.cur d.toNat (t + bit forced * 2 ^ 32 + bit w.2.1 * 2 ^ 35 + bit w.2.2 * 2 ^ 36
            + w.1.q.getD 14 0 * 2 ^ 48) 60] } := by
  subst hw
  subst ht
  simp only [planTokapp, seqPlan_cached c, regPlan_swap h hd near pa pb, r, z, hf, taken_, if_neg (Nat.not_lt.2 within), clean,
    cPlan, Plan.ownIf, Plan.own, Plan.does, Plan.tainted, List.nil_append, List.cons_append, Option.none_or, bne_self_eq_false,
    Bool.false_eq_true, if_false]

end
end

/-! ## SEQCMT -/

section
variable (sp : speculative s s.cur = false) (z : bits (rd s s.cur b.toNat) 127 32 = 0)
include sp z

theorem cmtPlan_ended (ended : q.st = 3) (act : Nat → Seq → Nat → Option (List Stage)) : cmtPlan s ls d a b act =
    { dests := destOf d.toNat, mark := ls.s, point := true, stages := [cmtResult s.cur d.toNat key 4] } := by
  simp only [cmtPlan, seqPlan_cached c, regPlan_swap h hd near pa pb, sp, z, if_pos ended, cPlan, Plan.noSpec, Plan.ownIf,
    Plan.own, Plan.does, List.nil_append, Option.none_or, bne_self_eq_false, Bool.false_eq_true, if_false]

theorem cmtPlan_going (going : q.st ≠ 3) {act : Nat → Seq → Nat → Option (List Stage)} {r : Option (List Stage)}
    (e : act key q (bits (rd s s.cur b.toNat) 31 0) = r) : cmtPlan s ls d a b act =
    { dests := destOf d.toNat, mark := ls.s, point := true, stages := r.elim [cmtResult s.cur d.toNat key 7]
        (fun l => [onBehalf s.cur key] ++ l ++ [cmtResult s.cur d.toNat key 0]) } := by
  simp only [cmtPlan, seqPlan_cached c, regPlan_swap h hd near pa pb, sp, z, if_neg going, e, cPlan, Plan.noSpec, Plan.ownIf,
    Plan.own, Plan.does, List.nil_append, Option.none_or, bne_self_eq_false, Bool.false_eq_true, if_false]
  cases r <;> rfl

end

end

/-! ## The obligation -/

/-- Settles O31: each word by its plan at what its reference meets. -/
theorem sequenceWordsReferToVersions : Obligations.SequenceWordsReferToVersions := by
  intro s ls d a b key q hp hd near pa pb c x pos ended comes v mark acts points tells slice clean
  have h := hp.clear
  refine ⟨fun z det => ⟨fun en => ?_, fun un nv never => ?_, fun un nv com => ?_, fun un hv cl => ⟨fun f => ?_, fun f k t e => ?_,
    fun f e => ?_⟩⟩, fun loc n0 n4 nl at_ al cln => ⟨fun det => ⟨fun en => ?_, fun un hv cl f big => ?_,
    fun un hv cl f small nm => ?_⟩, fun sp => ⟨fun en => ?_, fun go hv cl => ?_⟩⟩, fun sp z1 z2 al => ⟨fun en => ?_,
    fun go hv un => ?_⟩, fun z => ⟨fun en => ?_, fun un hv cl wi => ?_⟩, fun sp z => ?_, fun o lp lat run it fresh user => ?_⟩
  · exact acts_quiet (P := planDraw ls d a b) h rfl (planDraw_kind h ls hd near pa pb c z det (refAt_ended en))
  · exact acts_quiet (P := planDraw ls d a b) h rfl (planDraw_kind h ls hd near pa pb c z det (refAt_never un nv never))
  · exact sleeps_quiet (P := planDraw ls d a b) h rfl (planDraw_wait h ls hd near pa pb c z det (refAt_wait un nv com))
  · exact acts_quiet (P := planDraw ls d a b) h rfl
      (planDraw_ver h ls hd near pa pb c z det (refAt_ver un hv) cl (if_pos f))
  · exact acts_quiet (P := planDraw ls d a b) h rfl
      (planDraw_ver h ls hd near pa pb c z det (refAt_ver un hv) cl ((if_neg (not_not.2 f)).trans (by rw [e]; rfl)))
  · exact acts_quiet (P := planDraw ls d a b) h rfl
      (planDraw_ver h ls hd near pa pb c z det (refAt_ver un hv) cl ((if_neg (not_not.2 f)).trans (by rw [e]; rfl)))
  · exact acts_quiet (P := planSlicemass ls d a b) h rfl
      (planSlicemass_kind h ls hd near pa pb c ⟨n0, n4, nl, at_, al, cln⟩ det (refAt_ended en))
  · have e := planSlicemass_ver h ls hd near pa pb c ⟨n0, n4, nl, at_, al, cln⟩ det (refAt_ver un hv) cl f
      fun le => absurd big (Nat.not_lt.2 le)
    rw [if_pos big] at e
    exact acts_quiet (P := planSlicemass ls d a b) h rfl e
  · have e := planSlicemass_ver h ls hd near pa pb c ⟨n0, n4, nl, at_, al, cln⟩ det (refAt_ver un hv) cl f fun _ => nm
    rw [if_neg (Nat.not_lt.2 small)] at e
    exact acts_quiet (P := planSlicemass ls d a b) h rfl e
  · exact point_quiet (P := planPenal ls d a b) hp rfl
      (planPenal_ended h ls hd near pa pb c ⟨n0, n4, nl, at_, al, cln⟩ sp en) rfl
  · exact point_quiet (P := planPenal ls d a b) hp rfl
      (planPenal_ver h ls hd near pa pb c ⟨n0, n4, nl, at_, al, cln⟩ sp go hv cl) rfl
  · exact acts_quiet (P := planGmask ls d a b) h rfl (planGmask_ended h ls hd near pa pb c sp z1 z2 al en)
  · exact acts_quiet (P := planGmask ls d a b) h rfl (planGmask_ver h ls hd near pa pb c sp z1 z2 al go hv un)
  · exact point_quiet (P := planTokapp ls d a b) hp rfl (planTokapp_kind h ls hd near pa pb c z (refAt_ended en)) rfl
  · intro forced t r
    by_cases f : v.fqn ≠ 0
    · have hf : decide ((verAt s q pos).fqn ≠ 0) = true := decide_eq_true f
      have ht : t = v.fq.headD 0 := if_pos f
      have hr : r = v.advance.decode q (v.fq.headD 0) := by
        simp only [r, t, forced, if_pos f]
      have hd' : decide forced = true := decide_eq_true f
      refine ⟨fun _ => ?_, fun nf => absurd f nf⟩
      rw [ht, hr, hd']
      exact point_quiet (P := planTokapp ls d a b) hp rfl
        (planTokapp_appends h ls hd near pa pb c z (refAt_ver un hv) cl wi hf rfl rfl rfl) rfl
    · have hf : decide ((verAt s q pos).fqn ≠ 0) = false := decide_eq_false f
      have ht : t = bits x 63 32 := if_neg f
      have hr : r = v.decode q (bits x 63 32) := by
        simp only [r, t, forced, if_neg f]
      have hd' : decide forced = false := decide_eq_false f
      refine ⟨fun ok => ?_, fun _ large => ?_⟩
      · have lt : bits x 63 32 < q.vocab := ok.resolve_left f
        rw [ht, hr, hd']
        exact point_quiet (P := planTokapp ls d a b) hp rfl
          (planTokapp_appends h ls hd near pa pb c z (refAt_ver un hv) cl wi hf (decide_eq_false (Nat.not_le.2 lt)) rfl rfl) rfl
      · exact point_quiet (P := planTokapp ls d a b) hp rfl
          (planTokapp_range h ls hd near pa pb c z (refAt_ver un hv) cl wi hf (decide_eq_true large)) rfl
  · intro behalf gives
    refine ⟨fun en => ⟨?_, ?_⟩, fun go => ⟨fun h1 h2 h3 => ?_, fun no => ?_, fun h1 h2 => ?_⟩⟩
    · exact point_quiet (P := planSeqcmtCommit ls d a b) hp rfl (cmtPlan_ended h ls hd near pa pb c sp z en _) rfl
    · exact point_quiet (P := planSeqcmtRewind ls d a b) hp rfl (cmtPlan_ended h ls hd near pa pb c sp z en _) rfl
    · have e : planSeqcmtCommit ls d a b s = _ :=
        cmtPlan_going h ls hd near pa pb c sp z go (r := some [seqAdvance key pos]) (if_pos ⟨h1, h2, h3⟩)
      exact point_quiet (P := planSeqcmtCommit ls d a b) hp rfl e rfl
    · have e : planSeqcmtCommit ls d a b s = _ := cmtPlan_going h ls hd near pa pb c sp z go (r := none) (if_neg no)
      exact point_quiet (P := planSeqcmtCommit ls d a b) hp rfl e rfl
    · have e : planSeqcmtRewind ls d a b s = _ := cmtPlan_going h ls hd near pa pb c sp z go
        (r := some [seqCut key pos (pos + 1), eff [onSeq key (fun q => { q with tip := pos, cp := min q.cp pos })],
          planSeqcmtRewind.versionAtCp key, seqWriteBack key, seqSettle key]) (if_pos (.inl ⟨h1, h2⟩))
      exact point_quiet (P := planSeqcmtRewind ls d a b) hp rfl e rfl
  · have legal : ((iterOf s s.cur).isSome && (me s).arch.carry.isNone && (me s).arch.priv != .handler) = true := by
      rw [it, fresh, bne_iff_ne.2 user]
      rfl
    refine acts_quiet (P := planAcceptSeq ls a) h rfl ?_
    rw [planAcceptSeq, seqPlan_cached c, acceptPlan_eq h (by simp [pa]) rfl lat run, legal, ← c.named]
    rfl

end Sys2Proof.Machine
end

section
/-!
Proofs: what words leave unchanged (O56). A word of one register ends in `finished (put …)`, and `put` is the only change
of an object; the two stores keep all but the bytes, through the end of the bundle and of the chunk (`KeepsRegisters`).
-/

namespace Sys2Proof.Machine

open Sys2Proof
open Sys2Proof.Says

/-! ## Words of one register -/

/-- Without the switch marker the end of a bundle changes the current thread, the agenda and the count of free values. -/
theorem finished_unmarked (u : State) (npc : Option (BitVec 64)) (lost : Nat) :
    ∃ ag, finished u false npc lost = { onMe u (stepped npc lost) with agenda := ag, fresh := u.fresh + 256 } := by
  simp only [finished, marked, boundary, Bool.false_and, Bool.false_eq_true, if_false]
  split
  · exact ⟨_, rfl⟩
  · exact ⟨_, rfl⟩

theorem tabGet_slots_onMe {s : State} (f : Thread → Thread) {x : Nat} (h : x ≠ s.cur) :
    tabGet (onMe s f).o.slots x = tabGet s.o.slots x :=
  tabGet_upd_ne _ _ h

theorem hearth_put_ne {s : State} {d : Nat} (v : Word) {c h : Nat} (ne : ¬ (c = coreOf s.cur ∧ h = d - 112)) :
    tabGet (core (put s d v) c).hearth h = tabGet (core s c).hearth h := by
  unfold put
  split
  · rfl
  · split
    · by_cases e : c = coreOf s.cur
      · subst e
        simp only [core, tabMod, tabD, tabGet_put_self, Option.getD_some]
        exact tabGet_put_ne _ _ fun w => ne ⟨rfl, w⟩
      · simp only [core, tabMod, tabD, tabGet_put_ne _ _ e]
    · rfl

/-- What a register's write keeps, apart from its own thread. -/
theorem put_keeps (s : State) (d : Nat) (v : Word) :
    (∃ sl co, (put s d v).o = { s.o with slots := sl, cores := co }) ∧
    (d < 112 → (put s d v).o.cores = s.o.cores) ∧
    (∀ x, x ≠ s.cur → tabGet (put s d v).o.slots x = tabGet s.o.slots x) ∧
    (put s d v).journal = s.journal ∧ (put s d v).commits = s.commits ∧ (put s d v).lastWrite = s.lastWrite ∧
    (put s d v).now = s.now := by
  unfold put
  split
  · exact ⟨⟨_, _, rfl⟩, fun _ => rfl, fun _ _ => rfl, rfl, rfl, rfl, rfl⟩
  · split
    · exact ⟨⟨_, _, rfl⟩, fun lt => by omega, fun _ _ => rfl, rfl, rfl, rfl, rfl⟩
    · exact ⟨⟨_, _, rfl⟩, fun _ => rfl, fun _ ne => tabGet_slots_onMe _ ne, rfl, rfl, rfl, rfl⟩

/-- One register written, and the bundle ended. -/
theorem onlyRegister_finished {s : State} {d : BitVec 7} (h : Clear s) (v : Word) (lost : Nat) :
    OnlyRegister s (finished (put (taken s) d.toNat v) false none lost) d.toNat := by
  obtain ⟨ag, e⟩ := finished_unmarked (put (taken s) d.toNat v) none lost
  obtain ⟨⟨sl, co, ho⟩, hc, hs, hj, hm, hw, hn⟩ := put_keeps (taken s) d.toNat v
  have held : occupied (put (taken s) d.toNat v) (put (taken s) d.toNat v).cur = true := by
    rw [cur_put, occupied_put]
    exact h.held
  have m : me (finished (put (taken s) d.toNat v) false none lost) = stepped none lost (me (put (taken s) d.toNat v)) := by
    rw [e]
    exact me_onMe _ _ held
  rw [me_put (s := taken s) d.toNat v h.held] at m
  have other : ∀ x, x ≠ s.cur → tabGet (finished (put (taken s) d.toNat v) false none lost).o.slots x = tabGet s.o.slots x :=
    fun x ne => by
      rw [e]
      exact (tabGet_slots_onMe _ (by rwa [cur_put])).trans (hs x ne)
  refine ⟨by rw [e]; exact cur_put _ _ _, fun a => by rw [e]; exact congrArg (memGet · a) (mem_put _ _ _),
    fun r lt ne => ?_, ?_, ?_, ?_, other, ?_, fun lt => by rw [e]; exact hc lt, fun c x ne => ?_, ?_⟩
  · rw [m]
    split
    · rfl
    · next no => exact (reg_setReg _ (by omega) _ _).trans (if_neg ne)
  · rw [m]
    split <;> rfl
  · rw [m]
    split <;> rfl
  · rw [m]
    split <;> exact ⟨rfl, rfl, rfl, rfl, rfl, rfl, rfl, rfl⟩
  · rw [e]
    simp only [o_onMe, ho]
    rfl
  · rw [e]
    exact hearth_put_ne (s := taken s) v ne
  · rw [e]
    exact ⟨hj, hm, hw, hn⟩

/-- A position that is lost changes no register at all. -/
theorem onlyRegister_lost (s : State) (d : Nat) : OnlyRegister s { taken s with fresh := s.fresh + 256 } d :=
  ⟨rfl, fun _ => rfl, fun _ _ _ => rfl, rfl, rfl, ⟨rfl, rfl, rfl, rfl, rfl, rfl, rfl, rfl⟩, fun _ _ => rfl, rfl, fun _ => rfl,
    fun _ _ _ => rfl, ⟨rfl, rfl, rfl, rfl⟩⟩

/-- A vector word loses its position while the pipe serves a lathe. -/
theorem fireA_busy {s : State} {P : State → Plan} {ds : List Nat} {l : List Stage} {n : Nat} (h : Clear s)
    (busy : pipeBusy s s.cur = true) (e : P s = { dests := ds, vpipe := true, lost := n, stages := l }) :
    fireA P s = .next { taken s with fresh := s.fresh + 256 } := by
  rw [fireA, if_pos h.held, e]
  congr 1
  simp only [issue, firstTrap, idle_clash, busy, Bool.or_true, Bool.and_true, Bool.true_or]
  rfl

/-- A word whose bundle writes one register. -/
theorem onlyRegister_of_writes {s t : State} {i : Instr} {d : BitVec 7} {v : Word} (h : Clear s) (w : Writes s i d v)
    (e : exec i s = .next t) : OnlyRegister s t d.toNat := by
  rw [Writes, e] at w
  cases w
  exact onlyRegister_finished h v 0

/-- A bitwise word of the pipe. -/
theorem onlyRegister_moved {s t : State} {i : Instr} {d a b : BitVec 7} {F : Word → Word → Word} (h : Clear s)
    (hd : Dest s d.toNat) (pa : Plain s a.toNat) (pb : Plain s b.toNat) (e : exec i s = fireA (vecPlan i) s)
    (w : vword id i = some (vword3 d.toNat a.toNat b.toNat (fun _ x y => moved (F x y)))) (wf : i.wf = true)
    (n : exec i s = .next t) : OnlyRegister s t d.toNat := by
  cases busy : pipeBusy s s.cur with
  | false =>
    have q := vec_moved h busy hd pa pb e w wf
    exact onlyRegister_of_writes h q n
  | true =>
    have q := vecPlan_eq h w wf (by simp [vword3, hd, pa, pb]) rfl
    rw [e, fireA_busy h busy q] at n
    cases n
    exact onlyRegister_lost s _

/-- Every word that computes one register from others. -/
theorem registerWord_onlyRegister {s t : State} {i : Instr} {d : BitVec 7} {l : List (BitVec 7)}
    (r : registerWord i = some (d, l)) (wf : i.wf = true) (h : Clear s) (hd : Dest s d.toNat)
    (pl : ∀ f ∈ l, Plain s f.toNat) (e : exec i s = .next t) : OnlyRegister s t d.toNat := by
  obtain ⟨add, sub, mul, mulh, and', or', xor', shl, shr, sar, rot, min', max', bfx, abs', neg', clz, popc, brev, mov, bfi⟩ :=
    scalarWordsComputeTheirTable.1
  obtain ⟨⟨addi, andi, ori, xori, shli, shri, sari, _⟩, _⟩ := immediateFormsComputeOnS64
  have ptr := pointerWordsMoveAddressesAndTags.1
  have pred := predicateWordsCompareAndSelect
  unfold registerWord at r
  split at r <;> cases r <;> simp only [List.forall_mem_cons, List.not_mem_nil, false_imp_iff, implies_true, and_true] at pl
  case h_1 => exact onlyRegister_of_writes h (add s _ _ _ _ h hd pl.1 pl.2) e
  case h_2 => exact onlyRegister_of_writes h (sub s _ _ _ _ h hd pl.1 pl.2) e
  case h_3 => exact onlyRegister_of_writes h (mul s _ _ _ _ h hd pl.1 pl.2) e
  case h_4 => exact onlyRegister_of_writes h (mulh s _ _ _ _ h hd pl.1 pl.2) e
  case h_5 => exact onlyRegister_of_writes h (and' s _ _ _ _ h hd pl.1 pl.2) e
  case h_6 => exact onlyRegister_of_writes h (or' s _ _ _ _ h hd pl.1 pl.2) e
  case h_7 => exact onlyRegister_of_writes h (xor' s _ _ _ _ h hd pl.1 pl.2) e
  case h_8 => exact onlyRegister_of_writes h (shl s _ _ _ _ h hd pl.1 pl.2) e
  case h_9 => exact onlyRegister_of_writes h (shr s _ _ _ _ h hd pl.1 pl.2) e
  case h_10 => exact onlyRegister_of_writes h (sar s _ _ _ _ h hd pl.1 pl.2) e
  case h_11 => exact onlyRegister_of_writes h (rot s _ _ _ _ h hd pl.1 pl.2) e
  case h_12 => exact onlyRegister_of_writes h (min' s _ _ _ _ h hd pl.1 pl.2) e
  case h_13 => exact onlyRegister_of_writes h (max' s _ _ _ _ h hd pl.1 pl.2) e
  case h_14 => exact onlyRegister_of_writes h (bfx s _ _ _ _ h hd pl.1 pl.2) e
  case h_15 => exact onlyRegister_of_writes h (bfi s _ _ _ _ h hd pl.1 pl.2) e
  case h_16 => exact onlyRegister_of_writes h (ptr s _ _ _ h hd pl.1 pl.2).2.2.2.2.2 e
  case h_17 p => exact onlyRegister_of_writes h (pred s _ _ _ 0 0 p 0 h hd pl.1 pl.2).2.2.2.1 e
  case h_18 => exact onlyRegister_of_writes h (abs' s _ _ _ h hd pl) e
  case h_19 => exact onlyRegister_of_writes h (neg' s _ _ _ h hd pl) e
  case h_20 => exact onlyRegister_of_writes h (clz s _ _ _ h hd pl) e
  case h_21 => exact onlyRegister_of_writes h (popc s _ _ _ h hd pl) e
  case h_22 => exact onlyRegister_of_writes h (brev s _ _ _ h hd pl) e
  case h_23 => exact onlyRegister_of_writes h (mov s _ _ _ h hd pl) e
  case h_24 => exact onlyRegister_of_writes h (addi s _ _ _ h hd pl rfl) e
  case h_25 => exact onlyRegister_of_writes h (andi s _ _ _ h hd pl rfl) e
  case h_26 => exact onlyRegister_of_writes h (ori s _ _ _ h hd pl rfl) e
  case h_27 => exact onlyRegister_of_writes h (xori s _ _ _ h hd pl rfl) e
  case h_28 => exact onlyRegister_of_writes h (shli s _ _ _ h hd pl wf) e
  case h_29 => exact onlyRegister_of_writes h (shri s _ _ _ h hd pl wf) e
  case h_30 => exact onlyRegister_of_writes h (sari s _ _ _ h hd pl wf) e
  case h_31 => exact onlyRegister_of_writes h (ptr s _ _ _ h hd pl hd.1).2.2.2.2.1 e
  case h_32 p => exact onlyRegister_of_writes h (pred s _ _ _ 0 0 p 0 h hd hd.1 hd.1).2.2.2.2.1 e
  case h_33 => exact onlyRegister_moved h hd pl.1 pl.2 rfl rfl rfl e
  case h_34 => exact onlyRegister_moved h hd pl.1 pl.2 rfl rfl rfl e
  case h_35 => exact onlyRegister_moved h hd pl.1 pl.2 rfl rfl rfl e

/-! ## Stores -/

/-- Between two states of a slot that holds a thread: memory, the thread's registers and predicates, and every other slot
are the same. -/
structure KeepsRegisters (s t : State) : Prop where
  cur : t.cur = s.cur
  held : occupied t t.cur = true
  mem : t.mem = s.mem
  regs : (me t).arch.regs = (me s).arch.regs
  preds : (me t).arch.preds = (me s).arch.preds
  others : ∀ x, x ≠ s.cur → tabGet t.o.slots x = tabGet s.o.slots x

theorem KeepsRegisters.trans {s t u : State} (h : KeepsRegisters s t) (g : KeepsRegisters t u) : KeepsRegisters s u :=
  ⟨g.cur.trans h.cur, g.held, g.mem.trans h.mem, g.regs.trans h.regs, g.preds.trans h.preds,
    fun x ne => (g.others x (h.cur ▸ ne)).trans (h.others x ne)⟩

/-- A change of the thread that leaves its registers and predicates alone. -/
theorem keepsRegisters_onMe {s : State} (f : Thread → Thread) (h : occupied s s.cur = true)
    (r : (f (me s)).arch.regs = (me s).arch.regs) (p : (f (me s)).arch.preds = (me s).arch.preds) :
    KeepsRegisters s (onMe s f) :=
  ⟨rfl, (occupied_onMe _ _ _).trans h, rfl, by rw [me_onMe _ _ h]; exact r, by rw [me_onMe _ _ h]; exact p,
    fun _ ne => tabGet_slots_onMe f ne⟩

theorem keepsRegisters_boundary {s : State} (h : occupied s s.cur = true) : KeepsRegisters s (boundary s) := by
  unfold boundary
  split <;> exact ⟨rfl, h, rfl, rfl, rfl, fun _ _ => rfl⟩

theorem keepsRegisters_marked {s : State} (h : occupied s s.cur = true) (m : Bool) : KeepsRegisters s (marked s m) := by
  unfold marked
  split
  · exact keepsRegisters_onMe parked h rfl rfl
  · exact ⟨rfl, h, rfl, rfl, rfl, fun _ _ => rfl⟩

theorem keepsRegisters_renewed {s : State} (h : occupied s s.cur = true) : KeepsRegisters s (renewed s) := by
  refine ⟨rfl, (occupied_renewed _ _).trans h, rfl, by rw [me_renewed h], by rw [me_renewed h], fun x ne => ?_⟩
  exact tabGet_upd_ne _ _ ne

theorem keepsRegisters_finished {s : State} (h : occupied s s.cur = true) (m : Bool) (npc : Option (BitVec 64)) (lost : Nat) :
    KeepsRegisters s (finished s m npc lost) := by
  have a := keepsRegisters_onMe (stepped npc lost) h rfl rfl
  have b := a.trans (keepsRegisters_marked a.held m)
  have c := b.trans (keepsRegisters_boundary b.held)
  exact ⟨c.cur, c.held, c.mem, c.regs, c.preds, c.others⟩

theorem keepsRegisters_pointed {s : State} (h : occupied s s.cur = true) (m : Bool) (npc : Option (BitVec 64)) (lost : Nat) :
    KeepsRegisters s (pointed s m npc lost) := by
  have a := keepsRegisters_onMe (fun t => let u := stepped npc lost t
    { u with chunk := { u.chunk with firm := true }, after := .nothing }) h rfl rfl
  have b := a.trans (keepsRegisters_renewed a.held)
  have c := b.trans (keepsRegisters_boundary b.held)
  have d := c.trans (keepsRegisters_marked c.held m)
  have e := d.trans (keepsRegisters_boundary d.held)
  exact ⟨e.cur, e.held, e.mem, e.regs, e.preds, e.others⟩

/-- Race-watch's record of an access stands in its quad. -/
theorem raceMark_quads (s : State) (slot loc n : Nat) (w : Bool) :
    ∃ qs, runStage s (raceMark slot loc n w) = { s with o := { s.o with quads := qs } } := by
  unfold runStage raceMark
  split <;> exact ⟨_, rfl⟩

/-- Bytes stored where no line is poisoned and no bit stands flipped. -/
theorem runStage_store {s : State} (np : s.o.poison = []) (nf : s.o.flips = []) (loc n : Nat) (bs : List Byte) :
    runStage s (seqS [nearRead loc n, fun s => storeMarked s loc bs]) = { s with mem := memWrite s.mem loc bs } := by
  have r : runStage s (nearRead loc n) = s := by simp [runStage, nearRead, nf]
  rw [runStage_seqS, run_cons, r, run_cons, run_nil]
  simp [runStage, storeMarked, np, nf, Eff.apply]

/-- A near store changes the stored bytes alone. -/
theorem stN_keeps {s t : State} {m : Bool} {v b : BitVec 7} {sz : BitVec 3} {off : BitVec 7} {ea : Nat} {p : NearAt}
    (h : AtPoint s) (k : Blank (me s).chunk) (pv : Plain s v.toNat) (pb : Plain s b.toNat)
    (o : nearOperand s s.cur (rd64 s s.cur b.toNat) (off.toInt * (sizeBytes sz.toNat : Nat)) = .ok (ea, p))
    (near : p.remote = false) (sp : speculative s s.cur = false) (np : s.o.poison = []) (nf : s.o.flips = [])
    (al : ea % sizeBytes sz.toNat = 0) (race : raceTrap s s.cur p.loc ea (sizeBytes sz.toNat) true = none)
    (e : exec (.stN m v b sz off) s = .next t) :
    ∃ qs, KeepsRegisters { s with
      mem := memWrite s.mem p.loc (bytesOf (sizeBytes sz.toNat) (rd s s.cur v.toNat).toNat)
      o := { s.o with quads := qs } } t := by
  let bs := bytesOf (sizeBytes sz.toNat) (rd s s.cur v.toNat).toNat
  have q := nearStorePlan_eq (m := m) (sz := sz) h.clear pv pb o (by rw [sp]; nofun)
  rw [alignTrap_aligned al, race, near] at q
  obtain ⟨qs, hq⟩ := raceMark_quads (renewed (taken s)) s.cur p.loc (sizeBytes sz.toNat) true
  let u : State := { renewed (taken s) with mem := memWrite s.mem p.loc bs, o := { (renewed (taken s)).o with quads := qs } }
  have same : me u = me (renewed (taken s)) := rfl
  have f := h.clear.fit_renewed
  have hu : run (nearStorePlan s m v b sz (off.toInt * (sizeBytes sz.toNat : Nat))).stages (renewed (taken s)) = u := by
    rw [q, run_cons, hq, run_cons, run_nil]
    exact runStage_store (s := { renewed (taken s) with o := { (renewed (taken s)).o with quads := qs } }) np nf p.loc _ bs
  have r : Runs s (nearStorePlan s m v b sz (off.toInt * (sizeBytes sz.toNat : Nat))) true := by
    rw [q]
    exact ⟨rfl, rfl, rfl, rfl, rfl, rfl, rfl, rfl, rfl, rfl, rfl, rfl, rfl, rfl⟩
  have x : exec (.stN m v b sz off) s = .next (pointed u m none 0) := by
    have y := fireC_point (p := fun s => nearStorePlan s m v b sz (off.toInt * (sizeBytes sz.toNat : Nat))) h.clear k r
      (by rw [q]) hu ⟨f.held, f.turn, f.alone, f.room, f.stores⟩ (blank_renewed (s := taken s) h.clear.held) rfl
    rw [q] at y
    exact y
  rw [x] at e
  cases e
  have w : KeepsRegisters { s with mem := memWrite s.mem p.loc bs, o := { s.o with quads := qs } } u := by
    have z := keepsRegisters_renewed (s := taken s) h.clear.held
    exact ⟨rfl, f.held, rfl, z.regs, z.preds, z.others⟩
  exact ⟨qs, w.trans (keepsRegisters_pointed (s := u) f.held m none 0)⟩

/-- A global store changes no byte before its chunk commits. -/
theorem stG_keeps {s t : State} {m : Bool} {v b : BitVec 7} {sz : BitVec 3} {off : BitVec 7} {ea loc : Nat} {te : BitVec 128}
    (h : Clear s) (ng : guessing s s.cur = false) (pv : Plain s v.toNat) (pb : Plain s b.toNat)
    (o : globalOperand (rd64 s s.cur b.toNat) (off.toInt * (sizeBytes sz.toNat : Nat)) = .ok ea)
    (ne : relOf s s.cur ea ≠ .mine) (tr : Machine.translate s s.cur ea .write = .hit loc te)
    (al : ea % sizeBytes sz.toNat = 0) (region : regionStoreTrap s s.cur ea (relOf s s.cur ea) = none)
    (e : exec (.stG m v b sz off) s = .next t) : KeepsRegisters s t := by
  have q := globalStorePlan_ok (m := m) (sz := sz) h ng pv pb o
  simp only [if_neg ne] at q
  rw [globalAt_hit tr] at q
  simp only [alignTrap_aligned (n := sizeBytes sz.toNat) al, region, Plan.own, Plan.does, Option.none_or, List.nil_append] at q
  let f : Thread → Thread := fun t => { t with
    chunk := t.chunk.addStore loc (bytesOf (sizeBytes sz.toNat) (rd s s.cur v.toNat).toNat) (ea / 65536) }
  have x : exec (.stG m v b sz off) s = .next (finished (onMe (taken s) f) m) :=
    fireC_stays (P := fun s => globalStorePlan s m v b sz (off.toInt * (sizeBytes sz.toNat : Nat))) h q rfl
      (h.fit_taken.onMe f ⟨h.turn, h.alone, h.room, Nat.succ_lt_succ h.stores⟩) rfl
  rw [x] at e
  cases e
  have w : KeepsRegisters s (onMe (taken s) f) := by
    have z := keepsRegisters_onMe (s := taken s) f h.held rfl rfl
    exact ⟨z.cur, z.held, z.mem, z.regs, z.preds, z.others⟩
  exact w.trans (keepsRegisters_finished w.held m none 0)

/-- Settles O56, by `registerWord_onlyRegister`, `stN_keeps` and `stG_keeps`. -/
theorem wordsLeaveTheRestUnchanged : Obligations.WordsLeaveTheRestUnchanged := by
  refine ⟨fun s t i d l r wf h hd pl e => registerWord_onlyRegister r wf h hd pl e, ?_, ?_⟩
  · intro s t m v b sz off ea p h k pv pb o near sp np nf n al race e
    obtain ⟨qs, _, _, mem, regs, preds, others⟩ := stN_keeps h k pv pb o near sp np nf al race e
    have len : (bytesOf n (rd s s.cur v.toNat).toNat).length = n := bytesOf_length _ _
    refine ⟨?_, fun a out => ?_, regs, preds, others⟩
    · have w := memRead_write s.mem p.loc (bytesOf n (rd s s.cur v.toNat).toNat)
      rw [len] at w
      rw [mem]
      exact w
    · rw [mem]
      exact memGet_write_outside _ _ _ _ (by rw [len]; exact out)
  · intro s t m v b sz off ea loc te h ng pv pb o ne tr al region e
    have w := stG_keeps h ng pv pb o ne tr al region e
    exact ⟨w.mem, w.regs, w.preds, w.others⟩

end Sys2Proof.Machine
end

section
/-!
Proofs: how an event takes place. An event runs one stage; where the stage picks its changes from the state it meets, the
event happens as the list that it picks there.
-/

namespace Sys2Proof.Machine

open Sys2Proof
open Sys2Proof.Says

theorem happens_run {s : State} {i : Instr} {l m : List Stage} (e : exec i s = fire l s) (h : run l s = run m s) :
    Happens s i m :=
  e.trans (congrArg _ h)

/-- An event whose stage makes the changes of a list where it is met. -/
theorem happens_stage {s : State} {i : Instr} {x : Stage} {l : List Stage} (e : exec i s = fire [x] s) (h : x s = seqS l s) :
    Happens s i l :=
  happens_run e ((congrArg (fun c => c.foldl Eff.apply s) h).trans (runStage_seqS l s))

/-- An event whose stage picks a list. -/
theorem happens_pick {s : State} {i : Instr} {f : State → List Stage} {l : List Stage} (e : exec i s = fire [pick f] s)
    (h : f s = l) : Happens s i l :=
  happens_stage e (congrArg (fun l => seqS l s) h)

/-- An event whose stage picks a list that runs as another does. -/
theorem happens_pick_run {s : State} {i : Instr} {f : State → List Stage} {m l : List Stage}
    (e : exec i s = fire [pick f] s) (h : f s = m) (r : run m s = run l s) : Happens s i l :=
  (happens_pick e h).trans (congrArg _ r)

/-- An event whose stage makes the given changes. -/
theorem happens_eff {s : State} {i : Instr} {x : Stage} {l : List Eff} (e : exec i s = fire [x] s) (h : x s = l) :
    Happens s i [eff l] :=
  happens_run e (congrArg (fun c => c.foldl Eff.apply s) h)

theorem nothing_stage {s : State} {i : Instr} {x : Stage} (e : exec i s = fire [x] s) (h : x s = []) : Nothing s i :=
  happens_stage (l := []) e h

theorem nothing_pick {s : State} {i : Instr} {f : State → List Stage} (e : exec i s = fire [pick f] s) (h : f s = []) :
    Nothing s i :=
  happens_pick (l := []) e h

/-- What is scheduled at once after other changes has their cycle. -/
theorem run_evNow (l : List Stage) (s : State) (i : Instr) :
    runStage (run l s) (evNow i) = runStage (run l s) (eff [.post s.now (.ev i)]) := by
  simp only [runStage, evNow, eff, run_now]

end Sys2Proof.Machine
end

section
/-!
Proofs: bring-up, the sensors and power (O47).
-/

namespace Sys2Proof.Machine

open Sys2Proof
open Sys2Proof.Says

theorem firmwareVerify_accepts {s : State} (v : s.o.mod.st = .verify)
    (good : Config.verifies s.o.mod.image.version.toNat s.o.mod.image.digests s.o.mod.image.signature = true ∧
      s.o.mod.rollback ≤ s.o.mod.image.version.toNat) :
    Happens s .firmwareVerify [eff [onMod (fun m => { m with
      st := .training, running := s.o.mod.image, rollback := Nat.max m.rollback s.o.mod.image.version.toNat })]] := by
  refine happens_eff (x := verifies) rfl ?_
  simp only [verifies, v, ne_eq, not_true_eq_false, if_false, good.1, decide_eq_true good.2, Bool.and_self, if_true]

theorem firmwareVerify_refuses {s : State} (v : s.o.mod.st = .verify)
    (bad : ¬ (Config.verifies s.o.mod.image.version.toNat s.o.mod.image.digests s.o.mod.image.signature = true ∧
      s.o.mod.rollback ≤ s.o.mod.image.version.toNat)) :
    Happens s .firmwareVerify [eff [onMod (fun m => { m with st := .recovery })]] := by
  refine happens_eff (x := verifies) rfl ?_
  have no : ¬ (Config.verifies s.o.mod.image.version.toNat s.o.mod.image.digests s.o.mod.image.signature &&
      decide (s.o.mod.rollback ≤ s.o.mod.image.version.toNat)) = true := fun h => bad (by simpa using h)
  simp only [verifies, v, ne_eq, not_true_eq_false, if_false, if_neg no]

/-- An alarm that the module hears. -/
theorem alarm_heard {s : State} {d : Nat} {source : BitVec 4} (hd : d < 4) (nz : source ≠ 0) (le : source.toNat ≤ 3)
    (up : s.o.mod.st ≠ .reset) : ¬ (3 < d ∨ source = 0 ∨ 3 < source.toNat ∨ s.o.mod.st = .reset) := by
  rintro (a | a | a | a)
  · omega
  · exact nz a
  · omega
  · exact up a

theorem windowEnds_runs {s : State} (mw : List Nat) (up : s.o.mod.st = .ready) {l : List Stage} (u : State)
    (hu : u = run [eff [.obj (fun o => { o with dies := Vector.ofFn (fun i => { o.dies[i] with power := mw.getD i.val 0 }) }),
      onMod (fun m => if m.throttle = .off then m else { m with throttledUs := m.throttledUs + 1000 })]] s)
    (h : (if capNow u.o.mod < powerNow u then
        if u.o.mod.throttle = .off then
          [onMod (fun m => { m with throttle := .shared, throttleFrom := u.now }), .post (u.now + 19000000) (.ev .throttleEscalate)]
        else []
      else [onMod (fun m => { m with throttle := .off })]) = seqS l u) :
    exec (.powerWindow mw) s = .next (run l u) := by
  have e : exec (.powerWindow mw) s = fire [onlyIf (fun s => s.o.mod.st == .ready) (windowEnds mw)] s := rfl
  have on : (s.o.mod.st == .ready) = true := by rw [up]; rfl
  rw [e, fire, run_cons, run_nil]
  have o : runStage s (onlyIf (fun s => s.o.mod.st == .ready) (windowEnds mw)) = runStage s (windowEnds mw) := by
    simp only [runStage, onlyIf, on, if_true]
  rw [o, windowEnds, runStage_seqS, run_cons, ← run_nil (runStage s _), ← run_cons, ← hu, run_cons, run_nil,
    ← runStage_seqS l u]
  exact congrArg (fun c => Host.Outcome.next (c.foldl Eff.apply u)) h

theorem toList_dies (v : Vector Die 4) : v.toList = (upto 0 4).map (fun i => v.getD i {}) := by
  refine List.ext_getElem (by simp [upto]) fun i a _ => ?_
  have lt : i < 4 := by simpa using a
  interval_cases i <;> simp [upto, Vector.getD]

theorem getD_set_dies (v : Vector Die 4) {d : Nat} (hd : d < 4) (x : Die) (i : Nat) :
    (v.setIfInBounds d x).getD i {} = if i = d then x else v.getD i {} := by
  have fits : d < v.toArray.size := v.size_toArray.symm ▸ hd
  simp only [Vector.getD, Vector.toArray_setIfInBounds, Array.getD_eq_getD_getElem?, Array.getElem?_setIfInBounds, fits,
    if_true, eq_comm (a := i)]
  split <;> rfl

/-- One of a list's members differs. -/
theorem any_but_one {l : List Nat} {d : Nat} (m : d ∈ l) (p : Bool) (q : Nat → Bool) :
    l.any (fun i => if i = d then p else q i) = (p || l.any (fun i => i != d && q i)) := by
  rw [Bool.eq_iff_iff, Bool.or_eq_true, List.any_eq_true, List.any_eq_true]
  constructor
  · rintro ⟨i, hi, h⟩
    by_cases e : i = d
    · exact .inl (by rwa [if_pos e] at h)
    · exact .inr ⟨i, hi, by rw [if_neg e] at h; rw [h, Bool.and_true]; exact bne_iff_ne.2 e⟩
  · rintro (h | ⟨i, hi, h⟩)
    · exact ⟨d, m, by rw [if_pos rfl, h]⟩
    · obtain ⟨e, h⟩ := Bool.and_eq_true_iff.1 h
      exact ⟨i, hi, by rw [if_neg (bne_iff_ne.1 e), h]⟩

/-- A die is hot where the measured temperature or another die's is. -/
theorem hot_onDie {s : State} {d mc : Nat} (hd : d < 4) :
    (Eff.apply s (onDie d (fun x => { x with temp := mc }))).o.dies.toList.any (fun x => decide (105000 ≤ x.temp)) =
    (decide (105000 ≤ mc) || ((upto 0 4).any (fun i => i != d && decide (105000 ≤ (die s i).temp)))) := by
  rw [toList_dies, List.any_map]
  have each : ∀ i, ((fun x : Die => decide (105000 ≤ x.temp)) ∘ fun i =>
      (Eff.apply s (onDie d (fun x => { x with temp := mc }))).o.dies.getD i {}) i =
      if i = d then decide (105000 ≤ mc) else decide (105000 ≤ (die s i).temp) := fun i => by
    simp only [Function.comp_apply, Eff.apply, onDie, getD_set_dies _ hd, die]
    split <;> rfl
  rw [funext each]
  exact any_but_one (by interval_cases d <;> simp [upto]) _ _

theorem junctionTemperature_happens {s : State} {d mc : Nat} (hd : d < 4) :
    let hot := onMod (fun m => { m with hot := decide (105000 ≤ mc) ||
      ((upto 0 4).any (fun i => i != d && decide (105000 ≤ (die s i).temp))) })
    Happens s (.junctionTemperature d mc) [eff ([onDie d (fun x => { x with temp := mc }), hot] ++
      if 115000 ≤ mc ∧ s.o.mod.st ≠ .reset then [.post s.now (.ev .moduleReset)] else [])] := by
  have e : exec (.junctionTemperature d mc) s = fire [heats d mc] s := by
    have q : exec (.junctionTemperature d mc) s = fire [if d ≤ 3 then heats d mc else skip] s := rfl
    rw [q, if_pos (Nat.le_of_lt_succ hd)]
  refine happens_eff e ?_
  have h := hot_onDie (s := s) (mc := mc) hd
  simp only [heats, seqS, List.foldr, andThen, eff, List.foldl, h, List.append_nil]
  rfl

/-- An alarm that the module hears acts by the quench level. -/
theorem sensorAlarm_happens {s : State} {d : Nat} {source : BitVec 4} (hd : d < 4) (nz : source ≠ 0)
    (le : source.toNat ≤ 3) (up : s.o.mod.st ≠ .reset) :
    let told := eff [onMod (fun m => { m with alarms := m.alarms + 1, source := source })]
    (s.o.mod.qlevel = 0 → Happens s (.sensorAlarm d source) [told]) ∧
    (s.o.mod.qlevel = 1 → Happens s (.sensorAlarm d source) [told, noticeAll (fun _ => true)]) ∧
    (s.o.mod.qlevel = 2 → Happens s (.sensorAlarm d source) [told, quench]) ∧
    (3 ≤ s.o.mod.qlevel → Happens s (.sensorAlarm d source) [told, quench, eff [.post s.now (.ev .moduleReset)]]) := by
  intro told
  have heard := alarm_heard hd nz le up
  refine ⟨fun q => ?_, fun q => ?_, fun q => ?_, fun q => ?_⟩
  · refine happens_pick rfl ((if_neg heard).trans ?_)
    rw [q]
    rfl
  · refine happens_pick rfl ((if_neg heard).trans ?_)
    rw [q]
    rfl
  · refine happens_pick rfl ((if_neg heard).trans ?_)
    rw [q]
    rfl
  · have g : Happens s (.sensorAlarm d source) [told, quench, evNow .moduleReset] := by
      obtain ⟨n, hn⟩ := Nat.exists_eq_add_of_le' q
      refine happens_pick rfl ((if_neg heard).trans ?_)
      rw [hn]
      rfl
    exact g.trans (congrArg _ (run_evNow [told, quench] s .moduleReset))

/-- Settles O47, event by event. -/
theorem theModuleComesUpAndIsGuarded : Obligations.TheModuleComesUpAndIsGuarded := by
  intro s d m
  refine ⟨happens_run rfl rfl, fun v => ⟨firmwareVerify_accepts v, firmwareVerify_refuses v⟩, fun v => ?_,
    fun v maps ok => ?_, fun maps no => ?_, fun source hd nz le up => sensorAlarm_happens hd nz le up, fun mw up => ?_,
    fun sh late => ?_, fun mc hd => ?_, fun line g => ?_⟩
  · exact happens_eff rfl (if_pos v)
  · refine happens_pick rfl (if_neg ?_)
    rintro (a | a)
    · exact a v
    · rw [ok] at a
      cases a
  · refine nothing_pick rfl (if_pos ?_)
    rcases no with a | a
    · exact .inl a
    · exact .inr (by rw [a]; rfl)
  · intro u
    have q := fun l => windowEnds_runs (l := l) mw up u rfl
    have same : capNow u.o.mod = capNow m ∧ (u.o.mod.throttle = .off ↔ m.throttle = .off) := by
      have mod : u.o.mod = if m.throttle = .off then m else { m with throttledUs := m.throttledUs + 1000 } := rfl
      rw [mod]
      by_cases t : m.throttle = .off
      · rw [if_pos t]
        exact ⟨rfl, Iff.rfl⟩
      · rw [if_neg t]
        exact ⟨rfl, Iff.rfl⟩
    obtain ⟨cap, off⟩ := same
    rw [cap] at q
    refine ⟨fun above t => q _ ?_, fun above t => q [] ?_, fun below => q _ ?_⟩
    · rw [if_pos above, if_pos (off.2 t)]
      rfl
    · rw [if_pos above, if_neg (mt off.1 t)]
      rfl
    · rw [if_neg (Nat.not_lt.2 below)]
      rfl
  · exact happens_pick rfl (if_pos ⟨sh, late⟩)
  · intro hot
    have q := junctionTemperature_happens (s := s) (mc := mc) hd
    refine ⟨fun c => ?_, fun hi up => ?_⟩
    · rwa [if_neg (by rcases c with c | c <;> [omega; exact fun w => w.2 c])] at q
    · rwa [if_pos ⟨hi, up⟩] at q
  · exact happens_run (l := if locGlobal (line * 64) then [lineRead line] else []) rfl (by rw [if_pos g])

end Sys2Proof.Machine
end

section
/-!
Proofs: the commands of the host, by their SEQ (O48, O49).
-/

namespace Sys2Proof.Machine

open Sys2Proof
open Sys2Proof.Says

/-! ## The check of SEQ -/

theorem bySeq_next {s : State} {q n since : Nat} {m : BitVec 512} {bump : Eff} {v : Verdict} (h : msgSeq m = n) :
    runStage s (bySeq q n since m bump v) = run [accept q m bump v] s := by
  rw [bySeq, runStage_pick, if_pos h]

theorem bySeq_gap {s : State} {q n since : Nat} {m : BitVec 512} {bump : Eff} {v : Verdict} (h : n < msgSeq m) :
    runStage s (bySeq q n since m bump v) =
      run [sendReply (.reply q (msgCode m) 2 (msgSeq m) n 0 0 [])] s := by
  rw [bySeq, runStage_pick, if_neg (by omega), if_pos h]
  rfl

theorem bySeq_duplicate {s : State} {q n since : Nat} {m : BitVec 512} {bump : Eff} {v : Verdict} (h : msgSeq m < n)
    {e : JEntry} (x : entryFor s q since (msgSeq m) = some e) :
    runStage s (bySeq q n since m bump v) =
      run [sendReply (.reply q (msgCode m) 1 (msgSeq m) n e.jsn e.result [])] s := by
  rw [bySeq, runStage_pick, if_neg (by omega), if_neg (by omega), x]
  rfl

theorem bySeq_trimmed {s : State} {q n since : Nat} {m : BitVec 512} {bump : Eff} {v : Verdict} (h : msgSeq m < n)
    (x : entryFor s q since (msgSeq m) = none) :
    runStage s (bySeq q n since m bump v) =
      run [sendReply (.reply q (msgCode m) 5 (msgSeq m) n 0 0 [])] s := by
  rw [bySeq, runStage_pick, if_neg (by omega), if_neg (by omega), x]
  rfl

/-! ## Management commands -/

/-- A management command with the next SEQ is accepted with its verdict. -/
theorem managed_accepts {i : BitVec 512 → Instr} {code : Nat} {v : State → Verdict}
    (e : ∀ m s, exec (i m) s = fire [manage code m v] s) : Managed i code v := by
  intro s m hc up hq hs hz ha
  refine happens_run (e m s) ?_
  have no : ¬ (msgCode m ≠ code ∨ (!managed s code) = true) := by
    rintro (a | a)
    · exact a hc
    · rw [up] at a
      cases a
  have w : (!msgZeros m || msgArg m 32 4 != 0) = false := by rw [hz, ha]; rfl
  rw [run_cons, run_nil, manage, runStage_pick, if_neg no, if_neg (fun a => a hq), w, run_cons, bySeq_next hs, run_cons, run_nil]
  rfl

theorem killCtxVerdict_live {s : State} {cid : Nat} {x : Ctx} (lo : 1 ≤ cid) (hi : cid ≤ 4095) (c : ctx? s cid = some x)
    (l : x.st = .resident ∨ x.st = .out) : killCtxVerdict cid s = { effect := [killCtx cid] } := by
  have live : x.live = true := by rcases l with l | l <;> simp [Ctx.live, l]
  rw [killCtxVerdict, if_neg (by omega), c]
  simp only [Option.map_some, Option.getD_some, live, if_true, done]

theorem destroyVerdict_some {s : State} {cid : Nat} {x : Ctx} (lo : 1 ≤ cid) (hi : cid ≤ 4095) (c : ctx? s cid = some x) :
    destroyVerdict cid s = if x.st = .dead then { effect := [eff [.obj (fun o => { o with ctxs := tabDel o.ctxs cid })]] }
      else badState := by
  rw [destroyVerdict, if_neg (by omega), c]
  simp only [Option.map_some, Option.getD_some, beq_iff_eq, done]

theorem verdicts_of_no_context {s : State} {cid : Nat} (lo : 1 ≤ cid) (hi : cid ≤ 4095) (c : ctx? s cid = none) :
    killCtxVerdict cid s = { status := 6 } ∧ destroyVerdict cid s = { status := 6 } := by
  have no : ¬ (cid = 0 ∨ 4095 < cid) := by omega
  rw [killCtxVerdict, destroyVerdict, if_neg no, if_neg no, c]
  exact ⟨rfl, rfl⟩

theorem mapVerdict_new {s : State} {cid : Nat} {x : Ctx} {page : PageCfg} (c : ctx? s cid = some x)
    (l : x.st = .resident) (fresh : tabGet x.pages page.va = none) (map : page.map = true) (ok : pageOk x page = true)
    (apart : ∀ q ∈ x.pages, pagesMeet page q.2 = false) (nr : pageResident s cid page = false) :
    mapVerdict cid page s = { effect := [eff [onCtx cid (fun y => { y with pages := tabPut y.pages page.va page })]] } := by
  have live : x.live = true := by simp [Ctx.live, l]
  have free : (x.pages.any (fun q => pagesMeet page q.2) || pageResident s cid page) = false := by
    rw [nr, Bool.or_false]
    exact List.any_eq_false.2 fun q m => by rw [apart q m]; exact Bool.false_ne_true
  simp only [mapVerdict, c, Option.filter_some, live, if_true, fresh, map, ok, free, Bool.not_true, Bool.false_eq_true, if_false]
  rfl

/-- Settles O49: each command by `managed_accepts`, and the verdicts by their definitions. -/
theorem managementCommandsAreCarriedOut : Obligations.ManagementCommandsAreCarriedOut := by
  refine ⟨fun cfg cid port watts level page u peer cids nonce image => ?_,
    fun s cfg cid p watts level page cids image => ⟨fun bad => ?_, fun ok taken => ?_, fun lo hi => ⟨fun x c => ?_, fun c =>
      verdicts_of_no_context lo hi c⟩, fun lt failed => ?_, fun lo hi => ?_, fun out => ?_, fun le lt => ?_, fun ok => ?_, fun r => ?_⟩⟩
  · exact ⟨managed_accepts fun _ _ => rfl, managed_accepts fun _ _ => rfl, managed_accepts fun _ _ => rfl,
      managed_accepts fun _ _ => rfl, managed_accepts fun _ _ => rfl, managed_accepts fun _ _ => rfl,
      managed_accepts fun _ _ => rfl, managed_accepts fun _ _ => rfl, managed_accepts fun _ _ => rfl,
      managed_accepts fun _ _ => rfl, managed_accepts fun _ _ => rfl, managed_accepts fun _ _ => rfl,
      managed_accepts fun _ _ => rfl⟩
  · simp only [createVerdict, changeVerdict, bad, Bool.not_false, if_true]
    exact ⟨rfl, rfl⟩
  · simp only [createVerdict, ok, taken, Bool.true_or, Bool.not_true, Bool.false_eq_true, if_false, if_true]
    rfl
  · refine ⟨killCtxVerdict_live lo hi c, fun d => ?_, fun d => ?_, fun l fresh map ok apart nr =>
      mapVerdict_new c l fresh map ok apart nr⟩
    · rw [destroyVerdict_some lo hi c, if_pos d]
    · rw [destroyVerdict_some lo hi c, if_neg d]
      rfl
  · have st : (port s p).st = .failed := by simpa [port] using failed
    rw [portResetVerdict, if_neg (by omega), if_pos st]
    rfl
  · rw [capVerdict, if_neg (by omega)]
    rfl
  · rw [capVerdict, if_pos out]
    rfl
  · rw [quenchVerdict, if_neg (by omega), if_neg (by omega)]
    rfl
  · have no : ¬ ((cids.take 37).any (fun c => c.extractLsb' 12 4 != 0) = true) := by
      rw [List.all_eq_true] at ok
      rw [List.any_eq_true]
      rintro ⟨c, hc, ne⟩
      exact bne_iff_ne.1 ne (beq_iff_eq.1 (ok c hc))
    rw [sensorsVerdict, if_neg no]
  · rw [firmwareVerdict, if_pos r]
    rfl

/-! ## Commands of a context's queues -/

/-- A command of a context's queue, whose code is the event's, by its SEQ. -/
theorem accepted_of_command {cid : Nat} {i : BitVec 512 → Instr} {code : Nat → Prop} {v : BitVec 512 → State → Queue → Verdict}
    (nz : cid ≠ 0) (e : ∀ m s, code (msgCode m) → exec (i m) s = fire [command cid m (v m)] s) : Accepted cid i code v := by
  intro s m x c hc up hx q hq own bump saying
  have no : ¬ (s.o.mod.st ≠ .ready ∨ (ctx? s cid).isNone = true) := by
    rintro (a | a)
    · exact a up
    · rw [hx] at a
      cases a
  have same : (x.cid == cid) = true := beq_iff_eq.2 own
  have by_seq : ∀ {l : List Stage}, runStage s (bySeq q x.nextseq x.since m bump
      (if (!msgZeros m) = true then { status := stBadcmd } else if (x.st == .closing) = true then { status := stState } else v m s x)) =
      run l s → Happens s (i m) l := fun {l} h => by
    refine happens_run (e m s hc) (Eq.trans ?_ h)
    rw [run_cons, run_nil, command, runStage_pick, if_neg nz, if_neg no]
    simp only [show tabGet s.o.queues (msgQueue m) = some x from hq, Option.filter_some, same, if_true]
    rfl
  refine ⟨fun next => ⟨fun z op => ?_, fun z => ?_, fun z cl => ?_⟩, fun gap => by_seq (bySeq_gap gap),
    fun old => ⟨fun j hj => by_seq (bySeq_duplicate old hj), fun hj => by_seq (bySeq_trimmed old hj)⟩⟩
  · have q := by_seq (bySeq_next next)
    rwa [z, Bool.not_true, if_neg Bool.false_ne_true, if_neg (fun a => op (beq_iff_eq.1 a))] at q
  · have q := by_seq (bySeq_next next)
    rwa [z, Bool.not_false, if_pos rfl] at q
  · have q := by_seq (bySeq_next next)
    rwa [z, Bool.not_true, if_neg Bool.false_ne_true, if_pos (beq_iff_eq.2 cl)] at q

/-- A command over one kernel of the queue. -/
theorem overKernels_one {m : BitVec 512} {s : State} {affected : Kernel → Bool} {act : Nat → Stage} {all : List Stage}
    (z : msgArg m 28 8 = 0) (one : msgArg m 24 4 ≠ 2 ^ 32 - 1) {k : Nat × Kernel}
    (f : (s.o.kernels.filter (fun k => k.2.queue == msgQueue m)).find? (fun k => k.1 == msgArg m 24 4) = some k) :
    overKernels m s affected act all = if affected k.2 then { result := 1, effect := [act (msgArg m 24 4)] } else {} := by
  simp only [overKernels, z, ne_eq, not_true_eq_false, if_false, if_neg one, f]

theorem launchVerdict_judged {s : State} {cid : Nat} {m : BitVec 512} {x : Queue} {c : Ctx} (hc : ctx? s cid = some c)
    (al : msgArg m 24 8 % 256 = 0) (z : msgArg m 32 4 = 0) :
    let j := judgeLaunch s (lowDie c) cid (ctxBytes s cid (msgArg m 24 8) 256 .read) (decide (256 ≤ hostKernels s (msgQueue m)))
    let k := nextId s (lowDie c)
    launchVerdict cid m s x = if j.1 = 0 then { result := k, effect :=
      [acceptKernel (lowDie c) k j.2 (msgQueue m) (Nat.min j.2.lrec.prio x.cls) (msgSeq m) true] }
      else { result := j.1 * 2 ^ 32 } := by
  simp only [launchVerdict, al, z, ne_eq, not_true_eq_false, or_self, if_false, hc]

theorem readJournal_happens {s : State} {cid : Nat} {m : BitVec 512} {c : Ctx} (up : s.o.mod.st = .ready) (code : msgCode m = 7)
    (nz : cid ≠ 0) (hc : ctx? s cid = some c) :
    let own := s.o.queues.filter (fun x => x.2.cid == cid)
    let saying := fun (v : Verdict) (next : Nat) => Happens s (.readJournal cid m)
      [sendReply (.reply (msgQueue m) 7 v.status (msgSeq m) next 0 (BitVec.ofNat 64 v.result) v.follow)]
    (own.find? (fun x => x.1 == msgQueue m) = none → saying { status := 6 } 0) ∧
    (∀ y : Nat × Queue, own.find? (fun x => x.1 == msgQueue m) = some y →
      saying (journalAnswer m s (own.map (fun y => (y.1, y.2.nextseq, y.2.since)))) y.2.nextseq) := by
  intro own saying
  have e : exec (.readJournal cid m) s = fire [readsJournal cid m] s := by
    have q : exec (.readJournal cid m) s = fire [if msgCode m = 7 then readsJournal cid m else skip] s := rfl
    rw [q, if_pos code]
  have no : ¬ (ctx? s cid).isNone = true := by rw [hc]; exact Bool.false_ne_true
  refine ⟨fun f => happens_pick e ?_, fun y f => happens_pick e ?_⟩ <;>
  · rw [if_neg (fun a => a up), if_neg nz, if_neg no]
    simp only [show (s.o.queues.filter (fun x => x.2.cid == cid)).find? (fun x => x.1 == msgQueue m) = _ from f]
    rfl

/-- Settles O48: the check of SEQ by `accepted_of_command`, the verdicts by their definitions. -/
theorem hostCommandsAreCheckedAndCarriedOut : Obligations.HostCommandsAreCheckedAndCarriedOut := by
  refine ⟨fun cid nz => ⟨?_, ?_, ?_, ?_, ?_, ?_, ?_⟩, fun s cid m x => ⟨fun c hc al z => ?_, fun q f own => ?_,
    fun z one k f => ?_, fun le z => ?_, fun up code nz c hc => readJournal_happens up code nz hc⟩⟩
  · exact accepted_of_command nz fun m s hc => congrArg (fun l => fire [l] s) (if_pos hc)
  · exact accepted_of_command nz fun m s hc => congrArg (fun l => fire [l] s) (if_pos hc)
  · exact accepted_of_command nz fun m s hc => congrArg (fun l => fire [l] s) (if_pos hc)
  · exact accepted_of_command nz fun m s hc => congrArg (fun l => fire [l] s) (if_pos hc)
  · exact accepted_of_command nz fun m s hc => congrArg (fun l => fire [l] s) (if_pos hc)
  · exact accepted_of_command nz fun m s hc => congrArg (fun l => fire [l] s) (if_pos hc)
  · exact accepted_of_command nz fun m s hc => congrArg (fun l => fire [l] s) (if_pos ⟨hc, .inl nz⟩)
  · have q := launchVerdict_judged (x := x) hc al z
    exact ⟨fun h => q.trans (if_pos h), fun h => q.trans (if_neg h)⟩
  · have same : (q.addr == msgArg m 24 8) = true := beq_iff_eq.2 own
    simp only [stopVerdict, show tabGet s.o.seqs (seqKey cid (msgArg m 24 8)) = some q from f, Option.filter_some, same, if_true]
  · refine ⟨fun h => ?_, fun h => ?_, fun h => ?_, fun h => ?_⟩
    · exact (overKernels_one z one f).trans (if_pos h)
    · exact (overKernels_one z one f).trans (if_pos (beq_iff_eq.2 h))
    · exact (overKernels_one z one f).trans (if_pos h)
    · exact (overKernels_one z one f).trans (if_neg (by rw [h]; exact Bool.false_ne_true))
  · rw [priorityVerdict, if_neg]
    rintro (b | b)
    · omega
    · exact b z

end Sys2Proof.Machine
end

section
/-!
Proofs: the time-sharing of quads (O42).
-/

namespace Sys2Proof.Machine

open Sys2Proof
open Sys2Proof.Says

/-- A bound and a boolean mark that both let a quantum end. -/
theorem quantum_may_end {x : Ctx} (st : x.st = .resident) (sw : x.switching = false) (iso : x.cfg.isolated = false) :
    ¬ (x.st ≠ .resident ∨ x.switching = true ∨ x.cfg.isolated = true) := by
  rw [st, sw, iso]
  simp

/-- Does an event wait in the agenda? -/
theorem any_agenda_ev {l : List (Nat × Act)} {i : Instr} :
    (l.any (fun a => a.2 == .ev i)) = true ↔ ∃ y ∈ l, y.2 = .ev i := by
  simp only [List.any_eq_true, beq_iff_eq]

/-- Settles O42, by the branches of `quantumEnds` and `switches`. -/
theorem quadsAreTimeShared : Obligations.QuadsAreTimeShared := by
  intro s c n x out hc hn
  refine ⟨fun st sw iso => ⟨fun f => ?_, fun f => ?_⟩, fun no => ?_, fun f => ⟨fun sw st => ?_, fun sw st dr => ?_,
    fun sw st dr => ?_⟩, fun f => ⟨fun st no => ?_, fun st some => ?_⟩, fun st => ?_⟩
  · refine happens_pick rfl ?_
    simp only [hc, if_neg (quantum_may_end st sw iso), show nextTurn _ _ _ = _ from f]
  · refine happens_pick rfl ?_
    simp only [hc, if_neg (quantum_may_end st sw iso), show nextTurn _ _ _ = _ from f]
  · refine nothing_pick rfl ?_
    simp only [hc, if_pos no]
  · refine nothing_pick rfl ?_
    simp only [hn, st, ne_eq, not_true_eq_false, if_false, f, sw, Bool.not_false, if_true]
  · refine happens_pick_run (m := [fun s => [.post (s.now + 16) (.ev (.quadSwitch n))]]) rfl ?_ rfl
    simp only [hn, st, ne_eq, not_true_eq_false, if_false, f, sw, dr, Bool.not_false, Bool.not_true, Bool.false_eq_true, if_true]
  · refine happens_pick rfl ?_
    simp only [hn, st, ne_eq, not_true_eq_false, if_false, f, sw, dr, Bool.not_true, Bool.false_eq_true]
  · refine happens_pick rfl ?_
    have free : ¬ s.agenda.any (fun a => a.2 == .ev (.quantumEnd n)) = true := fun a => by
      obtain ⟨y, hy, e⟩ := any_agenda_ev.1 a
      exact no y hy e
    simp only [hn, st, ne_eq, not_true_eq_false, if_false, f, if_neg free]
  · have set : s.agenda.any (fun a => a.2 == .ev (.quantumEnd n)) = true := any_agenda_ev.2 some
    refine happens_pick_run (m := [loadCtx n x, skip]) rfl ?_ rfl
    simp only [hn, st, ne_eq, not_true_eq_false, if_false, f, if_pos set]
  · refine happens_pick rfl ?_
    simp only [hn, if_pos st]

end Sys2Proof.Machine
end

section
/-!
Proofs: the records of a kernel and its supervisor's commands (O44).
-/

namespace Sys2Proof.Machine

open Sys2Proof
open Sys2Proof.Says

/-! ## Records -/

/-- Nothing of the ring asks for attention where it has no place, or no entry is posted. -/
theorem ringChecks_rests {s : State} {k : Nat} (h : ringBase s k = none ∨ (kernel s k).posted = []) :
    runStage s (ringChecks k) = s := by
  rw [ringChecks, runStage_pick]
  rcases h with h | h
  · rw [h]
    rfl
  · rw [h]
    cases ringBase s k <;> rfl

theorem recordPost_happens {s : State} {k : Nat} {l : List Stage} (h : ringBase s k = none ∨ (kernel s k).posted = [])
    (r : runStage s (postRecord k) = run l s) : Happens s (.recordPost k) l := by
  refine happens_run (l := [ringChecks k, postRecord k]) rfl ?_
  rw [run_cons, ringChecks_rests h, run_cons, run_nil, r]

/-- Has a kernel no living supervisor? -/
theorem hostReads_iff {s : State} {k : Nat} :
    ((kernel s k).lrec.super.isNone || superGone s k) = true ↔ (kernel s k).lrec.super = none ∨ superGone s k = true := by
  rw [Bool.or_eq_true, Option.isNone_iff_eq_none]

theorem postRecord_toHost {s : State} {k : Nat} {r : SRec} {rest : List SRec} (hr : (kernel s k).recs = r :: rest)
    (gone : (kernel s k).lrec.super = none ∨ superGone s k = true) :
    runStage s (postRecord k) = run [eff [.post s.now (.ev (.recordToHost k))]] s := by
  rw [postRecord, runStage_pick]
  simp only [hr, hostReads_iff.2 gone, if_true]
  rfl

theorem postRecord_toRing {s : State} {k base : Nat} {r : SRec} {rest : List SRec} {t : Nat × Task}
    (hr : (kernel s k).recs = r :: rest) (sup : (kernel s k).lrec.super ≠ none) (lives : superGone s k = false)
    (hb : ringBase s k = some base) (none_ : (kernel s k).posted = []) (free : isFull s (base + 64 * ((kernel s k).ringAt % 32)) = false)
    (ht : superTask s k = some t) :
    let n := (kernel s k).ringAt % 32
    let loc := base + 64 * n
    let w := freshSlot s r
    runStage s (postRecord k) = run [
      fun u => storeMarked u (loc + 8) (((w.words.drop 1) ++ [0]).flatMap (fun (v : Dword) => bytesOf 8 v.toNat)) ++
        [setFull (loc + 56) false] ++ putWord u loc w.word0 ++ [setFull loc true,
          onKernel k (fun y => { y with recs := rest, posted := tabPut y.posted n w, ringAt := (n + 1) % 32 })],
      drain (loc + 56), drain loc, eff [onTaskThr t.1 (fun y => { y with latch := true })], evNow (.recordPost k)] s := by
  intro n loc w
  have ring : ¬ ((kernel s k).lrec.super.isNone || superGone s k) = true := fun a => by
    rcases hostReads_iff.1 a with a | a
    · exact sup a
    · rw [lives] at a
      cases a
  rw [postRecord, runStage_pick]
  simp only [hr, if_neg ring, hb, none_, free, ht, tabHas, tabGet_nil, Option.isSome_none, Bool.or_self, Bool.false_eq_true,
    if_false]
  rfl

/-- The oldest record of a kernel without a living supervisor goes to the host. -/
theorem recordToHost_happens {s : State} {k : Nat} {r : SRec} {rest : List SRec} (hr : (kernel s k).recs = r :: rest)
    (gone : (kernel s k).lrec.super = none ∨ superGone s k = true) :
    let w := freshSlot s r
    Happens s (.recordToHost k) [eff [onKernel k (fun y => { y with recs := rest })], kernelEgress k 19 w.body [],
      if w.code = .fpEnabled then (if inHold s w.task = true then eff [endHold w.task] else skip)
      else if contained s w = true then abandon w.task else skip,
      if rest = [] then skip else evNow (.recordToHost k)] := by
  intro w
  have more : ((!rest.isEmpty) = true) ↔ ¬ rest = [] := by simp
  refine happens_pick_run (m := [eff [onKernel k (fun y => { y with recs := rest })], kernelEgress k 19 w.body [],
    (if w.code = .fpEnabled then eff [if inHold s w.task then endHold w.task else .draw 0]
      else if contained s w then abandon w.task else skip),
    if (!rest.isEmpty) = true then evNow (.recordToHost k) else skip]) rfl ?_ ?_
  · simp only [hr, hostReads_iff.2 gone, if_true, Bool.true_and]
    rfl
  · simp only [more, ite_not]
    by_cases c : w.code = .fpEnabled
    · simp only [c, if_true]
      cases inHold s w.task <;> rfl
    · simp only [c, if_false]

theorem recordToHost_rests {s : State} {k : Nat} (hr : (kernel s k).recs = []) : Nothing s (.recordToHost k) := by
  refine nothing_pick rfl ?_
  simp only [hr, List.length_nil, Nat.not_lt_zero, if_false, ite_self]

/-! ## Commands -/

theorem plainCmd_iff {w : Dword} : plainCmd w = true ↔ bits w 55 0 = 0 := beq_iff_eq

section
variable {s : State} {k e : Nat} {r : SRec} {v w : Dword} (h : entryCommand s k e = some (r, v, w)) (z : bits w 55 0 = 0)
include h z

theorem superRestarts_eq (c : bits w 63 56 = 1) : superRestarts k e s = seqS (
    if unrestartable r then [cmdResult k e 1]
    else if contained s r then [restart r.task, cmdResult k e 0] else [cmdResult k e 3]) s := by
  simp only [superRestarts, pick, h, if_pos (And.intro (plainCmd_iff.2 z) c)]

theorem superAbandons_eq (c : bits w 63 56 = 2) : superAbandons k e s = seqS (
    if misfit r then [cmdResult k e 1]
    else if contained s r then [abandon r.task, cmdResult k e 0] else [cmdResult k e 3]) s := by
  simp only [superAbandons, pick, h, if_pos (And.intro (plainCmd_iff.2 z) c)]

theorem superSets_eq (c : bits w 63 56 = 3) :
    let set := fun (a : Arch) => { a with fxflags := v.setWidth 5, round := v.extractLsb' 16 4 }
    let csrs := onTaskThr r.task (fun t => { t with arch := set t.arch, start := set t.start, fxmask := v.extractLsb' 8 5 })
    superSets k e s = seqS (
      if !inHold s r.task then [cmdResult k e 1] else if setcsrBad v then [cmdResult k e 2]
      else [eff [csrs, if v.getLsbD 31 then endHold r.task else .draw 0], cmdResult k e 0]) s := by
  intro set csrs
  simp only [superSets, pick, h, if_pos (And.intro (plainCmd_iff.2 z) c)]
  rfl

end

/-- A command word of no known form. -/
theorem superUnknown_eq {s : State} {k e : Nat} {r : SRec} {v w : Dword} (h : entryCommand s k e = some (r, v, w))
    (no : bits w 55 0 ≠ 0 ∨ bits w 63 56 = 0 ∨ 3 < bits w 63 56) : superUnknown k e s = seqS [cmdResult k e 1] s := by
  have out : ¬ (plainCmd w = true ∧ 1 ≤ bits w 63 56 ∧ bits w 63 56 ≤ 3) := by
    rintro ⟨p, a, b⟩
    rcases no with q | q | q
    · exact q (plainCmd_iff.1 p)
    · omega
    · omega
  simp only [superUnknown, pick, h, if_neg out]

theorem supervisor_rests {s : State} {k e : Nat} (h : entryCommand s k e = none) :
    Nothing s (.supervisorRestart k e) ∧ Nothing s (.supervisorAbandon k e) ∧ Nothing s (.supervisorSetcsr k e) ∧
    Nothing s (.supervisorUnknown k e) := by
  refine ⟨nothing_pick rfl ?_, nothing_pick rfl ?_, nothing_pick rfl ?_, nothing_pick rfl ?_⟩ <;> simp only [h]

/-- Settles O44: records by the branches of `postRecord` and `sendRecord`, each command by its stage. -/
theorem supervisorsReadRecordsAndCommand : Obligations.SupervisorsReadRecordsAndCommand := by
  intro s k e x
  refine ⟨fun r rest hr => ⟨fun gone still => ?_, fun base sup lives hb empty => ?_, fun gone => recordToHost_happens hr gone⟩,
    recordToHost_rests, supervisor_rests, fun r v w h => ?_⟩
  · exact recordPost_happens still (postRecord_toHost hr gone)
  · intro n loc w free t ht
    exact recordPost_happens (.inr empty) (postRecord_toRing hr sup lives hb empty free ht)
  · intro cmd
    refine ⟨fun z c => ⟨fun m => ?_, fun fit kind held => ?_, fun fit kind free => ?_⟩, fun z c => ⟨fun m => ?_, fun fit held => ?_,
      fun fit free => ?_⟩, fun z c => ⟨fun out => ?_, fun held bad => ?_, fun held ok => ⟨fun b => ?_, fun b => ?_⟩⟩,
      fun no => happens_stage rfl (superUnknown_eq h no)⟩
    · have un : unrestartable r = true := by
        rw [unrestartable, Bool.or_eq_true, beq_iff_eq]
        exact m
      exact happens_stage rfl ((superRestarts_eq h z c).trans (by rw [if_pos un]))
    · have un : unrestartable r = false := by rw [unrestartable, fit, Bool.false_or, beq_eq_false_iff_ne]; exact kind
      exact happens_stage rfl ((superRestarts_eq h z c).trans (by rw [un, held, if_neg Bool.false_ne_true, if_pos rfl]))
    · have un : unrestartable r = false := by rw [unrestartable, fit, Bool.false_or, beq_eq_false_iff_ne]; exact kind
      exact happens_stage rfl ((superRestarts_eq h z c).trans (by rw [un, free, if_neg Bool.false_ne_true, if_neg Bool.false_ne_true]))
    · exact happens_stage rfl ((superAbandons_eq h z c).trans (by rw [if_pos m]))
    · exact happens_stage rfl ((superAbandons_eq h z c).trans (by rw [fit, held, if_neg Bool.false_ne_true, if_pos rfl]))
    · exact happens_stage rfl ((superAbandons_eq h z c).trans (by rw [fit, free, if_neg Bool.false_ne_true, if_neg Bool.false_ne_true]))
    · exact happens_stage rfl ((superSets_eq h z c).trans (by rw [out, Bool.not_false, if_pos rfl]))
    · exact happens_stage rfl ((superSets_eq h z c).trans (by rw [held, bad, Bool.not_true, if_neg Bool.false_ne_true, if_pos rfl]))
    · exact happens_stage rfl ((superSets_eq h z c).trans (by
        rw [held, ok, b, Bool.not_true, if_neg Bool.false_ne_true, if_neg Bool.false_ne_true, if_pos rfl]))
    · have q : Happens s (.supervisorSetcsr k e) _ := happens_stage rfl ((superSets_eq h z c).trans (by
        rw [held, ok, b, Bool.not_true, if_neg Bool.false_ne_true, if_neg Bool.false_ne_true, if_neg Bool.false_ne_true]))
      exact q

end Sys2Proof.Machine
end

section
/-!
Proofs: billets and their engines (O45).
-/

namespace Sys2Proof.Machine

open Sys2Proof
open Sys2Proof.Says

theorem runStage_each {α : Type} (f : State → List α) (g : α → Stage) (s : State) :
    runStage s (each f g) = run ((f s).map g) s :=
  runStage_pick _ s

/-- The one billet of the module, after a change. -/
theorem billets_onBillet {s : State} {n : Nat} {b : Billet} (h : s.o.billets = [(n, b)]) (f : Billet → Billet) :
    (Eff.apply s (onBillet n f)).o.billets = [(n, f b)] := by
  simp [Eff.apply, onBillet, h, tabUpd, tabGet, tabPut]

/-- The one billet of the module takes a free engine of its die. -/
theorem billetStart_happens {s : State} {d n : Nat} {b : Billet} (only : s.o.billets = [(n, b)]) (die : b.die = d)
    (waits : b.st = .waiting) (over_ : b.preds = []) (free : (Machine.die s d).engines < 64) :
    Happens s (.billetStart d) [
      eff [onBillet n (fun x => { x with st := .ready, readyAt := s.fresh }), .draw 1],
      eff [onBillet n (fun x => { x with st := .running }), onDie d (fun x => { x with engines := x.engines + 1 })],
      evIn b.ctx 64 (.engineUnit n)] := by
  let ready : Billet := { b with st := .ready, readyAt := s.fresh }
  let u := run [eff [onBillet n (fun x => { x with st := .ready, readyAt := s.fresh }), .draw 1]] s
  have due : s.o.billets.filter (fun b => b.2.die == d && b.2.st == .waiting && b.2.preds.isEmpty) = [(n, b)] := by
    rw [only]
    simp [die, waits, over_]
  have later : u.o.billets = [(n, ready)] := billets_onBillet only _
  have next : (sortBy (fun a b => decide (a.2.readyAt ≤ b.2.readyAt))
      (u.o.billets.filter (fun b => b.2.die == d && b.2.st == .ready))).take (64 - (Machine.die u d).engines) =
      [(n, ready)] := by
    have f : u.o.billets.filter (fun b => b.2.die == d && b.2.st == .ready) = [(n, ready)] := by
      rw [later]
      simp [ready, die]
    rw [f]
    refine List.take_of_length_le ?_
    have same : (Machine.die u d).engines = (Machine.die s d).engines := rfl
    rw [same]
    show 1 ≤ 64 - (Machine.die s d).engines
    omega
  refine happens_run (l := [billetStarts d]) rfl ?_
  rw [run_cons, run_nil, billetStarts, runStage_seqS, run_cons, runStage_each, due]
  have first : ∀ t, run (List.map (fun b : Nat × Billet => fun s : State =>
      [onBillet b.1 (fun x => { x with st := .ready, readyAt := s.fresh }), .draw 1]) [(n, b)]) t =
      run [eff [onBillet n (fun x => { x with st := .ready, readyAt := t.fresh }), .draw 1]] t := fun _ => rfl
  rw [first, run_cons, runStage_each]
  erw [next]
  rw [run_nil, List.map_cons, List.map_nil, run_cons, run_nil, runStage_seqS, ← run_append]
  rfl

/-- A unit of a billet that nothing poisons. -/
theorem engineUnit_works {s : State} {n : Nat} {b : Billet} (h : tabGet s.o.billets n = some b) (st : b.st = .running)
    (go : engineStalled s b = false) {work : List (Option Nat × Nat × List Byte)} (w : b.unitWork s b.unit = .ok work)
    (nf : s.o.flips = []) (np : s.o.poison = []) :
    Happens s (.engineUnit n) [ownChunk b.ctx (b.queue, b.root) (joinRuns (work.map (·.2))),
      eff [onBillet n (fun x => { x with unit := x.unit + 1 })],
      if b.units ≤ b.unit + 1 then evNow (.billetDone n) else evIn b.ctx 64 (.engineUnit n)] := by
  have reads : ∀ l : List (Nat × Nat), l.flatMap (fun x => if s.o.flips.isEmpty then [] else linesRead x.1 x.2) = [] := fun l => by
    rw [nf]
    exact List.flatMap_eq_nil_iff.2 fun _ _ => rfl
  have clean : ∀ l : List (Nat × Nat), firstSome (fun x => poisonIn s x.1 x.2) l = none := fun l =>
    firstSome_none fun x _ => firstSome_none fun y _ => by rw [np]; rfl
  refine happens_run (l := [unitRuns n]) rfl ?_
  rw [run_cons, run_nil, unitRuns, runStage_pick]
  simp only [h, st, ne_eq, not_true_eq_false, if_false, go, Bool.false_eq_true, w, reads, List.nil_append]
  rw [run_cons, run_nil, runStage_pick]
  simp only [clean]
  rfl

/-- Settles O45, by the branches of `billetStarts`, `unitRuns` and `billetEnds`. -/
theorem enginesRunTheirBillets : Obligations.EnginesRunTheirBillets := by
  refine ⟨fun s d n b only die waits over_ _ free => billetStart_happens only die waits over_ free,
    fun s n b h => ⟨fun st stalled => ?_, fun st go => ⟨fun c a w => ?_, fun work w nf np => engineUnit_works h st go w nf np⟩,
      fun st => ⟨?_, ?_⟩, fun st whole => ?_⟩⟩
  · refine happens_pick_run (m := [fun s => [.post (s.now + 100) (.ev (.engineUnit n))]]) rfl ?_ rfl
    simp only [h, st, ne_eq, not_true_eq_false, if_false, stalled, if_true]
  · refine happens_pick rfl ?_
    simp only [h, st, ne_eq, not_true_eq_false, if_false, go, Bool.false_eq_true, w]
  · refine nothing_pick rfl ?_
    simp only [h, if_pos st]
  · refine nothing_pick rfl ?_
    simp only [h, if_neg (fun a : b.st = .running ∧ b.units ≤ b.unit => st a.1)]
  · refine happens_pick rfl ?_
    simp only [h, if_pos (And.intro st whole)]

end Sys2Proof.Machine
end

section
/-!
Proofs: peers and their rings, the mirror, the twin, the ports and the die boundaries (O46).
-/

namespace Sys2Proof.Machine

open Sys2Proof
open Sys2Proof.Says

/-! ## Peers and rings -/

theorem sendRingSend_happens {s : State} {c ring : Nat} {x : Ctx} (up : reachable s c = true) (hx : ctx? s c = some x) :
    let sent := (tabD x.rings ring {}).sent
    Happens s (.sendRingSend c ring) ((upto sent ((doorbellOf s c ring + 2 ^ 64 - sent) % 2 ^ 64)).map (fun i =>
      sendOne c ring (i % 2 ^ 64))) := by
  intro sent
  refine happens_pick rfl ?_
  simp only [up, Bool.not_true, Bool.false_eq_true, if_false, hx]
  rfl

/-- A packet without data asks to read. -/
theorem packet_reads {s : State} {c peer addr n : Nat} {l : List Stage} (h : runStage s (peerReads c peer addr n) = run l s) :
    Happens s (.peerInboundPacket c peer addr n []) l :=
  happens_pick_run (m := [peerReads c peer addr n]) rfl rfl h

section
variable {s : State} {c peer addr : Nat} {x : Ctx} (hx : ctx? s c = some x) (up : reachable s c = true)
include hx up

/-- Data from a peer that the context's memory takes. -/
theorem packet_lands {read : Nat} {data : List Byte} (some_ : data ≠ []) (le : data.length ≤ 8192)
    {l : List (Nat × List Byte)} (may : peerMay x true peer addr data.length = true) (w : writesAt s c addr data = some l)
    (nf : s.o.flips = []) : Happens s (.peerInboundPacket c peer addr read data)
      [ownChunk c (noCause s c) l, sendReply (.peerAnswer peer true)] := by
  have full : ¬ data.isEmpty = true := fun a => some_ (List.isEmpty_iff.1 a)
  have no : ¬ ((!reachable s c) || decide (8192 < data.length)) = true := by simp [up, le]
  refine happens_pick_run (m := [seqS [], ownChunk c (noCause s c) l, sendReply (.peerAnswer peer true)]) rfl ?_ rfl
  simp only [if_neg full, hx, if_neg no, may, if_true, w, nf, List.isEmpty_nil]

/-- Data from a peer that no window or page takes. -/
theorem packet_refused {read : Nat} {data : List Byte} (some_ : data ≠ []) (le : data.length ≤ 8192)
    (h : peerMay x true peer addr data.length = false ∨ writesAt s c addr data = none) :
    Happens s (.peerInboundPacket c peer addr read data) [sendReply (.peerAnswer peer false)] := by
  have full : ¬ data.isEmpty = true := fun a => some_ (List.isEmpty_iff.1 a)
  have no : ¬ ((!reachable s c) || decide (8192 < data.length)) = true := by simp [up, le]
  have none_ : (if peerMay x true peer addr data.length then writesAt s c addr data else none) = none := by
    rcases h with h | h
    · rw [h]
      rfl
    · rw [h, ite_self]
  refine happens_pick rfl ?_
  simp only [if_neg full, hx, if_neg no, none_]

theorem peerReads_gives {n : Nat} (pos : 0 < n) (le : n ≤ 2 ^ 24) {bs : List Byte} (may : peerMay x false peer addr n = true)
    (b : linkBytes s c addr n = some bs) (nf : s.o.flips = []) :
    runStage s (peerReads c peer addr n) = run [sendReply (.peerData peer bs), eff [.draw 1]] s := by
  have no : ¬ ((!reachable s c) || n == 0 || decide (2 ^ 24 < n)) = true := by
    rw [up, beq_eq_false_iff_ne.2 (by omega : n ≠ 0), decide_eq_false (by omega)]
    exact Bool.false_ne_true
  have none_ : linkReads s c addr n = [] := by
    unfold linkReads
    split
    · rfl
    · rw [nf]
      rfl
  rw [peerReads, runStage_pick]
  simp only [hx, if_neg no, may, b, Option.isSome_some, Bool.and_self, if_true, none_, List.nil_append]
  rw [run_cons, run_nil, runStage_pick, b]
  rfl

theorem peerReads_refuses {n : Nat} (pos : 0 < n) (le : n ≤ 2 ^ 24)
    (h : peerMay x false peer addr n = false ∨ linkBytes s c addr n = none) :
    runStage s (peerReads c peer addr n) = run [sendReply (.peerAnswer peer false)] s := by
  have no : ¬ ((!reachable s c) || n == 0 || decide (2 ^ 24 < n)) = true := by
    rw [up, beq_eq_false_iff_ne.2 (by omega : n ≠ 0), decide_eq_false (by omega)]
    exact Bool.false_ne_true
  have refused : ¬ (peerMay x false peer addr n && (linkBytes s c addr n).isSome) = true := by
    rcases h with h | h
    · rw [h]
      exact Bool.false_ne_true
    · rw [h, Option.isSome_none, Bool.and_false]
      exact Bool.false_ne_true
  rw [peerReads, runStage_pick]
  simp only [hx, if_neg no, if_neg refused]

end

theorem peerAck_happens {s : State} {c ring i counter : Nat} {x : Ctx} {r : RingSt} (hx : ctx? s c = some x)
    (hr : tabGet x.rings ring = some r) (ho : tabGet r.out i = some counter) : Happens s (.peerAck c ring i) [
      eff [onCtx c (fun x => { x with rings := tabUpd x.rings ring (fun r => { r with out := tabDel r.out i }) })],
      bumpCounter c (r.queue, r.root) counter] := by
  refine happens_pick rfl ?_
  simp only [hx, Option.bind_some, hr, ho, Option.map_some]

section
variable {s : State} {c ring : Nat} {data : List Byte} {x : Ctx} {r : RingCfg} (hx : ctx? s c = some x)
  (hr : x.peer.recvs[ring]? = some r) (up : reachable s c = true) (some_ : data ≠ []) (le : data.length ≤ 2 ^ 24)
include hx hr up some_ le

/-- What a SEND to a receive ring does, by where its data and its entry go. -/
theorem sendLands_eq :
    let off := Config.freeNat (s.fresh + 1)
    let entry := bytesOf 4 0 ++ bytesOf 4 data.length ++ bytesOf 8 off ++ List.replicate 48 0
    let dat := if Config.freeBool s.fresh then none else writesAt s c (r.base + off) data
    let put := writesAt s c (r.base + 64 * (x.recvCount % r.count)) entry
    (∀ l e : List (Nat × List Byte), dat = some l → put = some e →
      Happens s (.inboundSend c ring data) [eff [.draw 2], ownChunk c (noCause s c) l, ownChunk c (noCause s c) e,
        bumpCounter c (noCause s c) r.word,
        eff [onCtx c (fun x => { x with recvCount := x.recvCount + 1 })], sendReply (.peerAnswer r.peer true)]) ∧
    (dat = none ∨ put = none →
      Happens s (.inboundSend c ring data) [eff [.draw 2], sendReply (.peerAnswer r.peer false)]) := by
  intro off entry dat put
  have no : ¬ ((!reachable s c) || data.isEmpty || decide (2 ^ 24 < data.length)) = true := by
    rw [up, List.isEmpty_eq_false_iff.2 some_, decide_eq_false (by omega)]
    exact Bool.false_ne_true
  refine ⟨fun l e hl he => happens_pick rfl ?_, fun h => happens_pick rfl ?_⟩
  · simp only [hx, Option.bind_some, hr, if_neg no, Option.map_some, Option.getD_some,
      show (if Config.freeBool s.fresh then none else writesAt s c (r.base + Config.freeNat (s.fresh + 1)) data) = some l from hl,
      show writesAt s c (r.base + 64 * (x.recvCount % r.count)) (bytesOf 4 0 ++ bytesOf 4 data.length ++
        bytesOf 8 (Config.freeNat (s.fresh + 1)) ++ List.replicate 48 0) = some e from he]
  · simp only [hx, Option.bind_some, hr, if_neg no, Option.map_some, Option.getD_some]
    rcases h with h | h
    · simp only [show (if Config.freeBool s.fresh then none else writesAt s c (r.base + Config.freeNat (s.fresh + 1)) data) = none
        from h]
    · simp only [show writesAt s c (r.base + 64 * (x.recvCount % r.count)) (bytesOf 4 0 ++ bytesOf 4 data.length ++
        bytesOf 8 (Config.freeNat (s.fresh + 1)) ++ List.replicate 48 0) = none from h]
      split
      · next e => cases e
      · rfl

end

/-! ## The mirror -/

theorem mirrorAck_happens {s : State} (n : Nat) (up : linkUp s PortUse.mirrors = true) (m : mirroring s = true) :
    Happens s (.mirrorAck n)
      [eff [onMod (fun m => { m with mirrorAcked := Nat.min m.mirrorSent (m.mirrorAcked + n) })], releaseHeldOut] := by
  refine happens_pick rfl ?_
  simp only [m, up, Bool.not_true, Bool.or_self, Bool.false_eq_true, if_false]

theorem mirrorWriteReceive_happens {s : State} (a : Nat) (data : List Byte) (up : linkUp s PortUse.mirrors = true)
    (ready : s.o.mod.st = .ready) :
    let loc := mirrorLoc a
    let l := upto (lineOf loc) (lineOf (loc + data.length - 1) + 1 - lineOf loc)
    Happens s (.mirrorWriteReceive a data none) [fun s => storeMarked s loc data, sendReply (.mirrorAck a data.length)] ∧
    ∀ c : BitVec 2, Happens s (.mirrorWriteReceive a data (some c)) [fun s => storeMarked s loc data,
      eff [.obj (fun o => { o with poison := l.foldl (fun t x => tabPut t x c.toNat) o.poison })],
      sendReply (.mirrorAck a data.length)] :=
  ⟨happens_pick_run (m := [fun s => storeMarked s (mirrorLoc a) data, skip, sendReply (.mirrorAck a data.length)]) rfl
    (if_pos ⟨ready, up⟩) rfl, fun _ => happens_pick rfl (if_pos ⟨ready, up⟩)⟩

theorem mirrorBreak_happens {s : State} (m : mirroring s = true) (away : linkUp s PortUse.mirrors = false)
    (h : linkAway s PortUse.mirrors 95000000 = true ∨ 2 ^ 26 ≤ s.o.mod.mirrorHeld) : Happens s .mirrorBreak
      [eff [onMod (fun m => { m with mirrorBroken := true, mirrorHeld := 0 })], releaseHeldOut, noticeAll (fun _ => true)] := by
  refine happens_pick rfl (if_pos ?_)
  have e : (linkAway s PortUse.mirrors mirrorPatience || decide (2 ^ 26 ≤ s.o.mod.mirrorHeld)) = true := by
    rw [Bool.or_eq_true, decide_eq_true_iff]
    exact h
  rw [m, away, e]
  rfl

/-! ## The twin -/

theorem twinDigest_happens {s : State} {k key i : Nat} {d : BitVec 64} (t : (kernel s k).lrec.twin = true)
    (up : linkUp s PortUse.twins = true) :
    Happens s (.twinDigest k key i d) [eff [onMod (fun m => { m with twinSeen := m.twinSeen ++ [(k, key, i, d)] })],
      fun u => if twinUnequal u k key i = true then [.post u.now (.ev (.twinHalt (kernel u k).ctx))] else [], kick] := by
  refine happens_pick_run (m := [eff [onMod (fun m => { m with twinSeen := m.twinSeen ++ [(k, key, i, d)] })],
    pick (fun s => [if twinUnequal s k key i then evNow (.twinHalt (kernel s k).ctx) else skip]), kick]) rfl ?_ ?_
  · simp only [t, up, Bool.not_true, Bool.or_self, Bool.false_eq_true, if_false]
  · have told : ∀ u : State, runStage u (pick (fun s => [if twinUnequal s k key i then evNow (.twinHalt (kernel s k).ctx) else skip])) =
        runStage u (fun u => if twinUnequal u k key i = true then [.post u.now (.ev (.twinHalt (kernel u k).ctx))] else []) :=
      fun u => by
        rw [runStage_pick, run_cons, run_nil]
        by_cases h : twinUnequal u k key i = true
        · simp only [runStage, if_pos h, evNow]
        · simp only [runStage, if_neg h, skip]
    simp only [run_cons, told]

theorem twinHalt_happens {s : State} {c : Nat} {x : Ctx} (hx : ctx? s c = some x) (live : x.st ≠ .dead)
    (tw : x.cfg.twin = true) (run_ : x.halted = false)
    (h : diverged s c = true ∨ linkAway s PortUse.twins 1900000 = true) :
    let told := ((s.o.kernels.filter (fun k => k.2.ctx == c && k.2.lrec.twin && k.2.pending)).map (fun k => (k.2.queue, k.2.root))).eraseDups
    Happens s (.twinHalt c) ([
      eff [onCtx c (fun y => { y with halted := true }), .obj (fun o => { o with kernels := tabMap o.kernels (fun _ k =>
        if k.ctx = c ∧ k.lrec.twin ∧ k.pending then { k with st := .halted } else k) })]] ++
      (if told = [] then [noCause s c] else told).map (fun q => notice c q.1 q.2)) := by
  intro told
  have no : ¬ ((decide (x.st = .dead) || !x.cfg.twin || x.halted || !(diverged s c || linkAway s PortUse.twins twinPatience)) = true) := by
    have e : (diverged s c || linkAway s PortUse.twins twinPatience) = true := Bool.or_eq_true_iff.2 h
    rw [decide_eq_false live, tw, run_, e]
    exact Bool.false_ne_true
  have hit : ∀ k : Kernel, (decide (k.ctx = c) && k.lrec.twin && k.pending) = (k.ctx == c && k.lrec.twin && k.pending) :=
    fun _ => rfl
  have iff_ : ∀ k : Kernel, (k.ctx = c ∧ k.lrec.twin = true ∧ k.pending = true) ↔
      (decide (k.ctx = c) && k.lrec.twin && k.pending) = true := fun k => by
    rw [Bool.and_eq_true, Bool.and_eq_true, decide_eq_true_iff, and_assoc]
  refine happens_pick rfl ?_
  simp only [hx]
  rw [if_neg no]
  simp only [List.isEmpty_iff, iff_]
  rfl

theorem twinHalt_rests {s : State} {c : Nat} {x : Ctx} (hx : ctx? s c = some x) (same : diverged s c = false)
    (here : linkAway s PortUse.twins 1900000 = false) : Nothing s (.twinHalt c) := by
  refine nothing_pick rfl ?_
  have e : (diverged s c || linkAway s PortUse.twins twinPatience) = false := Bool.or_eq_false_iff.2 ⟨same, here⟩
  simp only [hx, e, Bool.not_false, Bool.or_true, if_true]

/-! ## Ports and boundaries -/

theorem port_trains {s : State} {p : Nat} (lt : p < 16) (st : (port s p).st = .training) :
    ¬ (15 < p ∨ (port s p).st ≠ .training) := by
  rintro (a | a)
  · omega
  · exact a st

/-- A lane of a die boundary fails; `m` is what the count of its spares calls for. -/
theorem laneFail_happens {s : State} {b : Nat} (lt : b < 4) {m : Stage} {l : List Stage}
    (h : (if Config.spareLanes b < tabD s.o.mod.lanes b 0 + 1 then evNow .moduleReset else skip) = m)
    (r : run [eff [onMod (fun m => { m with lanes := tabPut m.lanes b (tabD s.o.mod.lanes b 0 + 1) })], m] s = run l s) :
    Happens s (.laneFail b) l := by
  refine happens_pick_run rfl ((if_neg (by omega)).trans ?_) r
  rw [← h]

/-- Settles O46, event by event. -/
theorem linksCarryAndAnswer : Obligations.LinksCarryAndAnswer := by
  refine ⟨fun s c ring x up hx => sendRingSend_happens up hx, fun s c peer addr read data x hx up some_ le =>
    ⟨fun l may w nf => packet_lands hx up some_ le may w nf, fun h => packet_refused hx up some_ le h⟩,
    fun s c peer addr n x hx up pos le => ⟨fun bs may b nf => packet_reads (peerReads_gives hx up pos le may b nf),
      fun h => packet_reads (peerReads_refuses hx up pos le h)⟩,
    fun s c ring i counter x r hx hr ho => peerAck_happens hx hr ho, fun s c ring data x r hx hr up some_ le => ?_,
    fun s n a data up => ⟨fun m => mirrorAck_happens n up m, fun ready => mirrorWriteReceive_happens a data up ready, ?_⟩,
    fun s m away h => mirrorBreak_happens m away h, fun s k key i d t up => twinDigest_happens t up,
    fun s c x hx live tw run_ => ⟨fun h => twinHalt_happens hx live tw run_ h, fun same here => twinHalt_rests hx same here⟩,
    fun s p lt => ⟨fun st => ⟨fun m => ?_, fun few => ?_, fun third => ?_⟩, fun st => ?_⟩, fun s b lt => ⟨fun le => ?_, fun gt => ?_⟩⟩
  · intro off entry put
    obtain ⟨lands, refused⟩ := sendLands_eq hx hr up some_ le
    refine ⟨fun l e free hl he => lands l e (by rw [free]; exact hl) he, fun h => refused ?_⟩
    rcases h with h | h | h
    · exact .inl (by rw [h]; rfl)
    · exact .inl (by rw [show writesAt s c (r.base + Config.freeNat (s.fresh + 1)) data = none from h, ite_self])
    · exact .inr h
  · refine nothing_pick rfl (if_neg ?_)
    rw [up, Bool.not_true, Bool.and_false, Bool.false_and]
    exact Bool.false_ne_true
  · refine happens_pick rfl ((if_neg (port_trains lt st)).trans ?_)
    simp only [if_true, show PortUse.mirrors (port s p).use = false from m, Bool.false_eq_true, if_false, List.append_nil]
  · exact happens_pick rfl ((if_neg (port_trains lt st)).trans (if_pos few))
  · exact happens_pick rfl ((if_neg (port_trains lt st)).trans (if_neg (Nat.not_lt.2 third)))
  · refine happens_pick rfl (if_neg ?_)
    rintro (a | a)
    · omega
    · exact a st
  · exact laneFail_happens lt (m := skip) (if_neg (Nat.not_lt.2 le)) rfl
  · exact laneFail_happens lt (m := evNow .moduleReset) (if_pos gt) rfl

end Sys2Proof.Machine
end

section
/-!
Proofs: the graph units and the life of a kernel (O40).
-/

namespace Sys2Proof.Machine

open Sys2Proof
open Sys2Proof.Says

/-! ## Requests to a graph unit -/

section
variable {s : State} {req : Nat} {r : SubReq} (h : tabGet s.o.subs req = some r)
include h

/-- A launch record: under a fresh id where it is accepted, with its code where it is not. -/
theorem graphReceives_launch (kind : r.kind = 0) :
    let gone := eff [.obj (fun o => { o with subs := tabDel o.subs req })]
    let reply := fun (v : Word) (u : State) => answer r.task r.pend [v] (lat u r.ctx 0 60) u ++ [.draw 1]
    let id := nextId s r.die
    let j := judgeLaunch s r.die r.ctx r.bytes false
    graphReceives req s = seqS (gone :: if j.1 = 0 then
      [acceptKernel r.die id j.2 r.queue (Nat.min j.2.lrec.prio r.cls) r.root false, eff [rememberNode r.task id],
        reply (subResult id 0 r.determ)]
      else [reply (subResult 0 j.1 r.determ)]) s := by
  intro gone reply id j
  simp only [graphReceives, pick, h, kind]
  rfl

/-- A billet: refused where it could not be read, breaks a rule or finds no place. -/
theorem graphReceives_billet (kind : r.kind = 1) :
    let gone := eff [.obj (fun o => { o with subs := tabDel o.subs req })]
    let reply := fun (v : Word) (u : State) => answer r.task r.pend [v] (lat u r.ctx 0 60) u ++ [.draw 1]
    let id := nextId s r.die
    (r.bytes = none → graphReceives req s = seqS [gone, reply (subResult 0 6 r.determ)] s) ∧
    (∀ bs : List Byte, r.bytes = some bs → graphReceives req s = seqS (gone ::
      if billetFieldBad bs then [reply (subResult 0 1 r.determ)]
      else if 1024 ≤ nodesOn s r.die then [reply (subResult 0 7 r.determ)]
      else [acceptBillet r.die id (parseBillet bs) r, eff [rememberNode r.task id], reply (subResult id 0 r.determ)]) s) := by
  intro gone reply id
  refine ⟨fun none_ => ?_, fun bs some_ => ?_⟩
  · simp only [graphReceives, pick, h, kind, none_]
    rfl
  · simp only [graphReceives, pick, h, kind, some_]
    rfl

/-- A resumption: of the oldest billet that faulted, where there is one. -/
theorem graphReceives_resume (kind : r.kind = 2) :
    let gone := eff [.obj (fun o => { o with subs := tabDel o.subs req })]
    let reply := fun (v : Word) (u : State) => answer r.task r.pend [v] (lat u r.ctx 0 60) u ++ [.draw 1]
    (oldestFaulted s r.ctx r.die r.addr = none → graphReceives req s = seqS [gone, reply 1] s) ∧
    (∀ b : Nat, oldestFaulted s r.ctx r.die r.addr = some b → graphReceives req s = seqS [gone,
      eff [onBillet b (fun x => { x with st := .ready, readyAt := s.fresh }), .draw 1], evNow (.billetStart r.die), reply 0] s) := by
  intro gone reply
  refine ⟨fun none_ => ?_, fun b some_ => ?_⟩
  · simp only [graphReceives, pick, h, kind, none_]
    rfl
  · simp only [graphReceives, pick, h, kind, some_]
    rfl

/-- A query. -/
theorem graphReceives_query (kind : 3 ≤ r.kind) :
    graphReceives req s = seqS [eff [.obj (fun o => { o with subs := tabDel o.subs req })],
      fun u => answer r.task r.pend [jobWord s r.ctx r.die r.addr] (lat u r.ctx 0 60) u ++ [.draw 1]] s := by
  obtain ⟨n, hn⟩ := Nat.exists_eq_add_of_le' kind
  simp only [graphReceives, pick, h, hn]

end

/-! ## Kernels -/

theorem kernelComplete_happens {s : State} {k : Nat} (run_ : (kernel s k).st = .running) (left : (kernel s k).left = 0) :
    let x := kernel s k
    Happens s (.kernelComplete k)
      [eff [onKernel k (fun y => { y with st := .done, dbars := [] })], kernelFreed k, bumpCounter x.ctx (x.queue, x.root) x.lrec.counter,
        nodeDone k, kernelEgress k 17 (BitVec.ofNat 256 k) [], evNow (.recordPost k), queueSettle x.queue, roomFreed] := by
  intro x
  refine happens_pick rfl (if_pos ?_)
  rw [run_, left]
  rfl

/-- Two changes of a table's entry that give its value the same. -/
theorem tabUpd_congr {α : Type} {t : Tab α} {i : Nat} {f g : α → α} (h : ∀ x, tabGet t i = some x → f x = g x) :
    tabUpd t i f = tabUpd t i g := by
  unfold tabUpd
  split
  · next x hx => rw [h x hx]
  · rfl

/-- Cycles over bytes that are not both zero have a class (R250). -/
theorem intensity_measured {free cy moved : Nat} (h : 0 < cy ∨ 0 < moved) :
    intensity free cy moved = if moved ≤ 4 * cy then .compute else if 16 * cy < moved then .memory else .neutral :=
  if_neg (by omega)

theorem classifyEnd_happens {s : State} {k busy bytes : Nat} (m : (kernel s k).measuring = true) :
    let cy := (kernel s k).matrix - busy
    let moved := (kernel s k).moved - bytes
    0 < cy ∨ 0 < moved → Happens s (.classifyEnd k busy bytes) [eff [onKernel k (fun x => { x with
      measuring := false
      intens := if moved ≤ 4 * cy then .compute else if 16 * cy < moved then .memory else .neutral }), .draw 1]] := by
  intro cy moved h
  refine happens_run (l := [classify k busy bytes]) rfl ?_
  have e : classify k busy bytes s = [onKernel k (fun x => { x with
      measuring := false, intens := intensity s.fresh (x.matrix - busy) (x.moved - bytes) }), .draw 1] := if_pos m
  have same : tabUpd s.o.kernels k (fun x => { x with
      measuring := false, intens := intensity s.fresh (x.matrix - busy) (x.moved - bytes) }) =
      tabUpd s.o.kernels k (fun x => { x with
        measuring := false
        intens := if moved ≤ 4 * cy then .compute else if 16 * cy < moved then .memory else .neutral }) :=
    tabUpd_congr fun x hx => by
      have me_ : kernel s k = x := by rw [kernel, tabD, hx]; rfl
      rw [← me_]
      exact congrArg (fun i => { kernel s k with measuring := false, intens := i }) (intensity_measured h)
  simp only [run_cons, run_nil, runStage, e, eff, List.foldl, Eff.apply, onKernel, same]

theorem floorChange_happens {s : State} {k : Nat} (det : (kernel s k).lrec.determ = true)
    (none_ : ∀ l ∈ s.o.loops, l.2.kernel ≠ k) {f : Nat} (hf : floorOf s (domainTasks s k) = some f) :
    ((kernel s k).floor < f → Happens s (.floorChange k) [eff [onKernel k (fun x => { x with floor := f, epoch := [] })], kick]) ∧
    (f ≤ (kernel s k).floor → Happens s (.floorChange k) [kick]) := by
  have loops : s.o.loops.filter (fun l => l.2.kernel == k) = [] :=
    List.filter_eq_nil_iff.2 fun l m => by rw [beq_iff_eq]; exact none_ l m
  refine ⟨fun lt => ?_, fun le => ?_⟩
  · refine happens_pick_run (m := [eff [onKernel k (fun x => { x with floor := f, epoch := [] })], eff [], kick]) rfl ?_ rfl
    simp only [hf, floorMoves, if_pos lt, det, if_true, loops, List.filterMap_nil]
  · refine happens_pick_run (m := [skip, eff [], kick]) rfl ?_ rfl
    simp only [hf, floorMoves, if_neg (Nat.not_lt.2 le), loops, List.filterMap_nil]

/-- Settles O40: requests by their kind, kernels by the branches of their stages. -/
theorem graphUnitsAcceptAndComplete : Obligations.GraphUnitsAcceptAndComplete := by
  refine ⟨fun s req r h => ?_, fun s k busy bytes => ?_⟩
  · intro gone reply id saying
    refine ⟨fun kind => ⟨fun ok => ?_, fun bad => ?_⟩, fun kind => ⟨fun none_ => ?_, fun bs some_ => ⟨fun bad => ?_, fun ok full => ?_,
      fun ok room => ?_⟩⟩, fun kind => ⟨fun none_ => ?_, fun b some_ => ?_⟩, fun kind => happens_stage rfl (graphReceives_query h kind)⟩
    · exact happens_stage rfl ((graphReceives_launch h kind).trans (by rw [if_pos ok]))
    · exact happens_stage rfl ((graphReceives_launch h kind).trans (by rw [if_neg bad]))
    · exact happens_stage rfl ((graphReceives_billet h kind).1 none_)
    · exact happens_stage rfl (((graphReceives_billet h kind).2 bs some_).trans (by rw [if_pos bad]))
    · exact happens_stage rfl (((graphReceives_billet h kind).2 bs some_).trans (by
        rw [if_neg (by rw [ok]; exact Bool.false_ne_true), if_pos full]))
    · exact happens_stage rfl (((graphReceives_billet h kind).2 bs some_).trans (by
        rw [if_neg (by rw [ok]; exact Bool.false_ne_true), if_neg (Nat.not_le.2 room)]))
    · exact happens_stage rfl ((graphReceives_resume h kind).1 none_)
    · exact happens_stage rfl ((graphReceives_resume h kind).2 b some_)
  · intro x
    refine ⟨fun st none_ => ?_, fun no => ?_, fun run_ left => kernelComplete_happens run_ left,
      fun m => classifyEnd_happens m, fun det none_ f hf => floorChange_happens det none_ hf⟩
    · exact happens_pick rfl (if_pos ⟨st, List.isEmpty_iff.2 none_⟩)
    · refine nothing_pick rfl (if_neg ?_)
      rintro ⟨a, b⟩
      rcases no with no | no
      · exact no a
      · exact no (List.isEmpty_iff.1 b)

end Sys2Proof.Machine
end

section
/-!
Proofs: the distributor and the dispatch of tasks (O41).
-/

namespace Sys2Proof.Machine

open Sys2Proof
open Sys2Proof.Says

/-! ## The distributor -/

/-- What a transaction that was not given up comes to, by what it places. -/
theorem placementEnd_picks {s : State} {k : Nat} (busy : (kernel s k).busy = true) (st : (kernel s k).st = .placing)
    {l : List (Nat × Nat × Nat × List Nat)}
    (hl : placement s k ((tableQuads (kernel s k).l2p).map (quadRoom s)) = l) {m : List Stage}
    (r : run ([eff [onKernel k (fun y => { y with
        busy := false, tried := l.isEmpty, st := if l.isEmpty then .ready else .running
        measuring := y.measuring || (!l.isEmpty && (!(kernel s k).lrec.place &&
          !((ctx? s (kernel s k).ctx).map (fun c => c.cfg.isolated)).getD true)) })]] ++
      l.map (placeOne k) ++
      [if l.isEmpty then skip else eff [.post s.now (.ev (.floorChange k)), .post s.now (.ev (.recordPost k))],
       if (kernel s k).suspending && !l.isEmpty then eff [onKernel k (fun y => { y with
            suspending := false, st := .suspended
            groups := tabMap y.groups (fun _ g => if g.st = .placed then { g with st := .suspended } else g) })]
         else seqS [eff [onKernel k (fun y => { y with suspending := false })],
           if (kernel s k).lrec.gang then dispatchFrom (fun s => kernelTasks s k) (l.length * (kernel s k).lrec.threads) else skip],
       distribute (kernel s k).die]) s = run m s) : Happens s (.placementEnd k) m := by
  refine happens_pick_run rfl ?_ r
  simp only [busy, Bool.not_true, Bool.false_eq_true, if_false, st, if_true, hl]
  cases l <;> rfl

theorem placementEnd_nothing {s : State} {k : Nat} (busy : (kernel s k).busy = true) (st : (kernel s k).st = .placing)
    (hl : placement s k ((tableQuads (kernel s k).l2p).map (quadRoom s)) = []) :
    Happens s (.placementEnd k) [
      eff [onKernel k (fun y => { y with busy := false, tried := true, st := .ready, measuring := y.measuring })],
      eff [onKernel k (fun y => { y with suspending := false })], distribute (kernel s k).die] := by
  refine placementEnd_picks busy st hl ?_
  simp only [List.isEmpty_nil, if_true, Bool.not_true, Bool.and_false, Bool.false_eq_true, if_false, Bool.false_and,
    Bool.or_false, List.length_nil, Nat.zero_mul, dispatchFrom, ite_self]
  rfl

theorem placementEnd_places {s : State} {k : Nat} (busy : (kernel s k).busy = true) (st : (kernel s k).st = .placing)
    (go : (kernel s k).suspending = false) (some_ : placement s k ((tableQuads (kernel s k).l2p).map (quadRoom s)) ≠ []) :
    let x := kernel s k
    let l := placement s k ((tableQuads x.l2p).map (quadRoom s))
    let measured := !x.lrec.place && !((ctx? s x.ctx).map (fun c => c.cfg.isolated)).getD true
    Happens s (.placementEnd k) ([
      eff [onKernel k (fun y => { y with busy := false, tried := false, st := .running, measuring := y.measuring || measured })]] ++
      l.map (placeOne k) ++ [eff [.post s.now (.ev (.floorChange k)), .post s.now (.ev (.recordPost k))],
      eff [onKernel k (fun y => { y with suspending := false })],
      if x.lrec.gang = true then dispatchFrom (fun s => kernelTasks s k) (l.length * x.lrec.threads) else skip,
      distribute x.die]) := by
  intro x l measured
  have full : l.isEmpty = false := List.isEmpty_eq_false_iff.2 some_
  refine placementEnd_picks busy st (l := l) rfl ?_
  simp only [full, go, Bool.false_eq_true, if_false, Bool.not_false, Bool.true_and, Bool.false_and, run_append, run_cons, run_nil,
    runStage_seqS]
  rfl

theorem placementEnd_suspends {s : State} {k : Nat} (busy : (kernel s k).busy = true) (st : (kernel s k).st = .placing)
    (stop : (kernel s k).suspending = true) (some_ : placement s k ((tableQuads (kernel s k).l2p).map (quadRoom s)) ≠ []) :
    let x := kernel s k
    let l := placement s k ((tableQuads x.l2p).map (quadRoom s))
    let measured := !x.lrec.place && !((ctx? s x.ctx).map (fun c => c.cfg.isolated)).getD true
    Happens s (.placementEnd k) ([
      eff [onKernel k (fun y => { y with busy := false, tried := false, st := .running, measuring := y.measuring || measured })]] ++
      l.map (placeOne k) ++ [eff [.post s.now (.ev (.floorChange k)), .post s.now (.ev (.recordPost k))],
      eff [onKernel k (fun y => { y with suspending := false, st := .suspended
                                         groups := tabMap y.groups (fun _ g => if g.st = .placed then { g with st := .suspended } else g) })],
      distribute x.die]) := by
  intro x l measured
  have full : l.isEmpty = false := List.isEmpty_eq_false_iff.2 some_
  refine placementEnd_picks busy st (l := l) rfl ?_
  simp only [full, stop, Bool.false_eq_true, if_false, Bool.not_false, Bool.true_and, if_true]
  rfl

/-! ## The dispatch -/

/-- The first of some tasks takes the slot that fits it. -/
theorem dispatchFrom_first {s : State} {l : State → List (Nat × Task)} {n c sl : Nat} {t : Nat × Task}
    (head : (l s).head? = some t) (hc : coresFor s t.2 = some (c, none)) (hs : freeSlotOf s c = some sl) :
    runStage s (dispatchFrom l (n + 1)) = run [dispatch t.1 t.2 sl none, dispatchFrom l n] s := by
  obtain ⟨rest, hr⟩ : ∃ rest, l s = t :: rest := by
    cases h : l s with
    | nil => rw [h] at head; cases head
    | cons x xs => rw [h] at head; cases head; exact ⟨xs, rfl⟩
  rw [dispatchFrom, runStage_pick]
  simp only [hr, firstSome, hc, hs, Option.bind_some, Option.map_some, Option.bind_none, Option.some_or]

theorem regrowAll_rests {s : State} {q : Nat} (h : ∀ y ∈ s.o.slots, ∀ n : Nat, y.2.wait ≠ some (.window n)) :
    runStage s (regrowAll q) = s := by
  rw [regrowAll, runStage_each]
  have none_ : s.o.slots.filter (fun x => quadOf x.1 == q && decide (x.1 < 2 ^ 18) && (match x.2.wait with
      | some (.window _) => true
      | _ => false)) = [] := List.filter_eq_nil_iff.2 fun y m a => by
    obtain ⟨_, a⟩ := Bool.and_eq_true_iff.1 a
    split at a
    · next n e => exact h y m n e
    · cases a
  exact congrArg (fun l => run (List.map _ l) s) none_

theorem taskDispatch_happens {s : State} {q c sl : Nat} {t : Nat × Task} (head : (offerOrder s q).head? = some t)
    (hc : coresFor s t.2 = some (c, none)) (hs : freeSlotOf s c = some sl)
    (h : ∀ y ∈ s.o.slots, ∀ n : Nat, y.2.wait ≠ some (.window n)) :
    Happens s (.taskDispatch q) [dispatch t.1 t.2 sl none, dispatchN q 255, kick, askRoom q,
      distribute 0, distribute 1, distribute 2, distribute 3] := by
  refine happens_run (l := [dispatchAll q]) rfl ?_
  have first : runStage s (dispatchN q 256) = run [dispatch t.1 t.2 sl none, dispatchN q 255] s :=
    dispatchFrom_first (l := fun s => offerOrder s q) (n := 255) head hc hs
  rw [run_cons, run_nil, dispatchAll, runStage_seqS, run_cons, regrowAll_rests h, run_cons, first, ← run_append]
  rfl

/-! ## Class pre-emption and gated slots -/

theorem classPreempt_happens {s : State} {q v : Nat} {t : Nat × Task}
    (f : (offerOrder s q).find? (fun x => (classVictim s x.2).isSome) = some t) (full : coresFull s (quadCores s q) = true)
    (hv : classVictim s t.2 = some v) : Happens s (.classPreempt q) [eff [.post s.now (.ev (.preemptionRequest v))]] := by
  refine happens_pick_run (m := [evNow (.preemptionRequest v)]) rfl ?_ rfl
  simp only [full, Bool.true_and, f, hv]

theorem classPreempt_passes {s : State} {q : Nat}
    (h : coresFull s (quadCores s q) = false ∨ (∀ t ∈ offerOrder s q, classVictim s t.2 = none)) :
    Happens s (.classPreempt q) [eff [.post s.now (.ev (.gatedSlotTake q))]] := by
  have none_ : (offerOrder s q).find? (fun x => coresFull s (quadCores s q) && (classVictim s x.2).isSome) = none :=
    List.find?_eq_none.2 fun t m => by
      rcases h with h | h
      · rw [h, Bool.false_and]
        exact Bool.false_ne_true
      · rw [h t m, Option.isSome_none, Bool.and_false]
        exact Bool.false_ne_true
  refine happens_pick_run (m := [evNow (.gatedSlotTake q)]) rfl ?_ rfl
  simp only [none_]

theorem gatedSlotTake_happens {s : State} {q v : Nat} {t : Nat × Task} (head : (offerOrder s q).head? = some t)
    (full : slotsFull s t.2 = true) (hv : gatedVictim s t.2 = some v) :
    Happens s (.gatedSlotTake q) [giveUp v, stopFor v .gated, evNow (.preemptionComplete v)] := by
  obtain ⟨rest, hr⟩ : ∃ rest, offerOrder s q = t :: rest := by
    cases h : offerOrder s q with
    | nil => rw [h] at head; cases head
    | cons x xs => rw [h] at head; cases head; exact ⟨xs, rfl⟩
  refine happens_pick_run (m := [yieldGated v]) rfl ?_ ?_
  · simp only [hr, firstSome, full, if_true, hv, Option.some_or]
  · rw [run_cons, run_nil, yieldGated, runStage_seqS]

/-- Settles O41, by what each transaction and each dispatch picks. -/
theorem groupsArePlacedAndTasksDispatched : Obligations.GroupsArePlacedAndTasksDispatched := by
  intro s k q x
  refine ⟨fun next => happens_pick rfl (if_neg fun a => a next), fun other => nothing_pick rfl (if_pos other),
    fun busy st go => ⟨fun hl => placementEnd_nothing busy st hl, fun hl => placementEnd_places busy st go hl⟩,
    fun busy st stop => fun hl => placementEnd_suspends busy st stop hl,
    fun t c sl _ head hc hs h => taskDispatch_happens head hc hs h, fun t v f full hv => classPreempt_happens f full hv,
    classPreempt_passes, fun t v head full hv => gatedSlotTake_happens head full hv⟩

end Sys2Proof.Machine
end

section
/-!
Proofs: what the matrix queues do (O39).
-/

namespace Sys2Proof.Machine

open Sys2Proof
open Sys2Proof.Says

/-! ## The start of an operation -/

theorem matrixOpStart_happens {s : State} {c : Nat} {op : MxOp} (f : (core s c).mq.find? (fun m => !m.started) = some op) :
    let k := ((task? s op.task).map (·.kernel)).getD 0
    (mayStart s c op = true → Happens s (.matrixOpStart c) [opRace op, fun u =>
      [onCore c (fun x => { x with mq := x.mq.map (fun m => if m.id = op.id then { m with started := true } else m) }),
        .post (u.now + lat u (kernel u k).ctx 0 (op.kind.bound + if op.copies then 24 else 0)) (.ev (.matrixOpComplete c op.id)),
        .post u.now (.ev (.matrixOpStart c)), .draw 1],
      if (kernel s k).measuring then eff [onKernel k (fun x => { x with matrix := x.matrix + op.kind.busy })] else skip]) ∧
    (mayStart s c op = false → Nothing s (.matrixOpStart c)) := by
  refine ⟨fun may => happens_pick rfl ?_, fun may => nothing_pick rfl ?_⟩
  · simp only [f, may, if_true]
    rfl
  · simp only [f, may, Bool.false_eq_true, if_false]

/-! ## The end of an operation -/

/-- Nothing that is read near is lost where no line is poisoned and no bit stands flipped. -/
theorem nearPoison_clean {s : State} (np : s.o.poison = []) (nf : s.o.flips = []) (loc n : Nat) : nearPoison s loc n = none := by
  simp [nearPoison, np, nf]

theorem nearRead_clean {s : State} (nf : s.o.flips = []) (loc n : Nat) : runStage s (nearRead loc n) = s := by
  simp [runStage, nearRead, nf]

theorem run_nearReads {s : State} (nf : s.o.flips = []) (l : List (Nat × Nat)) :
    run (l.map (fun r => nearRead r.1 r.2)) s = s := by
  induction l with
  | nil => rfl
  | cons x xs ih => rw [List.map_cons, run_cons, nearRead_clean nf, ih]

section
variable {s : State} {c id sl : Nat} {op : MxOp} {t : Task}
  (f : (core s c).mq.find? (fun m => m.id == id && m.started) = some op) (ht : task? s op.task = some t)
  (hs : t.slot = some sl) (own : op.remote = none)
include f ht hs own

/-- An own operation whose operands nothing poisons takes effect after it has left the queue. -/
theorem matrixOpComplete_happens (clean : opPoison s sl op.kind = none)
    (reads : ∀ u : State, u.o.flips = s.o.flips → runStage u (opReads sl op.kind) = u) {x : Stage}
    (e : ∀ u : State, (∀ i, thr u i = thr s i) → runStage u (opEffect sl op) = runStage u x) :
    Happens s (.matrixOpComplete c id) [eff [onCore c (fun x => { x with mq := x.mq.filter (fun m => m.id != id) })], x,
      eff [.post s.now (.ev (.matrixOpStart c))]] := by
  let gone : Stage := eff [onCore c (fun x => { x with mq := x.mq.filter (fun m => m.id != id) })]
  refine happens_pick_run (m := [gone, opReads sl op.kind, opEffect sl op, skip, evNow (.matrixOpStart c)]) rfl ?_ ?_
  · simp only [f, ht, Option.bind_some, hs, clean, own]
    rfl
  · rw [run_cons, run_cons, reads (runStage s gone) rfl, run_cons, e (runStage s gone) (fun _ => rfl)]
    exact run_evNow [gone, x] s (.matrixOpStart c)

/-- An operation that reads no near memory. -/
theorem matrixOpComplete_of_anvils (k : ∀ u : State, opRegions u sl op.kind = []) {x : Stage}
    (e : ∀ u : State, (∀ i, thr u i = thr s i) → runStage u (opEffect sl op) = runStage u x) :
    Happens s (.matrixOpComplete c id) [eff [onCore c (fun x => { x with mq := x.mq.filter (fun m => m.id != id) })], x,
      eff [.post s.now (.ev (.matrixOpStart c))]] := by
  refine matrixOpComplete_happens f ht hs own ?_ (fun u _ => ?_) e
  · rw [opPoison, k]
    rfl
  · rw [opReads, runStage_each, k]
    rfl

/-- What an own operation does, kind by kind. -/
theorem ownOperation_acts :
    let gone := eff [onCore c (fun x => { x with mq := x.mq.filter (fun m => m.id != id) })]
    let again := eff [.post s.now (.ev (.matrixOpStart c))]
    let acts := fun (a : Nat) (f : Anvil → Anvil) =>
      Happens s (.matrixOpComplete c id) [gone, eff [writeAnvil sl op.committed a f], again]
    let gives := fun (v : Word) (fl : BitVec 5) =>
      Happens s (.matrixOpComplete c id) [gone, deliver op.task op.pend v fl, again]
    (∀ (a : Nat) (b : Int), op.kind = .aclr a b → acts a (fun _ => Anvil.cleared b)) ∧
    (∀ d a : Nat, op.kind = .copy d a → acts d (fun _ => anvilOf (thr s sl) a)) ∧
    (∀ d a : Nat, op.kind = .aadd d a → acts d (fun x => x.addAnvil (anvilOf (thr s sl) a))) ∧
    (∀ (m n k x a b f : Nat) (sc : Nat × Nat) (p : Nat) (old : List (Nat × Dword)),
      op.kind = .mma m n k x a b f sc p old → s.o.poison = [] → s.o.flips = [] →
      Happens s (.matrixOpComplete c id) [gone,
        fun u => [writeAnvil sl op.committed x (mmaApply u sl m n k a b f sc p old)], again]) ∧
    (∀ (d a mode : Nat) (ctl : Word), op.kind = .arnd d a mode ctl →
      gives (arndValue (anvilOf (thr s sl) a) mode ctl).1 (arndValue (anvilOf (thr s sl) a) mode ctl).2) ∧
    (∀ d a : Nat, op.kind = .status d a → gives (anvilOf (thr s sl) a).status 0) ∧
    (∀ (d a : Nat) (ctl : Word), op.kind = .raw d a ctl →
      gives (((anvilOf (thr s sl) a).at (bits ctl 7 0)).raw (ctl.getLsbD 8)) 0) := by
  intro gone again acts gives
  have both : (op.committed || op.remote.isSome) = op.committed := by rw [own]; exact Bool.or_false _
  refine ⟨fun a b k => ?_, fun d a k => ?_, fun d a k => ?_, fun m n kk x a b fm sc p old k np nf => ?_, fun d a mode ctl k => ?_,
    fun d a k => ?_, fun d a ctl k => ?_⟩
  · refine matrixOpComplete_of_anvils f ht hs own (fun _ => by rw [k]; rfl) fun u hu => ?_
    rw [opEffect, runStage_pick, both, k]
    rfl
  · refine matrixOpComplete_of_anvils f ht hs own (fun _ => by rw [k]; rfl) fun u hu => ?_
    rw [opEffect, runStage_pick, both, k, hu]
    rfl
  · refine matrixOpComplete_of_anvils f ht hs own (fun _ => by rw [k]; rfl) fun u hu => ?_
    rw [opEffect, runStage_pick, both, k, hu]
    rfl
  · refine matrixOpComplete_happens f ht hs own ?_ (fun u same => ?_) fun u hu => ?_
    · exact firstSome_none fun r _ => by rw [nearPoison_clean np nf]; rfl
    · rw [opReads, runStage_each]
      have l := run_nearReads (s := u) (same.trans nf) ((opRegions u sl op.kind).map (·.1))
      rwa [List.map_map] at l
    · rw [opEffect, runStage_pick, both, k]
      rfl
  · refine matrixOpComplete_of_anvils f ht hs own (fun _ => by rw [k]; rfl) fun u hu => ?_
    rw [opEffect, runStage_pick, k, hu]
    rfl
  · refine matrixOpComplete_of_anvils f ht hs own (fun _ => by rw [k]; rfl) fun u hu => ?_
    rw [opEffect, runStage_pick, k, hu]
    rfl
  · refine matrixOpComplete_of_anvils f ht hs own (fun _ => by rw [k]; rfl) fun u hu => ?_
    rw [opEffect, runStage_pick, k, hu]
    rfl

end

/-! ## Operations from other cores -/

section
variable {s : State} {req : Nat} {r : MxReq} (h : tabGet s.o.mxReqs req = some r)
include h

theorem remoteMatrix_homeless (none_ : mxTarget s r = none) : Happens s (.remoteMatrixArrival req)
    [eff [.obj (fun o => { o with mxReqs := tabDel o.mxReqs req })], deliver r.task r.pend 1 0] := by
  refine happens_pick rfl ?_
  simp only [h, none_]

theorem remoteMatrix_refused {tk v : Nat} {t : Thread} (ht : mxTarget s r = some tk) (hth : taskThr? s tk = some t)
    (e : commandAt s r t = .error v) : Happens s (.remoteMatrixArrival req)
      [eff [.obj (fun o => { o with mxReqs := tabDel o.mxReqs req })], deliver r.task r.pend (wd v) 0] := by
  refine happens_pick rfl ?_
  simp only [h, ht, hth, e]

section
variable {tk : Nat} {t : Thread} {x : Task} {k : MxKind} (ht : mxTarget s r = some tk) (hth : taskThr? s tk = some t)
  (hx : task? s tk = some x) (ok : commandAt s r t = .ok k)
include ht hth hx ok

theorem remoteMatrix_held (away : x.slot = none) : Happens s (.remoteMatrixArrival req)
    [eff [onTask tk (fun x => { x with heldReqs := x.heldReqs ++ [req] }),
      .obj (fun o => { o with mxReqs := tabUpd o.mxReqs req (fun y => { y with held := true }) })]] := by
  refine happens_pick rfl ?_
  simp only [h, ht, hth, ok, hx, Option.bind_some, away]

theorem remoteMatrix_waits {sl : Nat} (here : x.slot = some sl) (full : queueFull s (coreOf r.target) = true) :
    Happens s (.remoteMatrixArrival req) [eff [.post (s.now + 1) (.ev (.remoteMatrixArrival req))]] := by
  refine happens_pick_run (m := [fun s => [.post (s.now + 1) (.ev (.remoteMatrixArrival req))]]) rfl ?_ rfl
  simp only [h, ht, hth, ok, hx, Option.bind_some, here, full, if_true]

theorem remoteMatrix_queued {sl : Nat} (here : x.slot = some sl) (room : queueFull s (coreOf r.target) = false) :
    let op : MxOp := { id := req, task := tk, kind := k, pend := r.pend, remote := some r.task }
    Happens s (.remoteMatrixArrival req) [eff [.obj (fun o => { o with mxReqs := tabDel o.mxReqs req })],
      enqueue (coreOf r.target) op, if r.add = none ∧ r.held = false then deliver r.task r.pend 0 0 else skip] := by
  intro op
  have told : (r.add.isNone && !r.held) = true ↔ r.add = none ∧ r.held = false := by
    rw [Bool.and_eq_true, Option.isNone_iff_eq_none, Bool.not_eq_true']
  refine happens_pick_run (m := [eff [.obj (fun o => { o with mxReqs := tabDel o.mxReqs req })],
      enqueue (coreOf r.target) op] ++ (if r.add.isNone && !r.held then [deliver r.task r.pend 0 0] else [])) rfl ?_ ?_
  · simp only [h, ht, hth, ok, hx, Option.bind_some, here, room, Bool.false_eq_true, if_false]
    rfl
  · by_cases c : r.add = none ∧ r.held = false
    · rw [if_pos (told.2 c), if_pos c]
      rfl
    · rw [if_neg (mt told.1 c), if_neg c]
      rfl

end

end

/-- Settles O39: starts and arrivals by their branches, the end of an operation kind by kind. -/
theorem matrixQueueRunsItsOperations : Obligations.MatrixQueueRunsItsOperations := by
  refine fun s c => ⟨fun op f => matrixOpStart_happens f, fun id sl op t f ht hs own => ownOperation_acts f ht hs own,
    fun req r h => ⟨fun none_ => remoteMatrix_homeless h none_, fun tk t x ht hth hx => ⟨fun v e => remoteMatrix_refused h ht hth e,
      fun k ok away => remoteMatrix_held h ht hth hx ok away, fun k sl ok here => ⟨fun full => ?_, fun room => ?_⟩⟩⟩⟩
  · exact remoteMatrix_waits h ht hth hx ok here full
  · exact remoteMatrix_queued h ht hth hx ok here room

end Sys2Proof.Machine
end

section
/-!
Proofs: the lathe at work (O38).
-/

namespace Sys2Proof.Machine

open Sys2Proof
open Sys2Proof.Says

/-! ## The start -/

theorem latheCapture_starts {s : State} {sl : Nat} (st : (thr s sl).arch.lathe.st = .capturing)
    (whole : (thr s sl).arch.lathe.n ≤ (thr s sl).arch.lathe.words.length) {l : List Eff}
    (h : (if (thr s sl).arch.lathe.count = 0 then
        [onArch sl (fun x => { x with lathe := { x.lathe with st := .idle, words := [] } })]
      else
        [onArch sl (fun x => { x with lathe := { x.lathe with
           st := .running, preds := (upto 0 8).map (thr s sl).arch.pred, round := (thr s sl).arch.round, next := 0, units := [], last := []
           set := setAddAll x.lathe.set (latheSet (thr s sl).arch.lathe (thr s sl).arch.lathe.words) } }),
         .post (s.now + 1) (.ev (.latheWordIssue sl))]) = l) : Happens s (.latheCapture sl) [eff l] := by
  have go : ¬ ((thr s sl).arch.lathe.st != .capturing || decide ((thr s sl).arch.lathe.words.length < (thr s sl).arch.lathe.n)) = true := by
    rw [st, decide_eq_false (Nat.not_lt.2 whole)]
    exact Bool.false_ne_true
  refine happens_pick_run rfl rfl ?_
  have q : latheStart sl (thr s sl).arch.round ((upto 0 8).map (thr s sl).arch.pred) s = l := (if_neg go).trans h
  exact congrArg (List.foldl Eff.apply s) q

theorem latheCapture_waits {s : State} {sl : Nat}
    (few : (thr s sl).arch.lathe.words.length < (thr s sl).arch.lathe.n) : Nothing s (.latheCapture sl) := by
  have wait : ((thr s sl).arch.lathe.st != .capturing || decide ((thr s sl).arch.lathe.words.length < (thr s sl).arch.lathe.n)) = true := by
    rw [decide_eq_true few, Bool.or_true]
  have q : latheStart sl (thr s sl).arch.round ((upto 0 8).map (thr s sl).arch.pred) s = [] := if_pos wait
  have rests : Happens s (.latheCapture sl) [] := happens_pick_run rfl rfl (congrArg (List.foldl Eff.apply s) q)
  exact rests

/-! ## The issue -/

/-- A word whose fields have no stream takes no unit of any. -/
theorem lathePops_none {a : Arch} {v : VWord} (h : ∀ x ∈ v.fields, a.strm x.f = none) : lathePops a v = [] := by
  have none_ : v.fields.filter (fun x => x.r && !(a.lathe.units.any (fun u => u.1 == x.f)) &&
      ((a.strm x.f).map (fun y => !y.write)).getD false) = [] :=
    List.filter_eq_nil_iff.2 fun x m => by
      rw [h x m, Option.map_none, Option.getD_none, Bool.and_false]
      exact Bool.false_ne_true
  rw [lathePops, none_]
  rfl

theorem latheWordIssue_acts {s : State} {sl : Nat} {v : VWord} (st : (thr s sl).arch.lathe.st = .running)
    (more : (thr s sl).arch.lathe.next < (thr s sl).arch.lathe.n * (thr s sl).arch.lathe.count) (turn : latheTurn s sl = true)
    (hv : captured (advanced (thr s sl).arch.lathe ((thr s sl).arch.lathe.next / (thr s sl).arch.lathe.n))
      ((thr s sl).arch.lathe.words.getD ((thr s sl).arch.lathe.next % (thr s sl).arch.lathe.n) 0) = some v)
    (free : ∀ x ∈ v.fields, (thr s sl).arch.strm x.f = none) : Happens s (.latheWordIssue sl) [latheEffect sl v] := by
  have go : ¬ ((thr s sl).arch.lathe.st != .running || decide ((thr s sl).arch.lathe.n * (thr s sl).arch.lathe.count ≤
      (thr s sl).arch.lathe.next)) = true := by
    rw [st, decide_eq_false (Nat.not_le.2 more)]
    exact Bool.false_ne_true
  have appends : v.fields.filterMap (fun x => if x.w then ((thr s sl).arch.strm x.f).filter (·.write) else none) = [] :=
    List.filterMap_eq_nil_iff.2 fun x m => by rw [free x m]; exact ite_self _
  have room : firstSome (fun (x : Field) => if x.w && (((thr s sl).arch.strm x.f).map (fun y => y.write && y.exhausted)).getD false
      then some (nTrap .stream x.f) else none) v.fields = none :=
    firstSome_none fun x m => by
      rw [free x m, Option.map_none, Option.getD_none, Bool.and_false]
      rfl
  refine happens_pick_run (m := [latheEffect sl v, skip]) rfl ?_ rfl
  simp only [if_neg go, turn, Bool.not_true, Bool.false_eq_true, if_false, hv, appends, room, lathePops_none free]
  rfl

theorem latheWordIssue_loses {s : State} {sl : Nat} (st : (thr s sl).arch.lathe.st = .running)
    (more : (thr s sl).arch.lathe.next < (thr s sl).arch.lathe.n * (thr s sl).arch.lathe.count) (turn : latheTurn s sl = false) :
    Happens s (.latheWordIssue sl)
      [eff [.post (if (core s (coreOf sl)).latheAt = s.now + 1 then s.now + 1 else s.now) (.ev (.latheWordIssue sl))]] := by
  have go : ¬ ((thr s sl).arch.lathe.st != .running || decide ((thr s sl).arch.lathe.n * (thr s sl).arch.lathe.count ≤
      (thr s sl).arch.lathe.next)) = true := by
    rw [st, decide_eq_false (Nat.not_le.2 more)]
    exact Bool.false_ne_true
  refine happens_pick_run (m := [fun s =>
    [.post (if (core s (coreOf sl)).latheAt = s.now + 1 then s.now + 1 else s.now) (.ev (.latheWordIssue sl))]]) rfl ?_ rfl
  simp only [if_neg go, turn, Bool.not_false, if_true]

theorem latheWordIssue_rests {s : State} {sl : Nat} (h : (thr s sl).arch.lathe.st ≠ .running ∨
    (thr s sl).arch.lathe.n * (thr s sl).arch.lathe.count ≤ (thr s sl).arch.lathe.next) : Nothing s (.latheWordIssue sl) := by
  have no : ((thr s sl).arch.lathe.st != .running || decide ((thr s sl).arch.lathe.n * (thr s sl).arch.lathe.count ≤
      (thr s sl).arch.lathe.next)) = true := by
    rw [Bool.or_eq_true, bne_iff_ne, decide_eq_true_iff]
    exact h
  refine nothing_pick rfl ?_
  simp only [no, if_true]

/-! ## The results -/

/-- The lathe of the thread in a slot, where there is one. -/
def latheIn (s : State) (sl : Nat) : Option Lathe := (tabGet s.o.slots sl).map (·.arch.lathe)

/-- A change of a slot's thread that leaves its lathe alone. -/
theorem latheIn_onThr (s : State) (sl : Nat) {f : Thread → Thread} (h : ∀ t, (f t).arch.lathe = t.arch.lathe) :
    latheIn (Eff.apply s (onThr sl f)) sl = latheIn s sl := by
  simp only [latheIn, Eff.apply, onThr, tabGet_upd_self, Option.map_map]
  cases tabGet s.o.slots sl with
  | none => rfl
  | some t => exact congrArg some (h t)

theorem latheIn_wrFlags (s : State) (sl : Nat) (mask fl : BitVec 5) :
    latheIn (runStage s (wrFlags sl mask fl)) sl = latheIn s sl := by
  unfold wrFlags
  by_cases z : fl = 0
  · rw [if_pos z]
    rfl
  · rw [if_neg z]
    exact latheIn_onThr s sl fun _ => rfl

theorem latheIn_writes (ws : List (Nat × Word)) (s : State) (sl : Nat) :
    latheIn (run (ws.map (fun x => eff [onArch sl (fun a => a.setReg x.1 x.2)])) s) sl = latheIn s sl := by
  induction ws generalizing s with
  | nil => rfl
  | cons w ws ih =>
    rw [List.map_cons, run_cons, ih]
    exact latheIn_onThr s sl fun _ => rfl

/-- Two changes of the thread in a slot that agree where its lathe is what it is. -/
theorem onThr_congr {s : State} {sl : Nat} {l : Lathe} (h : latheIn s sl = some l) {f g : Thread → Thread}
    (e : ∀ t : Thread, t.arch.lathe = l → f t = g t) : Eff.apply s (onThr sl f) = Eff.apply s (onThr sl g) := by
  have same : tabUpd s.o.slots sl f = tabUpd s.o.slots sl g := tabUpd_congr fun t ht => e t (by
    rw [latheIn, ht] at h
    exact Option.some.inj h)
  simp only [Eff.apply, onThr, same]

/-- The first result on its way is written; `g` is what becomes of the lathe. -/
theorem latheWordResult_happens {s : State} {sl : Nat} {r : LatheRes} {rest : List LatheRes}
    (hf : (thr s sl).arch.lathe.flight = r :: rest) {g : Lathe → Lathe}
    (e : (if (thr s sl).arch.lathe.st = .running then
        (if rest.isEmpty ∧ (thr s sl).arch.lathe.n * (thr s sl).arch.lathe.count ≤ (thr s sl).arch.lathe.next then
          { (thr s sl).arch.lathe with st := .idle, flight := [], set := [], words := [], units := [] }
         else { (thr s sl).arch.lathe with flight := rest })
      else { (thr s sl).arch.lathe with flight := rest, set := if rest.isEmpty then [] else (thr s sl).arch.lathe.set }) =
      g (thr s sl).arch.lathe) :
    Happens s (.latheWordResult sl) (r.writes.map (fun w => eff [onArch sl (fun a => a.setReg w.1 w.2)]) ++
      [wrFlags sl (thr s sl).fxmask r.flags,
       eff [onThr sl (fun t => { t with late := t.late || (r.flags &&& t.fxmask) != 0
                                        arch := { t.arch with lathe := g t.arch.lathe } })], settle sl]) := by
  have held : latheIn s sl = some (thr s sl).arch.lathe := by
    cases h : tabGet s.o.slots sl with
    | none =>
      rw [thr, tabD, h] at hf
      cases hf
    | some t => rw [latheIn, thr, tabD, h]; rfl
  refine happens_pick_run rfl (by simp only [hf]; rfl) ?_
  rw [run_append, run_append, run_cons, run_cons, run_cons, run_cons]
  refine congrArg (run [settle sl]) (onThr_congr ((latheIn_wrFlags _ _ _ _).trans ((latheIn_writes _ _ _).trans held)) fun t ht => ?_)
  rw [ht, ← e]

/-- Settles O38, by the branches of `latheStart`, `latheIssue` and `latheWrite`. -/
theorem latheRunsItsWords : Obligations.LatheRunsItsWords := by
  intro s sl a l
  refine ⟨fun st whole => ⟨fun z => ?_, fun nz => ?_⟩, fun _ few => latheCapture_waits few,
    fun st more => ⟨fun turn v hv free => latheWordIssue_acts st more turn hv free, fun turn => latheWordIssue_loses st more turn⟩,
    latheWordIssue_rests, fun r w hf hw st whole => ?_, fun r rest hf st => ?_⟩
  · exact latheCapture_starts st whole (if_pos z)
  · exact latheCapture_starts st whole (if_neg nz)
  · have q := latheWordResult_happens (g := fun l => { l with st := .idle, flight := [], set := [], words := [], units := [] }) hf
      ((if_pos st).trans (if_pos ⟨rfl, whole⟩))
    rw [hw] at q
    exact q
  · refine latheWordResult_happens (g := fun l => { l with flight := rest, set := if rest = [] then [] else l.set }) hf
      ((if_neg st).trans ?_)
    simp only [List.isEmpty_iff]

end Sys2Proof.Machine
end

section
/-!
Proofs: the rounds of a core and what wakes its slots (O32).
-/

namespace Sys2Proof.Machine

open Sys2Proof

/-! ## The positions of a round -/

/-- Slots of which none had its position within the last cycles get one a cycle. -/
theorem turnTimes_eq (b : Nat) (l : List (Nat × Thread)) (k : Nat) (h : ∀ y ∈ l, y.2.notBefore ≤ b) :
    turnTimes (b + k) l = (l.zipIdx k).map (fun y => (y.1.1, b + y.2)) := by
  induction l generalizing k with
  | nil => rfl
  | cons x l ih =>
    have m : max (b + k) x.2.notBefore = b + k :=
      Nat.max_eq_left (Nat.le_trans (h x List.mem_cons_self) (Nat.le_add_right _ _))
    rw [turnTimes, m, List.zipIdx_cons, List.map_cons, Nat.add_assoc, ih (k + 1) fun y hy => h y (List.mem_cons_of_mem _ hy)]

/-- The cycle after the last position. -/
theorem last_turnTimes (l : List (Nat × Thread)) (b m : Nat) (h : ∀ y ∈ l, y.2.notBefore ≤ b) (le : b ≤ m) :
    (turnTimes b l).foldl (fun m y => max m (y.2 + 1)) m = max m (b + l.length) := by
  induction l generalizing b m with
  | nil => exact (Nat.max_eq_left le).symm
  | cons x l ih =>
    have e : max b x.2.notBefore = b := Nat.max_eq_left (h x List.mem_cons_self)
    rw [turnTimes, e, List.foldl_cons, ih (b + 1) _ (fun y hy => Nat.le_succ_of_le (h y (List.mem_cons_of_mem _ hy)))
      (Nat.le_max_right _ _), List.length_cons]
    show max (max m (b + 1)) (b + 1 + l.length) = max m (b + (l.length + 1))
    omega

/-- Each position is its slot's, not before the round and not within 8 cycles of the slot's last. -/
theorem turnTimes_fits (cy : Nat) (l : List (Nat × Thread)) :
    ∀ p ∈ (turnTimes cy l).zip l, p.1.1 = p.2.1 ∧ cy ≤ p.1.2 ∧ p.2.2.notBefore ≤ p.1.2 := by
  induction l generalizing cy with
  | nil => exact fun p m => absurd m (by simp [turnTimes])
  | cons x l ih =>
    rw [turnTimes, List.zip_cons_cons]
    intro p m
    rcases List.mem_cons.1 m with rfl | m
    · exact ⟨rfl, Nat.le_max_left _ _, Nat.le_max_right _ _⟩
    · obtain ⟨e, le, nb⟩ := ih _ p m
      exact ⟨e, Nat.le_trans (Nat.le_trans (Nat.le_max_left _ _) (Nat.le_succ _)) le, nb⟩

theorem turnTimes_after (cy : Nat) (l : List (Nat × Thread)) : ∀ p ∈ turnTimes cy l, cy ≤ p.2 := by
  induction l generalizing cy with
  | nil => exact fun p m => absurd m (by simp [turnTimes])
  | cons x l ih =>
    intro p m
    rcases List.mem_cons.1 m with rfl | m
    · exact Nat.le_max_left _ _
    · exact Nat.le_trans (Nat.le_trans (Nat.le_max_left _ _) (Nat.le_succ _)) (ih _ p m)

theorem turnTimes_rise (cy : Nat) (l : List (Nat × Thread)) : (turnTimes cy l).Pairwise (fun p q => p.2 < q.2) := by
  induction l generalizing cy with
  | nil => exact List.Pairwise.nil
  | cons x l ih => exact List.Pairwise.cons (fun p m => turnTimes_after _ l p m) (ih _)

/-! ## A round -/

theorem inRotation_ne_sleeping {t : Thread} (h : inRotation t = true) : t.st ≠ .sleeping := fun e => by
  rw [inRotation, e] at h
  cases h

section
variable {s : State} {c : Nat} (all : ∀ y ∈ allSlots s c, inRotation y.2 = true ∧ y.2.wait = none ∧ y.2.notBefore ≤ s.now)
include all

theorem countWaits_rests : runStage s (countWaits c) = s := by
  have e : countWaits c s = [] := List.flatMap_eq_nil_iff.2 fun y m => by rw [(all y m).2.1]
  simp only [runStage, e, List.foldl_nil]

theorem resendMisses_rests : runStage s (resendMisses c) = s := by
  have e : resendMisses c s = [] := List.flatMap_eq_nil_iff.2 fun y m => by rw [(all y m).2.1]
  simp only [runStage, e, List.foldl_nil]

theorem wakers_none : wakers s c = [] :=
  List.filter_eq_nil_iff.2 fun y m => by
    rw [beq_eq_false_iff_ne.2 (inRotation_ne_sleeping (all y m).1)]
    exact Bool.false_ne_true

/-- The positions of a round of a core whose slots all stand in the rotation. -/
theorem positions_full (awake : (core s c).lowered = 0) (some_ : allSlots s c ≠ []) :
    positions c s = [onCore c (fun y => { y with rounds := y.rounds + 1, roundAt := s.now, live := true })] ++
      (allSlots s c).zipIdx.flatMap (fun y =>
        [onThr y.1.1 (fun t => { t with joining := false, notBefore := s.now + y.2 + 8 }), .post (s.now + y.2) (.turn y.1.1)]) ++
      [.post (s.now + Nat.max 8 (allSlots s c).length) (.ev (.roundStart c))] := by
  have full : (allSlots s c).isEmpty = false := List.isEmpty_eq_false_iff.2 some_
  have inn : (allSlots s c).filter (fun y => inRotation y.2) = allSlots s c := List.filter_eq_self.2 fun y m => (all y m).1
  have nb : ∀ y ∈ allSlots s c, y.2.notBefore ≤ s.now := fun y m => (all y m).2.2
  have times : turnTimes s.now (allSlots s c) = (allSlots s c).zipIdx.map (fun y => (y.1.1, s.now + y.2)) :=
    turnTimes_eq s.now (allSlots s c) 0 nb
  have last := last_turnTimes (allSlots s c) s.now (s.now + 8) nb (Nat.le_add_right _ _)
  have end_ : max (s.now + 8) (s.now + (allSlots s c).length) = s.now + Nat.max 8 (allSlots s c).length :=
    Nat.add_max_add_left _ _ _
  simp only [positions, inn, awake, if_true, last, end_, full, Bool.not_false, Bool.false_eq_true, if_false, Bool.false_and,
    false_and, show (0 : Nat) = 1 ↔ False from ⟨nofun, nofun⟩, List.append_nil]
  rw [times, List.flatMap_map]

theorem roundStart_happens (live : (core s c).live = true) (awake : (core s c).lowered = 0) (some_ : allSlots s c ≠ [])
    (quiet : ∀ q ∈ s.o.quads, ∀ w ∈ q.2.waiters, w.extra = false) (idle_ : offerOrder s (c / 4) = []) :
    Happens s (.roundStart c) [eff ([onCore c (fun y => { y with rounds := y.rounds + 1, roundAt := s.now, live := true })] ++
      (allSlots s c).zipIdx.flatMap (fun y =>
        [onThr y.1.1 (fun t => { t with joining := false, notBefore := s.now + y.2 + 8 }), .post (s.now + y.2) (.turn y.1.1)]) ++
      [.post (s.now + Nat.max 8 (allSlots s c).length) (.ev (.roundStart c))])] := by
  have retry : runStage s (retryOver c) = s := by
    have none_ : s.o.quads.flatMap (fun q => q.2.waiters.filter (fun w => w.extra && coreOf w.slot == c)) = [] :=
      List.flatMap_eq_nil_iff.2 fun q m => List.filter_eq_nil_iff.2 fun w n => by
        rw [quiet q m w n]
        exact Bool.false_ne_true
    rw [retryOver, runStage_each, none_]
    rfl
  have reclaims : runStage s (reclaimDue c) = s := by
    have e : reclaimDue c s = [] := by simp only [reclaimDue, idle_, List.head?_nil]
    simp only [runStage, e, List.foldl_nil]
  have wakes : runStage s (if (core s c).lowered = 0 then each (fun s => wakers s c) (fun x => wakeSlot x.1) else skip) = s := by
    rw [if_pos awake, runStage_each, wakers_none all]
    rfl
  refine happens_pick_run rfl (if_neg (by rw [live]; exact Bool.false_ne_true)) ?_
  rw [run_cons, countWaits_rests all, run_cons, retry, run_cons, resendMisses_rests all, run_cons, reclaims, run_cons, wakes,
    run_cons, run_nil, run_cons, run_nil]
  exact congrArg (List.foldl Eff.apply s) (positions_full all awake some_)

end

/-! ## Wake-ups -/

theorem wakeSlot_rejoins {s : State} {sl : Nat} (st : (thr s sl).st = .sleeping) (hold : waitHolds s sl (thr s sl) = true)
    (other : (thr s sl).wait ≠ some .fpHold ∧ ∀ n : Nat, (thr s sl).wait ≠ some (.window n)) :
    wakeSlot sl s = seqS [eff [rejoin sl], fpCheck sl] s := by
  simp only [wakeSlot, pick, st, hold, beq_self_eq_true, Bool.and_self, if_true]
  split
  · next e => exact absurd e other.1
  · next n e => exact absurd e (other.2 n)
  · rfl

/-- The latch is no part of what waking changes. -/
theorem woken_latch (t : Thread) (a b : Bool) :
    woken { t with latch := a, kept := b } = { woken t with latch := a, kept := b } := by
  unfold woken
  by_cases h : t.cur < t.arch.t
  · rw [if_pos h, if_pos h]
  · rw [if_neg h, if_neg h]
    rfl

theorem wakeSlot_ends_hold {s : State} {sl : Nat} (st : (thr s sl).st = .sleeping) (hold : waitHolds s sl (thr s sl) = true)
    (w : (thr s sl).wait = some .fpHold) :
    wakeSlot sl s = seqS [eff [onThr sl (fun t => { woken t with latch := t.kept, kept := false })]] s := by
  simp only [wakeSlot, pick, st, hold, beq_self_eq_true, Bool.and_self, if_true, w, woken_latch]

theorem wakeSlot_regrows {s : State} {sl n : Nat} (st : (thr s sl).st = .sleeping) (hold : waitHolds s sl (thr s sl) = true)
    (w : (thr s sl).wait = some (.window n)) : wakeSlot sl s = seqS (
      if (thr s sl).cur < (thr s sl).arch.t then [eff [onThr sl (regrown s sl), .draw 128], settle sl]
      else [eff [onThr sl (fun t => woken { t with cur := Nat.max t.cur n })]]) s := by
  simp only [wakeSlot, pick, st, hold, beq_self_eq_true, Bool.and_self, if_true, w]

theorem wakeSlot_rests {s : State} {sl : Nat} (h : (thr s sl).st ≠ .sleeping ∨ waitHolds s sl (thr s sl) = false) :
    wakeSlot sl s = [] := by
  have no : ¬ ((thr s sl).st == .sleeping && waitHolds s sl (thr s sl)) = true := by
    rw [Bool.and_eq_true, beq_iff_eq]
    rintro ⟨a, b⟩
    rcases h with h | h
    · exact h a
    · rw [h] at b
      cases b
  simp only [wakeSlot, pick, if_neg no]
  rfl

/-- The thread in an occupied slot, after a change of it. -/
theorem thr_apply_onThr {s : State} {sl : Nat} (h : occupied s sl = true) (f : Thread → Thread) :
    thr (Eff.apply s (onThr sl f)) sl = f (thr s sl) :=
  tabD_upd_self _ _ _ _ h

theorem waittTimeout_happens {s : State} {sl dl : Nat} (held : occupied s sl = true) (inn : (thr s sl).outer = none)
    (w : (thr s sl).wait = some (.latchUntil dl)) (st : (thr s sl).st = .sleeping) (clear : (thr s sl).latch = false)
    (due : dl ≤ s.now) :
    Happens s (.waittTimeout sl) [eff [onThr sl (fun t => { t with grant := some 0 })], eff [rejoin sl], fpCheck sl] := by
  have aw : (thr s sl).awaits = some (.latchUntil dl) := by rw [Thread.awaits, inn]; exact w
  let u := Eff.apply s (onThr sl (fun t => { t with grant := some 0 }))
  have hu : thr u sl = { thr s sl with grant := some 0 } := thr_apply_onThr held _
  have hold : waitHolds u sl (thr u sl) = true := by
    rw [hu]
    simp only [waitHolds, w, Option.isSome_some, Bool.or_true]
  have wakes := wakeSlot_rejoins (s := u) (by rw [hu]; exact st) hold (by rw [hu]; exact ⟨by rw [w]; nofun, fun n => by rw [w]; nofun⟩)
  refine happens_pick_run (m := [eff [onThr sl (fun t => { t with grant := some 0 })], wakeSlot sl]) rfl ?_ ?_
  · simp only [aw, st, clear, due, Bool.not_false, and_self, if_true]
  · rw [run_cons, run_cons, run_nil]
    exact (congrArg (fun c => List.foldl Eff.apply u c) wakes).trans (runStage_seqS _ u)

theorem waitLimit_happens {s : State} {sl loc : Nat} (w : (thr s sl).wait = some (.word loc)) (st : (thr s sl).st = .sleeping)
    (ng : (thr s sl).grant = none) (lim : (thr s sl).waitlim ≠ 0) (past : (thr s sl).waitlim.toNat < (thr s sl).waitCount) :
    Happens s (.waitLimit sl) [eff [dropWaiter (locQuad loc) (fun w => w.slot == sl && w.req.isNone), rejoin sl],
      raiseTrap sl (nTrap .waitLimit (ownAddress s sl loc)) (thr s sl).arch.pc] := by
  refine happens_pick rfl ?_
  simp only [w, st, ng, bne_iff_ne.2 lim, decide_eq_true past, beq_self_eq_true, Option.isNone_none, Bool.and_self, if_true]

/-- Settles O32: a round by `roundStart_happens`, wake-ups by the branches of `wakeSlot`. -/
theorem roundsTurnsAndWakeUps : Obligations.RoundsTurnsAndWakeUps := by
  intro s c sl line x l t
  refine ⟨fun live awake some_ all quiet idle_ => roundStart_happens all live awake some_ quiet idle_, turnTimes_fits s.now l,
    turnTimes_rise s.now l, fun dead => nothing_pick rfl (if_pos (by rw [dead]; rfl)), rfl, fun n idle_ due awake deep quiet => ?_, rfl,
    fun st hold => ⟨fun other => happens_stage rfl (wakeSlot_rejoins st hold other),
      fun w => happens_stage rfl (wakeSlot_ends_hold st hold w), fun n w => ⟨fun lt => ?_, fun le => ?_⟩⟩,
    fun h => nothing_stage rfl (wakeSlot_rests h), fun dl held inn w st clear due => waittTimeout_happens held inn w st clear due,
    fun loc w st ng lim past => waitLimit_happens w st ng lim past⟩
  · refine happens_eff rfl ?_
    have sleep : (allSlots s c).any (fun y => active y.2) = false :=
      List.any_eq_false.2 fun y m => by rw [quiet y m]; exact Bool.false_ne_true
    simp only [fileLowers, show (core s c).idleFrom = some n from idle_, due, show (core s c).lowered = 0 from awake,
      show (core s c).sleepcfg ≠ 0 from deep, sleep, Bool.not_false, and_self, ne_eq, not_false_eq_true, if_true]
  · exact happens_stage rfl ((wakeSlot_regrows st hold w).trans (by rw [if_pos lt]))
  · exact happens_stage rfl ((wakeSlot_regrows st hold w).trans (by rw [if_neg (Nat.not_lt.2 le)]))

end Sys2Proof.Machine
end

section
/-!
Proofs: traps and containments that arrive outside issue (O33).
-/

namespace Sys2Proof.Machine

open Sys2Proof
open Sys2Proof.Says

theorem trapEntry_happens {s : State} {sl : Nat} {tr : Trap} {pc : BitVec 64} (ends : (thr s sl).after = .trap tr pc)
    (quiet : anyPending (thr s sl) = false) (open_ : (thr s sl).chunk.st ≠ .validating) :
    Happens s (.trapEntry sl) [eff ([onThr sl (trapEntered tr pc)] ++
      (if (thr s sl).raised = 0 then [] else [.post s.now (.ev (.fpEvent sl))]))] := by
  refine happens_eff rfl ?_
  simp only [enterTrap, ends, quiet, beq_eq_false_iff_ne.2 open_, Bool.or_self, Bool.false_eq_true, if_false]

theorem quarantine_happens {s : State} {sl : Nat} {code : BitVec 8} {info : BitVec 64} {cls : BitVec 2} {c : Code}
    (out : outsideCode code.toNat = some c) (held : occupied s sl = true) (st : (thr s sl).st ≠ .quarantined) :
    Happens s (.quarantine sl code info cls)
      [contain sl { code := c, outside := true, cls := cls.toNat, pc := (thr s sl).arch.pc, info := info }] := by
  refine happens_pick rfl ?_
  simp only [out, held, bne_iff_ne.2 st, Bool.and_self, if_true]

theorem fpEvent_happens {s : State} {sl : Nat} (held : occupied s sl = true) (raised : (thr s sl).raised ≠ 0)
    (st : (thr s sl).st = .ready ∨ (thr s sl).st = .trapped ∨ (thr s sl).st = .parked) (none_ : (thr s sl).after = .nothing)
    (open_ : (thr s sl).chunk.st ≠ .validating) : Happens s (.fpEvent sl) [endChunk sl .fpHold] := by
  have stands : ((thr s sl).st == .ready || (thr s sl).st == .trapped || (thr s sl).st == .parked) = true := by
    rcases st with st | st | st <;> rw [st] <;> rfl
  refine happens_pick rfl (if_pos ?_)
  rw [held, bne_iff_ne.2 raised, stands, none_, bne_iff_ne.2 open_]
  rfl

/-- A bundle that is no instruction raises its trap as a whole. -/
theorem encodingNotInstruction_raises {s : State} {b : BitVec 64} {c : Code} (h : encodingTrap s b = some c)
    (hv : Deliverable s) : Raises s (.encodingNotInstruction b) ⟨c, b⟩ := by
  have e : exec (.encodingNotInstruction b) s =
      if occupied s s.cur then
        match encodingTrap s b with
        | some c => fire [eff [.turnDone s.cur], raiseTrap s.cur ⟨c, b⟩ (thr s s.cur).arch.pc] s
        | none => fire [] s
      else .fault .noThread := rfl
  rw [Raises, e, if_pos hv.clear.held, h]
  exact congrArg _ (raise_delivers hv ⟨c, b⟩ _)

/-- Settles O33, event by event. -/
theorem trapsAndContainmentsArrive : Obligations.TrapsAndContainmentsArrive := by
  refine fun s sl => ⟨fun tr pc ends quiet open_ => trapEntry_happens ends quiet open_,
    fun code info cls c out held st => quarantine_happens out held st, fun held st => happens_pick rfl (if_pos ?_),
    fun held raised st none_ open_ => fpEvent_happens held raised st none_ open_,
    fun b c h hv => encodingNotInstruction_raises h hv⟩
  rw [held, st]
  rfl

end Sys2Proof.Machine
end

section
/-!
Proofs: chunks are validated, commit, or are discarded and tried again (O34).
-/

namespace Sys2Proof.Machine

open Sys2Proof
open Sys2Proof.Says

/-! ## What a change keeps of a slot's thread -/

/-- A part of the thread in a slot, where there is one. -/
def partIn {α : Type} (g : Thread → α) (s : State) (sl : Nat) : Option α := (tabGet s.o.slots sl).map g

theorem partIn_held {α : Type} {g : Thread → α} {s : State} {sl : Nat} (h : occupied s sl = true) :
    partIn g s sl = some (g (thr s sl)) := by
  cases ht : tabGet s.o.slots sl with
  | none => rw [occupied, tabHas, ht] at h; exact absurd h Bool.false_ne_true
  | some t => rw [partIn, thr, tabD, ht]; rfl

theorem part_of_partIn {α : Type} {g : Thread → α} {s : State} {sl : Nat} {a : α} (h : partIn g s sl = some a) :
    g (thr s sl) = a := by
  cases ht : tabGet s.o.slots sl with
  | none => rw [partIn, ht] at h; cases h
  | some t => rw [partIn, ht] at h; rw [thr, tabD, ht]; exact Option.some.inj h

theorem partIn_onThr {α : Type} {g : Thread → α} {f : Thread → Thread} (h : ∀ t, g (f t) = g t) (s : State) (x sl : Nat) :
    partIn g (Eff.apply s (onThr x f)) sl = partIn g s sl := by
  by_cases e : sl = x
  · subst e
    simp only [partIn, Eff.apply, onThr, tabGet_upd_self, Option.map_map]
    exact congrArg (fun k => (tabGet s.o.slots sl).map k) (funext h)
  · simp only [partIn, Eff.apply, onThr]
    rw [tabGet_upd_ne (h := e)]

/-- Changes that keep a part of the thread in a slot. -/
def KeepsPart {α : Type} (g : Thread → α) (sl : Nat) (l : List Eff) : Prop :=
  ∀ e ∈ l, ∀ s, partIn g (Eff.apply s e) sl = partIn g s sl

theorem KeepsPart.fold {α : Type} {g : Thread → α} {sl : Nat} {l : List Eff} (h : KeepsPart g sl l) (s : State) :
    partIn g (l.foldl Eff.apply s) sl = partIn g s sl := by
  induction l generalizing s with
  | nil => rfl
  | cons e l ih =>
    rw [List.foldl_cons, ih fun e m => h e (List.mem_cons_of_mem _ m)]
    exact h e List.mem_cons_self s

/-! ## The validation -/

theorem chunkValidate_waits {s : State} {sl : Nat} (held : occupied s sl = true) (st : (thr s sl).chunk.st = .validating)
    (un : (thr s sl).chunk.sent = false) (out : loadsOut (thr s sl) = true) :
    Happens s (.chunkValidate sl) [eff [.post (s.now + 4) (.ev (.chunkValidate sl))]] := by
  refine happens_pick_run (m := [fun s => [.post (s.now + 4) (.ev (.chunkValidate sl))]]) rfl ?_ rfl
  simp only [held, st, un, out, Bool.not_true, bne_self_eq_false, Bool.or_self, Bool.false_eq_true, if_false, if_true]

/-- The changes with which a validation begins. -/
def validated (s : State) (sl : Nat) : List Stage :=
  [eff [onThr sl (fun x => { x with chunk := { x.chunk with sent := true }, digest := [Config.digest (digestItems s sl)] })],
   pairDigests sl]

theorem chunkValidate_sends {s : State} {sl : Nat} (held : occupied s sl = true) (st : (thr s sl).chunk.st = .validating)
    (un : (thr s sl).chunk.sent = false) (served : loadsOut (thr s sl) = false) (plain : (recOf s sl).twin = false) :
    Happens s (.chunkValidate sl) (validated s sl ++ [evIn (ctxOf s sl) (commitBound s sl) (.chunkCommit sl)]) := by
  refine happens_pick_run (m := validated s sl ++ [skip, evIn (ctxOf s sl) (commitBound s sl) (.chunkCommit sl)]) rfl ?_ ?_
  · simp only [held, st, un, served, plain, Bool.not_true, bne_self_eq_false, Bool.or_self, Bool.false_eq_true, if_false]
    rfl
  · rw [run_append, run_append]
    rfl

/-- The digest of a chunk for its twin. -/
def twinSent (s : State) (sl : Nat) : List Stage :=
  [eff [onMod (fun m => { m with twinOwn := m.twinOwn ++
      [((thr s sl).kernel, keyNum (taskOf s sl), (thr s sl).chunk.index, Config.digest (digestItems s sl))] })],
   sendReply (.digest (thr s sl).kernel (keyNum (taskOf s sl)) (thr s sl).chunk.index (Config.digest (digestItems s sl)))]

theorem ctxOf_twinSent (s u : State) (sl x : Nat) : ctxOf (run (twinSent s sl) u) x = ctxOf u x := rfl

theorem pairDigests_keeps {α : Type} {g : Thread → α} (h : ∀ (t : Thread) (d : List Dword), g { t with digest := d } = g t)
    (s : State) (x sl : Nat) : partIn g (runStage s (pairDigests x)) sl = partIn g s sl := by
  cases p : (thr s x).partner with
  | none =>
    simp only [runStage, pairDigests, p]
    rfl
  | some p' =>
    simp only [runStage, pairDigests, p]
    exact partIn_onThr (fun t => h t _) s p' sl

theorem pairDigests_kernels (s : State) (x : Nat) : (runStage s (pairDigests x)).o.kernels = s.o.kernels := by
  cases p : (thr s x).partner with
  | none =>
    simp only [runStage, pairDigests, p]
    rfl
  | some p' =>
    simp only [runStage, pairDigests, p]
    rfl

/-- What a validation sends leaves a thread in its kernel, and its kernel in its context. -/
theorem ctxOf_validated {s : State} {sl : Nat} (held : occupied s sl = true) :
    ctxOf (run (validated s sl ++ twinSent s sl) s) sl = ctxOf s sl := by
  generalize hu : Eff.apply s (onThr sl (fun x =>
    { x with chunk := { x.chunk with sent := true }, digest := [Config.digest (digestItems s sl)] })) = u
  have ends : run (validated s sl) s = runStage u (pairDigests sl) := by
    rw [validated, run_cons, run_cons, run_nil, ← hu]
    rfl
  rw [run_append, ends, ctxOf_twinSent]
  have kept : (thr (runStage u (pairDigests sl)) sl).kernel = (thr s sl).kernel := by
    refine part_of_partIn (g := Thread.kernel) ?_
    rw [pairDigests_keeps (fun _ _ => rfl) u sl sl, ← hu]
    refine (partIn_onThr (g := Thread.kernel) ?_ s sl sl).trans (partIn_held held)
    exact fun _ => rfl
  have kernels : (runStage u (pairDigests sl)).o.kernels = s.o.kernels := by
    rw [pairDigests_kernels, ← hu]
    rfl
  simp only [ctxOf, kernelOf, kernel, kept, kernels]

/-- The comparison of a twin's digests. -/
def twinCompared (s : State) (sl : Nat) : Stage := fun u =>
  if twinUnequal u (thr s sl).kernel (keyNum (taskOf s sl)) (thr s sl).chunk.index
  then [.post u.now (.ev (.twinHalt (ctxOf s sl)))] else []

theorem chunkValidate_twin {s : State} {sl : Nat} (held : occupied s sl = true) (st : (thr s sl).chunk.st = .validating)
    (un : (thr s sl).chunk.sent = false) (served : loadsOut (thr s sl) = false) (twin : (recOf s sl).twin = true) :
    Happens s (.chunkValidate sl) (validated s sl ++ (twinSent s sl ++ [twinCompared s sl]) ++
      [evIn (ctxOf s sl) (commitBound s sl) (.chunkCommit sl)]) := by
  let compares := pick (fun u => [if twinUnequal u (thr s sl).kernel (keyNum (taskOf s sl)) (thr s sl).chunk.index
    then evNow (.twinHalt (ctxOf u sl)) else skip])
  refine happens_pick_run (m := validated s sl ++ [seqS (twinSent s sl ++ [compares]),
    evIn (ctxOf s sl) (commitBound s sl) (.chunkCommit sl)]) rfl ?_ ?_
  · simp only [held, st, un, served, twin, Bool.not_true, bne_self_eq_false, Bool.or_self, Bool.false_eq_true, if_false, if_true]
    rfl
  · have compared : runStage (run (validated s sl ++ twinSent s sl) s) compares =
        runStage (run (validated s sl ++ twinSent s sl) s) (twinCompared s sl) := by
      rw [runStage_pick]
      simp only [ctxOf_validated held]
      unfold twinCompared
      simp only [run_cons, run_nil, runStage]
      split
      · rfl
      · rfl
    rw [run_append] at compared
    simp only [run_append, run_cons, run_nil, runStage_seqS] at compared ⊢
    rw [compared]

/-! ## The commit -/

/-- A chunk that was sent and is not blocked. -/
theorem commits_sent {s : State} {sl : Nat} {l : List Stage} (held : occupied s sl = true)
    (st : (thr s sl).chunk.st = .validating) (sent : (thr s sl).chunk.sent = true) (go : (thr s sl).chunk.blocked = false)
    (h : (if !released s sl || haltedAt s sl then
        [eff ([onChunk sl (fun c => { c with blocked := true })] ++
          (if (offerOrder s (quadOf sl)).isEmpty then [] else [.post s.now (.ev (.classPreempt (quadOf sl)))]))]
      else match epochClash s sl with
        | some (y, w) => [determContain sl (some y) (vaOf s (ctxOf s sl) w)]
        | none =>
          if !(thr s sl).chunk.firm && ((thr s sl).chunk.stale || conflicts s (thr s sl).chunk) then [evNow (.chunkDiscard sl)]
          else if epochOver s sl then [determContain sl none (2 ^ 63 + vaOf s (ctxOf s sl)
            (((thr s sl).chunk.reads ++ (thr s sl).chunk.writes ++ (thr s sl).chunk.reds).headD 0))]
          else if unequal s sl then [mismatch sl]
          else [recordEpoch sl, commitChunk sl,
            (if (thr s sl).partner.isSome && (thr s sl).chunk.atPoint then eff [onChunk sl (fun c => { c with equal := true })] else skip),
            awaitMirror sl, afterCommit sl, (if (thr s sl).chunk.resvd then kick else skip)]) = l) :
    Happens s (.chunkCommit sl) l := by
  refine happens_pick rfl (Eq.trans ?_ h)
  simp only [held, st, sent, go, Bool.not_true, bne_self_eq_false, Bool.or_self, Bool.false_eq_true, if_false] <;> rfl

section
variable {s : State} {sl : Nat} (held : occupied s sl = true) (st : (thr s sl).chunk.st = .validating)
  (sent : (thr s sl).chunk.sent = true) (go : (thr s sl).chunk.blocked = false)
include held st sent go

theorem chunkCommit_blocked (h : released s sl = false ∨ haltedAt s sl = true) :
    Happens s (.chunkCommit sl) [eff ([onChunk sl (fun x => { x with blocked := true })] ++
      (if offerOrder s (quadOf sl) = [] then [] else [.post s.now (.ev (.classPreempt (quadOf sl)))]))] := by
  have stays : (!released s sl || haltedAt s sl) = true := by
    rcases h with h | h
    · rw [h]; rfl
    · rw [h, Bool.or_true]
  refine commits_sent held st sent go ?_
  simp only [stays, if_true, List.isEmpty_iff]

variable (rel : released s sl = true) (runs : haltedAt s sl = false)
include rel runs

theorem chunkCommit_clash {y : Epoch} {w : Nat} (h : epochClash s sl = some (y, w)) :
    Happens s (.chunkCommit sl) [determContain sl (some y) (vaOf s (ctxOf s sl) w)] := by
  refine commits_sent held st sent go ?_
  simp only [rel, runs, h, Bool.not_true, Bool.or_self, Bool.false_eq_true, if_false]

variable (clear : epochClash s sl = none)
include clear

theorem chunkCommit_discards (soft : (thr s sl).chunk.firm = false)
    (h : (thr s sl).chunk.stale = true ∨ conflicts s (thr s sl).chunk = true) :
    Happens s (.chunkCommit sl) [eff [.post s.now (.ev (.chunkDiscard sl))]] := by
  have drops : ((thr s sl).chunk.stale || conflicts s (thr s sl).chunk) = true := by rw [Bool.or_eq_true]; exact h
  refine Eq.trans (commits_sent (l := [evNow (.chunkDiscard sl)]) held st sent go ?_) rfl
  simp only [rel, runs, clear, soft, drops, Bool.not_true, Bool.not_false, Bool.or_self, Bool.and_self, Bool.false_eq_true, if_false, if_true]

variable (kept : (thr s sl).chunk.firm = true ∨ ((thr s sl).chunk.stale = false ∧ conflicts s (thr s sl).chunk = false))
include kept

/-- A released chunk that stands. -/
theorem commits_kept {l : List Stage}
    (h : (if epochOver s sl then [determContain sl none (2 ^ 63 + vaOf s (ctxOf s sl)
            (((thr s sl).chunk.reads ++ (thr s sl).chunk.writes ++ (thr s sl).chunk.reds).headD 0))]
          else if unequal s sl then [mismatch sl]
          else [recordEpoch sl, commitChunk sl,
            (if (thr s sl).partner.isSome && (thr s sl).chunk.atPoint then eff [onChunk sl (fun c => { c with equal := true })] else skip),
            awaitMirror sl, afterCommit sl, (if (thr s sl).chunk.resvd then kick else skip)]) = l) :
    Happens s (.chunkCommit sl) l := by
  have stands : (!(thr s sl).chunk.firm && ((thr s sl).chunk.stale || conflicts s (thr s sl).chunk)) = false := by
    rcases kept with h | ⟨h, h'⟩
    · rw [h]; rfl
    · rw [h, h']; exact Bool.and_false _
  refine commits_sent held st sent go (Eq.trans ?_ h)
  simp only [rel, runs, clear, stands, Bool.not_true, Bool.or_self, Bool.false_eq_true, if_false]

theorem chunkCommit_over (o : epochOver s sl = true) :
    Happens s (.chunkCommit sl) [determContain sl none (2 ^ 63 + vaOf s (ctxOf s sl)
      (((thr s sl).chunk.reads ++ (thr s sl).chunk.writes ++ (thr s sl).chunk.reds).headD 0))] :=
  commits_kept held st sent go rel runs clear kept (if_pos o)

theorem chunkCommit_commits (o : epochOver s sl = false) (e : unequal s sl = false) :
    Happens s (.chunkCommit sl) [recordEpoch sl, commitChunk sl,
      if (thr s sl).partner.isSome ∧ (thr s sl).chunk.atPoint = true then eff [onChunk sl (fun c => { c with equal := true })] else skip,
      awaitMirror sl, afterCommit sl, if (thr s sl).chunk.resvd then kick else skip] := by
  refine commits_kept held st sent go rel runs clear kept ?_
  simp only [o, e, Bool.false_eq_true, if_false, Bool.and_eq_true]

/-- A chunk of a pair whose digests differ meets the rule of R380. -/
theorem chunkCommit_unequal (o : epochOver s sl = false) (e : unequal s sl = true) :
    Happens s (.chunkCommit sl) [mismatch sl] := by
  refine commits_kept held st sent go rel runs clear kept ?_
  simp only [o, e, Bool.false_eq_true, if_false, if_true]

theorem chunkCommit_retries (o : epochOver s sl = false) (e : unequal s sl = true) (first : (thr s sl).chunk.unequal = 0) :
    Happens s (.chunkCommit sl) [discardChunk sl, eff [onChunk sl (fun x =>
      { x with tries := (thr s sl).chunk.tries, held := (thr s sl).chunk.held, unequal := 1 })]] := by
  refine (chunkCommit_unequal held st sent go rel runs clear kept o e).trans (congrArg _ ?_)
  rw [run_cons, run_nil, mismatch, runStage_pick]
  simp only [first, if_true]

theorem chunkCommit_contains (o : epochOver s sl = false) (e : unequal s sl = true) (again : (thr s sl).chunk.unequal ≠ 0) :
    Happens s (.chunkCommit sl) [contain sl { code := .mismatch, outside := true, pc := (thr s sl).start.pc
                                              info := (thr s sl).start.pc, w5 := (thr s sl).digest.headD 0 }] := by
  refine (chunkCommit_unequal held st sent go rel runs clear kept o e).trans (congrArg _ ?_)
  rw [run_cons, run_nil, mismatch, runStage_pick]
  simp only [again, if_false, run_cons, run_nil]

end

/-! ## The discard and the held chunk -/

theorem chunkDiscard_firm {s : State} {sl : Nat} (firm : (thr s sl).chunk.firm = true) : Nothing s (.chunkDiscard sl) := by
  refine nothing_pick rfl ?_
  simp only [firm, Bool.or_true, if_true]

theorem chunk_woken (t : Thread) : (woken t).chunk = t.chunk := by
  unfold woken
  split
  · rfl
  · rfl

theorem mqMoves_keeps {α : Type} (g : Thread → α) (sl c task : Nat) (s : State) : KeepsPart g sl (mqMoves c task s) := by
  unfold mqMoves
  split
  · exact fun e m u => by rw [List.mem_singleton.1 m]; rfl
  · exact List.forall_mem_nil _

/-- A discarded chunk has been tried once more. -/
theorem tries_discardChunk {s : State} {sl : Nat} (held : occupied s sl = true) :
    (thr (runStage s (discardChunk sl)) sl).chunk.tries = (thr s sl).chunk.tries + 1 := by
  refine part_of_partIn (g := fun t => t.chunk.tries) ?_
  rw [discardChunk, runStage_seqS, run_cons, run_cons, run_cons, run_nil]
  generalize hv : runStage s _ = v
  have back : partIn (fun t => t.chunk.tries) v sl = some ((thr s sl).chunk.tries + 1) := by
    rw [← hv, runStage, List.foldl_append]
    have before := ((mqMoves_keeps (fun t => t) sl (coreOf sl) (thr s sl).task s).fold s).trans (partIn_held held)
    generalize (mqMoves (coreOf sl) (thr s sl).task s).foldl Eff.apply s = w at before ⊢
    have slot : tabGet w.o.slots sl = some (thr s sl) := by
      rw [partIn, Option.map_id'] at before
      exact before
    show Option.map _ (tabGet (tabUpd w.o.slots sl (rolledBack s)) sl) = _
    rw [tabGet_upd_self, slot]
    rfl
  generalize hx : runStage v _ = x
  have after : partIn (fun t => t.chunk.tries) x sl = partIn (fun t => t.chunk.tries) v sl := by
    rw [← hx]
    refine KeepsPart.fold (fun e m u => ?_) v
    rcases List.mem_append.1 m with m | m
    · rcases List.mem_append.1 m with m | m
      · split at m
        · rw [List.mem_singleton.1 m]
          exact partIn_onThr (g := fun t => t.chunk.tries) (f := woken) (fun t => congrArg _ (chunk_woken t)) u sl sl
        · cases m
      · split at m
        · rw [List.mem_singleton.1 m]
          rfl
        · cases m
    · obtain ⟨_, -, rfl⟩ := List.mem_map.1 m
      rfl
  refine Eq.trans (KeepsPart.fold (fun e m u => ?_) x) (after.trans back)
  rcases List.mem_append.1 m with m | m
  · obtain ⟨_, -, rfl⟩ := List.mem_map.1 m
    rfl
  · rw [List.mem_singleton.1 m]
    rfl

section
variable {s : State} {sl : Nat} (held : occupied s sl = true) (st : (thr s sl).chunk.st = .validating)
  (soft : (thr s sl).chunk.firm = false)
include held st soft

theorem chunkDiscard_stale (h : conflicts s (thr s sl).chunk = false) : Happens s (.chunkDiscard sl) [discardChunk sl,
    eff [onChunk sl (fun x => { x with tries := (thr s sl).chunk.tries, held := (thr s sl).chunk.held })]] := by
  refine happens_pick rfl ?_
  simp only [held, st, soft, h, Bool.not_true, Bool.not_false, bne_self_eq_false, Bool.or_self, Bool.false_eq_true, if_false, if_true]

/-- What follows the discard for a conflict. -/
theorem chunkDiscard_conflict (h : conflicts s (thr s sl).chunk = true) {l : List Stage}
    (e : (fun c : List Eff => c.foldl Eff.apply (runStage s (discardChunk sl)))
      (if 3 ≤ (thr s sl).chunk.tries + 1 then [onChunk sl (fun c => { c with resvd := false }), .post s.now (.ev (.heldChunkReserve sl))]
       else []) = run l (runStage s (discardChunk sl))) : Happens s (.chunkDiscard sl) ([discardChunk sl] ++ l) := by
  refine happens_pick_run (m := [discardChunk sl, fun s => if 3 ≤ (thr s sl).chunk.tries then
    [onChunk sl (fun c => { c with resvd := false }), .post s.now (.ev (.heldChunkReserve sl))] else []]) rfl ?_ ?_
  · simp only [held, st, soft, h, Bool.not_true, bne_self_eq_false, Bool.or_self, Bool.false_eq_true, if_false]
  · rw [run_append, run_cons, run_cons, run_cons, run_nil, run_nil, ← e, runStage, tries_discardChunk held]
    exact congrArg (fun n => List.foldl Eff.apply (runStage s (discardChunk sl)) (if 3 ≤ (thr s sl).chunk.tries + 1 then
      [onChunk sl (fun c => { c with resvd := false }), .post n (.ev (.heldChunkReserve sl))] else [])) (run_now [discardChunk sl] s)

theorem chunkDiscard_again (h : conflicts s (thr s sl).chunk = true) (few : (thr s sl).chunk.tries < 2) :
    Happens s (.chunkDiscard sl) [discardChunk sl] := by
  refine chunkDiscard_conflict (l := []) held st soft h ?_
  rw [if_neg (by omega), run_nil]
  rfl

theorem chunkDiscard_holds (h : conflicts s (thr s sl).chunk = true) (many : 2 ≤ (thr s sl).chunk.tries) :
    Happens s (.chunkDiscard sl) [discardChunk sl,
      eff [onChunk sl (fun c => { c with resvd := false }), .post s.now (.ev (.heldChunkReserve sl))]] := by
  refine chunkDiscard_conflict (l := [eff _]) held st soft h ?_
  rw [if_pos (by omega)]
  rfl

end

section
variable {s : State} {sl : Nat} (held : occupied s sl = true) (many : 3 ≤ (thr s sl).chunk.tries)
  (st : (thr s sl).chunk.st ≠ .validating)
include held many st

/-- A held chunk asks for its words. -/
theorem reserves_asks {b : Bool} (h : (thr s sl).chunk.held.any (fun w => match tabGet s.o.resv w with
      | some x => x != sl
      | none => false) = b) {l : List Stage}
    (e : run (if b = true then [fun s => [.post (s.now + 16) (.ev (.heldChunkReserve sl))]]
      else [eff [.obj (fun o => { o with resv := (thr s sl).chunk.held.foldl (fun t w => tabPut t w sl) o.resv }),
        onChunk sl (fun c => { c with resvd := true })]]) s = run l s) : Happens s (.heldChunkReserve sl) l := by
  refine happens_pick_run rfl ?_ e
  subst h
  have asks : (!occupied s sl || decide ((thr s sl).chunk.tries < 3) || (thr s sl).chunk.st == .validating) = false := by
    rw [held, decide_eq_false (Nat.not_lt.2 many), beq_eq_false_iff_ne.2 st]
    rfl
  simp only [asks, Bool.false_eq_true, if_false] <;> rfl

theorem heldChunkReserve_takes (free : ∀ w ∈ (thr s sl).chunk.held, tabGet s.o.resv w = none ∨ tabGet s.o.resv w = some sl) :
    Happens s (.heldChunkReserve sl) [eff [
      .obj (fun o => { o with resv := (thr s sl).chunk.held.foldl (fun t w => tabPut t w sl) o.resv }), onChunk sl (fun c => { c with resvd := true })]] := by
  refine reserves_asks (b := false) held many st (List.any_eq_false.2 fun w m => ?_) rfl
  rcases free w m with e | e
  · rw [e]
    exact Bool.false_ne_true
  · rw [e]
    show ¬ (sl != sl) = true
    rw [bne_self_eq_false]
    exact Bool.false_ne_true

theorem heldChunkReserve_waits {w x : Nat} (m : w ∈ (thr s sl).chunk.held) (other : tabGet s.o.resv w = some x) (ne : x ≠ sl) :
    Happens s (.heldChunkReserve sl) [eff [.post (s.now + 16) (.ev (.heldChunkReserve sl))]] := by
  refine reserves_asks (b := true) held many st (List.any_eq_true.2 ⟨w, m, ?_⟩) rfl
  rw [other]
  exact bne_iff_ne.2 ne

end

/-! ## The theorem -/

/-- Settles O34: each clause names the branch of validation, commit, discard or reservation that its state takes; a discard
counts one more try, and a validation leaves the thread in its context. -/
theorem chunksValidateCommitAndRetry : Obligations.ChunksValidateCommitAndRetry := by
  unfold Obligations.ChunksValidateCommitAndRetry
  intro s sl held t c
  refine ⟨fun st un => ⟨chunkValidate_waits held st un, fun served => ?_⟩, fun st sent go => ⟨chunkCommit_blocked held st sent go,
    fun rel runs => ⟨fun y w => chunkCommit_clash held st sent go rel runs, fun clear =>
      ⟨chunkCommit_discards held st sent go rel runs clear, fun kept => ⟨chunkCommit_over held st sent go rel runs clear kept,
        chunkCommit_commits held st sent go rel runs clear kept, fun o e =>
          ⟨chunkCommit_retries held st sent go rel runs clear kept o e,
           chunkCommit_contains held st sent go rel runs clear kept o e⟩⟩⟩⟩⟩,
    fun st => ⟨chunkDiscard_firm, fun soft => ⟨chunkDiscard_stale held st soft, chunkDiscard_again held st soft,
      chunkDiscard_holds held st soft⟩⟩,
    fun many st => ⟨heldChunkReserve_takes held many st, fun w x => heldChunkReserve_waits held many st⟩⟩
  intro d key sends comes
  exact ⟨chunkValidate_sends held st un served, chunkValidate_twin held st un served⟩

end Sys2Proof.Machine
end

section
/-!
Proofs: a pre-emption saves a slot, and a resumption brings its task back (O35).
-/

namespace Sys2Proof.Machine

open Sys2Proof
open Sys2Proof.Says

/-! ## The request -/

theorem preemptionRequest_stops {s : State} {sl : Nat} (held : occupied s sl = true) (safe : (thr s sl).st ≠ .quarantined)
    (goes : (thr s sl).stop = false) (own : (thr s sl).st ≠ .shadow) :
    Happens s (.preemptionRequest sl) [stopFor sl .preempted, eff [.unpost (isLatheIssue sl)],
      fun u => [.post (u.now + 1) (.ev (.preemptionComplete sl))]] := by
  refine happens_pick rfl ?_
  simp only [held, goes, beq_eq_false_iff_ne.2 safe, beq_eq_false_iff_ne.2 own, Bool.not_true, Bool.or_self, Bool.false_eq_true,
    if_false]

theorem preemptionRequest_passes {s : State} {sl p : Nat} (held : occupied s sl = true) (shadow : (thr s sl).st = .shadow)
    (goes : (thr s sl).stop = false) (pair : (thr s sl).partner = some p) :
    Happens s (.preemptionRequest sl) [eff [.post s.now (.ev (.preemptionRequest p))]] := by
  refine happens_pick_run (m := [evNow (.preemptionRequest p)]) rfl ?_ rfl
  have safe : (SlotSt.shadow == SlotSt.quarantined) = false := rfl
  simp only [held, goes, shadow, safe, pair, Bool.not_true, Bool.or_self, Bool.false_eq_true, if_false, beq_self_eq_true, if_true]

theorem preemptionRequest_drops {s : State} {sl : Nat} (h : (thr s sl).st = .quarantined ∨ (thr s sl).stop = true) :
    Nothing s (.preemptionRequest sl) := by
  refine nothing_pick rfl ?_
  have drops : (!occupied s sl || (thr s sl).st == .quarantined || (thr s sl).stop) = true := by
    rcases h with h | h
    · rw [h, beq_self_eq_true, Bool.or_true, Bool.true_or]
    · rw [h, Bool.or_true]
  simp only [drops, if_true]

/-! ## The image -/

/-- What a slot gives up before its image is written. -/
def givenUp (s : State) (sl : Nat) : List Stage := [withdraw (thr s sl).task, if gated s sl then giveUp sl else skip]

/-- A stopped slot gives up what waits; whether its image is written turns on what has settled then. -/
theorem preemptionComplete_happens {s : State} {sl : Nat} (held : occupied s sl = true) (stops : (thr s sl).stop = true)
    {l : List Stage}
    (e : run (if settled (run (givenUp s sl) s) sl then [withdrawDraws sl, saveTask sl,
        if (thr s sl).leave = .yields then takeSlot (thr s sl).kernel (thr s sl).task sl (thr s sl).partner else skip,
        offer (quadOf sl)]
      else [fun s => [.post (s.now + 8) (.ev (.preemptionComplete sl))]]) (run (givenUp s sl) s) = run l (run (givenUp s sl) s)) :
    Happens s (.preemptionComplete sl) (givenUp s sl ++ l) := by
  refine happens_pick_run (m := givenUp s sl ++ [pick (fun u => if settled u sl then [withdrawDraws sl, saveTask sl,
      if (thr s sl).leave = .yields then takeSlot (thr s sl).kernel (thr s sl).task sl (thr s sl).partner else skip,
      offer (quadOf sl)]
    else [fun s => [.post (s.now + 8) (.ev (.preemptionComplete sl))]])]) rfl ?_ ?_
  · simp only [held, stops, Bool.not_true, Bool.or_self, Bool.false_eq_true, if_false]
    rfl
  · rw [run_append, run_append, run_cons, run_nil, runStage_pick]
    exact e

theorem preemptionComplete_saves {s : State} {sl : Nat} (held : occupied s sl = true) (stops : (thr s sl).stop = true)
    (h : settled (run (givenUp s sl) s) sl = true) :
    Happens s (.preemptionComplete sl) (givenUp s sl ++ [withdrawDraws sl, saveTask sl,
      if (thr s sl).leave = .yields then takeSlot (thr s sl).kernel (thr s sl).task sl (thr s sl).partner else skip,
      offer (quadOf sl)]) := by
  refine preemptionComplete_happens held stops ?_
  rw [if_pos h]

theorem preemptionComplete_waits {s : State} {sl : Nat} (held : occupied s sl = true) (stops : (thr s sl).stop = true)
    (h : settled (run (givenUp s sl) s) sl = false) :
    Happens s (.preemptionComplete sl) (givenUp s sl ++ [fun u => [.post (u.now + 8) (.ev (.preemptionComplete sl))]]) := by
  refine preemptionComplete_happens held stops ?_
  rw [if_neg (by rw [h]; exact Bool.false_ne_true)]

/-! ## The resumption -/

theorem resumption_reissues {s : State} {tk sl : Nat} {x : Task} (ht : task? s tk = some x) (own : x.slot = some sl)
    (stops : (thr s sl).stop = true) (loaded : x.image = none) (safe : (thr s sl).st ≠ .quarantined) :
    Happens s (.resumption tk sl) [reissue sl] := by
  refine happens_pick rfl ?_
  simp only [ht, own, stops, loaded, Option.isNone_none, bne_iff_ne.2 safe, decide_true, Bool.and_self, if_true]

section
variable {s : State} {tk sl : Nat} {x : Task} {im : Thread} (ht : task? s tk = some x) (image : x.image = some im)
  (free : occupied s sl = false) (waits : x.st = .saved ∨ x.st = .waiting)
include ht image free waits

/-- A saved task and a slot that is free. -/
theorem resumes_saved {l m : List Stage} (h : (match coresFor s x with
      | some (c, pair) => if c = coreOf sl ∨ (!(kernel s x.kernel).lrec.redundant &&
            (taskRooms s x).any (fun y => y.core == coreOf sl && y.fits (taskNeed s x))) then
          [dispatch tk x sl (pair.bind (freeSlotOf s))] else []
      | none => if frameLost s (kernel s x.kernel).ctx x.frame 196608 x.savedAt then [imageLost tk x x.frame] else []) = m)
    (r : run m s = run l s) : Happens s (.resumption tk sl) l := by
  refine happens_pick_run rfl ?_ r
  have waiting : (x.st == .saved || x.st == .waiting) = true := by
    rw [Bool.or_eq_true, beq_iff_eq, beq_iff_eq]
    exact waits
  rw [← h]
  simp only [ht, image, free, waiting, Option.isNone_some, Option.isSome_some, Bool.and_false, Bool.false_and, Bool.not_false,
    Bool.and_self, Bool.false_eq_true, if_false, if_true] <;> rfl

/-- The slot's own core is the one that the task fits. -/
theorem resumption_dispatches (fits : coresFor s x = some (coreOf sl, none)) {y : Stage}
    (h : (if frameLost s (kernel s x.kernel).ctx x.frame 196608 x.savedAt then imageLost tk x x.frame
      else resumeTask tk sl none) = y) : Happens s (.resumption tk sl) [y] := by
  refine resumes_saved (m := [dispatch tk x sl none]) ht image free waits ?_ ?_
  · rw [fits]
    exact if_pos (Or.inl rfl)
  · rw [run_cons, dispatch, runStage_pick]
    simp only [image, Option.isSome_some, if_true, h]
    rfl

theorem resumption_lost (lost : frameLost s (kernel s x.kernel).ctx x.frame 196608 x.savedAt = true)
    (fits : coresFor s x = none ∨ coresFor s x = some (coreOf sl, none)) :
    Happens s (.resumption tk sl) [imageLost tk x x.frame] := by
  rcases fits with fits | fits
  · refine resumes_saved ht image free waits (m := [imageLost tk x x.frame]) ?_ rfl
    rw [fits]
    exact if_pos lost
  · exact resumption_dispatches ht image free waits fits (if_pos lost)

theorem resumption_waits (whole : frameLost s (kernel s x.kernel).ctx x.frame 196608 x.savedAt = false)
    (full : coresFor s x = none) : Nothing s (.resumption tk sl) := by
  have rests : Happens s (.resumption tk sl) [] := by
    refine resumes_saved ht image free waits (m := []) ?_ rfl
    rw [full]
    exact if_neg (by rw [whole]; exact Bool.false_ne_true)
  exact rests

theorem resumption_loads (whole : frameLost s (kernel s x.kernel).ctx x.frame 196608 x.savedAt = false)
    (fits : coresFor s x = some (coreOf sl, none)) : Happens s (.resumption tk sl) [resumeTask tk sl none] :=
  resumption_dispatches ht image free waits fits (if_neg (by rw [whole]; exact Bool.false_ne_true))

end

/-- Settles O35: each clause names the branch of the request, of its completion or of the resumption that its state takes. -/
theorem preemptionSavesAndResumes : Obligations.PreemptionSavesAndResumes := by
  unfold Obligations.PreemptionSavesAndResumes
  intro s sl t
  refine ⟨fun held => ⟨preemptionRequest_stops held, fun shadow goes p => preemptionRequest_passes held shadow goes,
      preemptionRequest_drops, fun stops => ⟨preemptionComplete_saves held stops, preemptionComplete_waits held stops⟩⟩,
    fun tk x ht => ⟨resumption_reissues ht, fun im image free waits _ => ⟨resumption_lost ht image free waits,
      resumption_waits ht image free waits, resumption_loads ht image free waits⟩⟩⟩

end Sys2Proof.Machine
end

section
/-!
Proofs: results arrive, units are fetched, and misses are posted (O36).
-/

namespace Sys2Proof.Machine

open Sys2Proof
open Sys2Proof.Says

/-! ## Lines without errors -/

theorem lineRead_clean {s : State} (nf : s.o.flips = []) (line : Nat) : runStage s (lineRead line) = s := by
  have clean : (flipsOf s line).isEmpty = true := by rw [flipsOf, nf]; rfl
  rw [runStage, lineRead, if_pos clean]
  rfl

theorem run_linesRead {s : State} (nf : s.o.flips = []) (loc n : Nat) : run (linesRead loc n) s = s := by
  unfold linesRead
  generalize upto _ _ = l
  induction l with
  | nil => rfl
  | cons x xs ih => rw [List.map_cons, run_cons, lineRead_clean nf, ih]

theorem lookBytes_clean {s : State} (nf : s.o.flips = []) (loc n : Nat) : lookBytes s loc n = memRead s.mem loc n := by
  rw [lookBytes, nf]
  rfl

theorem poisonIn_clean {s : State} (np : s.o.poison = []) (loc n : Nat) : poisonIn s loc n = none :=
  firstSome_none fun l _ => by rw [np]; rfl

/-! ## Results -/

/-- A slot that runs, with nothing raised, goes on. -/
theorem settle_rests {s : State} {sl : Nat} (st : (thr s sl).st = .ready) (after : (thr s sl).after = .nothing)
    (quiet : (thr s sl).raised = 0) : runStage s (settle sl) = s := by
  have same : runStage s (unpark sl) = s := by
    rw [unpark, runStage_pick]
    simp only [st]
    rfl
  rw [settle, runStage_seqS, run_cons, run_cons, run_nil, same, runStage_pick]
  simp only [after]
  by_cases v : (thr s sl).chunk.st = .validating
  · rw [if_pos v]
    rfl
  · rw [if_neg v, run_cons, run_nil, runStage, fpCheck, if_pos quiet]
    rfl

section
variable {s : State} {sl task id : Nat} {p : Pend} {x : Task} (ht : task? s task = some x) (hs : x.slot = some sl)
  (hp : pendOf s task id = some p)

include ht hs hp

theorem pendingResultWrite_value {v : Word} {fl : BitVec 5} (op : p.op = .value [v] none fl) :
    Happens s (.pendingResultWrite task id) [writeResults task p [v], addFlags task p.committed fl,
      eff [onTaskThr task (fun t => { t with pend := t.pend.filter (fun q => q.id != id) })], settle sl] := by
  refine happens_pick_run (m := [writeResults task p [v], skip, addFlags task p.committed fl,
      eff [onTaskThr task (fun t => { t with pend := t.pend.filter (fun q => q.id != id) })], settle sl]) rfl ?_ ?_
  · simp only [hp, ht, Option.bind_some, hs, op]
    cases p.pred <;> rfl
  · simp only [run_cons, run_nil, runStage_skip]

omit hp in
/-- The change of the thread of a task in a slot. -/
theorem onTaskThr_slot (f : Thread → Thread) : Eff.apply s (onTaskThr task f) = Eff.apply s (onThr sl f) := by
  have h : tabGet s.o.tasks task = some x := ht
  simp only [Eff.apply, onTaskThr, onThr, h, hs]

/-- A value for a window register of a running slot: the register and the record alone change. -/
theorem pendingResultWrite_window {d : Nat} {v : Word} (held : occupied s sl = true) (hd : p.dests = [d])
    (op : p.op = .value [v] none 0) (pos : 0 < d) (win : d < 112) (free : (thr s sl).arch.strm d = none)
    (own : p.committed = false) (st : (thr s sl).st = .ready) (after : (thr s sl).after = .nothing)
    (quiet : (thr s sl).raised = 0) :
    exec (.pendingResultWrite task id) s = .next { s with o := { s.o with slots := tabUpd s.o.slots sl (fun t =>
        { t with arch := t.arch.setReg d v, pend := t.pend.filter (fun q => q.id != id) }) } } := by
  have field : fieldReg d = true := by
    rw [fieldReg, decide_eq_true win, Bool.true_and, bne_iff_ne]
    exact Nat.pos_iff_ne_zero.1 pos
  have writes : runStage s (writeResults task p [v]) = Eff.apply s (onArch sl (fun a => a.setReg d v)) := by
    have one : writeResults task p [v] s = [onArch sl (fun a => a.setReg d v)] := by
      have low : (decide (112 ≤ d) || ((thr s sl).arch.strm d).isSome) = false := by
        rw [free, decide_eq_false (Nat.not_le.2 win)]
        rfl
      simp only [writeResults, hd, List.zip_cons_cons, List.zip_nil_right, List.flatMap_cons, List.flatMap_nil, List.append_nil,
        ht, Option.bind_some, hs, low, own, field, Bool.false_eq_true, if_false, if_true]
    rw [runStage, one]
    rfl
  refine (pendingResultWrite_value ht hs hp op).trans (congrArg _ ?_)
  rw [run_cons, writes, run_cons, run_cons, run_cons, run_nil, addFlags, if_pos rfl]
  have ht' : task? (Eff.apply s (onArch sl (fun a => a.setReg d v))) task = some x := ht
  show runStage (Eff.apply (Eff.apply s (onArch sl (fun a => a.setReg d v))) (onTaskThr task _)) (settle sl) = _
  rw [onTaskThr_slot ht' hs]
  have both : Eff.apply (Eff.apply s (onArch sl (fun a => a.setReg d v)))
      (onThr sl (fun t => { t with pend := t.pend.filter (fun q => q.id != id) })) =
      Eff.apply s (onThr sl (fun t => { t with arch := t.arch.setReg d v, pend := t.pend.filter (fun q => q.id != id) })) := by
    simp only [Eff.apply, onArch, onThr, tabUpd_upd]
  rw [both]
  refine (settle_rests ?_ ?_ ?_).trans rfl
  · rw [thr_apply_onThr held]
    exact st
  · rw [thr_apply_onThr held]
    exact after
  · rw [thr_apply_onThr held]
    exact quiet

theorem pendingResultWrite_load {loc : Nat} {sz : BitVec 3} {own : List (Option Byte)} {va : BitVec 64} {tracked : Bool}
    (op : p.op = .load loc sz own va tracked) (nf : s.o.flips = []) (np : s.o.poison = []) {w : Word}
    (hw : loadValue sz.toNat (overlay own (memRead s.mem loc (sizeBytes sz.toNat))) = w) :
    Happens s (.pendingResultWrite task id) [writeResults task p [w], eff [onTaskThr task (leaderTakes [w])],
      eff [onTaskThr task (fun t => { t with pend := t.pend.filter (fun q => q.id != id) })], settle sl] := by
  refine happens_pick_run (m := linesRead loc (if (own.take (sizeBytes sz.toNat)).length < sizeBytes sz.toNat || own.contains none
      then sizeBytes sz.toNat else 0) ++
    [pick (fun s => match (if (own.take (sizeBytes sz.toNat)).length < sizeBytes sz.toNat || own.contains none
          then poisonIn s loc (sizeBytes sz.toNat) else none) with
      | some c => [eff [onTaskThr task (fun t => { t with pend := t.pend.filter (fun q => q.id != id) })], consume task c (lineVa va.toNat)]
      | none => [writeResults task p [loadValue sz.toNat (overlay own (lookBytes s loc (sizeBytes sz.toNat)))],
          eff [onTaskThr task (leaderTakes [loadValue sz.toNat (overlay own (lookBytes s loc (sizeBytes sz.toNat)))])],
          eff [onTaskThr task (fun t => { t with pend := t.pend.filter (fun q => q.id != id) })], settle sl])]) rfl ?_ ?_
  · simp only [hp, ht, Option.bind_some, hs, op] <;> rfl
  · rw [run_append, run_linesRead nf, run_cons, run_nil, runStage_pick, poisonIn_clean np, ite_self, lookBytes_clean nf, hw]

end

/-! ## Global atomics -/

/-- The word that a global atomic leaves. -/
def atomLeft (op : Nat) (w a b : Dword) : Dword := if op = 7 then (if w = b then a else w) else atomOp op w a

theorem globalAtomicExecute_acts {s : State} {sl task id loc op : Nat} {a b : Dword} {va : BitVec 64} {p : Pend} {x : Task}
    (ht : task? s task = some x) (hs : x.slot = some sl) (held : occupied s sl = true) (hp : pendOf s task id = some p)
    (ho : p.op = .atom loc op a b va) (nf : s.o.flips = []) (np : s.o.poison = []) (free : tabGet s.o.resv (loc / 8) = none)
    (open_ : ∀ f ∈ gates s sl, (thr s sl).chunk.ts ≤ f)
    (first : ∀ q ∈ (thr s sl).pend.takeWhile (fun q => q.id != id), atomOut q = false) :
    Happens s (.globalAtomicExecute task id)
      [fun u => [.store loc (bytesOf 8 (atomLeft op (memWord s.mem loc) a b).toNat), .commit [loc / 8]] ++
          answer task id [(memWord s.mem loc).setWidth 128] (lat u (kernel s x.kernel).ctx 0 (loadBound sl loc)) u ++ [.draw 1],
        mirrorFor task [(loc, 8)], countMoved x.kernel 8, wakeCounters, kick] := by
  let acts : List Stage := [fun u =>
      [.store loc (bytesOf 8 (atomLeft op (memWord u.mem loc) a b).toNat), .commit [loc / 8]] ++
        answer task id [ext64 (memWord u.mem loc)] (lat u (kernel s x.kernel).ctx 0 (loadBound sl loc)) u ++ [.draw 1],
    mirrorFor task [(loc, 8)], countMoved x.kernel 8, wakeCounters, kick]
  let poisons : Nat → List Stage := fun cls =>
    [fun u => answerBad task id cls (lineVa va.toNat) (lat u (kernel s x.kernel).ctx 0 (loadBound sl loc)) u ++ [.draw 1], kick]
  refine happens_pick_run (m := linesRead loc 8 ++ [pick (fun u => match poisonIn u loc 8 with
    | some cls => poisons cls
    | none => acts)]) rfl ?_ ?_
  · have thr_ : taskThr? s task = some (thr s sl) := by
      cases h : tabGet s.o.slots sl with
      | none => rw [occupied, tabHas, h] at held; exact absurd held Bool.false_ne_true
      | some t => simp only [taskThr?, ht, hs, h, thr, tabD, Option.getD_some]
    have goes : (gates s sl).all (fun f => decide ((thr s sl).chunk.ts ≤ f)) = true :=
      List.all_eq_true.2 fun f m => decide_eq_true (open_ f m)
    have early : ((thr s sl).pend.takeWhile (fun q => q.id != id)).any atomOut = false :=
      List.any_eq_false.2 fun q m => by rw [first q m]; exact Bool.false_ne_true
    simp only [hp, ht, ho, hs, free, thr_, goes, early, Option.map_some, Option.getD_some, Bool.not_true, Bool.or_self,
      Bool.false_eq_true, if_false]
    rfl
  · rw [run_append, run_linesRead nf, run_cons, run_nil, runStage_pick, poisonIn_clean np]
    simp only [acts, ext64, run_cons, run_nil, runStage]

/-! ## Streams -/

/-- The lines that a unit of a global stream is read from. -/
def unitLines (s : State) (sl : Nat) (y : Strm) (v : Unit16) : List Stage :=
  match v, translate s sl (y.addr (y.pos + y.fifo.length)).toNat .read with
  | .data _, .hit loc _ => linesRead loc 16
  | _, _ => []

theorem run_unitLines {s : State} (nf : s.o.flips = []) (sl : Nat) (y : Strm) (v : Unit16) :
    run (unitLines s sl y v) s = s := by
  unfold unitLines
  split
  · exact run_linesRead nf _ _
  · rfl

section
variable {s : State} {sl r : Nat} {y : Strm} (hy : (thr s sl).arch.strm r = some y)
include hy

theorem streamUnitFetch_rests (h : 8 ≤ y.fifo.length ∨ y.total ≤ y.pos + y.fifo.length ∨ y.fifo.any Unit16.isFault = true) :
    Nothing s (.streamUnitFetch sl r) := by
  refine nothing_pick rfl ?_
  have rests : (y.write || decide (8 ≤ y.fifo.length) || decide (y.total ≤ y.pos + y.fifo.length) || y.fifo.any Unit16.isFault) = true := by
    simp only [Bool.or_eq_true, decide_eq_true_eq]
    rcases h with h | h | h
    · exact Or.inl (Or.inl (Or.inr h))
    · exact Or.inl (Or.inr h)
    · exact Or.inr h
  simp only [hy, rests, if_true]

variable (reads : y.write = false) (room : y.fifo.length < 8) (more : y.pos + y.fifo.length < y.total)
  (sound : y.fifo.any Unit16.isFault = false)
include reads room more sound

/-- A stream that fetches does what its address gives. -/
theorem streamUnitFetch_goes {l m : List Stage} (e : (match streamUnit s sl y (y.addr (y.pos + y.fifo.length)) with
      | .error m =>
        [fun s => (match m with
          | some (va, k) => [.post s.now (.ev (.tlbMiss sl va k.num))]
          | none => []) ++ [.post (s.now + 8) (.ev (.streamUnitFetch sl r))]]
      | .ok v =>
        (if y.global then (match v, translate s sl (y.addr (y.pos + y.fifo.length)).toNat .read with
           | .data _, .hit loc _ => linesRead loc 16
           | _, _ => [])
         else [nearRead (((nearAt s sl (y.addr (y.pos + y.fifo.length)).toNat).map (·.loc)).getD 0) 16]) ++
        [eff [onArch sl (fun a => a.onStrm r (fun y => { y with fifo := y.fifo ++ [v] }))],
         (if y.global then countMoved (thr s sl).kernel 16 else skip),
         if y.pos + y.fifo.length + 1 < y.total ∧ y.fifo.length + 1 < 8 ∧ !v.isFault then
           evIn (ctxOf s sl) (if y.global then 640 else 12) (.streamUnitFetch sl r)
         else skip] : List Stage) = m) (h : run m s = run l s) : Happens s (.streamUnitFetch sl r) l := by
  refine happens_pick_run rfl ?_ h
  have goes : (y.write || decide (8 ≤ y.fifo.length) || decide (y.total ≤ y.pos + y.fifo.length) || y.fifo.any Unit16.isFault) = false := by
    rw [reads, decide_eq_false (Nat.not_le.2 room), decide_eq_false (Nat.not_le.2 more), sound]
    rfl
  simp only [hy, goes, Bool.false_eq_true, if_false]
  exact e

theorem streamUnitFetch_near {v : Unit16} (near : y.global = false)
    (hu : streamUnit s sl y (y.addr (y.pos + y.fifo.length)) = .ok v) :
    Happens s (.streamUnitFetch sl r) [
      nearRead (((nearAt s sl (y.addr (y.pos + y.fifo.length)).toNat).map (·.loc)).getD 0) 16,
      eff [onArch sl (fun a => a.onStrm r (fun z => { z with fifo := z.fifo ++ [v] }))],
      if y.pos + y.fifo.length + 1 < y.total ∧ y.fifo.length + 1 < 8 ∧ v.isFault = false then
        evIn (ctxOf s sl) 12 (.streamUnitFetch sl r) else skip] := by
  refine streamUnitFetch_goes (m := [
      nearRead (((nearAt s sl (y.addr (y.pos + y.fifo.length)).toNat).map (·.loc)).getD 0) 16,
      eff [onArch sl (fun a => a.onStrm r (fun z => { z with fifo := z.fifo ++ [v] }))], skip,
      if y.pos + y.fifo.length + 1 < y.total ∧ y.fifo.length + 1 < 8 ∧ v.isFault = false then
        evIn (ctxOf s sl) 12 (.streamUnitFetch sl r) else skip]) hy reads room more sound ?_ ?_
  · simp only [hu, near, Bool.not_eq_true', Bool.false_eq_true, if_false]
    rfl
  · simp only [run_cons, run_nil, runStage_skip]

theorem streamUnitFetch_global {v : Unit16} (global : y.global = true) (nf : s.o.flips = [])
    (hu : streamUnit s sl y (y.addr (y.pos + y.fifo.length)) = .ok v) :
    Happens s (.streamUnitFetch sl r) [
      eff [onArch sl (fun a => a.onStrm r (fun z => { z with fifo := z.fifo ++ [v] }))],
      countMoved (thr s sl).kernel 16,
      if y.pos + y.fifo.length + 1 < y.total ∧ y.fifo.length + 1 < 8 ∧ v.isFault = false then
        evIn (ctxOf s sl) 640 (.streamUnitFetch sl r) else skip] := by
  refine streamUnitFetch_goes (m := unitLines s sl y v ++ [
      eff [onArch sl (fun a => a.onStrm r (fun z => { z with fifo := z.fifo ++ [v] }))], countMoved (thr s sl).kernel 16,
      if y.pos + y.fifo.length + 1 < y.total ∧ y.fifo.length + 1 < 8 ∧ v.isFault = false then
        evIn (ctxOf s sl) 640 (.streamUnitFetch sl r) else skip]) hy reads room more sound ?_ ?_
  · simp only [hu, global, Bool.not_eq_true', if_true]
    rfl
  · rw [run_append, run_unitLines nf]

theorem streamUnitFetch_waits (hu : streamUnit s sl y (y.addr (y.pos + y.fifo.length)) = .error none) :
    Happens s (.streamUnitFetch sl r) [eff [.post (s.now + 8) (.ev (.streamUnitFetch sl r))]] := by
  refine streamUnitFetch_goes (m := [fun s => [] ++ [.post (s.now + 8) (.ev (.streamUnitFetch sl r))]]) hy reads room more sound ?_ rfl
  rw [hu]

end

/-! ## Misses -/

section
variable {s : State} {sl va acc : Nat} (held : occupied s sl = true)
include held

/-- A miss of an occupied slot reaches its quad's pending table. -/
theorem missArrives_happens {l : List Stage} (h : (match pendingEntry (quad s (quadOf sl)) (ctxOf s sl) va with
      | some (i, _) => [eff [onQuad (quadOf sl) (fun x => { x with misses := tabUpd x.misses i (fun m =>
          { m with cores := setAdd m.cores (coreOf sl % 4), acc := setAdd m.acc acc }) })]]
      | none => match tabFree (quad s (quadOf sl)).misses 0 64 with
        | none => []
        | some i =>
          [(fun u => [onQuad (quadOf sl) (fun x =>
              { x with misses := tabPut x.misses i ⟨BitVec.ofNat 64 va, ctxOf s sl, [coreOf sl % 4], [acc]⟩ }),
            .post (u.now + lat u (ctxOf s sl) 0 1500) (.walk (quadOf sl) i), .draw 1]),
          signalSlot (tscSlot (quadOf sl))] : List Stage) = l) : Happens s (.tlbMiss sl va acc) l := by
  have arrives : exec (.tlbMiss sl va acc) s = fire [missArrives sl va acc] s := if_pos held
  exact happens_pick arrives h

theorem tlbMiss_joins {i : Nat} {m : PMiss} (h : pendingEntry (quad s (quadOf sl)) (ctxOf s sl) va = some (i, m)) :
    Happens s (.tlbMiss sl va acc) [eff [onQuad (quadOf sl) (fun x => { x with misses := tabUpd x.misses i (fun m =>
      { m with cores := setAdd m.cores (coreOf sl % 4), acc := setAdd m.acc acc }) })]] := by
  refine missArrives_happens held ?_
  rw [h]

variable (new : pendingEntry (quad s (quadOf sl)) (ctxOf s sl) va = none)
include new

theorem tlbMiss_posts {i : Nat} (h : tabFree (quad s (quadOf sl)).misses 0 64 = some i) :
    Happens s (.tlbMiss sl va acc) [fun u => [onQuad (quadOf sl) (fun x =>
        { x with misses := tabPut x.misses i ⟨BitVec.ofNat 64 va, ctxOf s sl, [coreOf sl % 4], [acc]⟩ }),
      .post (u.now + lat u (ctxOf s sl) 0 1500) (.walk (quadOf sl) i), .draw 1], signalSlot (tscSlot (quadOf sl))] := by
  refine missArrives_happens held ?_
  rw [new, h]

theorem tlbMiss_waits (h : tabFree (quad s (quadOf sl)).misses 0 64 = none) : Nothing s (.tlbMiss sl va acc) := by
  have rests : Happens s (.tlbMiss sl va acc) [] := by
    refine missArrives_happens held ?_
    rw [new, h]
  exact rests

end

/-- Settles O36: results by the operation of their record, units by what their address gives, misses by the pending table. -/
theorem resultsArriveAndUnitsFetch : Obligations.ResultsArriveAndUnitsFetch := by
  unfold Obligations.ResultsArriveAndUnitsFetch
  refine ⟨fun s sl task id d v p x ht hs held hp hd => ⟨fun fl => pendingResultWrite_value ht hs hp,
      pendingResultWrite_window ht hs hp held hd, fun loc sz own va tracked op nf np => pendingResultWrite_load ht hs hp op nf np rfl,
      fun loc op a b va ho nf np free open_ first =>
        globalAtomicExecute_acts ht hs held hp ho nf np free open_ first⟩,
    fun s sl r y hy reads => ⟨fun room more sound => ⟨fun v => streamUnitFetch_near hy reads room more sound,
      fun v => streamUnitFetch_global hy reads room more sound, streamUnitFetch_waits hy reads room more sound⟩,
      streamUnitFetch_rests hy⟩,
    fun s sl va acc held => ⟨fun i m => tlbMiss_joins held, fun new => ⟨fun i => tlbMiss_posts held new, tlbMiss_waits held new⟩⟩⟩

end Sys2Proof.Machine
end

section
/-!
Proofs: requests reach quads, barriers, batches and partners (O37).
-/

namespace Sys2Proof.Machine

open Sys2Proof
open Sys2Proof.Says

/-! ## Requests at their quad -/

/-- A request that does not wait yet. -/
theorem nearArrives_first {s : State} {req : Nat} {r : NearReq} (hr : tabGet s.o.near req = some r) (first : r.waiting = false)
    {l : List Stage} (h : (match r.op with
      | .chan kind v => [chanArrives req r kind v]
      | op =>
        match (if op.reads = 0 || waits s r.loc op then none else nearPoison s r.loc op.reads) with
        | some c => [replyBad req c]
        | none =>
          match nearStep s r.loc op, op with
          | some (st, vs), .ldtr _ =>
            st ++ [(fun s => [.obj (fun o => { o with near := tabDel o.near req })] ++
              (match r.pend with
               | some p => answer r.task p vs (wayBack s r) s
               | none => []) ++ [.draw 2] : Stage)]
          | some (st, vs), _ => st ++ [replyNear req (vs.headD 0) none]
          | none, .fe kind v =>
            [joinQueue { loc := r.loc, kind := kind, slot := r.slot, req := some req, value := v, chan := none },
             eff [.obj (fun o => { o with near := tabUpd o.near req (fun r => { r with waiting := true }) })]]
          | none, _ => []) = l) : Happens s (.remoteNearArrival req) l := by
  refine happens_pick rfl ?_
  simp only [hr, first, Bool.false_eq_true, if_false]
  exact h

theorem remoteNearArrival_waits {s : State} {req : Nat} {r : NearReq} (hr : tabGet s.o.near req = some r)
    (w : r.waiting = true) : Nothing s (.remoteNearArrival req) := by
  refine nothing_pick rfl ?_
  simp only [hr, w, if_true]

/-- The way back of a transposed read. -/
def rowsBack (req : Nat) (r : NearReq) (vs : List Word) : Stage := fun u =>
  [.obj (fun o => { o with near := tabDel o.near req })] ++
  (match r.pend with
   | some p => answer r.task p vs (wayBack u r) u
   | none => []) ++ [.draw 2]

theorem rowsBack_none {r : NearReq} (req : Nat) (vs : List Word) (h : r.pend = none) :
    rowsBack req r vs = eff [.obj (fun o => { o with near := tabDel o.near req }), .draw 2] := by
  funext u
  simp only [rowsBack, h]
  rfl

theorem rowsBack_some {r : NearReq} {p : Nat} (req : Nat) (vs : List Word) (h : r.pend = some p) :
    rowsBack req r vs = fun u => .obj (fun o => { o with near := tabDel o.near req }) ::
      answer r.task p vs (wayBack u r) u ++ [.draw 2] := by
  funext u
  simp only [rowsBack, h]
  rfl

/-- A request that meets no poison in what it reads. -/
theorem meets_clean {s : State} {r : NearReq} (clean : r.op.reads ≠ 0 → nearPoison s r.loc r.op.reads = none) :
    (if r.op.reads = 0 || waits s r.loc r.op then none else nearPoison s r.loc r.op.reads) = none := by
  by_cases z : r.op.reads = 0
  · rw [z]
    rfl
  · rw [clean z, ite_self]

section
variable {s : State} {req : Nat} {r : NearReq} (hr : tabGet s.o.near req = some r) (first : r.waiting = false)
include hr first

theorem remoteNearArrival_chan {kind : Nat} {v : Word} (op : r.op = .chan kind v) :
    Happens s (.remoteNearArrival req) [chanArrives req r kind v] := by
  refine nearArrives_first hr first ?_
  rw [op]

theorem remoteNearArrival_acts {l : List Stage} {vs : List Word} (step : nearStep s r.loc r.op = some (l, vs))
    (clean : r.op.reads ≠ 0 → nearPoison s r.loc r.op.reads = none) (rows : ∀ sz, r.op ≠ .ldtr sz)
    (word : ∀ kind v, r.op ≠ .chan kind v) :
    Happens s (.remoteNearArrival req) (l ++ [replyNear req (vs.headD 0) none]) := by
  refine nearArrives_first hr first ?_
  split
  next kind v op => exact absurd op (word kind v)
  next =>
    rw [meets_clean clean, step]
    simp only

theorem remoteNearArrival_rows {sz : BitVec 2} {l : List Stage} {vs : List Word} (op : r.op = .ldtr sz)
    (step : nearStep s r.loc r.op = some (l, vs)) (clean : r.op.reads ≠ 0 → nearPoison s r.loc r.op.reads = none) :
    Happens s (.remoteNearArrival req) (l ++ [rowsBack req r vs]) := by
  refine nearArrives_first hr first ?_
  have c := meets_clean clean
  rw [op] at step c ⊢
  simp only [c, step]
  rfl

theorem remoteNearArrival_queues {kind : Nat} {v : Dword} (op : r.op = .fe kind v) (step : nearStep s r.loc r.op = none) :
    Happens s (.remoteNearArrival req) [
      joinQueue { loc := r.loc, kind := kind, slot := r.slot, req := some req, value := v, chan := none },
      eff [.obj (fun o => { o with near := tabUpd o.near req (fun r => { r with waiting := true }) })]] := by
  refine nearArrives_first hr first ?_
  rw [op] at step ⊢
  have rests : (decide ((NearOp.fe kind v).reads = 0) || waits s r.loc (.fe kind v)) = true := by
    rw [waits, step]
    exact Bool.or_true _
  simp only [rests, if_true, step]

theorem remoteNearArrival_poisoned {c : Nat} (reads : r.op.reads ≠ 0) (word : ∀ kind v, r.op ≠ .chan kind v)
    (bad : nearPoison s r.loc r.op.reads = some c) (step : (nearStep s r.loc r.op).isSome = true) :
    Happens s (.remoteNearArrival req) [replyBad req c] := by
  refine nearArrives_first hr first ?_
  split
  next kind v op => exact absurd op (word kind v)
  next =>
    have goes : (decide (r.op.reads = 0) || waits s r.loc r.op) = false := by
      rw [decide_eq_false reads, waits, Option.isNone_eq_false_iff.2 step]
      rfl
    simp only [goes, Bool.false_eq_true, if_false, bad]

end

/-! ## Barriers -/

/-- An arrival that no earlier slot's arrival of its cycle precedes. -/
theorem dieBarrierArrival_takes {s : State} {req : Nat} {r : BarSend} (hr : tabGet s.o.barSends req = some r)
    (first : ∀ x ∈ s.agenda, x.1 ≤ s.now → ∀ (q : Nat) (y : BarSend), x.2 = .ev (.dieBarrierArrival q) →
      tabGet s.o.barSends q = some y → ¬ (y.kernel = r.kernel ∧ y.die = r.die ∧ y.bar = r.bar ∧ y.slot < r.slot)) :
    Happens s (.dieBarrierArrival req) [eff [.obj (fun o => { o with barSends := tabDel o.barSends req })],
      barEffect r.kernel r.die r.bar r.task r.kind] := by
  refine happens_pick rfl ?_
  simp only [hr]
  refine if_neg fun h => ?_
  obtain ⟨x, m, hx⟩ := List.any_eq_true.1 h
  rw [Bool.and_eq_true, decide_eq_true_eq] at hx
  obtain ⟨due, hx⟩ := hx
  split at hx
  next q e =>
    split at hx
    next y hy =>
      simp only [Bool.and_eq_true, beq_iff_eq, decide_eq_true_eq, and_assoc] at hx
      exact first x m due q y e hy hx
    next => cases hx
  next => cases hx

theorem barrierDeadline_closes {s : State} {k home n x : Nat} (hd : (barOf s k home n).dl = some x)
    (due : x + s.o.mod.zero ≤ s.now) (lacks : (barOf s k home n).c < (barOf s k home n).p) :
    Happens s (.barrierDeadline k home n)
      [barComplete k home n false ((barOf s k home n).p - (barOf s k home n).c)] := by
  refine happens_pick rfl ?_
  simp only [hd]
  exact if_neg fun h => h.elim (Nat.not_lt.2 due) (Nat.not_le.2 lacks)

theorem barrierDeadline_rests {s : State} {k home n x : Nat} (hd : (barOf s k home n).dl = some x)
    (h : s.now < x + s.o.mod.zero ∨ (barOf s k home n).p ≤ (barOf s k home n).c) : Nothing s (.barrierDeadline k home n) := by
  refine nothing_pick rfl ?_
  simp only [hd]
  exact if_pos h

/-! ## Batches of ordered channels -/

theorem ordatomBatchClose_waits {s : State} {k c : Nat} (h : batchOver s k (tabD (kernel s k).ordDone c 0) = false) :
    Nothing s (.ordatomBatchClose k c) := by
  refine nothing_pick rfl ?_
  simp only [h, Bool.not_false, Bool.or_true, if_true]

/-- A batch of one request adds to the channel's word, and gives the request the word before. -/
theorem ordatomBatchClose_adds {s : State} {k c loc : Nat} {r : OrdReq}
    (hl : ctxXlat s (kernel s k).ctx ((kernel s k).lrec.ordptr + 8 * c) .write = .ok loc) (nf : s.o.flips = [])
    (held : tabHas s.o.kernels k = true) (whole : batchOver s k (tabD (kernel s k).ordDone c 0) = true)
    (one : tabD (kernel s k).ord c [] = [r]) (due : r.interval ≤ tabD (kernel s k).ordDone c 0) :
    Happens s (.ordatomBatchClose k c) [
      eff [onKernel k (fun y => { y with ordDone := tabPut y.ordDone c (tabD (kernel s k).ordDone c 0 + 1), ord := tabMod y.ord c [] (fun l =>
        l.filter (fun r => decide (tabD (kernel s k).ordDone c 0 < r.interval))) })],
      fun u => storeMarked u loc (bytesOf 8 (memWord s.mem loc + r.addend).toNat) ++ [.commit [loc / 8]], mirrorOut [(loc, 8)], wakeCounters,
      fun u => answer r.task r.pend [(memWord s.mem loc).setWidth 128] (lat u (kernel s k).ctx 0 300) u ++ [.draw 1],
      fun u => [.draw 1] ++ if batchOver u k (tabD (kernel s k).ordDone c 0 + 1) then [.post u.now (.ev (.ordatomBatchClose k c))] else []] := by
  let ends : Stage := eff [onKernel k (fun y => { y with ordDone := tabPut y.ordDone c (tabD (kernel s k).ordDone c 0 + 1), ord := tabMod y.ord c [] (fun l =>
        l.filter (fun r => decide (tabD (kernel s k).ordDone c 0 < r.interval))) })]
  let adds : List Stage := [
    fun u => storeMarked u loc (bytesOf 8 (memWord s.mem loc + r.addend).toNat) ++ [.commit [loc / 8]], mirrorOut [(loc, 8)], wakeCounters,
    fun u => answer r.task r.pend [(memWord s.mem loc).setWidth 128] (lat u (kernel s k).ctx 0 300) u ++ [.draw 1],
    fun u => [.draw 1] ++ if batchOver u k (tabD (kernel s k).ordDone c 0 + 1) then [.post u.now (.ev (.ordatomBatchClose k c))] else []]
  refine happens_pick_run (m := [ends] ++ linesRead loc 8 ++ adds) rfl ?_ ?_
  · have batch : [r].filter (fun r => decide (r.interval ≤ tabD (kernel s k).ordDone c 0)) = [r] :=
      List.filter_eq_self.2 fun q m => by rw [List.mem_singleton.1 m]; exact decide_eq_true due
    have sorted : sortBy (fun a b => keyLe a.key b.key) [r] = [r] := rfl
    have word : BitVec.ofNat 64 (ofBytes (lookBytes s loc 8)) = memWord s.mem loc := by
      rw [lookBytes_clean nf]
      rfl
    simp only [held, whole, one, batch, hl, word, List.any_cons, List.any_nil, bne_self_eq_false, Bool.false_and, Bool.or_self,
      Bool.not_true, Bool.not_false, Bool.false_eq_true, if_false, if_true, List.filter_cons, List.filter_nil, sorted, List.isEmpty_cons,
      List.foldl_cons, List.foldl_nil, List.map_nil, List.append_nil, List.nil_append, List.map_cons, List.append_assoc]
    rfl
  · rw [run_append, run_append, run_linesRead (s := run [ends] s) nf]
    exact (run_append [ends] adds s).symm

/-! ## Exchanges -/

section
variable {s : State} {sl ea n eb m : Nat} {p r : Pend} (meets : swapMeets s sl = true)
  (own : swapOf (thr s sl) = some (p, ea, n)) (other : swapOf (thr s (partnerSlot sl)) = some (r, eb, m))
include meets own other

/-- Both threads of an exchange are told of its bytes. -/
def swapTold (s : State) (sl : Nat) (p r : Pend) (v : Nat) : List Stage :=
  [deliver (thr s sl).task p.id (wd v) 0, deliver (thr s (partnerSlot sl)).task r.id (wd v) 0]

theorem swaptMatch_differs (ne : n ≠ m) : Happens s (.swaptMatch sl) (swapTold s sl p r 0) := by
  refine happens_pick rfl ?_
  simp only [meets, own, other, ne, ne_eq, not_false_eq_true, Bool.not_true, Bool.false_eq_true, if_false, if_true]
  rfl

theorem swaptMatch_exchanges {la lb : Nat} (e : n = m) (ha : nearOwn s sl ea n = some la)
    (hb : nearOwn s (partnerSlot sl) eb n = some lb) (ca : nearPoison s la n = none) (cb : nearPoison s lb n = none) :
    Happens s (.swaptMatch sl) ([nearRead la n, nearRead lb n, fun u => storeMarked u la (lookBytes s lb n),
      fun u => storeMarked u lb (lookBytes s la n)] ++ swapTold s sl p r n) := by
  refine happens_pick rfl ?_
  subst e
  simp only [meets, own, other, ha, hb, ca, cb, ne_eq, not_true_eq_false, Bool.not_true, Bool.false_eq_true, if_false]
  rfl

end

/-- Settles O37: each clause names the branch of the arrival, deadline, batch or exchange that its state takes. -/
theorem requestsReachQuadsAndBarriers : Obligations.RequestsReachQuadsAndBarriers := by
  unfold Obligations.RequestsReachQuadsAndBarriers
  refine ⟨fun s req r hr => ⟨remoteNearArrival_waits hr, fun first => ⟨fun kind v => remoteNearArrival_chan hr first,
      fun l vs step clean => ⟨remoteNearArrival_acts hr first step clean, fun sz op => ?_⟩,
      fun kind v => remoteNearArrival_queues hr first, fun c => remoteNearArrival_poisoned hr first⟩⟩,
    fun s req r => dieBarrierArrival_takes, fun s k home n x hd => ⟨barrierDeadline_closes hd, barrierDeadline_rests hd⟩,
    fun s k c loc r => ⟨ordatomBatchClose_waits, ordatomBatchClose_adds⟩,
    fun s sl p r ea n eb m meets own other => ⟨swaptMatch_differs meets own other,
      fun la lb => swaptMatch_exchanges meets own other⟩⟩
  have rows := remoteNearArrival_rows hr first op step clean
  exact ⟨fun none_ => rowsBack_none req vs none_ ▸ rows, fun p some_ => rowsBack_some req vs some_ ▸ rows⟩

end Sys2Proof.Machine
end

section
/-!
Proofs: sequences bind, unbind and draw (O43).
-/

namespace Sys2Proof.Machine

open Sys2Proof
open Sys2Proof.Says

/-! ## The binding -/

theorem seqBind_rests {s : State} {cid addr : Nat} (h : bindWaiters s (seqKey cid addr) = []) : Nothing s (.seqBind cid addr) := by
  refine nothing_pick rfl ?_
  simp only [h, List.isEmpty_nil, if_true]

/-- The second part of a binding: what the record read makes of the bundles that wait. -/
def bindRead (cid addr loc : Nat) (ws : List Nat) (root queue : Nat) : Stage := pick (fun s =>
  let bs := lookBytes s loc 256
  let q := seqOf cid addr loc bs
  if recordBad q bs then [eff (ws.map (fun w => onThr w (fun t => { t with fault := some (nTrap .seq addr) })))]
  else
    let place := verLoc s q q.cp
    linesRead place 1024 ++ [pick (fun s =>
      [bindRecord (seqKey cid addr) { q with root := root, queue := queue }
        ((poisonIn s loc 256).isSome || (poisonIn s place 1024).isSome),
       eff (ws.map (fun w => cacheSid (coreOf w) (seqKey cid addr)))])])

section
variable {s : State} {cid addr sl : Nat} {ws : List Nat} (hw : bindWaiters s (seqKey cid addr) = sl :: ws)
include hw

theorem seqBind_caches (bound : tabHas s.o.seqs (seqKey cid addr) = true) :
    Happens s (.seqBind cid addr) [eff ((sl :: ws).map (fun w => cacheSid (coreOf w) (seqKey cid addr)))] := by
  refine happens_pick rfl ?_
  simp only [hw, bound, List.isEmpty_cons, Bool.false_eq_true, if_false, if_true]

variable (new : tabHas s.o.seqs (seqKey cid addr) = false)
include new

theorem seqBind_faults {c : Code} (h : ctxXlat s cid addr .read = .error c) : Happens s (.seqBind cid addr)
    [eff ((sl :: ws).map (fun w => onThr w (fun t => { t with fault := some (nTrap c addr) })))] := by
  refine happens_pick rfl ?_
  simp only [hw, new, h, List.isEmpty_cons, Bool.false_eq_true, if_false]

/-- A sequence to bind has its record read. -/
theorem seqBind_reads {loc : Nat} (h : ctxXlat s cid addr .read = .ok loc)
    (room : (s.o.seqs.filter (fun x => locDie x.2.loc == locDie loc)).length < 4096) (nf : s.o.flips = [])
    {l : List Stage} (e : run [bindRead cid addr loc (sl :: ws) (kernel s (thr s sl).kernel).root (kernel s (thr s sl).kernel).queue] s =
      run l s) : Happens s (.seqBind cid addr) l := by
  refine happens_pick_run (m := linesRead loc 256 ++
    [bindRead cid addr loc (sl :: ws) (kernel s (thr s sl).kernel).root (kernel s (thr s sl).kernel).queue]) rfl ?_ ?_
  · simp only [hw, new, h, Nat.not_le.2 room, List.isEmpty_cons, Bool.false_eq_true, if_false]
    rfl
  · rw [run_append, run_linesRead nf, e]

theorem seqBind_refuses {loc : Nat} (h : ctxXlat s cid addr .read = .ok loc)
    (room : (s.o.seqs.filter (fun x => locDie x.2.loc == locDie loc)).length < 4096) (nf : s.o.flips = [])
    (bad : recordBad (seqOf cid addr loc (memRead s.mem loc 256)) (memRead s.mem loc 256) = true) :
    Happens s (.seqBind cid addr)
      [eff ((sl :: ws).map (fun w => onThr w (fun t => { t with fault := some (nTrap .seq addr) })))] := by
  refine seqBind_reads hw new h room nf ?_
  rw [run_cons, run_nil, bindRead, runStage_pick]
  simp only [lookBytes_clean nf, bad, if_true]

theorem seqBind_binds {loc : Nat} (h : ctxXlat s cid addr .read = .ok loc)
    (room : (s.o.seqs.filter (fun x => locDie x.2.loc == locDie loc)).length < 4096) (nf : s.o.flips = []) (np : s.o.poison = [])
    (good : recordBad (seqOf cid addr loc (memRead s.mem loc 256)) (memRead s.mem loc 256) = false) :
    Happens s (.seqBind cid addr) [bindRecord (seqKey cid addr) { seqOf cid addr loc (memRead s.mem loc 256) with
        root := (kernel s (thr s sl).kernel).root, queue := (kernel s (thr s sl).kernel).queue } false,
      eff ((sl :: ws).map (fun w => cacheSid (coreOf w) (seqKey cid addr)))] := by
  refine seqBind_reads hw new h room nf ?_
  rw [run_cons, run_nil, bindRead, runStage_pick]
  simp only [lookBytes_clean nf, good, Bool.false_eq_true, if_false]
  rw [run_append, run_linesRead nf, run_cons, run_nil, runStage_pick, poisonIn_clean np, poisonIn_clean np]
  rfl

end

/-! ## The unbinding -/

section
variable {s : State} {cid addr : Nat} {q : Seq} (hq : tabGet s.o.seqs (seqKey cid addr) = some q)
include hq

theorem seqUnbind_rests (h : q.st ≠ 3) : Nothing s (.seqUnbind cid addr) := by
  refine nothing_pick rfl ?_
  simp only [hq, h, ne_eq, not_false_eq_true, if_true]

theorem seqUnbind_waits (h : q.st = 3) (used : seqInUse s (seqKey cid addr) q = true) :
    Happens s (.seqUnbind cid addr) [eff [.post (s.now + 1000) (.ev (.seqUnbind cid addr))]] := by
  refine happens_pick_run (m := [fun s => [.post (s.now + 1000) (.ev (.seqUnbind cid addr))]]) rfl ?_ rfl
  simp only [hq, h, used, ne_eq, not_true_eq_false, if_false, if_true]

theorem seqUnbind_unbinds (h : q.st = 3) (free : seqInUse s (seqKey cid addr) q = false) :
    Happens s (.seqUnbind cid addr) [unbindSeq (seqKey cid addr)] := by
  refine happens_pick rfl ?_
  simp only [hq, h, free, ne_eq, not_true_eq_false, Bool.false_eq_true, if_false]

/-! ## The draw -/

variable {p : Nat} {x : DrawStep} (hx : tabGet q.steps p = some x)
include hx

theorem drawMaxReturn_rests (h : stepFull q p x = false) : Nothing s (.drawMaxReturn cid addr p) := by
  refine nothing_pick rfl ?_
  simp only [hq, hx, h, Bool.not_false, if_true]

/-- The slices of a step as the root chooses among their logits. -/
def chosenSlices (s : State) (x : DrawStep) : Tab Slice := tabMap x.slices (fun _ c => c.chosen s)

/-- The greatest logit that a step allows. -/
def greatest (s : State) (q : Seq) (p : Nat) (x : DrawStep) : Option (BitVec 32) :=
  (chosenSlices s x).foldl (fun m c => (c.2.logits.zipIdx).foldl (fun m l =>
    if allowed s q p (verAt s q p) (c.2.first + l.2) l.1 then maxLogit m l.1 else m) m) none

theorem drawMaxReturn_answers (full : stepFull q p x = true) (clean : verPoison s q p = none)
    (masks : ∀ c ∈ x.slices, maskPoison s q p c.2.first c.2.count = none) : Happens s (.drawMaxReturn cid addr p) (
      [eff [onStep (seqKey cid addr) p (fun y => { y with m := some (greatest s q p x), slices := tabMap (chosenSlices s x) (fun _ c =>
        { c with weights := sliceWeights s q p (verAt s q p) (greatest s q p x) c }) })]] ++
      (chosenSlices s x).map (fun c => answerMass cid c.2 (sliceWeights s q p (verAt s q p) (greatest s q p x) c.2)) ++
      x.dropped.map (fun c => answerMass cid c (sliceWeights s q p (verAt s q p) (greatest s q p x) (c.chosen s))) ++
      [fun u => [.post (u.now + lat u cid 0 1000) (.ev (.drawRoot cid addr p)), .draw q.vocab]]) := by
  refine happens_pick rfl ?_
  have sound : firstSome (fun (c : Nat × Slice) => (maskPoison s q p c.2.first c.2.count).map (fun y => (c.2.task, y))) x.slices = none :=
    firstSome_none fun c m => by rw [masks c m]; rfl
  simp only [hq, hx, full, clean, sound, Option.isSome_none, Bool.not_true, Bool.false_eq_true, if_false]
  rfl

theorem maskDeadline_defers (out : x.result = none) (late : tabHas q.masks p = false) :
    Happens s (.maskDeadline cid addr p x.attempt) [endWaiting x 2,
      eff [onStep (seqKey cid addr) p (fun x => { gen := x.gen, attempt := x.attempt + 1 })]] := by
  refine happens_pick rfl ?_
  simp only [hq, hx, out, late, ne_eq, not_true_eq_false, Option.isSome_none, Bool.false_eq_true, or_self, if_false]

/-- The tokens of a step with their weights. -/
def weighted (x : DrawStep) : List (Nat × Nat) :=
  x.slices.flatMap (fun c => (c.2.weights.zipIdx).map (fun w => (c.1 + w.2, w.1)))

variable (hm : x.m ≠ none) (out : x.result = none) (whole : x.slices.length = q.nslices)
include hm out whole

/-- The root gives a step whose masses are in its token. -/
theorem drawRoot_gives {l : List Stage} (e : (if !tiles q.vocab 0 x.slices then [stepResult (seqKey cid addr) p 5 0xFFFFFFFF]
      else if total ((weighted x).map (·.2)) = 0 then [stepResult (seqKey cid addr) p 3 0xFFFFFFFF]
      else [stepResult (seqKey cid addr) p 0
        (pickToken (drawBits q p * total ((weighted x).map (·.2)) / 2 ^ 64) 0 (weighted x))]) = l) :
    Happens s (.drawRoot cid addr p) l := by
  refine happens_pick rfl ?_
  have ready : (x.m.isNone || x.result.isSome || x.slices.length != q.nslices) = false := by
    rw [out, whole, bne_self_eq_false, Option.isNone_eq_false_iff.2 (Option.isSome_iff_ne_none.2 hm)]
    rfl
  simp only [hq, hx, ready, Bool.false_eq_true, if_false]
  exact e

theorem drawRoot_gap (h : tiles q.vocab 0 x.slices = false) :
    Happens s (.drawRoot cid addr p) [stepResult (seqKey cid addr) p 5 0xFFFFFFFF] := by
  refine drawRoot_gives hq hx hm out whole ?_
  rw [h]
  rfl

theorem drawRoot_zero (h : tiles q.vocab 0 x.slices = true) (z : total ((weighted x).map (·.2)) = 0) :
    Happens s (.drawRoot cid addr p) [stepResult (seqKey cid addr) p 3 0xFFFFFFFF] := by
  refine drawRoot_gives hq hx hm out whole ?_
  rw [h, if_neg (by exact Bool.false_ne_true), if_pos z]

theorem drawRoot_draws (h : tiles q.vocab 0 x.slices = true) (z : total ((weighted x).map (·.2)) ≠ 0) :
    Happens s (.drawRoot cid addr p) [stepResult (seqKey cid addr) p 0
      (pickToken (drawBits q p * total ((weighted x).map (·.2)) / 2 ^ 64) 0 (weighted x))] := by
  refine drawRoot_gives hq hx hm out whole ?_
  rw [h, if_neg (by exact Bool.false_ne_true), if_neg z]

end

/-- Settles O43: a binding by its record, an unbinding by what refers to it, and a step by its slices, masses and mask. -/
theorem sequencesBindAndDraw : Obligations.SequencesBindAndDraw := by
  unfold Obligations.SequencesBindAndDraw
  intro s cid addr p key
  refine ⟨fun sl ws hw => ?_, seqBind_rests, fun q hq => ⟨seqUnbind_rests hq, seqUnbind_waits hq, seqUnbind_unbinds hq,
    fun x hx => ?_⟩⟩
  · intro cache k traps
    exact ⟨seqBind_caches hw, fun new => ⟨fun c => seqBind_faults hw new, fun loc h room nf np =>
      ⟨seqBind_refuses hw new h room nf, seqBind_binds hw new h room nf np⟩⟩⟩
  · intro v slices m ws known gives all mass
    exact ⟨fun full h => drawMaxReturn_answers hq hx full h.1 h.2, drawMaxReturn_rests hq hx, fun hm out whole =>
      ⟨drawRoot_gap hq hx hm out whole, drawRoot_zero hq hx hm out whole, drawRoot_draws hq hx hm out whole⟩,
      maskDeadline_defers hq hx⟩

end Sys2Proof.Machine
end
